-- ==== Sys2Proof/Word.lean ====
section
/-! DEFINITION. The word types of the Knarok K1 (R1, R2). -/

namespace Sys2Proof

/-- A 32-bit register or code word (R1). -/
abbrev Word := BitVec 32

/-- A byte of any memory space (R2). -/
abbrev Byte := BitVec 8

/-- A 64-bit walker register or a register pair (R2). -/
abbrev DWord := BitVec 64

end Sys2Proof
end

