-- ==== Sys2Proof/Syntax.lean ====
section
/-! DEFINITION. The steps of the Knarok K1: one constructor per row of the opcode table. The Vilesk, walker and
bank instructions carry the operands their encodings give; a device step carries the agent it concerns. -/

namespace Sys2Proof

/-- A register field of an instruction word; 255 names v255 (R57). -/
abbrev Reg := BitVec 8

/-- A source operand with its last-use and keep bits (R62). -/
structure Src where
  reg  : Reg
  last : Bool
  keep : Bool
deriving DecidableEq, Repr, Inhabited

/-- The guard of a format-R instruction (R64). -/
structure Guard where
  pred : BitVec 3
  neg  : Bool
deriving DecidableEq, Repr, Inhabited

/-- The integer types of R85. -/
inductive IType where
  | i32 | n32 | i16 | n16 | i8 | n8
deriving DecidableEq, Repr, Inhabited

/-- The types of `imulhi`, `bfx` (R87, R89). -/
inductive WideType where
  | i32 | n32
deriving DecidableEq, Repr, Inhabited

/-- The types of `iabs` (R87). -/
inductive AbsType where
  | i32 | i16 | i8
deriving DecidableEq, Repr, Inhabited

/-- The rounding modes of R74. -/
inductive RM where
  | rne | rtz | rdn | rup
deriving DecidableEq, Repr, Inhabited

/-- The conditions of `cmp` (R91). -/
inductive Cond where
  | eq | ne | lt | le | gt | ge
deriving DecidableEq, Repr, Inhabited

/-- The conditions of `fcmp` (R98). -/
inductive FCond where
  | eq | ne | lt | le | gt | ge | un | ord
deriving DecidableEq, Repr, Inhabited

/-- The format codes of `cvt` (R100). -/
inductive Fmt where
  | f32 | f16 | bf16 | e4m3 | e5m2 | i32 | n32 | i16 | n16 | i8 | n8
deriving DecidableEq, Repr, Inhabited

/-- The packed half formats of R99. -/
inductive HFmt where
  | f16 | bf16
deriving DecidableEq, Repr, Inhabited

/-- `qswap` partners (R104). -/
inductive QMode where
  | h | v | d
deriving DecidableEq, Repr, Inhabited

/-- `shfl` modes (R105). -/
inductive ShMode where
  | idx | up | down | xor
deriving DecidableEq, Repr, Inhabited

/-- `vote` modes (R106). -/
inductive VMode where
  | any | all | ballot
deriving DecidableEq, Repr, Inhabited

/-- Types of tile reductions and scans (R107). -/
inductive RType where
  | f32 | i32 | n32
deriving DecidableEq, Repr, Inhabited

/-- Operations of `scan`, of the tile reductions and of `mred` (R107, R164). -/
inductive ROp where
  | add | max | min
deriving DecidableEq, Repr, Inhabited

/-- Activation formats (R115). -/
inductive AFmt where
  | e4m3 | e5m2 | bf16
deriving DecidableEq, Repr, Inhabited

/-- Weight formats of `mma`, `mmas`, `mmasp` (R115). -/
inductive W8Fmt where
  | e4m3 | e5m2
deriving DecidableEq, Repr, Inhabited

/-- Weight formats of `mmaw` (R116). -/
inductive WFmt where
  | e4m3 | e5m2 | i4g | i3g
deriving DecidableEq, Repr, Inhabited

/-- Formats of `fxpose` (R122). -/
inductive XFmt where
  | b32 | e4m3 | e5m2 | bf16
deriving DecidableEq, Repr, Inhabited

/-- Ordering of a load (R136). -/
inductive LdSem where
  | rlx | acq
deriving DecidableEq, Repr, Inhabited

/-- Ordering of a store (R136). -/
inductive StSem where
  | rlx | rel
deriving DecidableEq, Repr, Inhabited

/-- Ordering of an atomic (R138). -/
inductive Sem where
  | rlx | acq | rel | acqrel
deriving DecidableEq, Repr, Inhabited

/-- Access widths (R136). -/
inductive Wid where
  | b32 | b64 | b128
deriving DecidableEq, Repr, Inhabited

/-- Scopes of thread-memory instructions (R136). -/
inductive Scope where
  | grp | blk | die | pkg | sys
deriving DecidableEq, Repr, Inhabited

/-- Scopes of `fence` (R149). -/
inductive FScope where
  | grp | blk | die | pkg | sys | bank | mx
deriving DecidableEq, Repr, Inhabited

/-- The atomic operations of R139. -/
inductive AOp where
  | add | minI | maxI | minN | maxN | and | or | xor | exch | cas | addf
deriving DecidableEq, Repr, Inhabited

/-- Operations of `sct` (R161). -/
inductive Comb where
  | last | add | max | min
deriving DecidableEq, Repr, Inhabited

/-- Element formats of `sct` and `mred` (R161, R164). -/
inductive EFmt where
  | f32 | bf16 | i32
deriving DecidableEq, Repr, Inhabited

/-- The six batch classes (R143). -/
inductive Cls where
  | cpy | gat | mem | bnk | prd | spn
deriving DecidableEq, Repr, Inhabited

/-- A class named by `wait`: one of six, or all (R146). -/
inductive WCls where
  | one (c : Cls)
  | all
deriving DecidableEq, Repr, Inhabited

/-- Kinds of `tbinv` (R190). -/
inductive TbKind where
  | pol | page | all
deriving DecidableEq, Repr, Inhabited

/-- Local space of an engine operand (R154, R161). -/
inductive LSpace where
  | sh | sp
deriving DecidableEq, Repr, Inhabited

/-- The special registers of R108. -/
inductive SReg where
  | lane | quad | grp | ngrp | blkX | blkY | blkZ | nblkX | nblkY | nblkZ | gang | core | die | polder
  | clockLo | clockHi | tilew | fstat | slim
deriving DecidableEq, Repr, Inhabited

/-- The system registers of R186. -/
inductive SysReg where
  | corectl | wdogint | seepage | coreq
deriving DecidableEq, Repr, Inhabited

/-- `tile` widths (R178). -/
inductive TileW where
  | w2 | w4 | w8 | w16 | w32
deriving DecidableEq, Repr, Inhabited

/-- A clause header whose CHECK pattern is good (R50). -/
structure Header where
  count   : BitVec 4
  cls     : BitVec 3
  runend  : Bool
  wclass  : BitVec 3
  wthresh : BitVec 4
  width   : BitVec 15
deriving DecidableEq, Repr, Inhabited

/-- Bank weight formats (R203). -/
inductive BFmt where
  | e4m3 | e5m2 | bf16
deriving DecidableEq, Repr, Inhabited

/-- `bemit` result modes (R203). -/
inductive EMode where
  | item | sum | itemc
deriving DecidableEq, Repr, Inhabited

/-- Where a store-queue entry is performed from: a group's queue, or writes already sent on a die link (R218, R228). -/
inductive StoreSrc where
  | queue (core slot : Nat)
  | link (id : Nat)
deriving DecidableEq, Repr, Inhabited

/-- A range of the frame allowance (R280). -/
structure AllowRange where
  base  : Nat
  limit : Nat
  perm  : BitVec 3
deriving DecidableEq, Repr, Inhabited

/-- What a watch report says: the handle of its watch, and the value that was written (R233). -/
structure WatchReport where
  handle : Nat
  val    : DWord
deriving DecidableEq, Repr, Inhabited

/-- A range of a polder's main memory that the service has granted and exposed: virtual base, size, first frame byte
(R288). -/
structure VisRange where
  va    : Nat
  size  : Nat
  frame : Nat
deriving DecidableEq, Repr, Inhabited

/-- What the operator's policy gives a new polder (R14, R159, R254, R258, R279, R306, R36). -/
structure OpenSpec where
  polder    : Nat
  cores     : BitVec 32
  spBase    : Nat
  spSize    : Nat
  weirRate  : Nat
  weirDepth : Nat
  weirDebtLim : Nat
  ageLim    : BitVec 8
  auditF    : BitVec 11
  preempt   : BitVec 4
  walkLim   : BitVec 15
  walkWt    : BitVec 8
  fltPol0   : Word
  fltPol1   : Word
  /-- shared-memory window on each core (R14) -/
  shSize    : Nat
  /-- physical addresses of the spill area and of the retention ring (R36, R258) -/
  spillPa   : Nat
  audRing   : Nat
  spillSz   : Nat
  audRingSz : Nat
  audRegSz  : Nat
  sealKey   : List Byte
  nonce     : List Byte
  ranges    : List AllowRange
  visible   : List VisRange
deriving DecidableEq, Repr, Inhabited

/-- The space an image of LOAD is placed in (R283, R362): main memory or the scratchpad window. -/
inductive ImgSpace where
  | mem | sp
deriving DecidableEq, Repr, Inhabited

/-- An image placed by LOAD: where its bytes go (a virtual address, or an offset into the window), and the offsets of the
marked records in them (R282, R290). -/
structure Image where
  space   : ImgSpace
  addr    : Nat
  bytes   : List Byte
  layouts : List Nat
  predictors : List Nat
deriving DecidableEq, Repr, Inhabited

/-- A region of a host's RMA operation (R288). -/
inductive Region where
  | ctl | mem | sp
deriving DecidableEq, Repr, Inhabited

/-- A register that only keeps what is written to it (R5, R186, R301, R302). -/
inductive PlainReg where
  | portAutoneg (port : Nat)
  | portLoop (port : Nat)
  | portWidth (port : Nat)
  | trainsel (stack : Nat)
  | weirRate (polder : Nat)
  | weirDepth (polder : Nat)
  | weirDebtLim (polder : Nat)
  | ageLim (polder : Nat)
  | auditF (polder : Nat)
  | preempt (polder : Nat)
  | walkLim (polder : Nat)
  | walkWt (polder : Nat)
  | fltPol0 (polder : Nat)
  | fltPol1 (polder : Nat)
  | ctlPage (polder off : Nat)
deriving DecidableEq, Repr, Inhabited

/-- A unit that holds accepted packets in arrival order: a bank queue, a reduction unit, a tier port, or the
Ultra Ethernet transmit queue (R195, R232). -/
inductive QUnit where
  | bank (stack pc bank : Nat)
  | red (stack pc : Nat)
  | tier (port : Nat)
  | remote
deriving DecidableEq, Repr, Inhabited

/-- The steps of the device, one constructor per row of the opcode table. -/
inductive Instr where
  -- CTL (R168)
  | nop
  | bra (n : BitVec 8) (off : BitVec 20) (g : Guard)
  | brx (n : BitVec 8) (t : Src) (g : Guard)
  | call (n : BitVec 8) (off : BitVec 20)
  | callx (n : BitVec 8) (t : Src)
  | ret (n : BitVec 8)
  | join (timeout : BitVec 16) (off : BitVec 20)
  | exit (g : Guard)
  | yield
  | sleep (cycles : BitVec 20) (g : Guard)
  | trap (code : BitVec 16) (g : Guard)
  | brk (code : BitVec 6)
  | spawn (blk : Reg) (other : Bool) (s : Src) (k : BitVec 4) (off : BitVec 20) (g : Guard)
  | reord (key : Reg) (s : Src) (k : BitVec 4) (off : BitVec 20) (g : Guard)
  | wflush
  | tile (w : TileW)
  -- VEC (R86 to R100)
  | iadd (d : Reg) (a b : Src) (ty : IType) (sat : Bool) (g : Guard)
  | iaddImm (d : Reg) (a : Src) (ty : IType) (sat : Bool) (imm : Word)
  | isub (d : Reg) (a b : Src) (ty : IType) (sat : Bool) (g : Guard)
  | imul (d : Reg) (a b : Src) (ty : IType) (sat : Bool) (g : Guard)
  | imulImm (d : Reg) (a : Src) (ty : IType) (sat : Bool) (imm : Word)
  | imulhi (d : Reg) (a b : Src) (ty : WideType) (g : Guard)
  | imad (d : Reg) (a b c : Src) (ty : IType) (sat : Bool) (g : Guard)
  | iabs (d : Reg) (a : Src) (ty : AbsType) (sat : Bool) (g : Guard)
  | imin (d : Reg) (a b : Src) (ty : IType) (g : Guard)
  | imax (d : Reg) (a b : Src) (ty : IType) (g : Guard)
  | and (d : Reg) (a b : Src) (g : Guard)
  | andImm (d : Reg) (a : Src) (imm : Word)
  | or (d : Reg) (a b : Src) (g : Guard)
  | orImm (d : Reg) (a : Src) (imm : Word)
  | xor (d : Reg) (a b : Src) (g : Guard)
  | xorImm (d : Reg) (a : Src) (imm : Word)
  | not (d : Reg) (a : Src) (g : Guard)
  | shl (d : Reg) (a b : Src) (g : Guard)
  | shr (d : Reg) (a b : Src) (g : Guard)
  | sar (d : Reg) (a b : Src) (g : Guard)
  | popc (d : Reg) (a : Src) (g : Guard)
  | clz (d : Reg) (a : Src) (g : Guard)
  | brev (d : Reg) (a : Src) (g : Guard)
  | bfx (d : Reg) (a b : Src) (ty : WideType) (g : Guard)
  | bfi (d : Reg) (a b c : Src) (g : Guard)
  | sel (d : Reg) (a b : Src) (q : BitVec 3) (qneg : Bool) (g : Guard)
  | cmp (pd : BitVec 3) (a b : Src) (ty : IType) (c : Cond) (g : Guard)
  | idp4 (d : Reg) (a b c : Src) (na nb sat : Bool) (g : Guard)
  | addc (d : Reg) (a b : Src) (pout : BitVec 3) (sub : Bool) (cin : Option (BitVec 3)) (g : Guard)
  | lea (d : Reg) (a b : Src) (sh : BitVec 3) (sgn : Bool) (g : Guard)
  | mov (d : Reg) (a : Src) (g : Guard)
  | movP2r (d : Reg) (g : Guard)
  | movR2p (a : Src) (g : Guard)
  | movi (d : Reg) (imm : Word)
  | fadd (d : Reg) (a b : Src) (rm : RM) (g : Guard)
  | faddImm (d : Reg) (a : Src) (imm : Word)
  | fsub (d : Reg) (a b : Src) (rm : RM) (g : Guard)
  | fmul (d : Reg) (a b : Src) (rm : RM) (g : Guard)
  | fmulImm (d : Reg) (a : Src) (imm : Word)
  | ffma (d : Reg) (a b c : Src) (rm : RM) (g : Guard)
  | fmin (d : Reg) (a b : Src) (g : Guard)
  | fmax (d : Reg) (a b : Src) (g : Guard)
  | fcmp (pd : BitVec 3) (a b : Src) (c : FCond) (g : Guard)
  | frnd (d : Reg) (a : Src) (rm : RM) (g : Guard)
  | cvt (d : Reg) (a c : Src) (df sf : Fmt) (dsel ssel : BitVec 2) (sat : Bool) (rm : RM) (g : Guard)
  | hadd2 (d : Reg) (a b : Src) (f : HFmt) (rm : RM) (g : Guard)
  | hmul2 (d : Reg) (a b : Src) (f : HFmt) (rm : RM) (g : Guard)
  | hfma2 (d : Reg) (a b c : Src) (f : HFmt) (rm : RM) (g : Guard)
  -- SFU (R101)
  | frcp (d : Reg) (a : Src) (rm : RM) (la : BitVec 4) (g : Guard)
  | frsq (d : Reg) (a : Src) (rm : RM) (la : BitVec 4) (g : Guard)
  | fsqrt (d : Reg) (a : Src) (rm : RM) (la : BitVec 4) (g : Guard)
  | fexp2 (d : Reg) (a : Src) (rm : RM) (la : BitVec 4) (g : Guard)
  | flog2 (d : Reg) (a : Src) (rm : RM) (la : BitVec 4) (g : Guard)
  | fsin (d : Reg) (a : Src) (rm : RM) (la : BitVec 4) (g : Guard)
  | fcos (d : Reg) (a : Src) (rm : RM) (la : BitVec 4) (g : Guard)
  | ftanh (d : Reg) (a : Src) (rm : RM) (la : BitVec 4) (g : Guard)
  -- XL (R103 to R107)
  | qswap (d : Reg) (a : Src) (m : QMode) (la : BitVec 4) (g : Guard)
  | qbcast (d : Reg) (a : Src) (k : BitVec 2) (la : BitVec 4) (g : Guard)
  | shfl (d : Reg) (a b : Src) (m : ShMode) (la : BitVec 4) (g : Guard)
  | vote (d : Reg) (q : BitVec 3) (m : VMode) (occ : Bool) (la : BitVec 4) (g : Guard)
  | redadd (d : Reg) (a : Src) (ty : RType) (occ sat : Bool) (la : BitVec 4) (g : Guard)
  | redmax (d : Reg) (a : Src) (ty : RType) (occ : Bool) (la : BitVec 4) (g : Guard)
  | redmin (d : Reg) (a : Src) (ty : RType) (occ : Bool) (la : BitVec 4) (g : Guard)
  | scan (d : Reg) (a : Src) (op : ROp) (ty : RType) (occ sat excl : Bool) (la : BitVec 4) (g : Guard)
  -- MX (R115 to R122)
  | mma (d : Reg) (a w : Src) (af : AFmt) (wf : W8Fmt) (z : Bool) (steps : BitVec 2) (la : BitVec 4) (g : Guard)
  | mmaw (d : Reg) (a w sc : Src) (af : AFmt) (wf : WFmt) (bsel : BitVec 2) (z : Bool) (steps : BitVec 2)
      (la : BitVec 4) (g : Guard)
  | mmas (d : Reg) (a b : Src) (af : AFmt) (wf : W8Fmt) (z : Bool) (steps : BitVec 2) (la : BitVec 4) (g : Guard)
  | mmasp (d : Reg) (a w c : Src) (af : AFmt) (wf : W8Fmt) (n : BitVec 4) (z : Bool) (steps : BitVec 2)
      (la : BitVec 4) (g : Guard)
  | ldfrag (d : Reg) (a : Src) (cnt : BitVec 5) (off : BitVec 20) (la : BitVec 4) (g : Guard)
  | fxpose (d : Reg) (a : Src) (f : XFmt) (sat : Bool) (rm : RM) (la : BitVec 4) (g : Guard)
  -- MEM (R136 to R141)
  | ldsh (d : Reg) (a : Src) (sem : LdSem) (w : Wid) (off : BitVec 20) (sc : Scope) (la : BitVec 4) (g : Guard)
  | stsh (a : Src) (s : Src) (sem : StSem) (w : Wid) (off : BitVec 10) (sc : Scope) (g : Guard)
  | atsh (d : Reg) (a b c : Src) (op : AOp) (sem : Sem) (w64 : Bool) (sc : Scope) (la : BitVec 4) (g : Guard)
  | ldsp (d : Reg) (a : Src) (sem : LdSem) (w : Wid) (off : BitVec 20) (sc : Scope) (la : BitVec 4) (g : Guard)
  | stsp (a : Src) (s : Src) (sem : StSem) (w : Wid) (off : BitVec 10) (sc : Scope) (g : Guard)
  | atsp (d : Reg) (a b c : Src) (op : AOp) (sem : Sem) (w64 : Bool) (sc : Scope) (la : BitVec 4) (g : Guard)
  | ldc (d : Reg) (a : Src) (w : Wid) (off : BitVec 20) (la : BitVec 4) (g : Guard)
  | sreg (d : Reg) (r : SReg) (la : BitVec 4) (g : Guard)
  | sregClr (d : Reg) (la : BitVec 4) (g : Guard)
  -- ENG (R126, R146 to R165, R180)
  | cpy (a s o : Src) (st solo : Bool) (sp : LSpace) (g : Guard)
  | sealRec (d : Reg) (a : Src) (rec128 : Bool) (g : Guard)
  | gat (n : Reg) (r i o : Src) (isp rsp : LSpace) (g : Guard)
  | sct (n : Reg) (r i o : Src) (isp rsp : LSpace) (comb : Comb) (f : EFmt) (g : Guard)
  | matom (d : Reg) (a b c : Src) (op : AOp) (w64 : Bool) (g : Guard)
  | mred (a b : Src) (op : ROp) (f : EFmt) (g : Guard)
  | bkrun (a : Src) (g : Guard)
  | pred (r x o : Src) (g : Guard)
  | pchk (r x o : Src) (g : Guard)
  | batch (c : Cls) (g : Guard)
  | wait (d : Reg) (c : WCls) (n : BitVec 4) (g : Guard)
  | fence (sc : FScope) (g : Guard)
  | bar
  | barMx
  | gsync
  -- SYS (R185)
  | sregw (a : Src) (r : SysReg) (g : Guard)
  | sregwRd (d : Reg) (r : SysReg) (g : Guard)
  | qmap (d : Reg) (a b : Src) (g : Guard)
  | qunmap (d : Reg) (a : Src) (g : Guard)
  | place (d : Reg) (a : Src) (g : Guard)
  | ctxsave (d : Reg) (a b : Src) (g : Guard)
  | ctxrest (d : Reg) (a b : Src) (g : Guard)
  | tbinv (k : TbKind) (a b : Src) (g : Guard)
  | cinvSprd (g : Guard)
  | cinvRec (b : Src) (g : Guard)
  | wkload (d : Reg) (a b c : Src) (die : BitVec 2) (g : Guard)
  -- steps of a core (files 02, 03, 07, 08, 12)
  | clauseHeader (h : Header)
  | issueCycle (core sub : Nat)
  | longLatencyResult (core slot id : Nat)
  | storePerform (src : StoreSrc)
  | atspReply (core slot id : Nat)
  | collectiveStart (core bslot : Nat)
  | cpyComplete (cmd : Nat)
  | sealComplete (cmd : Nat)
  | gatComplete (cmd : Nat)
  | sctComplete (cmd : Nat)
  | matomReply (cmd lane : Nat)
  | mredAccept (cmd : Nat)
  | predComplete (cmd : Nat)
  | spawnComplete (cmd : Nat)
  | fenceComplete (core slot : Nat)
  | spillRoomFreed (core : Nat)
  | setDue (core age : Nat)
  | groupEvict (core slot : Nat)
  | weaverFormGroup (core : Nat)
  | joinMerge (core slot : Nat)
  | joinTimeout (core slot : Nat)
  | sleepExpire (core slot : Nat)
  | barrierComplete (core bslot : Nat)
  | gangBarrierComplete (core bslot : Nat)
  | blockRetire (core bslot : Nat)
  | weirChunk (cmd : Nat)
  | weirRefill
  | watchdogExpire (core bslot : Nat)
  -- walkers (R266 to R278)
  | walkStart (die walker : Nat)
  | wldDataReturn (die walker waited : Nat)
  | walkTimelimit (die walker : Nat)
  | wadd (d a b : BitVec 5)
  | wsub (d a b : BitVec 5)
  | wand (d a b : BitVec 5)
  | wor (d a b : BitVec 5)
  | wxor (d a b : BitVec 5)
  | wshl (d a b : BitVec 5)
  | wshr (d a b : BitVec 5)
  | wmul (d a b : BitVec 5)
  | wmulhu (d a b : BitVec 5)
  | wsltu (d a b : BitVec 5)
  | wslt (d a b : BitVec 5)
  | whash (d a b : BitVec 5)
  | waddi (d a : BitVec 5) (imm : BitVec 16)
  | wandi (d a : BitVec 5) (imm : BitVec 16)
  | wori (d a : BitVec 5) (imm : BitVec 16)
  | wxori (d a : BitVec 5) (imm : BitVec 16)
  | wshli (d a : BitVec 5) (n : BitVec 6)
  | wshri (d a : BitVec 5) (n : BitVec 6)
  | wins (d : BitVec 5) (imm : BitVec 16)
  | wbfx (d a : BitVec 5) (pos len : BitVec 6)
  | wld (d a : BitVec 5) (imm : BitVec 16)
  | wldw (d a : BitVec 5) (imm : BitVec 16)
  | wlds (d a : BitVec 5) (imm : BitVec 16)
  | wsts (d a : BitVec 5) (imm : BitVec 16)
  | wbeq (a b : BitVec 5) (off : BitVec 16)
  | wbne (a b : BitVec 5) (off : BitVec 16)
  | wbltu (a b : BitVec 5) (off : BitVec 16)
  | wbgeu (a b : BitVec 5) (off : BitVec 16)
  | wblt (a b : BitVec 5) (off : BitVec 16)
  | wbge (a b : BitVec 5) (off : BitVec 16)
  | wmap (a b : BitVec 5) (perm : BitVec 3) (size : BitVec 2)
  | wnone
  -- base dies and bank units (R194 to R206)
  | readPacket (acc : Nat)
  | writePacket (acc : Nat)
  | atomicPacket (acc : Nat)
  | reducePacket (acc : Nat)
  | queueApply (u : QUnit)
  | bankRunPacket (run stack : Nat)
  | bankItemStart (run pc item : Nat)
  | bankRunComplete (run : Nat)
  | bnop
  | bend
  | bldi (k : BitVec 3) (imm : BitVec 16)
  | baddi (k j : BitVec 3) (imm : BitVec 16)
  | bloop (k : BitVec 3) (off : BitVec 16)
  | bbeq (k j : BitVec 3) (off : BitVec 16)
  | bmac (k j : BitVec 3) (n : BitVec 2) (f : BFmt) (ij ic : BitVec 8)
  | bmacs (k : BitVec 3) (n : BitVec 2) (f : BFmt) (ic : BitVec 8)
  | bzero (n : BitVec 2)
  | bmov (n m : BitVec 2)
  | baddv (n m : BitVec 2)
  | bmaxv (n m : BitVec 2)
  | bred (n : BitVec 2)
  | bscl (n : BitVec 2)
  | brelu (n : BitVec 2)
  | bemit (k : BitVec 3) (n : BitVec 2) (m : EMode) (ic : BitVec 8)
  -- links, heat (R329 to R332, R304)
  | hotAssert (stack : Nat)
  | hotClear (stack : Nat)
  | stackIsolate (stack : Nat)
  -- queue packets (R240 to R245)
  | launch (slot core : Nat)
  | resume (slot core : Nat)
  | predicate (slot core : Nat)
  | waitPacket (slot core : Nat)
  | waitPacketTimeout (slot : Nat)
  | signal (slot core : Nat)
  | copy (slot core : Nat)
  | nopPacket (slot core : Nat)
  | notifyWrite (polder q : Nat)
  | featackWrite (polder n : Nat) (val : Word)
  | registerWrite (r : PlainReg) (val : Word)
  -- rails, stacks, ports (R300 to R302, R326)
  | railseqEnable
  | stackStart (stack : Nat)
  | trainingComplete (stack : Nat) (fail : Option (BitVec 3))
  | stackIsolateSet (stack : Nat)
  | portEnable (port : Nat)
  | moduleReset
  -- requests to the Sougar service (R290)
  | openReq (o : OpenSpec)
  | queueReq (polder q slots : Nat) (maxprio : BitVec 2) (desc ring : Nat)
  | loadReq (polder : Nat) (imgs : List Image)
  | walkReq (polder : Nat) (image : List Byte) (root : DWord)
  | mapReq (polder k : Nat) (r : AllowRange)
  | watchReq (polder word peer q : Nat)
  | unwatchReq (polder handle : Nat)
  | quoteReq (polder : Nat) (nonce : List Byte)
  | closeReq (polder : Nat) (grace : BitVec 16)
  | closeGraceExpire (polder : Nat)
  | invalReq (polder : Nat) (page : Option (Nat × BitVec 2))
  | rmaRead (polder : Nat) (r : Region) (addr len : Nat)
  | rmaWrite (polder : Nat) (r : Region) (addr : Nat) (bytes : List Byte)
  | rmaAtomic (polder : Nat) (r : Region) (addr : Nat) (op : AOp) (w64 : Bool) (b c : DWord)
  -- other steps of rails, ports, links, stacks, audits and hosts (R5, R195, R232, R287, R288, R300 to R304, R326 to R330,
  -- R351 to R354)
  | railStepTimeout
  | portTrainTimeout (port : Nat)
  | seepageHalving
  | selfTestEnd (core : Nat) (pass : Bool)
  | quarantineRelease (core : Nat)
  | dieLinkRetrainEnd (link : Nat) (ok : Bool)
  | cxlLinkDown (port : Nat)
  | watchReportArrival (polder q : Nat) (val : WatchReport)
  | powerLoss
  | uudDrop
  | unadmittedJobDrop
  | auditOutcome (polder aid : Nat)
  | portLinkUp (port : Nat) (lanes : BitVec 8)
  | railPowerGood
  | precharge (stack pc bank row : Nat)
  | neighbourRefresh (stack pc bank row : Nat)
  | flitCrcError (link : Nat)
  | thermalThrottle (die : Nat) (down : Bool)
  | thermalTrip (die : Nat)
  | stackIsolateClear (stack : Nat)
  | stackerrClear (stack : Nat)
  | portDisable (port : Nat)
  | railseqDisable
  | remoteWriteAck (seq : Nat)
deriving DecidableEq, Repr, Inhabited

end Sys2Proof
end

