-- ==== Sys2Proof/WellFormed.lean ====
section
/-! DEFINITION. The instructions that the encodings of the manual can express, and the device steps that name agents
the module has. -/

namespace Sys2Proof

/-- An even register, the base of a pair (R93, R154). -/
def evenReg (r : Reg) : Bool := r.getLsbD 0 = false

/-- A register whose number is a multiple of 4 (R136). -/
def quadReg (r : Reg) : Bool := r.getLsbD 0 = false && r.getLsbD 1 = false

/-- The base of a register range of an access width (R136). -/
def Wid.baseOk : Wid → Reg → Bool
  | .b32, _ => true
  | .b64, r => evenReg r
  | .b128, r => quadReg r

/-- The old-value register of a 64-bit atomic (R138). -/
def pairOr255 (r : Reg) : Bool := evenReg r || r = 255

/-- Registers of a 64-bit atomic (R138, R163). -/
def atomOk (op : AOp) (w64 : Bool) (d b c : Reg) : Bool :=
  !w64 || (op ≠ .addf && evenReg b && evenReg c && pairOr255 d)

/-- `sat` is kept only for the sum of integers (R107). -/
def redOk (ty : RType) (sat : Bool) : Bool := !(sat && ty = .f32)

/-- Parts of `cvt` that a width uses (R100). -/
def Fmt.part (f : Fmt) (p : BitVec 2) : Bool :=
  match f with
  | .f32 | .i32 | .n32 => p = 0
  | .f16 | .bf16 | .i16 | .n16 => p = 0 || p = 1
  | .e4m3 | .e5m2 | .i8 | .n8 => true

/-- The module has 40 cores: compute cores 0 to 31 and front cores 32 to 39 (R9). -/
def coreOk (c : Nat) : Bool := c < 40

/-- A slot of a core (R21). -/
def slotOk (s : Nat) : Bool := s < 64

/-- A polder (R14). -/
def polderOk (p : Nat) : Bool := p < 64

/-- A stack of the module (R9). -/
def stackOk (s : Nat) : Bool := s < 24

/-- The address of a row: stack, pseudo-channel, bank and row (R193). -/
def rowOk (s c b r : Nat) : Bool := s < 24 && c < 64 && b < 48 && r < 30518

/-- What an encoding of the manual can say, and which agents a device step may name. -/
def wf : Instr → Bool
  | .spawn blk other _ k _ _ => k.toNat ≤ 8 && (other || blk = 0)
  | .reord _ _ k _ _ => k.toNat ≤ 8
  | .lea d a _ _ _ _ => evenReg d && evenReg a.reg
  | .cvt _ _ _ df sf dsel ssel _ _ _ => df.part dsel && sf.part ssel
  | .redadd _ _ ty _ sat _ _ => redOk ty sat
  | .scan _ _ op ty _ sat _ _ _ => if op = .add then redOk ty sat else !sat
  | .mmaw _ _ _ _ _ _ bsel _ steps _ _ => bsel.toNat + steps.toNat < 4
  | .ldsh d _ _ w _ _ _ _ => w.baseOk d
  | .ldsp d _ _ w _ _ _ _ => w.baseOk d
  | .ldc d _ w _ _ _ => w.baseOk d
  | .stsh _ s _ w _ _ _ => w.baseOk s.reg
  | .stsp _ s _ w _ _ _ => w.baseOk s.reg
  | .atsh d _ b c op _ w64 _ _ _ => atomOk op w64 d b.reg c.reg
  | .atsp d _ b c op _ w64 _ _ _ => atomOk op w64 d b.reg c.reg
  | .cpy a s _ _ _ _ _ => evenReg a.reg && evenReg s.reg
  | .sct _ _ _ _ _ _ comb f _ => comb ≠ .last || f = .f32
  | .matom d a b c op w64 _ => op ≠ .addf && evenReg a.reg && atomOk op w64 d b.reg c.reg
  | .mred a _ _ _ _ => evenReg a.reg
  | .pred r _ _ _ => evenReg r.reg
  | .pchk r _ _ _ => evenReg r.reg
  | .qmap _ a _ _ => evenReg a.reg
  | .ctxsave _ a _ _ => evenReg a.reg
  | .ctxrest _ a _ _ => evenReg a.reg
  | .tbinv k a _ _ => k ≠ .page || evenReg a.reg
  | .wkload _ a _ c _ _ => evenReg a.reg && evenReg c.reg
  | .clauseHeader h => h.count ≠ 0
  | .issueCycle core sub => coreOk core && sub < 4
  | .longLatencyResult core slot _ => coreOk core && slotOk slot
  | .atspReply core slot _ => coreOk core && slotOk slot
  | .fenceComplete core slot => coreOk core && slotOk slot
  | .collectiveStart core b => coreOk core && b < 63
  | .barrierComplete core b => coreOk core && b < 63
  | .gangBarrierComplete core b => coreOk core && b < 63
  | .blockRetire core b => coreOk core && b < 63
  | .watchdogExpire core b => coreOk core && b < 63
  | .spillRoomFreed core => coreOk core
  | .weaverFormGroup core => coreOk core
  | .setDue core _ => coreOk core
  | .groupEvict core slot => coreOk core && slotOk slot
  | .joinMerge core slot => coreOk core && slotOk slot
  | .joinTimeout core slot => coreOk core && slotOk slot
  | .sleepExpire core slot => coreOk core && slotOk slot
  | .walkStart die w => die < 4 && w < 16
  | .wldDataReturn die w _ => die < 4 && w < 16
  | .walkTimelimit die w => die < 4 && w < 16
  | .wmap _ _ _ size => size ≠ 3
  | .bankRunPacket _ s => stackOk s
  | .bankItemStart _ c _ => c < 64
  | .precharge s c b r => rowOk s c b r
  | .neighbourRefresh s c b r => rowOk s c b r
  | .hotAssert s => stackOk s
  | .hotClear s => stackOk s
  | .stackIsolate s => stackOk s
  | .stackStart s => stackOk s
  | .trainingComplete s _ => stackOk s
  | .stackIsolateClear s => stackOk s
  | .stackIsolateSet s => stackOk s
  | .stackerrClear s => stackOk s
  | .thermalThrottle die _ => die < 5
  | .thermalTrip die => die < 5
  | .openReq o => polderOk o.polder && 0 < o.polder
  | .selfTestEnd core _ => core < 32
  | .quarantineRelease core => core < 32
  | .launch slot core => slot < 256 && coreOk core
  | .resume slot core => slot < 256 && coreOk core
  | .predicate slot core => slot < 256 && coreOk core
  | .waitPacket slot core => slot < 256 && coreOk core
  | .waitPacketTimeout slot => slot < 256
  | .signal slot core => slot < 256 && coreOk core
  | .copy slot core => slot < 256 && coreOk core
  | .nopPacket slot core => slot < 256 && coreOk core
  | _ => true

end Sys2Proof
end

