-- ==== Sys2Proof/Decode.lean ====
section
/-! DEFINITION. The decoders and the encoders of the three instruction sets: Vilesk (R50 to R65, files 05 to 08),
walker (R268, R269) and bank (R202, R203). A decoder rejects a reserved value by answering none. -/

namespace Sys2Proof

/-- The formats of R56. -/
inductive Form where
  | one | reg | imm
deriving DecidableEq, Repr

/-- Format of an assigned major opcode; none for a reserved cell (R65). -/
def majorForm (m : Nat) : Option Form :=
  if m = 0x00 ∨ m = 0x08 ∨ m = 0x0B ∨ m = 0x0E ∨ m = 0x0F then some .one
  else if m = 0x11 ∨ m = 0x14 ∨ m = 0x1B ∨ m = 0x1D ∨ m = 0x1F ∨ m = 0x2F ∨ m = 0x31 ∨ m = 0x34 then some .imm
  else if m ≤ 0x3D ∨ (0x50 ≤ m ∧ m ≤ 0x57) ∨ (0x60 ≤ m ∧ m ≤ 0x67) ∨ (0x70 ≤ m ∧ m ≤ 0x75)
    ∨ (0x80 ≤ m ∧ m ≤ 0x87) ∨ (0xA0 ≤ m ∧ m ≤ 0xAD) ∨ (0xC0 ≤ m ∧ m ≤ 0xC8) then some .reg
  else none

/-- Engine class of a major opcode (R51). -/
def majorClass (m : Nat) : Nat :=
  if m ≤ 0x0F then 0 else if m ≤ 0x4F then 1 else if m ≤ 0x5F then 2 else if m ≤ 0x6F then 3
  else if m ≤ 0x7F then 4 else if m ≤ 0x9F then 5 else if m ≤ 0xBF then 6 else 7

/-! ### Fields (R53, R54) -/

/-- MAJOR. -/
def fMajor (w : Word) : BitVec 8 := w.extractLsb' 24 8
/-- DST. -/
def fDst (w : Word) : BitVec 8 := w.extractLsb' 16 8
/-- SRC0 with L0 and K0. -/
def fSrc0 (w : Word) : Src := { reg := w.extractLsb' 8 8, last := w.getLsbD 7, keep := w.getLsbD 6 }
/-- MINOR. -/
def fMinor (w : Word) : BitVec 6 := w.extractLsb' 0 6
/-- SRC1 with L1 and K1. -/
def fSrc1 (w : Word) : Src := { reg := w.extractLsb' 24 8, last := w.getLsbD 23, keep := w.getLsbD 22 }
/-- SRC2 with L2 and K2. -/
def fSrc2 (w : Word) : Src := { reg := w.extractLsb' 14 8, last := w.getLsbD 13, keep := w.getLsbD 12 }
/-- LA. -/
def fLa (w : Word) : BitVec 4 := w.extractLsb' 8 4
/-- PRED and NEG. -/
def fGuard (w : Word) : Guard := { pred := w.extractLsb' 5 3, neg := w.getLsbD 4 }
/-- XMOD. -/
def fX (w : Word) : BitVec 4 := w.extractLsb' 0 4
/-- Bits [31:12] of word 1. -/
def fOff (w : Word) : BitVec 20 := w.extractLsb' 12 20
/-- Bits [21:12] of word 1. -/
def fOff10 (w : Word) : BitVec 10 := w.extractLsb' 12 10

/-- No guard: PRED 7, NEG 0 (R168). -/
def noGuard : Guard := { pred := 7, neg := false }

/-- A source operand with no markers. -/
def plain (r : Reg) : Src := { reg := r, last := false, keep := false }

/-- Word 0 from its fields. -/
def pack0 (maj d : BitVec 8) (a : Src) (m : BitVec 6) : Word :=
  (maj ++ d ++ a.reg ++ BitVec.ofBool a.last ++ BitVec.ofBool a.keep ++ m).cast (by decide)

/-- Word 1 in register form. -/
def pack1 (b c : Src) (la : BitVec 4) (g : Guard) (x : BitVec 4) : Word :=
  (b.reg ++ BitVec.ofBool b.last ++ BitVec.ofBool b.keep ++ c.reg ++ BitVec.ofBool c.last ++ BitVec.ofBool c.keep
    ++ la ++ g.pred ++ BitVec.ofBool g.neg ++ x).cast (by decide)

/-- Word 1 with a 20-bit field in bits [31:12]. -/
def packOff (o : BitVec 20) (la : BitVec 4) (g : Guard) (x : BitVec 4) : Word :=
  (o ++ la ++ g.pred ++ BitVec.ofBool g.neg ++ x).cast (by decide)

/-- Word 1 of a store (R136). -/
def packSt (s : Src) (o : BitVec 10) (g : Guard) (x : BitVec 4) : Word :=
  (s.reg ++ BitVec.ofBool s.last ++ BitVec.ofBool s.keep ++ o ++ (0 : BitVec 4) ++ g.pred ++ BitVec.ofBool g.neg
    ++ x).cast (by decide)

/-- No second or third source. -/
def src0 : Src := plain 0

/-! ### Codes of modifiers -/

/-- TYPE of R85. -/
def itype (b : BitVec 3) : Option IType :=
  match b.toNat with
  | 0 => some .i32 | 1 => some .n32 | 2 => some .i16 | 3 => some .n16 | 4 => some .i8 | 5 => some .n8 | _ => none
/-- Its code. -/
def IType.code : IType → BitVec 3
  | .i32 => 0 | .n32 => 1 | .i16 => 2 | .n16 => 3 | .i8 => 4 | .n8 => 5
/-- TYPE of `imulhi` and `bfx`. -/
def wideType (b : BitVec 3) : Option WideType :=
  match b.toNat with
  | 0 => some .i32 | 1 => some .n32 | _ => none
/-- Its code. -/
def WideType.code : WideType → BitVec 3
  | .i32 => 0 | .n32 => 1
/-- TYPE of `iabs`. -/
def absType (b : BitVec 3) : Option AbsType :=
  match b.toNat with
  | 0 => some .i32 | 2 => some .i16 | 4 => some .i8 | _ => none
/-- Its code. -/
def AbsType.code : AbsType → BitVec 3
  | .i32 => 0 | .i16 => 2 | .i8 => 4
/-- Rounding modes of R74. -/
def rmode (b : BitVec 2) : RM :=
  match b.toNat with
  | 0 => .rne | 1 => .rtz | 2 => .rdn | _ => .rup
/-- Its code. -/
def RM.code : RM → BitVec 2
  | .rne => 0 | .rtz => 1 | .rdn => 2 | .rup => 3
/-- Conditions of R91. -/
def cond (b : BitVec 3) : Option Cond :=
  match b.toNat with
  | 0 => some .eq | 1 => some .ne | 2 => some .lt | 3 => some .le | 4 => some .gt | 5 => some .ge | _ => none
/-- Its code. -/
def Cond.code : Cond → BitVec 3
  | .eq => 0 | .ne => 1 | .lt => 2 | .le => 3 | .gt => 4 | .ge => 5
/-- Conditions of R98. -/
def fcond (b : BitVec 3) : FCond :=
  match b.toNat with
  | 0 => .eq | 1 => .ne | 2 => .lt | 3 => .le | 4 => .gt | 5 => .ge | 6 => .un | _ => .ord
/-- Its code. -/
def FCond.code : FCond → BitVec 3
  | .eq => 0 | .ne => 1 | .lt => 2 | .le => 3 | .gt => 4 | .ge => 5 | .un => 6 | .ord => 7
/-- Format codes of R100. -/
def fmtOf (b : BitVec 4) : Option Fmt :=
  match b.toNat with
  | 0 => some .f32 | 1 => some .f16 | 2 => some .bf16 | 3 => some .e4m3 | 4 => some .e5m2 | 5 => some .i32
  | 6 => some .n32 | 7 => some .i16 | 8 => some .n16 | 9 => some .i8 | 10 => some .n8 | _ => none
/-- Its code. -/
def Fmt.code : Fmt → BitVec 4
  | .f32 => 0 | .f16 => 1 | .bf16 => 2 | .e4m3 => 3 | .e5m2 => 4 | .i32 => 5 | .n32 => 6 | .i16 => 7 | .n16 => 8
  | .i8 => 9 | .n8 => 10
/-- The part selector a format uses (R100). -/
def Fmt.canon (f : Fmt) (p : BitVec 2) : BitVec 2 :=
  match f with
  | .f32 | .i32 | .n32 => 0
  | .f16 | .bf16 | .i16 | .n16 => p &&& 1
  | .e4m3 | .e5m2 | .i8 | .n8 => p
/-- `qswap` modes (R104). -/
def qmode (b : BitVec 6) : Option QMode :=
  match b.toNat with
  | 0 => some .h | 1 => some .v | 2 => some .d | _ => none
/-- Its code. -/
def QMode.code : QMode → BitVec 6
  | .h => 0 | .v => 1 | .d => 2
/-- `shfl` modes (R105). -/
def shmode (b : BitVec 2) : ShMode :=
  match b.toNat with
  | 0 => .idx | 1 => .up | 2 => .down | _ => .xor
/-- Its code. -/
def ShMode.code : ShMode → BitVec 2
  | .idx => 0 | .up => 1 | .down => 2 | .xor => 3
/-- `vote` modes (R106). -/
def vmode (b : BitVec 2) : Option VMode :=
  match b.toNat with
  | 0 => some .any | 1 => some .all | 2 => some .ballot | _ => none
/-- Its code. -/
def VMode.code : VMode → BitVec 2
  | .any => 0 | .all => 1 | .ballot => 2
/-- Reduction types (R107). -/
def rtype (b : BitVec 2) : Option RType :=
  match b.toNat with
  | 0 => some .f32 | 1 => some .i32 | 2 => some .n32 | _ => none
/-- Its code. -/
def RType.code : RType → BitVec 2
  | .f32 => 0 | .i32 => 1 | .n32 => 2
/-- Operations of `scan` and `mred`. -/
def rop (b : BitVec 2) : Option ROp :=
  match b.toNat with
  | 0 => some .add | 1 => some .max | 2 => some .min | _ => none
/-- Its code. -/
def ROp.code : ROp → BitVec 2
  | .add => 0 | .max => 1 | .min => 2
/-- Activation formats (R115). -/
def afmt (b : BitVec 2) : Option AFmt :=
  match b.toNat with
  | 0 => some .e4m3 | 1 => some .e5m2 | 2 => some .bf16 | _ => none
/-- Its code. -/
def AFmt.code : AFmt → BitVec 2
  | .e4m3 => 0 | .e5m2 => 1 | .bf16 => 2
/-- Weight formats of WF (R115). -/
def w8fmt (b : Bool) : W8Fmt := if b then .e5m2 else .e4m3
/-- Its code. -/
def W8Fmt.code : W8Fmt → BitVec 1
  | .e4m3 => 0 | .e5m2 => 1
/-- Weight formats of `mmaw` (R116). -/
def wfmt (b : BitVec 2) : WFmt :=
  match b.toNat with
  | 0 => .e4m3 | 1 => .e5m2 | 2 => .i4g | _ => .i3g
/-- Its code. -/
def WFmt.code : WFmt → BitVec 2
  | .e4m3 => 0 | .e5m2 => 1 | .i4g => 2 | .i3g => 3
/-- Formats of `fxpose` (R122). -/
def xfmt (b : BitVec 2) : XFmt :=
  match b.toNat with
  | 0 => .b32 | 1 => .e4m3 | 2 => .e5m2 | _ => .bf16
/-- Its code. -/
def XFmt.code : XFmt → BitVec 2
  | .b32 => 0 | .e4m3 => 1 | .e5m2 => 2 | .bf16 => 3
/-- SEM of a load (R136). -/
def ldsem (b : BitVec 2) : Option LdSem :=
  match b.toNat with
  | 0 => some .rlx | 1 => some .acq | _ => none
/-- Its code. -/
def LdSem.code : LdSem → BitVec 2
  | .rlx => 0 | .acq => 1
/-- SEM of a store (R136). -/
def stsem (b : BitVec 2) : Option StSem :=
  match b.toNat with
  | 0 => some .rlx | 2 => some .rel | _ => none
/-- Its code. -/
def StSem.code : StSem → BitVec 2
  | .rlx => 0 | .rel => 2
/-- SEM of an atomic (R138). -/
def semOf (b : BitVec 2) : Sem :=
  match b.toNat with
  | 0 => .rlx | 1 => .acq | 2 => .rel | _ => .acqrel
/-- Its code. -/
def Sem.code : Sem → BitVec 2
  | .rlx => 0 | .acq => 1 | .rel => 2 | .acqrel => 3
/-- WIDTH of R136. -/
def widOf (b : BitVec 2) : Option Wid :=
  match b.toNat with
  | 0 => some .b32 | 1 => some .b64 | 2 => some .b128 | _ => none
/-- Its code. -/
def Wid.code : Wid → BitVec 2
  | .b32 => 0 | .b64 => 1 | .b128 => 2
/-- SCOPE of R136. -/
def scopeOf (b : BitVec 3) : Option Scope :=
  match b.toNat with
  | 0 => some .grp | 1 => some .blk | 2 => some .die | 3 => some .pkg | 4 => some .sys | _ => none
/-- Its code. -/
def Scope.code : Scope → BitVec 3
  | .grp => 0 | .blk => 1 | .die => 2 | .pkg => 3 | .sys => 4
/-- Scopes of `fence` (R149). -/
def fscope (b : BitVec 4) : Option FScope :=
  match b.toNat with
  | 0 => some .grp | 1 => some .blk | 2 => some .die | 3 => some .pkg | 4 => some .sys | 5 => some .bank
  | 6 => some .mx | _ => none
/-- Its code. -/
def FScope.code : FScope → BitVec 4
  | .grp => 0 | .blk => 1 | .die => 2 | .pkg => 3 | .sys => 4 | .bank => 5 | .mx => 6
/-- OP of R139. -/
def aop (b : BitVec 4) : Option AOp :=
  match b.toNat with
  | 0 => some .add | 1 => some .minI | 2 => some .maxI | 3 => some .minN | 4 => some .maxN | 5 => some .and
  | 6 => some .or | 7 => some .xor | 8 => some .exch | 9 => some .cas | 10 => some .addf | _ => none
/-- Its code. -/
def AOp.code : AOp → BitVec 4
  | .add => 0 | .minI => 1 | .maxI => 2 | .minN => 3 | .maxN => 4 | .and => 5 | .or => 6 | .xor => 7 | .exch => 8
  | .cas => 9 | .addf => 10
/-- COMB of `sct` (R161). -/
def combOf (b : BitVec 2) : Comb :=
  match b.toNat with
  | 0 => .last | 1 => .add | 2 => .max | _ => .min
/-- Its code. -/
def Comb.code : Comb → BitVec 2
  | .last => 0 | .add => 1 | .max => 2 | .min => 3
/-- CFMT of `sct`, format of `mred`. -/
def efmt (b : BitVec 2) : Option EFmt :=
  match b.toNat with
  | 0 => some .f32 | 1 => some .bf16 | 2 => some .i32 | _ => none
/-- Its code. -/
def EFmt.code : EFmt → BitVec 2
  | .f32 => 0 | .bf16 => 1 | .i32 => 2
/-- Batch classes 1 to 6 (R143). -/
def clsOf (b : BitVec 3) : Option Cls :=
  match b.toNat with
  | 1 => some .cpy | 2 => some .gat | 3 => some .mem | 4 => some .bnk | 5 => some .prd | 6 => some .spn | _ => none
/-- Its code. -/
def Cls.code : Cls → BitVec 3
  | .cpy => 1 | .gat => 2 | .mem => 3 | .bnk => 4 | .prd => 5 | .spn => 6
/-- CLASS of `wait` (R146). -/
def wclsOf (b : BitVec 3) : Option WCls := if b = 7 then some .all else (clsOf b).map .one
/-- Its code. -/
def WCls.code : WCls → BitVec 3
  | .one c => c.code
  | .all => 7
/-- Kinds of `tbinv` (R185). -/
def tbkind (b : BitVec 2) : Option TbKind :=
  match b.toNat with
  | 0 => some .pol | 1 => some .page | 2 => some .all | _ => none
/-- Its code. -/
def TbKind.code : TbKind → BitVec 2
  | .pol => 0 | .page => 1 | .all => 2
/-- Local space bit. -/
def lspace (b : Bool) : LSpace := if b then .sp else .sh
/-- Its code. -/
def LSpace.code : LSpace → BitVec 1
  | .sh => 0 | .sp => 1
/-- Special-register selectors (R108). -/
def sregOf (b : BitVec 8) : Option SReg :=
  match b.toNat with
  | 0 => some .lane | 1 => some .quad | 2 => some .grp | 3 => some .ngrp | 4 => some .blkX | 5 => some .blkY
  | 6 => some .blkZ | 7 => some .nblkX | 8 => some .nblkY | 9 => some .nblkZ | 10 => some .gang | 11 => some .core
  | 12 => some .die | 13 => some .polder | 14 => some .clockLo | 15 => some .clockHi | 16 => some .tilew
  | 17 => some .fstat | 18 => some .slim | _ => none
/-- Its code. -/
def SReg.code : SReg → BitVec 8
  | .lane => 0 | .quad => 1 | .grp => 2 | .ngrp => 3 | .blkX => 4 | .blkY => 5 | .blkZ => 6 | .nblkX => 7 | .nblkY => 8
  | .nblkZ => 9 | .gang => 10 | .core => 11 | .die => 12 | .polder => 13 | .clockLo => 14 | .clockHi => 15
  | .tilew => 16 | .fstat => 17 | .slim => 18
/-- System-register selectors (R186). -/
def sysregOf (b : BitVec 8) : Option SysReg :=
  match b.toNat with
  | 0 => some .corectl | 1 => some .wdogint | 2 => some .seepage | 3 => some .coreq | _ => none
/-- Its code. -/
def SysReg.code : SysReg → BitVec 8
  | .corectl => 0 | .wdogint => 1 | .seepage => 2 | .coreq => 3
/-- WC of `tile` (R178). -/
def tilewOf (b : BitVec 3) : Option TileW :=
  match b.toNat with
  | 1 => some .w2 | 2 => some .w4 | 3 => some .w8 | 4 => some .w16 | 5 => some .w32 | _ => none
/-- Its code. -/
def TileW.code : TileW → BitVec 3
  | .w2 => 1 | .w4 => 2 | .w8 => 3 | .w16 => 4 | .w32 => 5
/-- Packed half formats (R99). -/
def hfmt (b : Bool) : HFmt := if b then .bf16 else .f16
/-- Its code. -/
def HFmt.code : HFmt → BitVec 1
  | .f16 => 0 | .bf16 => 1
/-- F of `bmac` (R203). -/
def bfmt (b : BitVec 2) : Option BFmt :=
  match b.toNat with
  | 0 => some .e4m3 | 1 => some .e5m2 | 2 => some .bf16 | _ => none
/-- Its code. -/
def BFmt.code : BFmt → BitVec 2
  | .e4m3 => 0 | .e5m2 => 1 | .bf16 => 2
/-- F of `bemit` (R203). -/
def emode (b : BitVec 2) : Option EMode :=
  match b.toNat with
  | 0 => some .item | 1 => some .sum | 2 => some .itemc | _ => none
/-- Its code. -/
def EMode.code : EMode → BitVec 2
  | .item => 0 | .sum => 1 | .itemc => 2

/-- Answers `i` where `b` holds. -/
def when (b : Bool) (i : Instr) : Option Instr := if b then some i else none

/-! ### Clause headers (R50) -/

/-- Reads a header; none when CHECK is not 0b10 or COUNT is 0 (R52). -/
def decodeHeader (w : Word) : Option Header :=
  if w.extractLsb' 0 2 = 2 ∧ w.extractLsb' 28 4 ≠ 0 then
    some { count := w.extractLsb' 28 4, cls := w.extractLsb' 25 3, runend := w.getLsbD 24,
           wclass := w.extractLsb' 21 3, wthresh := w.extractLsb' 17 4, width := w.extractLsb' 2 15 }
  else none

/-- The word of a header. -/
def encodeHeader (h : Header) : Word :=
  (h.count ++ h.cls ++ BitVec.ofBool h.runend ++ h.wclass ++ h.wthresh ++ h.width ++ (2 : BitVec 2)).cast (by decide)

/-! ### Vilesk -/

/-- CTL (R168). -/
def decodeCtl (m : Nat) (a b : Word) : Option Instr :=
  match m with
  | 0x00 => some .nop
  | 0x01 => some (.bra (fDst a) (fOff b) (fGuard b))
  | 0x02 => some (.brx (fDst a) (fSrc0 a) (fGuard b))
  | 0x03 => when (fGuard b = noGuard) (.call (fDst a) (fOff b))
  | 0x04 => when (fGuard b = noGuard) (.callx (fDst a) (fSrc0 a))
  | 0x05 => when (fGuard b = noGuard) (.ret (fDst a))
  | 0x06 => when (fGuard b = noGuard) (.join (a.extractLsb' 8 16) (fOff b))
  | 0x07 => some (.exit (fGuard b))
  | 0x08 => some .yield
  | 0x09 => some (.sleep (fOff b) (fGuard b))
  | 0x0A => some (.trap (b.extractLsb' 12 16) (fGuard b))
  | 0x0B => some (.brk (fMinor a))
  | 0x0C => when ((a.extractLsb' 0 4).toNat ≤ 8) (.spawn (if a.getLsbD 4 then fDst a else 0) (a.getLsbD 4) (fSrc0 a)
      (a.extractLsb' 0 4) (fOff b) (fGuard b))
  | 0x0D => when ((a.extractLsb' 0 4).toNat ≤ 8) (.reord (fDst a) (fSrc0 a) (a.extractLsb' 0 4) (fOff b) (fGuard b))
  | 0x0E => some .wflush
  | 0x0F => (tilewOf (a.extractLsb' 0 3)).map .tile
  | _ => none

/-- VEC (R86 to R100). -/
def decodeVec (m : Nat) (a b : Word) : Option Instr :=
  let d := fDst a
  let s := fSrc0 a
  let t := fSrc1 b
  let u := fSrc2 b
  let g := fGuard b
  let ty := itype (a.extractLsb' 0 3)
  let sat := a.getLsbD 3
  let rm := rmode (b.extractLsb' 0 2)
  let pd : BitVec 3 := a.extractLsb' 16 3
  match m with
  | 0x10 => ty.map fun ty => .iadd d s t ty sat g
  | 0x11 => ty.map fun ty => .iaddImm d s ty sat b
  | 0x12 => ty.map fun ty => .isub d s t ty sat g
  | 0x13 => ty.map fun ty => .imul d s t ty sat g
  | 0x14 => ty.map fun ty => .imulImm d s ty sat b
  | 0x15 => (wideType (a.extractLsb' 0 3)).map fun ty => .imulhi d s t ty g
  | 0x16 => ty.map fun ty => .imad d s t u ty sat g
  | 0x17 => (absType (a.extractLsb' 0 3)).map fun ty => .iabs d s ty sat g
  | 0x18 => ty.map fun ty => .imin d s t ty g
  | 0x19 => ty.map fun ty => .imax d s t ty g
  | 0x1A => some (.and d s t g)
  | 0x1B => some (.andImm d s b)
  | 0x1C => some (.or d s t g)
  | 0x1D => some (.orImm d s b)
  | 0x1E => some (.xor d s t g)
  | 0x1F => some (.xorImm d s b)
  | 0x20 => some (.not d s g)
  | 0x21 => some (.shl d s t g)
  | 0x22 => some (.shr d s t g)
  | 0x23 => some (.sar d s t g)
  | 0x24 => some (.popc d s g)
  | 0x25 => some (.clz d s g)
  | 0x26 => some (.brev d s g)
  | 0x27 => (wideType (a.extractLsb' 0 3)).map fun ty => .bfx d s t ty g
  | 0x28 => some (.bfi d s t u g)
  | 0x29 => some (.sel d s t (b.extractLsb' 0 3) (b.getLsbD 3) g)
  | 0x2A => if d.toNat < 8 then
      match ty, cond (b.extractLsb' 0 3) with
      | some ty, some c => some (.cmp pd s t ty c g)
      | _, _ => none
    else none
  | 0x2B => some (.idp4 d s t u (a.getLsbD 0) (a.getLsbD 1) (a.getLsbD 3) g)
  | 0x2C => some (.addc d s t (a.extractLsb' 0 3) (a.getLsbD 3)
      (if b.getLsbD 3 then some (b.extractLsb' 0 3) else none) g)
  | 0x2D => when (evenReg d && evenReg s.reg) (.lea d s t (a.extractLsb' 0 3) (a.getLsbD 3) g)
  | 0x2E =>
    match (fMinor a).toNat with
    | 0 => some (.mov d s g)
    | 1 => some (.movP2r d g)
    | 2 => some (.movR2p s g)
    | _ => none
  | 0x2F => some (.movi d b)
  | 0x30 => some (.fadd d s t rm g)
  | 0x31 => some (.faddImm d s b)
  | 0x32 => some (.fsub d s t rm g)
  | 0x33 => some (.fmul d s t rm g)
  | 0x34 => some (.fmulImm d s b)
  | 0x35 => some (.ffma d s t u rm g)
  | 0x36 => some (.fmin d s t g)
  | 0x37 => some (.fmax d s t g)
  | 0x38 => when (d.toNat < 8) (.fcmp pd s t (fcond (b.extractLsb' 0 3)) g)
  | 0x39 => some (.frnd d s rm g)
  | 0x3A =>
    match fmtOf (b.extractLsb' 28 4), fmtOf (b.extractLsb' 24 4) with
    | some df, some sf => some (.cvt d s u df sf (df.canon (b.extractLsb' 2 2)) (sf.canon (a.extractLsb' 4 2))
        (a.getLsbD 0) rm g)
    | _, _ => none
  | 0x3B => some (.hadd2 d s t (hfmt (a.getLsbD 0)) rm g)
  | 0x3C => some (.hmul2 d s t (hfmt (a.getLsbD 0)) rm g)
  | 0x3D => some (.hfma2 d s t u (hfmt (a.getLsbD 0)) rm g)
  | _ => none

/-- SFU and XL (R101, R103 to R107). -/
def decodeXl (m : Nat) (a b : Word) : Option Instr :=
  let d := fDst a
  let s := fSrc0 a
  let t := fSrc1 b
  let la := fLa b
  let g := fGuard b
  let rm := rmode (b.extractLsb' 0 2)
  let ty := rtype (a.extractLsb' 0 2)
  let occ := a.getLsbD 2
  match m with
  | 0x50 => some (.frcp d s rm la g)
  | 0x51 => some (.frsq d s rm la g)
  | 0x52 => some (.fsqrt d s rm la g)
  | 0x53 => some (.fexp2 d s rm la g)
  | 0x54 => some (.flog2 d s rm la g)
  | 0x55 => some (.fsin d s rm la g)
  | 0x56 => some (.fcos d s rm la g)
  | 0x57 => some (.ftanh d s rm la g)
  | 0x60 => (qmode (fMinor a)).map fun q => .qswap d s q la g
  | 0x61 => some (.qbcast d s (a.extractLsb' 0 2) la g)
  | 0x62 => some (.shfl d s t (shmode (a.extractLsb' 0 2)) la g)
  | 0x63 => if s.reg.toNat < 8 then
      match vmode (a.extractLsb' 0 2) with
      | some v => when (v = .ballot || d.toNat < 8) (.vote d (a.extractLsb' 8 3) v occ la g)
      | none => none
    else none
  | 0x64 => ty.map fun ty => .redadd d s ty occ (a.getLsbD 3 && ty ≠ .f32) la g
  | 0x65 => ty.map fun ty => .redmax d s ty occ la g
  | 0x66 => ty.map fun ty => .redmin d s ty occ la g
  | 0x67 =>
    match ty, rop (b.extractLsb' 0 2) with
    | some ty, some op =>
      some (.scan d s op ty occ (a.getLsbD 3 && ty ≠ .f32 && op = .add) (b.getLsbD 2) la g)
    | _, _ => none
  | _ => none

/-- MX (R115 to R122). -/
def decodeMx (m : Nat) (a b : Word) : Option Instr :=
  let d := fDst a
  let s := fSrc0 a
  let t := fSrc1 b
  let u := fSrc2 b
  let la := fLa b
  let g := fGuard b
  let af := afmt (a.extractLsb' 0 2)
  let wf := w8fmt (a.getLsbD 5)
  let z := a.getLsbD 4
  let st : BitVec 2 := a.extractLsb' 2 2
  match m with
  | 0x70 => af.map fun af => .mma d s t af wf z st la g
  | 0x71 => match af with
    | some af => when ((b.extractLsb' 0 2).toNat + st.toNat < 4)
        (.mmaw d s t u af (wfmt (b.extractLsb' 2 2)) (b.extractLsb' 0 2) z st la g)
    | none => none
  | 0x72 => af.map fun af => .mmas d s t af wf z st la g
  | 0x73 => af.map fun af => .mmasp d s t u af wf (fX b) z st la g
  | 0x74 => some (.ldfrag d s (a.extractLsb' 0 5) (fOff b) la g)
  | 0x75 => some (.fxpose d s (xfmt (a.extractLsb' 0 2)) (a.getLsbD 2) (rmode (b.extractLsb' 0 2)) la g)
  | _ => none

/-- A load of R136. -/
def decodeLoad (mk : Reg → Src → LdSem → Wid → BitVec 20 → Scope → BitVec 4 → Guard → Instr) (a b : Word) :
    Option Instr :=
  match ldsem (a.extractLsb' 4 2), widOf (a.extractLsb' 2 2), scopeOf (b.extractLsb' 0 3) with
  | some sem, some w, some sc => when (w.baseOk (fDst a)) (mk (fDst a) (fSrc0 a) sem w (fOff b) sc (fLa b) (fGuard b))
  | _, _, _ => none

/-- A store of R136. -/
def decodeStore (mk : Src → Src → StSem → Wid → BitVec 10 → Scope → Guard → Instr) (a b : Word) : Option Instr :=
  match stsem (a.extractLsb' 4 2), widOf (a.extractLsb' 2 2), scopeOf (b.extractLsb' 0 3) with
  | some sem, some w, some sc => when (w.baseOk (fSrc1 b).reg) (mk (fSrc0 a) (fSrc1 b) sem w (fOff10 b) sc (fGuard b))
  | _, _, _ => none

/-- An atomic of R138. -/
def decodeAtom (mk : Reg → Src → Src → Src → AOp → Sem → Bool → Scope → BitVec 4 → Guard → Instr) (a b : Word) :
    Option Instr :=
  match aop (a.extractLsb' 0 4), scopeOf (b.extractLsb' 0 3) with
  | some op, some sc => when (atomOk op (b.getLsbD 3) (fDst a) (fSrc1 b).reg (fSrc2 b).reg)
      (mk (fDst a) (fSrc0 a) (fSrc1 b) (fSrc2 b) op (semOf (a.extractLsb' 4 2)) (b.getLsbD 3) sc (fLa b) (fGuard b))
  | _, _ => none

/-- MEM (R136 to R141). -/
def decodeMem (m : Nat) (a b : Word) : Option Instr :=
  match m with
  | 0x80 => decodeLoad .ldsh a b
  | 0x81 => decodeStore .stsh a b
  | 0x82 => decodeAtom .atsh a b
  | 0x83 => decodeLoad .ldsp a b
  | 0x84 => decodeStore .stsp a b
  | 0x85 => decodeAtom .atsp a b
  | 0x86 => match widOf (a.extractLsb' 2 2) with
    | some w => when (w.baseOk (fDst a)) (.ldc (fDst a) (fSrc0 a) w (fOff b) (fLa b) (fGuard b))
    | none => none
  | 0x87 => match sregOf (fSrc0 a).reg with
    | some r => if a.getLsbD 0 then when (r = .fstat) (.sregClr (fDst a) (fLa b) (fGuard b))
      else some (.sreg (fDst a) r (fLa b) (fGuard b))
    | none => none
  | _ => none

/-- ENG (R126, R146 to R165, R180). -/
def decodeEng (m : Nat) (a b : Word) : Option Instr :=
  let d := fDst a
  let s := fSrc0 a
  let t := fSrc1 b
  let u := fSrc2 b
  let g := fGuard b
  match m with
  | 0xA0 => when (evenReg s.reg && evenReg t.reg) (.cpy s t u (a.getLsbD 0) (a.getLsbD 2) (lspace (a.getLsbD 1)) g)
  | 0xA1 => some (.sealRec d s (a.getLsbD 0) g)
  | 0xA2 => some (.gat d s t u (lspace (a.getLsbD 0)) (lspace (a.getLsbD 1)) g)
  | 0xA3 =>
    if combOf (a.extractLsb' 2 2) = .last then
      some (.sct d s t u (lspace (a.getLsbD 0)) (lspace (a.getLsbD 1)) .last .f32 g)
    else (efmt (b.extractLsb' 0 2)).map fun f =>
      .sct d s t u (lspace (a.getLsbD 0)) (lspace (a.getLsbD 1)) (combOf (a.extractLsb' 2 2)) f g
  | 0xA4 => match aop (a.extractLsb' 0 4) with
    | some op => when (op ≠ .addf && evenReg s.reg && atomOk op (a.getLsbD 4) d t.reg u.reg)
        (.matom d s t u op (a.getLsbD 4) g)
    | none => none
  | 0xA5 => match rop (a.extractLsb' 0 2), efmt (a.extractLsb' 2 2) with
    | some op, some f => when (evenReg s.reg) (.mred s t op f g)
    | _, _ => none
  | 0xA6 => some (.bkrun s g)
  | 0xA7 => when (evenReg s.reg) (.pred s t u g)
  | 0xA8 => when (evenReg s.reg) (.pchk s t u g)
  | 0xA9 => (clsOf (a.extractLsb' 0 3)).map fun c => .batch c g
  | 0xAA => (wclsOf (a.extractLsb' 0 3)).map fun c => .wait d c (fX b) g
  | 0xAB => (fscope (fX b)).map fun sc => .fence sc g
  | 0xAC => some (if a.getLsbD 0 then .barMx else .bar)
  | 0xAD => some .gsync
  | _ => none

/-- SYS (R185). -/
def decodeSys (m : Nat) (a b : Word) : Option Instr :=
  let d := fDst a
  let s := fSrc0 a
  let t := fSrc1 b
  let u := fSrc2 b
  let g := fGuard b
  match m with
  | 0xC0 => match sysregOf (b.extractLsb' 12 8) with
    | some r => some (if a.getLsbD 0 then .sregwRd d r g else .sregw s r g)
    | none => none
  | 0xC1 => when (evenReg s.reg) (.qmap d s t g)
  | 0xC2 => some (.qunmap d s g)
  | 0xC3 => some (.place d s g)
  | 0xC4 => when (evenReg s.reg) (.ctxsave d s t g)
  | 0xC5 => when (evenReg s.reg) (.ctxrest d s t g)
  | 0xC6 => match tbkind (a.extractLsb' 0 2) with
    | some k => when (k ≠ .page || evenReg s.reg) (.tbinv k s t g)
    | none => none
  | 0xC7 => match (a.extractLsb' 0 2).toNat with
    | 0 => some (.cinvSprd g)
    | 1 => some (.cinvRec t g)
    | _ => none
  | 0xC8 => when (evenReg s.reg && evenReg u.reg) (.wkload d s t u (a.extractLsb' 0 2) g)
  | _ => none

/-- Reads the Vilesk instruction of words `a` and `b`; none for a reserved major opcode (R65) or a reserved field. -/
def decodeVilesk (a b : Word) : Option Instr :=
  let m := (fMajor a).toNat
  match majorClass m with
  | 0 => decodeCtl m a b
  | 1 => decodeVec m a b
  | 2 => decodeXl m a b
  | 3 => decodeXl m a b
  | 4 => decodeMx m a b
  | 5 => decodeMem m a b
  | 6 => decodeEng m a b
  | _ => decodeSys m a b

/-! ### Walker code (R268, R269) -/

/-- Reads a walker instruction; none for a reserved OP or SIZE (R274 WILLEGAL). -/
def decodeWalker (w : Word) : Option Instr :=
  let d : BitVec 5 := w.extractLsb' 21 5
  let a : BitVec 5 := w.extractLsb' 16 5
  let b : BitVec 5 := w.extractLsb' 11 5
  let imm : BitVec 16 := w.extractLsb' 0 16
  let n : BitVec 6 := w.extractLsb' 0 6
  match (w.extractLsb' 26 6).toNat with
  | 0x00 => some (.wadd d a b)
  | 0x01 => some (.wsub d a b)
  | 0x02 => some (.wand d a b)
  | 0x03 => some (.wor d a b)
  | 0x04 => some (.wxor d a b)
  | 0x05 => some (.wshl d a b)
  | 0x06 => some (.wshr d a b)
  | 0x07 => some (.wmul d a b)
  | 0x08 => some (.wmulhu d a b)
  | 0x09 => some (.wsltu d a b)
  | 0x0A => some (.wslt d a b)
  | 0x0B => some (.whash d a b)
  | 0x10 => some (.waddi d a imm)
  | 0x11 => some (.wandi d a imm)
  | 0x12 => some (.wori d a imm)
  | 0x13 => some (.wxori d a imm)
  | 0x14 => some (.wshli d a n)
  | 0x15 => some (.wshri d a n)
  | 0x16 => some (.wins d imm)
  | 0x17 => some (.wbfx d a n (w.extractLsb' 6 6))
  | 0x20 => some (.wld d a imm)
  | 0x21 => some (.wldw d a imm)
  | 0x22 => some (.wlds d a imm)
  | 0x23 => some (.wsts d a imm)
  | 0x28 => some (.wbeq d a imm)
  | 0x29 => some (.wbne d a imm)
  | 0x2A => some (.wbltu d a imm)
  | 0x2B => some (.wbgeu d a imm)
  | 0x2C => some (.wblt d a imm)
  | 0x2D => some (.wbge d a imm)
  | 0x30 => when (w.extractLsb' 0 2 ≠ (3 : BitVec 2)) (.wmap a b (w.extractLsb' 2 3) (w.extractLsb' 0 2))
  | 0x31 => some .wnone
  | _ => none

/-! ### Bank code (R202, R203) -/

/-- Reads a bank instruction; none for a reserved F (R209). -/
def decodeBank (w : Word) : Option Instr :=
  let k : BitVec 3 := w.extractLsb' 25 3
  let j : BitVec 3 := w.extractLsb' 22 3
  let n : BitVec 2 := w.extractLsb' 20 2
  let m : BitVec 2 := w.extractLsb' 18 2
  let f : BitVec 2 := w.extractLsb' 16 2
  let imm : BitVec 16 := w.extractLsb' 0 16
  let ic : BitVec 8 := w.extractLsb' 0 8
  let ij : BitVec 8 := w.extractLsb' 8 8
  match (w.extractLsb' 28 4).toNat with
  | 0x0 => some .bnop
  | 0x1 => some .bend
  | 0x2 => some (.bldi k imm)
  | 0x3 => some (.baddi k j imm)
  | 0x4 => some (.bloop k imm)
  | 0x5 => some (.bbeq k j imm)
  | 0x6 => (bfmt f).map fun f => .bmac k j n f ij ic
  | 0x7 => (bfmt f).map fun f => .bmacs k n f ic
  | 0x8 => some (.bzero n)
  | 0x9 => some (.bmov n m)
  | 0xA => some (.baddv n m)
  | 0xB => some (.bmaxv n m)
  | 0xC => some (.bred n)
  | 0xD => some (.bscl n)
  | 0xE => some (.brelu n)
  | _ => (emode f).map fun md => .bemit k n md ic

/-! ### Encoders -/

/-- Word 0 of a walker instruction with three register fields. -/
def packR (op : BitVec 6) (d a b : BitVec 5) (low : BitVec 11) : Word := (op ++ d ++ a ++ b ++ low).cast (by decide)

/-- Word 0 of a walker instruction with an immediate. -/
def packI (op : BitVec 6) (d a : BitVec 5) (imm : BitVec 16) : Word := (op ++ d ++ a ++ imm).cast (by decide)

/-- The word of a bank instruction. -/
def packB (op : BitVec 4) (k j : BitVec 3) (n m f : BitVec 2) (imm : BitVec 16) : Word :=
  (op ++ k ++ j ++ n ++ m ++ f ++ imm).cast (by decide)

/-- Word 0 of an integer instruction (R86). -/
def packInt (maj d : BitVec 8) (a : Src) (sat : Bool) (ty : BitVec 3) : Word :=
  pack0 maj d a ((0 : BitVec 2) ++ BitVec.ofBool sat ++ ty)

/-- Word 0 of a matrix instruction (R115). -/
def packMx (maj d : BitVec 8) (a : Src) (wf : BitVec 1) (z : Bool) (st af : BitVec 2) : Word :=
  pack0 maj d a (wf ++ BitVec.ofBool z ++ st ++ af)

/-- Two words. -/
def two (a b : Word) : List Word := [a, b]

/-- The words of an instruction of the three instruction sets, and of a clause header; no words for a device step. -/
def encode : Instr → List Word
  | .clauseHeader h => [encodeHeader h]
  | .nop => [0]
  | .bra n off g => two (pack0 0x01 n src0 0) (packOff off 0 g 0)
  | .brx n t g => two (pack0 0x02 n t 0) (packOff 0 0 g 0)
  | .call n off => two (pack0 0x03 n src0 0) (packOff off 0 noGuard 0)
  | .callx n t => two (pack0 0x04 n t 0) (packOff 0 0 noGuard 0)
  | .ret n => two (pack0 0x05 n src0 0) (packOff 0 0 noGuard 0)
  | .join tm off => two (((0x06 : BitVec 8) ++ tm ++ (0 : BitVec 8)).cast (by decide)) (packOff off 0 noGuard 0)
  | .exit g => two (pack0 0x07 0 src0 0) (packOff 0 0 g 0)
  | .yield => [pack0 0x08 0 src0 0]
  | .sleep c g => two (pack0 0x09 0 src0 0) (packOff c 0 g 0)
  | .trap c g => two (pack0 0x0A 0 src0 0) (packOff ((0 : BitVec 4) ++ c) 0 g 0)
  | .brk c => [pack0 0x0B 0 src0 c]
  | .spawn blk other s k off g => two (pack0 0x0C blk s ((0 : BitVec 1) ++ BitVec.ofBool other ++ k)) (packOff off 0 g 0)
  | .reord key s k off g => two (pack0 0x0D key s ((0 : BitVec 2) ++ k)) (packOff off 0 g 0)
  | .wflush => [pack0 0x0E 0 src0 0]
  | .tile w => [pack0 0x0F 0 src0 ((0 : BitVec 3) ++ w.code)]
  | .iadd d a b ty sat g => two (packInt 0x10 d a sat ty.code) (pack1 b src0 0 g 0)
  | .iaddImm d a ty sat imm => two (packInt 0x11 d a sat ty.code) imm
  | .isub d a b ty sat g => two (packInt 0x12 d a sat ty.code) (pack1 b src0 0 g 0)
  | .imul d a b ty sat g => two (packInt 0x13 d a sat ty.code) (pack1 b src0 0 g 0)
  | .imulImm d a ty sat imm => two (packInt 0x14 d a sat ty.code) imm
  | .imulhi d a b ty g => two (packInt 0x15 d a false ty.code) (pack1 b src0 0 g 0)
  | .imad d a b c ty sat g => two (packInt 0x16 d a sat ty.code) (pack1 b c 0 g 0)
  | .iabs d a ty sat g => two (packInt 0x17 d a sat ty.code) (pack1 src0 src0 0 g 0)
  | .imin d a b ty g => two (packInt 0x18 d a false ty.code) (pack1 b src0 0 g 0)
  | .imax d a b ty g => two (packInt 0x19 d a false ty.code) (pack1 b src0 0 g 0)
  | .and d a b g => two (pack0 0x1A d a 0) (pack1 b src0 0 g 0)
  | .andImm d a imm => two (pack0 0x1B d a 0) imm
  | .or d a b g => two (pack0 0x1C d a 0) (pack1 b src0 0 g 0)
  | .orImm d a imm => two (pack0 0x1D d a 0) imm
  | .xor d a b g => two (pack0 0x1E d a 0) (pack1 b src0 0 g 0)
  | .xorImm d a imm => two (pack0 0x1F d a 0) imm
  | .not d a g => two (pack0 0x20 d a 0) (pack1 src0 src0 0 g 0)
  | .shl d a b g => two (pack0 0x21 d a 0) (pack1 b src0 0 g 0)
  | .shr d a b g => two (pack0 0x22 d a 0) (pack1 b src0 0 g 0)
  | .sar d a b g => two (pack0 0x23 d a 0) (pack1 b src0 0 g 0)
  | .popc d a g => two (pack0 0x24 d a 0) (pack1 src0 src0 0 g 0)
  | .clz d a g => two (pack0 0x25 d a 0) (pack1 src0 src0 0 g 0)
  | .brev d a g => two (pack0 0x26 d a 0) (pack1 src0 src0 0 g 0)
  | .bfx d a b ty g => two (packInt 0x27 d a false ty.code) (pack1 b src0 0 g 0)
  | .bfi d a b c g => two (pack0 0x28 d a 0) (pack1 b c 0 g 0)
  | .sel d a b q qneg g => two (pack0 0x29 d a 0) (pack1 b src0 0 g (BitVec.ofBool qneg ++ q))
  | .cmp pd a b ty c g => two (packInt 0x2A ((0 : BitVec 5) ++ pd) a false ty.code) (pack1 b src0 0 g ((0 : BitVec 1) ++ c.code))
  | .idp4 d a b c na nb sat g =>
    two (pack0 0x2B d a ((0 : BitVec 2) ++ BitVec.ofBool sat ++ (0 : BitVec 1) ++ BitVec.ofBool nb ++ BitVec.ofBool na))
      (pack1 b c 0 g 0)
  | .addc d a b pout sub cin g => two (packInt 0x2C d a sub pout) (pack1 b src0 0 g
      (match cin with | some p => (1 : BitVec 1) ++ p | none => 0))
  | .lea d a b sh sgn g => two (packInt 0x2D d a sgn sh) (pack1 b src0 0 g 0)
  | .mov d a g => two (pack0 0x2E d a 0) (pack1 src0 src0 0 g 0)
  | .movP2r d g => two (pack0 0x2E d src0 1) (pack1 src0 src0 0 g 0)
  | .movR2p a g => two (pack0 0x2E 0 a 2) (pack1 src0 src0 0 g 0)
  | .movi d imm => two (pack0 0x2F d src0 0) imm
  | .fadd d a b rm g => two (pack0 0x30 d a 0) (pack1 b src0 0 g ((0 : BitVec 2) ++ rm.code))
  | .faddImm d a imm => two (pack0 0x31 d a 0) imm
  | .fsub d a b rm g => two (pack0 0x32 d a 0) (pack1 b src0 0 g ((0 : BitVec 2) ++ rm.code))
  | .fmul d a b rm g => two (pack0 0x33 d a 0) (pack1 b src0 0 g ((0 : BitVec 2) ++ rm.code))
  | .fmulImm d a imm => two (pack0 0x34 d a 0) imm
  | .ffma d a b c rm g => two (pack0 0x35 d a 0) (pack1 b c 0 g ((0 : BitVec 2) ++ rm.code))
  | .fmin d a b g => two (pack0 0x36 d a 0) (pack1 b src0 0 g 0)
  | .fmax d a b g => two (pack0 0x37 d a 0) (pack1 b src0 0 g 0)
  | .fcmp pd a b c g => two (pack0 0x38 ((0 : BitVec 5) ++ pd) a 0) (pack1 b src0 0 g ((0 : BitVec 1) ++ c.code))
  | .frnd d a rm g => two (pack0 0x39 d a 0) (pack1 src0 src0 0 g ((0 : BitVec 2) ++ rm.code))
  | .cvt d a c df sf dsel ssel sat rm g =>
    two (pack0 0x3A d a (ssel ++ (0 : BitVec 3) ++ BitVec.ofBool sat))
      (pack1 (plain (df.code ++ sf.code)) c 0 g (dsel ++ rm.code))
  | .hadd2 d a b f rm g => two (pack0 0x3B d a ((0 : BitVec 5) ++ f.code)) (pack1 b src0 0 g ((0 : BitVec 2) ++ rm.code))
  | .hmul2 d a b f rm g => two (pack0 0x3C d a ((0 : BitVec 5) ++ f.code)) (pack1 b src0 0 g ((0 : BitVec 2) ++ rm.code))
  | .hfma2 d a b c f rm g => two (pack0 0x3D d a ((0 : BitVec 5) ++ f.code)) (pack1 b c 0 g ((0 : BitVec 2) ++ rm.code))
  | .frcp d a rm la g => two (pack0 0x50 d a 0) (pack1 src0 src0 la g ((0 : BitVec 2) ++ rm.code))
  | .frsq d a rm la g => two (pack0 0x51 d a 0) (pack1 src0 src0 la g ((0 : BitVec 2) ++ rm.code))
  | .fsqrt d a rm la g => two (pack0 0x52 d a 0) (pack1 src0 src0 la g ((0 : BitVec 2) ++ rm.code))
  | .fexp2 d a rm la g => two (pack0 0x53 d a 0) (pack1 src0 src0 la g ((0 : BitVec 2) ++ rm.code))
  | .flog2 d a rm la g => two (pack0 0x54 d a 0) (pack1 src0 src0 la g ((0 : BitVec 2) ++ rm.code))
  | .fsin d a rm la g => two (pack0 0x55 d a 0) (pack1 src0 src0 la g ((0 : BitVec 2) ++ rm.code))
  | .fcos d a rm la g => two (pack0 0x56 d a 0) (pack1 src0 src0 la g ((0 : BitVec 2) ++ rm.code))
  | .ftanh d a rm la g => two (pack0 0x57 d a 0) (pack1 src0 src0 la g ((0 : BitVec 2) ++ rm.code))
  | .qswap d a m la g => two (pack0 0x60 d a m.code) (pack1 src0 src0 la g 0)
  | .qbcast d a k la g => two (pack0 0x61 d a ((0 : BitVec 4) ++ k)) (pack1 src0 src0 la g 0)
  | .shfl d a b m la g => two (pack0 0x62 d a ((0 : BitVec 4) ++ m.code)) (pack1 b src0 la g 0)
  | .vote d q m occ la g =>
    two (pack0 0x63 d (plain ((0 : BitVec 5) ++ q)) ((0 : BitVec 3) ++ BitVec.ofBool occ ++ m.code)) (pack1 src0 src0 la g 0)
  | .redadd d a ty occ sat la g =>
    two (pack0 0x64 d a ((0 : BitVec 2) ++ BitVec.ofBool sat ++ BitVec.ofBool occ ++ ty.code)) (pack1 src0 src0 la g 0)
  | .redmax d a ty occ la g => two (pack0 0x65 d a ((0 : BitVec 3) ++ BitVec.ofBool occ ++ ty.code)) (pack1 src0 src0 la g 0)
  | .redmin d a ty occ la g => two (pack0 0x66 d a ((0 : BitVec 3) ++ BitVec.ofBool occ ++ ty.code)) (pack1 src0 src0 la g 0)
  | .scan d a op ty occ sat excl la g =>
    two (pack0 0x67 d a ((0 : BitVec 2) ++ BitVec.ofBool sat ++ BitVec.ofBool occ ++ ty.code))
      (pack1 src0 src0 la g ((0 : BitVec 1) ++ BitVec.ofBool excl ++ op.code))
  | .mma d a w af wf z st la g => two (packMx 0x70 d a wf.code z st af.code) (pack1 w src0 la g 0)
  | .mmaw d a w sc af wf bsel z st la g =>
    two (packMx 0x71 d a 0 z st af.code) (pack1 w sc la g (wf.code ++ bsel))
  | .mmas d a b af wf z st la g => two (packMx 0x72 d a wf.code z st af.code) (pack1 b src0 la g 0)
  | .mmasp d a w c af wf n z st la g => two (packMx 0x73 d a wf.code z st af.code) (pack1 w c la g n)
  | .ldfrag d a cnt off la g => two (pack0 0x74 d a ((0 : BitVec 1) ++ cnt)) (packOff off la g 0)
  | .fxpose d a f sat rm la g =>
    two (pack0 0x75 d a ((0 : BitVec 3) ++ BitVec.ofBool sat ++ f.code)) (pack1 src0 src0 la g ((0 : BitVec 2) ++ rm.code))
  | .ldsh d a sem w off sc la g =>
    two (pack0 0x80 d a (sem.code ++ w.code ++ (0 : BitVec 2))) (packOff off la g ((0 : BitVec 1) ++ sc.code))
  | .stsh a s sem w off sc g =>
    two (pack0 0x81 0 a (sem.code ++ w.code ++ (0 : BitVec 2))) (packSt s off g ((0 : BitVec 1) ++ sc.code))
  | .atsh d a b c op sem w64 sc la g =>
    two (pack0 0x82 d a (sem.code ++ op.code)) (pack1 b c la g (BitVec.ofBool w64 ++ sc.code))
  | .ldsp d a sem w off sc la g =>
    two (pack0 0x83 d a (sem.code ++ w.code ++ (0 : BitVec 2))) (packOff off la g ((0 : BitVec 1) ++ sc.code))
  | .stsp a s sem w off sc g =>
    two (pack0 0x84 0 a (sem.code ++ w.code ++ (0 : BitVec 2))) (packSt s off g ((0 : BitVec 1) ++ sc.code))
  | .atsp d a b c op sem w64 sc la g =>
    two (pack0 0x85 d a (sem.code ++ op.code)) (pack1 b c la g (BitVec.ofBool w64 ++ sc.code))
  | .ldc d a w off la g => two (pack0 0x86 d a ((0 : BitVec 2) ++ w.code ++ (0 : BitVec 2))) (packOff off la g 0)
  | .sreg d r la g => two (pack0 0x87 d (plain r.code) 0) (pack1 src0 src0 la g 0)
  | .sregClr d la g => two (pack0 0x87 d (plain 0x11) 1) (pack1 src0 src0 la g 0)
  | .cpy a s o st solo sp g =>
    two (pack0 0xA0 0 a ((0 : BitVec 3) ++ BitVec.ofBool solo ++ sp.code ++ BitVec.ofBool st)) (pack1 s o 0 g 0)
  | .sealRec d a r128 g => two (pack0 0xA1 d a ((0 : BitVec 5) ++ BitVec.ofBool r128)) (pack1 src0 src0 0 g 0)
  | .gat n r i o isp rsp g => two (pack0 0xA2 n r ((0 : BitVec 4) ++ rsp.code ++ isp.code)) (pack1 i o 0 g 0)
  | .sct n r i o isp rsp comb f g =>
    two (pack0 0xA3 n r ((0 : BitVec 2) ++ comb.code ++ rsp.code ++ isp.code)) (pack1 i o 0 g ((0 : BitVec 2) ++ f.code))
  | .matom d a b c op w64 g => two (pack0 0xA4 d a ((0 : BitVec 1) ++ BitVec.ofBool w64 ++ op.code)) (pack1 b c 0 g 0)
  | .mred a b op f g => two (pack0 0xA5 0 a ((0 : BitVec 2) ++ f.code ++ op.code)) (pack1 b src0 0 g 0)
  | .bkrun a g => two (pack0 0xA6 0 a 0) (pack1 src0 src0 0 g 0)
  | .pred r x o g => two (pack0 0xA7 0 r 0) (pack1 x o 0 g 0)
  | .pchk r x o g => two (pack0 0xA8 0 r 0) (pack1 x o 0 g 0)
  | .batch c g => two (pack0 0xA9 0 src0 ((0 : BitVec 3) ++ c.code)) (pack1 src0 src0 0 g 0)
  | .wait d c n g => two (pack0 0xAA d src0 ((0 : BitVec 3) ++ c.code)) (pack1 src0 src0 0 g n)
  | .fence sc g => two (pack0 0xAB 0 src0 0) (pack1 src0 src0 0 g sc.code)
  | .bar => two (pack0 0xAC 0 src0 0) (pack1 src0 src0 0 noGuard 0)
  | .barMx => two (pack0 0xAC 0 src0 1) (pack1 src0 src0 0 noGuard 0)
  | .gsync => two (pack0 0xAD 0 src0 0) (pack1 src0 src0 0 noGuard 0)
  | .sregw a r g => two (pack0 0xC0 0 a 0) (packOff ((0 : BitVec 12) ++ r.code) 0 g 0)
  | .sregwRd d r g => two (pack0 0xC0 d src0 1) (packOff ((0 : BitVec 12) ++ r.code) 0 g 0)
  | .qmap d a b g => two (pack0 0xC1 d a 0) (pack1 b src0 0 g 0)
  | .qunmap d a g => two (pack0 0xC2 d a 0) (pack1 src0 src0 0 g 0)
  | .place d a g => two (pack0 0xC3 d a 0) (pack1 src0 src0 0 g 0)
  | .ctxsave d a b g => two (pack0 0xC4 d a 0) (pack1 b src0 0 g 0)
  | .ctxrest d a b g => two (pack0 0xC5 d a 0) (pack1 b src0 0 g 0)
  | .tbinv k a b g => two (pack0 0xC6 0 a ((0 : BitVec 4) ++ k.code)) (pack1 b src0 0 g 0)
  | .cinvSprd g => two (pack0 0xC7 0 src0 0) (pack1 src0 src0 0 g 0)
  | .cinvRec b g => two (pack0 0xC7 0 src0 1) (pack1 b src0 0 g 0)
  | .wkload d a b c die g => two (pack0 0xC8 d a ((0 : BitVec 4) ++ die)) (pack1 b c 0 g 0)
  | .wadd d a b => [packR 0x00 d a b 0]
  | .wsub d a b => [packR 0x01 d a b 0]
  | .wand d a b => [packR 0x02 d a b 0]
  | .wor d a b => [packR 0x03 d a b 0]
  | .wxor d a b => [packR 0x04 d a b 0]
  | .wshl d a b => [packR 0x05 d a b 0]
  | .wshr d a b => [packR 0x06 d a b 0]
  | .wmul d a b => [packR 0x07 d a b 0]
  | .wmulhu d a b => [packR 0x08 d a b 0]
  | .wsltu d a b => [packR 0x09 d a b 0]
  | .wslt d a b => [packR 0x0A d a b 0]
  | .whash d a b => [packR 0x0B d a b 0]
  | .waddi d a imm => [packI 0x10 d a imm]
  | .wandi d a imm => [packI 0x11 d a imm]
  | .wori d a imm => [packI 0x12 d a imm]
  | .wxori d a imm => [packI 0x13 d a imm]
  | .wshli d a n => [packI 0x14 d a ((0 : BitVec 10) ++ n)]
  | .wshri d a n => [packI 0x15 d a ((0 : BitVec 10) ++ n)]
  | .wins d imm => [packI 0x16 d 0 imm]
  | .wbfx d a pos len => [packI 0x17 d a ((0 : BitVec 4) ++ len ++ pos)]
  | .wld d a imm => [packI 0x20 d a imm]
  | .wldw d a imm => [packI 0x21 d a imm]
  | .wlds d a imm => [packI 0x22 d a imm]
  | .wsts d a imm => [packI 0x23 d a imm]
  | .wbeq a b off => [packI 0x28 a b off]
  | .wbne a b off => [packI 0x29 a b off]
  | .wbltu a b off => [packI 0x2A a b off]
  | .wbgeu a b off => [packI 0x2B a b off]
  | .wblt a b off => [packI 0x2C a b off]
  | .wbge a b off => [packI 0x2D a b off]
  | .wmap a b perm size => [packR 0x30 0 a b ((0 : BitVec 6) ++ perm ++ size)]
  | .wnone => [packR 0x31 0 0 0 0]
  | .bnop => [packB 0x0 0 0 0 0 0 0]
  | .bend => [packB 0x1 0 0 0 0 0 0]
  | .bldi k imm => [packB 0x2 k 0 0 0 0 imm]
  | .baddi k j imm => [packB 0x3 k j 0 0 0 imm]
  | .bloop k off => [packB 0x4 k 0 0 0 0 off]
  | .bbeq k j off => [packB 0x5 k j 0 0 0 off]
  | .bmac k j n f ij ic => [packB 0x6 k j n 0 f.code (ij ++ ic)]
  | .bmacs k n f ic => [packB 0x7 k 0 n 0 f.code ((0 : BitVec 8) ++ ic)]
  | .bzero n => [packB 0x8 0 0 n 0 0 0]
  | .bmov n m => [packB 0x9 0 0 n m 0 0]
  | .baddv n m => [packB 0xA 0 0 n m 0 0]
  | .bmaxv n m => [packB 0xB 0 0 n m 0 0]
  | .bred n => [packB 0xC 0 0 n 0 0 0]
  | .bscl n => [packB 0xD 0 0 n 0 0 0]
  | .brelu n => [packB 0xE 0 0 n 0 0 0]
  | .bemit k n m ic => [packB 0xF k 0 n 0 m.code ((0 : BitVec 8) ++ ic)]
  | _ => []

/-! ### Table words -/

/-- Four bytes, lowest address first, as a word (R2). -/
def wordOfBytes (bs : List Byte) : Word :=
  match bs with
  | [] => 0
  | b :: r => (b.setWidth 32) ||| ((wordOfBytes r) <<< 8)

/-- The four bytes of a word in memory order (R2). -/
def bytesOfWord (w : Word) : List Byte :=
  [w.extractLsb' 0 8, w.extractLsb' 8 8, w.extractLsb' 16 8, w.extractLsb' 24 8]

/-- The bytes, lowest address first, of the first two words of an instruction whose bits are `w`. -/
def tableBytes (w : Nat) : List Byte :=
  bytesOfWord (BitVec.ofNat 32 w) ++ bytesOfWord (BitVec.ofNat 32 (w / 2 ^ 32))

/-- A format-1 Vilesk instruction, or a Vilesk instruction of two words given in full. -/
def tableVilesk (nbits : Nat) (a b : Word) : Option Instr :=
  match majorForm (fMajor a).toNat with
  | some .one => decodeVilesk a b
  | some _ => if nbits > 32 then decodeVilesk a b else none
  | none => none

/-- The instruction that a decoder of the module reads from the bits `w` (log entry 7: the three instruction sets
share words; a format-1 Vilesk word comes first, then walker code, then bank code). -/
def decodeTableWord (nbits w : Nat) : Option Instr :=
  let bs := tableBytes (w % 2 ^ nbits)
  let a := wordOfBytes (bs.take 4)
  let b := wordOfBytes ((bs.drop 4).take 4)
  match tableVilesk nbits a b with
  | some i => some i
  | none =>
    match decodeWalker a with
    | some i => some i
    | none => decodeBank a

end Sys2Proof
end

