-- ==== Sys2Proof/Config.lean ====
section
/-! DEFINITION. What an implementation fixes and the free values: constants that the manual leaves open. None of
them has a body, so no proof rests on a value. -/

namespace Sys2Proof

/-- What the service changes when it resizes a polder: cores, scratchpad window, shared-memory window on each core, and frame
allowance (R348). -/
structure Resize where
  polder : Nat
  cores  : BitVec 32
  spBase : Nat
  spSize : Nat
  shSize : Nat
  ranges : List AllowRange
deriving DecidableEq, Repr, Inhabited

/-- What the manual has the device, the reeve firmware, the Sougar service or the outside world do without a row of its own in the
opcode table (log entry 62). -/
inductive Proc where
  /-- the dispatch unit of a ticket holder begins, or goes on; `va` is where the service lets a checkpoint image lie (R249 to R253) -/
  | unit (core va : Nat)
  /-- the service completes the ticket of a parked reeve (R346) -/
  | rescue (core : Nat)
  /-- the service maps a queue of its ready list, whose descriptor lies at `va`, onto a FREE slot (R246) -/
  | mapReady (core slot va : Nat)
  /-- the WAIT timeout of an unmapped queue expires (R347) -/
  | waitDue (polder q : Nat)
  /-- the service resizes a polder (R348), or moves the work of a quarantined core away (R354) -/
  | resize (r : Resize)
  | vacate (core : Nat)
  /-- the threshold test of R353 for cores that could not be quarantined at once (R345) -/
  | judge
  /-- a reeve starts a further run of an audit on a core (R261, R352); a command of a re-execution completes from the log; a core fails in
  an audited run (R353) -/
  | auditRun (core aid target : Nat)
  | replay (cmd : Nat)
  | defect (core bslot grp : Nat)
  /-- the service aborts the launch of a parked group, or releases the group to RESUMEPC (R313); it aborts launches whose
  records are lost (R36) -/
  | abort (core slot : Nat)
  | release (core slot : Nat)
  | abortDoomed (polder : Nat)
  /-- the service unmaps a queue whose descriptor failed (R342) -/
  | unmapDead (slot : Nat)
  /-- the oldest return address of a lane leaves the spill-stack cache for the launch's private stack area, or the last one that has left
  comes back (R135, R171) -/
  | stackWrite (core slot lane : Nat)
  | stackRead (core slot lane : Nat)
  /-- symbols of a DRAM block come to hold other values (R323) -/
  | bitError (block symbol : Nat) (x : BitVec 8)
  /-- a flit passes after its replays (R329); a base-die reply matches no outstanding packet (R329) -/
  | goodFlit (link : Nat)
  | strayReply (stack : Nat)
  /-- the transport gives a remote access up, or the remote module refuses it (R330) -/
  | remoteFail (acc : Nat)
  | remoteWalkFail (die walker : Nat)
  | remoteFetchFail (core slot word : Nat)
  /-- codewords of a port are corrected (R302); the device behind a tier port reports its size (R286) -/
  | fecCorrected (port n : Nat)
  | tierSize (port size : Nat)
  /-- the service sets polder 0's own allowance, windows, keys and areas (R14) -/
  | ownRange (k : Nat) (r : AllowRange)
  | ownKeys (sealKey nonce : List (BitVec 8)) (shSize : Nat)
  /-- a host sends an operation over ROD (R289); a request whose code R290 does not name; a plain send, and a packet under some key
  set (R287) -/
  | sendRod (polder : Nat) (op : Instr)
  | badRequest (polder code : Nat)
  | plainSend (polder : Nat)
  | keyed (polder : Nat) (keys : List (BitVec 8))
  /-- an owner key is installed (R294), or the identity certificate is written (R292, R297) -/
  | ownerKey (slot sig : List (BitVec 8))
  | identityCert (cert : List (BitVec 8))
  /-- a recovery has written the image slot, and the ROM restarts (R296) -/
  | recovered
deriving DecidableEq, Repr, Inhabited

/-- One move of the schedule: a step of the device, an agent that issues its next instruction, the next part of a scratchpad
access (R220), or a procedure. -/
inductive Act where
  | ev (i : Instr)
  | walker (die walker : Nat)
  | item (run pc item : Nat)
  | part (core slot id : Nat)
  | proc (p : Proc)
deriving DecidableEq, Repr, Inhabited

/-- FREE VALUE. The step that comes about next when nothing is pending: the manual gives no order between agents
(DESIGN CHOICE, log entry 1). -/
opaque Config.nextAct : Nat → Act

/-- FREE VALUE. Reference cycles that pass before that step (typical times are no rule, R4; log entry 1). -/
opaque Config.elapsed : Nat → Nat

/-- FREE VALUE. An unpredictable word (R6) or an open choice among values, by a counter of State (log entry 2). -/
opaque Config.freeWord : Nat → Word

/-- FREE VALUE. The SRAM-PUF response of the module after its error correction (R297; log entry 3). -/
opaque Config.puf : List Byte

/-- FREE VALUE. ML-DSA-87 verification: public key, message, signature (R293; log entry 3). -/
opaque Config.mldsaVerify : List Byte → List Byte → List Byte → Bool

/-- FREE VALUE. The ML-DSA-87 public key generated from a seed (R297; log entry 3). -/
opaque Config.mldsaPublic : List Byte → List Byte

/-- FREE VALUE. The ML-DSA-87 signature of a message under the key generated from a seed (R297, R298; log entry 3). -/
opaque Config.mldsaSign : List Byte → List Byte → List Byte

/-- FREE VALUE. The vendor's public key (R294; log entry 3). -/
opaque Config.vendorKey : List Byte

/-- FREE VALUE. The region keys that OPEN returns for a polder (R290; log entry 3). -/
opaque Config.regionKeys : Nat → List Byte

/-- FREE VALUE. The key set of the transport security sublayer that a polder's session has (R287; log entry 63). -/
opaque Config.sessionKeys : Nat → List Byte

/-- FREE VALUE. The bytes that a recovery fetch brings, or none when it fails (R296; log entry 3). -/
opaque Config.recoveryFetch : List Byte → Option (List Byte)

end Sys2Proof
end

