-- ==== Sys2Proof/Machine/Table.lean ====
section
/-! DEFINITION. Sparse tables keyed by Nat, in one canonical form: keys strictly rising. -/

namespace Sys2Proof.Machine

/-- A list of keys and values with rising keys. -/
abbrev Table (α : Type) := List (Nat × α)

/-- The value at a key. -/
def tfind {α : Type} : Table α → Nat → Option α
  | [], _ => none
  | (j, v) :: t, k => if k = j then some v else tfind t k

/-- Enters a value, keeping keys rising. -/
def tput {α : Type} : Table α → Nat → α → Table α
  | [], k, v => [(k, v)]
  | (j, w) :: t, k, v =>
    if k = j then (k, v) :: t else if k < j then (k, v) :: (j, w) :: t else (j, w) :: tput t k v

/-- Removes a key. -/
def tdel {α : Type} (t : Table α) (k : Nat) : Table α := t.filter fun e => e.1 ≠ k

/-- The value at a key of a table whose unlisted keys hold `d`. -/
def tget {α : Type} (d : α) (t : Table α) (k : Nat) : α := (tfind t k).getD d

/-- Writes a table whose unlisted keys hold `d`: writing `d` removes the entry. -/
def tset {α : Type} [DecidableEq α] (d : α) (t : Table α) (k : Nat) (v : α) : Table α :=
  if v = d then tdel t k else tput t k v

/-- Keys strictly rising, all at least `lo`. -/
def tsortedFrom {α : Type} : Nat → Table α → Bool
  | _, [] => true
  | lo, (k, _) :: t => decide (lo ≤ k) && tsortedFrom (k + 1) t

/-- The canonical form of a table whose unlisted keys hold `d`. -/
def tcanon {α : Type} [DecidableEq α] (d : α) (t : Table α) : Bool :=
  tsortedFrom 0 t && t.all fun e => decide (e.2 ≠ d)

end Sys2Proof.Machine
end

