-- ==== Sys2Proof/Machine/State.lean ====
section
/-! DEFINITION. The state of the Knarok K1 as plain data, and the state after module reset. Every piece of state
the manual names has one home here. -/

namespace Sys2Proof.Machine

/-- A byte memory: listed cells only, keys rising, no cell zero; an unlisted byte reads zero (log entry 5). -/
abbrev Memory := List Host.Cell

/-- The states of a lane (R26). -/
inductive LaneSt where
  | empty | occupied | helper
deriving DecidableEq, Repr, Inhabited

/-- A register that an engine command will write or has written (R148). -/
structure Pend where
  cmd     : Nat
  cls     : Cls
deriving DecidableEq, Repr, Inhabited

/-- One lane of a group and the thread it holds (R21, R26, R29). -/
structure Lane where
  st        : LaneSt
  /-- home group and home lane of the thread (R29) -/
  homeGroup : Nat
  homeLane  : Nat
  /-- v0 to v254; an unlisted register holds 0 -/
  regs      : Table Word
  /-- registers that are dead (R62) -/
  dead      : List Nat
  /-- registers pending for an engine result (R148) -/
  pend      : Table Pend
  /-- p0 to p6 -/
  preds     : BitVec 7
  /-- hardware return stack, top first, at most 8 entries (R171) -/
  rstk      : List Word
  /-- return addresses that have left it and lie in the group's spill-stack cache, top first (R135) -/
  mstk      : List Word
  /-- older ones that lie only in the thread's stack in main memory (R135) -/
  deep      : Nat
  /-- latch of CLOCK.HI (R109) -/
  clkHi     : Option Word
deriving DecidableEq, Repr, Inhabited

/-- A register or a predicate. -/
inductive Loc where
  | reg (r : Nat)
  | pred (p : Nat)
deriving DecidableEq, Repr, Inhabited

/-- One result of a long-latency instruction for one lane (R60, R78): flags are INV DZ OF UF NX. -/
structure LWrite where
  lane  : Nat
  loc   : Loc
  val   : Word
  flags : BitVec 5
deriving DecidableEq, Repr, Inhabited

/-- Where a command, a store or a load comes from: what its fault records and log entries name (R305, R307, R333). -/
structure Origin where
  polder : Nat
  core   : Nat
  slot   : Nat
  /-- the group's unique number, its block slot and its GRP -/
  uid    : Nat
  bslot  : Nat
  grp    : Nat
  launch : Nat
  blk    : Nat
  cls    : Cls
  pc     : Word
  ir     : Word
deriving DecidableEq, Repr, Inhabited

/-- What a scratchpad access has still to do for one word of a load, or for one lane of an atomic. -/
inductive SpOp where
  /-- reads a word for a register; the read cache may serve it (R133, R220) -/
  | load (reg : Nat) (cached : Bool)
  /-- an operation of R139 at the home die: the registers of the old value, B and C, and as a release its scope with the
  commands that precede it (R222, R229, R234) -/
  | atom (op : AOp) (w64 : Bool) (regs : List Nat) (b c : Nat) (rel : Option Scope) (after : List Nat)
deriving DecidableEq, Repr, Inhabited

/-- One part of a scratchpad access that is still to be performed, at a module byte; an acquire at `die` or wider drops the
core's read cache (R220, R229). -/
structure SpTodo where
  lane : Nat
  addr : Nat
  acq  : Bool
  op   : SpOp
deriving DecidableEq, Repr, Inhabited

/-- A long-latency instruction whose results have not arrived, with what is left of its window (R60). -/
structure InFlight where
  id     : Nat
  window : Nat
  /-- the results that it will write; one whose part is in `todo` has its value still to come -/
  writes : List LWrite
  /-- an `atsp`: its results arrive with the reply from the home dies (R222) -/
  reply  : Bool
  /-- words of the scratchpad read cache that the reply updates (R222) -/
  lines  : List (Nat × Word)
  /-- parts still to be performed, lane after lane (R220, R222) -/
  todo   : List SpTodo
  /-- the words that a scratchpad load has returned so far, as the audit logs them (R259) -/
  got    : List LWrite
  /-- the instruction that issued it, for the record of a part that a failed link loses (R329) -/
  org    : Origin
deriving DecidableEq, Repr, Inhabited

/-- One word of a store-queue entry. -/
structure StWrite where
  lane : Nat
  addr : Nat
  val  : Word
deriving DecidableEq, Repr, Inhabited

/-- One entry of a group's store queue (R218). Addresses are those of the core's shared memory or of the module's
scratchpad. -/
structure StEntry where
  id     : Nat
  /-- the group that issued it, by its unique number -/
  owner  : Nat
  /-- the instruction that issued it -/
  org    : Origin
  /-- commands whose main-memory writes precede a release (R228, R229) -/
  after  : List Nat
  space  : LSpace
  polder : Nat
  rel    : Option Scope
  writes : List StWrite
  /-- words of a scratchpad entry that are still to be performed, lane after lane (R218) -/
  left   : List StWrite
deriving DecidableEq, Repr, Inhabited

/-- A scratchpad word on a die link: the core that sent it, its entry and the word (R228, R230). -/
structure Sent where
  id    : Nat
  core  : Nat
  entry : StEntry
  word  : StWrite
deriving DecidableEq, Repr, Inhabited

/-- What a group waits for (R61, R146, R149, R174, R178, R180, R340, R36). -/
inductive Wait where
  | none
  /-- at a `wait`: classes still to come, those asked for, threshold, status register, lanes that receive it, and STATUS of the
  classes that have passed, by class number (R146) -/
  | wait (cls : List Cls) (asked : WCls) (n : Nat) (d : Nat) (lanes : BitVec 32) (passed : Table (BitVec 4))
  | header (cls : List Cls) (n : Nat)
  | fence (sc : FScope)
  | bar (mx : Bool)
  | gsync
  | join (target : Word) (since deadline : Nat)
  | sleep (till : Nat)
  /-- for room for records of these sizes; `free` once it is the oldest and they fit: the group arbitrates again (R36, R61) -/
  | room (order : Nat) (sizes : List Nat) (free : Bool)
  | fetch (acc : Nat)
  /-- after an undefined operation: the manual says nothing of the group, or of its polder, from here on (R7, R162) -/
  | undef
  | tbinv (dies : List Nat)
deriving DecidableEq, Repr, Inhabited

/-- A fault record (R305). -/
structure FRec where
  dlvFail  : Bool
  eng      : Bool
  cause    : BitVec 8
  code     : BitVec 16
  pc       : Word
  laneMask : BitVec 32
  addr     : DWord
  aux      : Word
  resume   : Word
  bclass   : BitVec 3
deriving DecidableEq, Repr, Inhabited

/-- The clause a group is inside (R50): its header and PC, how many instructions have issued, and its wait done. -/
structure Clause where
  hdr   : Header
  hdrPc : Word
  done  : Nat
  /-- the code words of the clause, fetched with its header (R325, R340) -/
  words : List Word
deriving DecidableEq, Repr, Inhabited

/-- A group of 32 lanes in a slot (R21). -/
structure Group where
  bslot    : Nat
  /-- group number (R29) -/
  gnum     : Nat
  bound    : Bool
  lanes    : Table Lane
  pc       : Word
  clause   : Option Clause
  /-- instructions of the current run (R58) -/
  run      : Nat
  tilew    : TileW
  /-- FSTAT: POISONRD INV DZ OF UF NX (R77) -/
  fstat    : BitVec 6
  /-- STATUS of the six classes, by class number 1 to 6 (R147) -/
  status   : Table (BitVec 4)
  inflight : List InFlight
  /-- register numbers in the operand cache, most recently kept first (R63) -/
  cache    : List Nat
  stq      : List StEntry
  openB    : Table (List Nat)
  closedB  : Table (List (List Nat))
  waiting  : Wait
  frec     : FRec
  parked   : Bool
  /-- pending completion faults, oldest first: the command (0 after restoration) and its record (R312, R321) -/
  pendF    : List (Nat × FRec)
  /-- the group has begun to wait at a join (R41) -/
  joined   : Bool
  /-- core clocks in which the group has issued since it took its slot (R45) -/
  issued   : Nat
  /-- clock at which the group began to wait (R319) -/
  since    : Nat
  /-- a number that no other group ever has; the model's own -/
  uid      : Nat
  /-- `mred` commands issued, and commands of complete batches, since the last drain (R149, R228) -/
  mreds    : List Nat
  finished : List Nat
deriving DecidableEq, Repr, Inhabited

/-- What a LAUNCH packet gives a block (R241), with its argument block image (R134) and its 64 bytes. -/
structure Launch where
  polder    : Nat
  queue     : Nat
  id        : Nat
  bound     : Bool
  audit     : Bool
  noprom    : Bool
  cls       : Nat
  gangSz    : Nat
  bw        : Nat
  entry     : Word
  codeBase  : Nat
  x         : Nat
  y         : Nat
  z         : Nat
  fairInt   : Nat
  nblkX     : Nat
  nblkY     : Nat
  nblkZ     : Nat
  regs      : Nat
  shared    : Nat
  trapVec   : Word
  stackSz   : Nat
  stackAddr : Nat
  arg       : List Byte
  raw       : List Byte
  /-- code lies in boot SRAM: the service image (R184, R294) -/
  sram      : Bool
deriving DecidableEq, Repr, Inhabited

/-- One slice of a copy collective (R155): the command, or none for an empty slice. -/
structure Slice where
  /-- the group's unique number -/
  uid  : Nat
  cmd  : Option Nat
deriving DecidableEq, Repr, Inhabited

/-- An open collective of a block (R155). -/
structure Coll where
  /-- participants, by unique number -/
  parts  : List Nat
  slices : List Slice
deriving DecidableEq, Repr, Inhabited

/-- A resident block (R21, R47). -/
structure Block where
  launch   : Launch
  /-- linear block index b (R23) -/
  idx      : Nat
  /-- slots held, in the order taken; the weaver slot comes last (R188, R41) -/
  slots    : List Nat
  weaver   : Bool
  shBase   : Nat
  shSize   : Nat
  /-- next group number (R29) -/
  nextG    : Nat
  poisoned : Bool
  /-- clock of the last progress event and intervals without progress (R349) -/
  progress : Nat
  idle     : Nat
  coll     : Option Coll
  /-- slices that wait for the next collective (R155) -/
  collNext : List Slice
  /-- core of the first placement (R322) -/
  homeCore : Nat
  audit    : Option Nat
  /-- the block re-executes an audited one: the audit (R261) -/
  rerun    : Option Nat
  /-- groups that have arrived at a barrier and were evicted since: block and gang barrier (R180) -/
  evictedBar : Nat
  evictedGs  : Nat
  /-- one of them had arrived at a `bar.mx` (R180, R181) -/
  evictedMx  : Bool
  /-- pre-emption is under way: groups stop at run boundaries (R253); the block is then discarded (R313) -/
  stopping   : Bool
  abort      : Bool
  /-- the ticket under which it was placed (R346), and whether its dispatch unit has taken its needs from the board (R248) -/
  ticket     : Word
  booked     : Bool
deriving DecidableEq, Repr, Inhabited

/-- The kinds of weaver record (R37). -/
inductive RKind where
  | spill | spawn | reorder
deriving DecidableEq, Repr, Inhabited

/-- What holds a record back: nothing, or a block or gang barrier at which its thread was evicted (R180). -/
inductive Hold where
  | free | bar | gang
deriving DecidableEq, Repr, Inhabited

/-- What a record is known by in the log of its block: its kind, and the group number of its creator, the issue cycles of that group
and the lane (R259).
(DESIGN CHOICE: log entry 27.) -/
structure Mark where
  kind   : RKind
  grp    : Nat
  issued : Nat
  lane   : Nat
deriving DecidableEq, Repr, Inhabited

/-- A weaver record (R37). -/
structure Record where
  kind     : RKind
  bslot    : Nat
  pc       : Word
  nlive    : Nat
  regs     : List Word
  rstk     : List Word
  mstk     : List Word
  deep     : Nat
  preds    : BitVec 7
  homeLane : Nat
  homeGrp  : Nat
  key      : Word
  age      : Nat
  /-- clock at creation, group number it came from, store entries it waits for (R39, R41, R217) -/
  born     : Nat
  orig     : Nat
  /-- slot of the group that created it (R38) -/
  slot     : Nat
  stores   : List Nat
  due      : Bool
  /-- held in the polder's spill area, in these 16-byte places of it, in order (R36) -/
  spilled  : Bool
  place    : List Nat
  /-- held back until a barrier completes (R180) -/
  held     : Hold
  /-- what the log of its block knows it by (R259) -/
  mark     : Mark
deriving DecidableEq, Repr, Inhabited

/-- A line of the scratchpad read cache (R231). -/
structure CLine where
  polder : Nat
  bytes  : List Byte
  filled : Nat
deriving DecidableEq, Repr, Inhabited

/-- A translation entry (R263). -/
structure TEntry where
  polder : Nat
  base   : Nat
  size   : Nat
  frame  : Nat
  perm   : BitVec 3
deriving DecidableEq, Repr, Inhabited

/-- The two issue ports of a sub-core and its age order, oldest first (R255). -/
structure SubCore where
  portA : Option Nat
  portB : Option Nat
  order : List Nat
  /-- the port's last instruction takes a second cycle (R255) -/
  holdA : Bool
  holdB : Bool
  /-- core clock at which the matrix unit is free (R114) -/
  mxFree : Nat
  /-- one more than the core clock of the last issue cycle (R255) -/
  issued : Nat
deriving DecidableEq, Repr, Inhabited

/-- A core: compute core 0 to 31, or front core 32 + f (R9, R184). -/
structure Core where
  blocks   : Table Block
  groups   : Table Group
  records  : List Record
  /-- the weaver's sequence counter (R38) -/
  ageCtr   : Nat
  /-- store entries of groups that have ended (R175) -/
  orphans  : List StEntry
  /-- one more than the core clock of the weaver's last formation (R40) -/
  formed   : Nat
  /-- shared memory, or a front core's local memory (R132, R184) -/
  sh       : Memory
  /-- earlier values of words that the matrix path may still see (R119) -/
  mxHist   : Table (List Word)
  rcache   : Table CLine
  tb       : List TEntry
  /-- fault buffer: parked accesses in order of parking (R264) -/
  parkedA  : List Nat
  layouts  : List (Nat × List Byte)
  preds    : List (Nat × List Byte)
  subs     : Table SubCore
  /-- sub-core that issued the last ENG instruction, and one more than the core clock in which it did (R255) -/
  lastEng  : Nat
  engAt    : Nat
  placeok  : Bool
  barrel   : Bool
  wdogint  : Word
  seepage  : Word
  quar     : Bool
  /-- its points have reached the threshold, and its work is still to be moved away (R354) -/
  condemned : Bool
  /-- the self-test runs; it has passed (R354) -/
  selfTest : Bool
  tested   : Bool
deriving DecidableEq, Repr, Inhabited

/-- One depth of a walk (R266, R273). -/
structure Frame where
  va      : Nat
  depth   : Nat
  pc      : Nat
  regs    : Table DWord
  scratch : Memory
deriving DecidableEq, Repr, Inhabited

/-- A walker read in progress: destination, width and physical address (R271). -/
structure WRead where
  d    : BitVec 5
  len  : Nat
  pa   : Nat
deriving DecidableEq, Repr, Inhabited

/-- A running walk (R266 to R277). -/
structure Walk where
  polder  : Nat
  acc     : Nat
  w2      : DWord
  routine : Memory
  root    : DWord
  frames  : List Frame
  cycles  : Nat
  stale   : Bool
  read    : Option WRead
deriving DecidableEq, Repr, Inhabited

/-- A compute die, or the port die (die 4) (R9). -/
structure Die where
  tb       : List TEntry
  /-- miss queues by polder: accesses, oldest first (R265) -/
  missQ    : Table (List Nat)
  deficit  : Table Int
  ptr      : Nat
  walks    : Table Walk
  /-- walker instruction memory and root value by polder (R191) -/
  routines : Table (Memory × DWord)
  /-- core clock in MHz (R304), and the core clock counter of its cores at a reference clock (R109) -/
  mhz      : Nat
  clkBase  : Nat
  clkRef   : Nat
deriving DecidableEq, Repr, Inhabited

/-- Status of one engine access (R264, R325, R338). -/
inductive AccSt where
  /-- not sent yet -/
  | ready
  /-- its engine waits for room in the fault buffer (R264) -/
  | waiting
  /-- in the fault buffer: 0, or held under REPLAY with its walk cause (R339) -/
  | parked (held : Nat)
  /-- sent to a physical address, with the order in which engines sent (R195) -/
  | sent (pa ord : Nat)
  | served
  | failed (code cause : Nat) (aux : Word)
deriving DecidableEq, Repr, Inhabited

/-- What an access does. -/
inductive AccOp where
  | read
  | write (data : List Byte)
  | atomic (op : AOp) (w64 : Bool) (b c : DWord)
  | reduce (op : ROp) (f : EFmt) (v : Word)
  | fetch
  | slab
deriving DecidableEq, Repr, Inhabited

/-- One access of an engine, inside one DRAM row unless it names a slab (R194, R262). -/
structure Access where
  polder : Nat
  core   : Nat
  /-- its command; 0 for a code fetch -/
  cmd    : Nat
  lane   : Nat
  /-- SRC of R267 -/
  src    : Nat
  op     : AccOp
  va     : Nat
  len    : Nat
  /-- where its bytes lie in the command's local order -/
  off    : Nat
  st     : AccSt
  data   : List Byte
  /-- offsets of bytes that lie in uncorrectable blocks (R325) -/
  bad    : List Nat
  /-- w2 of the depth-0 walk that it waited on last (R338) -/
  aux    : Word
deriving DecidableEq, Repr, Inhabited

/-- One logged input of a group (R259): its command or load, 0 for one that is whole at once; the words or operand bytes; the record
that a command read; and what it wrote to local space.
(DESIGN CHOICE: log entry 27.) -/
structure LogEntry where
  id     : Nat
  bytes  : List Byte
  recB   : List Byte
  writes : List (LSpace × Nat × List Byte)
deriving DecidableEq, Repr, Inhabited

/-- What an engine command was issued to do (R143). -/
inductive CmdOp where
  | cpy (st : Bool) (sp : LSpace) (recVa first n loc : Nat)
  | sealRec (len loc : Nat) (d : Nat)
  | gat (recAddr : Nat) (rsp : LSpace) (rowArea rowb : Nat) (fill : Word) (bound sent : Nat) (idx : List Word)
  | sct (recAddr miss : Nat)
  | matom (d : Nat) (w64 : Bool)
  | mred
  | bkrun (run : Nat)
  | pred (recVa x o : Nat)
  | pchk (recVa x o : Nat)
  | spawn (order : Nat) (children : List (Nat × Record))
  | packet (slot : Nat) (srcVa dstVa first n : Nat)
  /-- a command of a re-execution: nothing of it leaves the core, and its results come from the log (R261) -/
  | replayed (op : CmdOp) (entry : LogEntry)
deriving DecidableEq, Repr, Inhabited

/-- How far a command has come. -/
inductive Phase where
  | waiting
  | record
  | record2
  | plan
  | data
  | done
deriving DecidableEq, Repr, Inhabited

/-- Bytes of a command not yet charged to the weir: virtual address, length, and place in local order (R157). -/
structure Piece where
  va  : Nat
  len : Nat
  off : Nat
deriving DecidableEq, Repr, Inhabited

/-- An engine command (R143, R145). -/
structure Cmd where
  org    : Origin
  op     : CmdOp
  /-- lanes that the command acts for; the lowest gives a group command's operands -/
  mask   : BitVec 32
  phase  : Phase
  /-- store entries that must be performed first (R235) -/
  stores : List Nat
  plan   : List Piece
  accs   : List Nat
  /-- the records the command read (R124, R152) -/
  recB   : List Byte
  recB2  : List Byte
  status : BitVec 4
  /-- first fault of each code: lane, code, cause, address, aux (R333) -/
  faults : List (Nat × Nat × Nat × DWord × Word)
  /-- module bytes of scratchpad that it has written, as first byte and length (R235) -/
  wrote  : List (Nat × Nat)
deriving DecidableEq, Repr, Inhabited

/-- Registers of a bank item (R199). -/
structure BankItem where
  regs  : Table Word
  acc   : Table Word
  pc    : Nat
  count : Nat
  /-- the item row in the array (R197) -/
  rowPa : Nat
  emits : List (Nat × EMode × List Word)
  ended : Bool
  /-- fault code that ended it, 0 for none (R209) -/
  fault : Nat
deriving DecidableEq, Repr, Inhabited

/-- What a run loads when it starts on a stack (R198, R200, R209). -/
structure BankLoad where
  vec  : List Word
  scal : List Word
  prog : List Word
  /-- store index of the first word that is a fault at load (R337) -/
  bad  : Option Nat
deriving DecidableEq, Repr, Inhabited

/-- A bank run (R196 to R201). -/
structure BankRun where
  cmd     : Nat
  polder  : Nat
  vbase   : Nat
  pcmask  : DWord
  slabs   : List Nat
  /-- where vector, scalars (none: 0xFFFF_FFFF) and image lie in scratchpad, and whether the vector is BF16 -/
  vecAddr : Nat
  half    : Bool
  scalAddr : Nat
  vslice  : Nat
  itemOut : Nat
  sumOut  : Nat
  oslots  : Nat
  entry   : Nat
  plen    : Nat
  progAddr : Nat
  /-- accesses that translate the slabs, by item (R197) -/
  accs    : List Nat
  /-- the stacks on which the run has started, each with what it loaded there (R198, R200) -/
  loads   : Table BankLoad
  /-- items by pseudo-channel · 65,536 + item -/
  items   : Table BankItem
deriving DecidableEq, Repr, Inhabited

/-- The part of an accepted packet that lies in one 64-byte block (R194, R195, R232, R236). -/
structure QPacket where
  seq    : Nat
  unit   : QUnit
  pa     : Nat
  op     : AccOp
  cmd    : Nat
  org    : Origin
  lane   : Nat
  va     : Nat
  /-- a DATAERR of its command has been recorded (R333) -/
  told   : Bool
deriving DecidableEq, Repr, Inhabited

/-- An HBM stack and its base-die controller (R301, R326, R327, R331). -/
structure Stack where
  isolate  : Bool
  trainsel : BitVec 8
  state    : BitVec 4
  failstep : BitVec 8
  hot      : Bool
  hotAt    : Nat
  trained  : Bool
  selfRefresh : Bool
  corr     : Nat
  uncorr   : Nat
  rowpar   : Nat
  /-- rows that are active, by row key (R207) -/
  active   : List Nat
  /-- activation counters by row key; parity bad marks (R327, R328) -/
  rowCtr   : Table Nat
  badPar   : List Nat
  /-- refreshes scheduled for the neighbours of a row (R327) -/
  refresh  : List Nat
  /-- instruction store image and polder of each pseudo-channel (R200) -/
  stores   : Table (Nat × List Word)
deriving DecidableEq, Repr, Inhabited

/-- A die link (R10, R329). -/
structure Link where
  failed   : Bool
  training : Bool
  replays  : Nat
deriving DecidableEq, Repr, Inhabited

/-- A CXL.mem port (R286, R330). -/
structure Tier where
  up   : Bool
  size : Nat
deriving DecidableEq, Repr, Inhabited

/-- An Ultra Ethernet port (R302). -/
structure Port where
  autoneg : Bool
  loop    : Bool
  width   : BitVec 2
  enable  : Bool
  fecCor  : BitVec 16
  lanesUp : BitVec 8
  state   : BitVec 4
  since   : Nat
deriving DecidableEq, Repr, Inhabited

/-- A user queue: where its descriptor lies in physical memory (R238). -/
structure Queue where
  descPa : Nat
  /-- deadline of the WAIT of a queue that was unmapped while WAITING (R347) -/
  waitDue : Option Nat
  /-- packets that HEAD skips after a taken THEN arm, kept over an unmap: index and count (R244) -/
  skip   : Option (Nat × Nat)
  /-- the last watch report of each handle that reached the queue (R233, R242) -/
  reports : Table DWord
  /-- stopped on a failed access to its descriptor, until a QUEUE request restarts it (R342, R343) -/
  dead   : Bool
  /-- clock of its oldest pending notification (R246) -/
  noted  : Option Nat
deriving DecidableEq, Repr, Inhabited

/-- A hardware queue slot (R246); its SSTATE, SCLASS, SAGE and SNEXT lie on the dispatch board (R248). -/
structure HwSlot where
  polder   : Nat
  queue    : Nat
  /-- virtual address of the descriptor in polder 0 (R187, R342) -/
  descVa   : Nat
  /-- the launch whose blocks are being placed or run, and how many have retired (R243) -/
  launch   : Option Launch
  retired  : Nat
  /-- image sets to resume before further placement (R252) -/
  images   : List (List Nat)
  /-- deadline of the WAIT at the head, with its limit flag (R245) -/
  deadline : Option Nat
  /-- packets that HEAD skips after a taken THEN arm: index and count (R244) -/
  skip     : Option (Nat × Nat)
  /-- a RESUME at the head: the launches of its images (R243) -/
  ids      : List Nat
  /-- a COPY at the head: its command (R245) -/
  copyCmd  : Option Nat
  /-- a failed descriptor access: no ticket selects the slot (R342) -/
  dead     : Bool
deriving DecidableEq, Repr, Inhabited

/-- What a dispatch unit, or a move of the service under a ticket, is for (R249 to R253, R346, R348, R354). -/
inductive Goal where
  /-- a head's own gang or image set -/
  | head
  /-- another launch's, behind a blocked head in this slot (R251) -/
  | fill (head : Nat)
  | rescue
  | resize (r : Resize)
  | vacate (core : Nat)
deriving DecidableEq, Repr, Inhabited

/-- How far a dispatch unit has come (R250, R252, R348). -/
inductive Stage where
  /-- cores of the region are to be listed -/
  | list
  /-- RESV words of the listed cores are being taken -/
  | cas
  /-- resident blocks are being pre-empted -/
  | preempt
  /-- blocks are being placed or restored -/
  | place
  /-- the restored blocks of a rejected set are being discarded (R344) -/
  | discard
deriving DecidableEq, Repr, Inhabited

/-- A dispatch unit under way: what its ticket holder has done of it (R249 to R253). -/
structure Dispatch where
  core    : Nat
  ticket  : Word
  slot    : Nat
  goal    : Goal
  stage   : Stage
  region  : Nat
  /-- regions that may be tried (R251) -/
  allowed : List Nat
  /-- cores to be used, and those whose RESV is taken -/
  listed  : List Nat
  taken   : List Nat
  /-- blocks still to be pre-empted, and blocks placed, by core and BSLOT -/
  victims : List (Nat × Nat)
  placed  : List (Nat × Nat)
deriving DecidableEq, Repr, Inhabited

/-- What of a saved block lies outside its checkpoint image: its launch with the argument block, its threads' stacks in
main memory, and the model's own marks (R134, R135, R253). -/
structure Saved where
  /-- polder-0 address of the image -/
  va      : Nat
  block   : Block
  groups  : List (Option Group)
  records : List Record
deriving DecidableEq, Repr, Inhabited

/-- A polder: its policy registers, counters and control page (R14, R159, R254, R279, R306). -/
structure Polder where
  alive     : Bool
  cores     : BitVec 32
  spBase    : Nat
  spSize    : Nat
  /-- bytes of the shared-memory window on each of its cores (R14) -/
  shSize    : Nat
  ranges    : Table AllowRange
  featack   : Table Word
  /-- clock of the last write of FEATACK, and its words before that cycle (R19) -/
  ackAt     : Option (Nat × Table Word)
  locked    : Bool
  weirRate  : Nat
  weirDepth : Nat
  weirDebtLim : Nat
  weirLevel : Nat
  weirDebt  : Nat
  /-- borrowing is open (R157) -/
  borrow    : Bool
  ageLim    : BitVec 8
  auditF    : BitVec 11
  preempt   : BitVec 4
  audSel    : Word
  audCan    : Word
  audOk     : Word
  audRingSz : Nat
  audRegSz  : Nat
  audRingUse : Nat
  /-- physical address of the retention ring, and byte of it after the last region taken (R258) -/
  audRing   : Nat
  audNext   : Nat
  walkLim   : BitVec 15
  walkWt    : BitVec 8
  walks     : Word
  walkFlt   : Word
  fltPol0   : Word
  fltPol1   : Word
  poisonBlk : Word
  fltCount  : Word
  /-- fault-log entries by ring index, 64 bytes each (R307) -/
  flog      : Table (List Byte)
  /-- the spill area: its physical address, size and use, and a counter of the instructions that wait for room in it (R36) -/
  spillPa   : Nat
  spillSz   : Nat
  spillUse  : Nat
  roomCtr   : Nat
  prdRows   : Table Word
  chkRows   : Table Word
  rplRows   : Table Word
  /-- other words of the control page that software may find written (R288) -/
  sealKey   : List Byte
  nonce     : List Byte
  queues    : Table Queue
  launches  : Nat
  /-- attestation measurement input of LOAD and WALK (R298) -/
  measured  : List Byte
  /-- host-visible ranges (R288) -/
  visible   : List VisRange
  /-- blocks held in checkpoint images -/
  saved     : List Saved
  /-- launches that the service aborts or is to abort: none of their blocks is placed or retires any more (R36, R313) -/
  doomed    : List Nat
  /-- the key set of the transport security sublayer of its session (R287) -/
  keySet    : List Byte
  /-- operations that a host has sent over ROD and that are still to be applied, oldest first (R289) -/
  rod       : List Instr
  /-- CLOSE under way: the deadline, none for unlimited (R290) -/
  closing   : Option (Option Nat)
  /-- its grace time has expired: packets that have not begun are discarded (R290) -/
  graceOver : Bool
  /-- launches that its end of grace has aborted (R290) -/
  aborted   : Nat
deriving DecidableEq, Repr, Inhabited

/-- An entry of the watch table (R233). -/
structure Watch where
  polder : Nat
  word   : Nat
  peer   : Nat
  queue  : Nat
deriving DecidableEq, Repr, Inhabited

/-- A WAIT of a local queue that watches a word (R245). -/
structure LWatch where
  polder : Nat
  queue  : Nat
  addr   : Nat
deriving DecidableEq, Repr, Inhabited

/-- A report sent to a waiter on another module (R233, R234). -/
structure Report where
  peer   : Nat
  queue  : Nat
  /-- the handle of the watch (R233, R290) -/
  handle : Nat
  val    : Word
  /-- commands whose remote writes must be acknowledged before the report leaves (R234) -/
  after : List Nat
deriving DecidableEq, Repr, Inhabited

/-- A reply of the Sougar service or of an RMA operation (R288, R290). -/
structure Reply where
  polder : Nat
  code   : Nat
  status : Nat
  data   : List Byte
  /-- dies whose stale walks must end before the reply leaves (R276, R290) -/
  after  : List Nat
deriving DecidableEq, Repr, Inhabited

/-- What the Sougar service is told (R307, R326, R329, R342, R354). -/
inductive Notice where
  | faultEntry (polder : Nat) (entry : List Byte)
  /-- the entry that goes to the reeve of a core (R307) -/
  | reeveEntry (core : Nat) (entry : List Byte)
  | corrected (stack block : Nat)
  | uncorrectable (stack block : Nat)
  | rowParity (stack row : Nat)
  | strayReply (stack : Nat)
  | queueStopped (polder queue : Nat)
  | quarantine (core : Nat)
  /-- an entry of a re-execution, which goes to the service alone (R349) -/
  | runEntry (core : Nat) (entry : List Byte)
  | selfTest (core : Nat) (pass : Bool)
  | doorbell (polder queue : Nat)
  /-- a core whose reeve parked while it held a ticket (R346) -/
  | parkedReeve (core : Nat)
  /-- an image set that fits no core (R348) -/
  | blockedSet (polder queue : Nat)
  | closed (polder aborted : Nat)
deriving DecidableEq, Repr, Inhabited

/-- What the weaver has done with a group of an audited block (R259): it has formed the group from records, in their lanes; it has
merged a record into a lane; the group has gone on from its join; or it was evicted after some issue cycles.
(DESIGN CHOICE: log entry 27.) -/
inductive Ctl where
  | form (taken : List (Nat × Mark))
  | merge (lane : Nat) (mark : Mark)
  | joined
  | evict (issued : Nat)
deriving DecidableEq, Repr, Inhabited

/-- A re-execution under way (R261): its core, what it has still to take from the log, and its effects. -/
structure Rerun where
  core    : Nat
  left    : Table (List LogEntry)
  ctl     : List (Nat × Ctl)
  effects : Table (List (Nat × List Byte))
  failed  : Bool
deriving DecidableEq, Repr, Inhabited

/-- One audited block (R257 to R261, R351 to R353). -/
structure Audit where
  polder   : Nat
  launchId : Nat
  idx      : Nat
  launch   : Launch
  region   : Nat
  /-- cores of the runs made so far with their digests, oldest first; an empty digest is a failed one -/
  runs     : List (Nat × List Byte)
  /-- logged inputs by group number, in program order (R259) -/
  log      : Table (List LogEntry)
  /-- formations, merges and evictions by group number, in the order in which they came (R259) -/
  ctl      : List (Nat × Ctl)
  /-- effect records by group number, in program order, each with its command or load (R260) -/
  effects  : Table (List (Nat × List Byte))
  failed   : Bool
  /-- cores on which a re-execution was abandoned, and the one under way (R348, R354) -/
  avoid    : List Nat
  rerun    : Option Rerun
deriving DecidableEq, Repr, Inhabited

/-- The boot state of the port die (R292 to R299). -/
structure Boot where
  code     : BitVec 8
  phase    : BitVec 4
  /-- SPI NOR flash, 64 MiB (R292) -/
  flash    : Memory
  /-- boot SRAM: the image body (R294) -/
  sram     : Memory
  bodyLen  : Nat
  entry    : Nat
  minsvn   : Word
  jtag     : Bool
  /-- attestation log L, 64 bytes (R297) -/
  attLog   : List Byte
  /-- seed of the attestation key, and its certificate (R297) -/
  attSeed  : List Byte
  attCert  : List Byte
  /-- polder-0 resource reservation of the configuration record (R295) -/
  p0resv   : List Byte
  /-- bytes of the image slot that a recovery has still to write (R296) -/
  writing  : Option (List Byte)
deriving DecidableEq, Repr, Inhabited

/-- The rails (R300). -/
structure Rails where
  enable   : Bool
  state    : BitVec 4
  failRail : BitVec 4
  /-- rails now up, 0 to 7 -/
  up       : Nat
  since    : Nat
  /-- clock of the last write of 0 to ENABLE (R300) -/
  zeroAt   : Option Nat
deriving DecidableEq, Repr, Inhabited

/-- The agent whose instruction is being executed. -/
inductive Agent where
  | none
  | group (core slot : Nat)
  | walker (die walker : Nat)
  | item (run pc item : Nat)
deriving DecidableEq, Repr, Inhabited

/-- What main memory held since the first of a launch's resident blocks came: packets accepted before it, by their last number, and
words that later ones have overwritten in the array, by address (R49). -/
structure CodePast where
  since : Nat
  words : List (Nat × Word)
deriving DecidableEq, Repr, Inhabited

/-- The state of the module. `agenda`, `turns`, `cur`, `ir`, `choices`, `next` and `replies` are the model's own. -/
structure State where
  /-- steps and inputs that come next, each after some reference cycles; any list (log entry 1) -/
  agenda   : List (Nat × Act)
  /-- agents that still issue in this cycle (R255) -/
  turns    : List Agent
  cur      : Agent
  /-- word 0 of the instruction being executed (R308 AUX) -/
  ir       : Word
  /-- counter of free choices (log entry 2) -/
  choices  : Nat
  /-- the last number given to a command, access, run, in-flight result or packet; numbers start at 1 -/
  next     : Nat
  powered  : Bool
  /-- clock count (R109) -/
  clock    : Nat
  /-- DRAM arrays, tier memory and remote memory by physical address (R286) -/
  mem      : Memory
  /-- symbols in error by block address, each with what it differs by; poisoned marks (R323, R324) -/
  flaws    : Table (List (Nat × Byte))
  poison   : List Nat
  /-- accepted packets in arrival order (R195, R232) -/
  queue    : List QPacket
  /-- the module's scratchpad (R9, R133) -/
  sp       : Memory
  links    : Table Link
  /-- scratchpad words sent on the die links, oldest first (R228) -/
  linkQ    : List Sent
  cores    : Table Core
  dies     : Table Die
  hbms     : Table Stack
  tiers    : Table Tier
  ports    : Table Port
  polders  : Table Polder
  slots    : Table HwSlot
  /-- the dispatch unit under way -/
  unit     : Option Dispatch
  cmds     : Table Cmd
  accs     : Table Access
  runs     : Table BankRun
  pool     : Nat
  /-- refills of the weir and halvings of SEEPAGE made since reset (R158, R353) -/
  refills  : Nat
  halvings : Nat
  watches  : Table Watch
  lwatches : List LWatch
  reports  : List Report
  /-- by launch with a resident block: words that its code fetches may still see (R49) -/
  past     : Table CodePast
  ready    : List (Nat × Nat)
  idle     : List (Nat × Nat)
  audits   : Table Audit
  boot     : Boot
  rails    : Rails
  replies  : List Reply
  notices  : List Notice
  /-- dropped packets: of jobs not admitted, UUD (R287, R288) -/
  jobDrops : Nat
  uudDrops : Nat
deriving DecidableEq, Repr, Inhabited

/-- An empty lane (R26). -/
def Lane.reset : Lane :=
  { st := .empty, homeGroup := 0, homeLane := 0, regs := [], dead := [], pend := [], preds := 0, rstk := [],
    mstk := [], deep := 0, clkHi := none }

/-- No fault record: every word zero (R305). -/
def FRec.reset : FRec :=
  { dlvFail := false, eng := false, cause := 0, code := 0, pc := 0, laneMask := 0, addr := 0, aux := 0,
    resume := 0, bclass := 0 }

/-- A group as it is created: tile width 32, FSTAT 0, no batches (R30, R80, R144). -/
def Group.reset : Group :=
  { bslot := 0, gnum := 0, bound := false, lanes := [], pc := 0, clause := none, run := 0, tilew := .w32, fstat := 0,
    status := [], inflight := [], cache := [], stq := [], openB := [], closedB := [], waiting := .none,
    frec := .reset, parked := false, pendF := [], joined := false, issued := 0, since := 0, uid := 0, mreds := [],
    finished := [] }

/-- A sub-core with free ports. -/
def SubCore.reset : SubCore :=
  { portA := none, portB := none, order := [], holdA := false, holdB := false, mxFree := 0, issued := 0 }

/-- A core at reset: CORECTL PLACEOK 0 and BARREL 1, WDOGINT 0x0100_0000, SEEPAGE 0, QUAR 0 (R186).
(DESIGN CHOICE: log entry 18.) -/
def Core.reset : Core :=
  { blocks := [], groups := [], records := [], ageCtr := 0, orphans := [], formed := 0, sh := [], mxHist := [],
    rcache := [], tb := [], parkedA := [], layouts := [], preds := [], subs := [], lastEng := 3, engAt := 0,
    placeok := false, barrel := true, wdogint := 0x01000000, seepage := 0, quar := false, condemned := false, selfTest := false, tested := false }

/-- A die at reset: empty buffers, no routine, cores at 1.6 GHz.
(DESIGN CHOICE: log entry 18.) -/
def Die.reset : Die :=
  { tb := [], missQ := [], deficit := [], ptr := 0, walks := [], routines := [], mhz := 1600,
    clkBase := 0, clkRef := 0 }

/-- A stack at reset: ISOLATE 1, TRAINSEL 0xBF, UNTRAINED (R301).
(DESIGN CHOICE: log entry 18.) -/
def Stack.reset : Stack :=
  { isolate := true, trainsel := 0xBF, state := 0, failstep := 0, hot := false, hotAt := 0, trained := false,
    selfRefresh := false, corr := 0, uncorr := 0, rowpar := 0, active := [], rowCtr := [], badPar := [], refresh := [],
    stores := [] }

/-- A die link at reset. -/
def Link.reset : Link := { failed := false, training := false, replays := 0 }

/-- A tier port: up, no device size reported (log entry 6). -/
def Tier.reset : Tier := { up := true, size := 0 }

/-- A port at reset (R302). -/
def Port.reset : Port :=
  { autoneg := true, loop := false, width := 0, enable := false, fecCor := 0, lanesUp := 0, state := 0, since := 0 }

/-- A polder that does not exist, with the reset values of its registers (R18, R19, R254, R279, R306).
(DESIGN CHOICE: log entry 18.) -/
def Polder.reset : Polder :=
  { alive := false, cores := 0, spBase := 0, spSize := 0, shSize := 0, ranges := [], featack := [(0, 1)], ackAt := none, locked := false,
    weirRate := 0, weirDepth := 256, weirDebtLim := 0, weirLevel := 256, weirDebt := 0, borrow := true, ageLim := 4,
    auditF := 0, preempt := 0, audSel := 0, audCan := 0, audOk := 0, audRingSz := 0, audRegSz := 65536,
    audRingUse := 0, audRing := 0, audNext := 0, walkLim := 2048, walkWt := 1, walks := 0, walkFlt := 0, fltPol0 := 0x00010000,
    fltPol1 := 0x00003FFE, poisonBlk := 0, fltCount := 0, flog := [], spillPa := 0, spillSz := 1048576, spillUse := 0, roomCtr := 0,
    prdRows := [], chkRows := [], rplRows := [], sealKey := [], nonce := [], queues := [], launches := 0,
    measured := [], visible := [], saved := [], doomed := [], keySet := [], rod := [], closing := none, graceOver := false, aborted := 0 }

/-- The boot state at reset: BOOTSTAT 0 (R299), empty flash and SRAM, L zero (R297).
(DESIGN CHOICE: log entry 18.) -/
def Boot.reset : Boot :=
  { code := 0, phase := 0, flash := [], sram := [], bodyLen := 0, entry := 0, minsvn := 0, jtag := false,
    attLog := List.replicate 64 0, attSeed := [], attCert := [], p0resv := [], writing := none }

/-- The rails at reset: OFF (R300). -/
def Rails.reset : Rails := { enable := false, state := 0, failRail := 0, up := 0, since := 0, zeroAt := none }

/-- The module right after reset: no resident work, no polder, every register at its reset value. -/
def State.reset : State :=
  { agenda := [], turns := [], cur := .none, ir := 0, choices := 0, next := 0, powered := true, clock := 0, mem := [],
    flaws := [], poison := [], queue := [], sp := [], links := [], linkQ := [], cores := [], dies := [], hbms := [],
    tiers := [], ports := [], polders := [], slots := [], unit := none, cmds := [], accs := [], runs := [], pool := 0, refills := 0, halvings := 0,
    watches := [], lwatches := [], reports := [], past := [], ready := [], idle := [], audits := [], boot := .reset,
    rails := .reset, replies := [], notices := [], jobDrops := 0, uudDrops := 0 }

/-- The reasons the machine stops: none. An undefined operation stops its own group alone (R7, R162). -/
inductive Fault where
deriving DecidableEq, Repr

/-- The reasons an instruction has no meaning. -/
inductive Refusal where
  /-- Raised by an arm of `exec` for an instruction that has no meaning yet. Safe. -/
  | notModelled (mnemonic : String)
deriving DecidableEq, Repr, Inhabited

end Sys2Proof.Machine
end

