-- ==== Sys2Proof/Machine/Bytes.lean ====
section
/-! DEFINITION. Byte memories: one byte, ranges of bytes, and little-endian words over them (R2). -/

namespace Sys2Proof.Machine

/-- The canonical form of a memory: addresses strictly rising, no entry zero. -/
def Memory.wf (m : Memory) : Bool := tcanon (0 : Byte) m

/-- What an unlisted byte reads as (DESIGN CHOICE, log entry 5). -/
def unlisted : Byte := 0

/-- The byte at an address. -/
def mget (m : Memory) (a : Nat) : Byte := tget unlisted m a

/-- Writes one byte. -/
def mset (m : Memory) (a : Nat) (b : Byte) : Memory := tset unlisted m a b

/-- `n` bytes from `a`, lowest address first. -/
def mreads (m : Memory) (a : Nat) : Nat → List Byte
  | 0 => []
  | n + 1 => mget m a :: mreads m (a + 1) n

/-- Writes bytes from `a` upward. -/
def mwrites (m : Memory) (a : Nat) : List Byte → Memory
  | [] => m
  | b :: bs => mset (mwrites m (a + 1) bs) a b

/-- A little-endian number (R2). -/
def ofLe : List Byte → Nat
  | [] => 0
  | b :: bs => b.toNat + 256 * ofLe bs

/-- `k` little-endian bytes of a number. -/
def toLe : Nat → Nat → List Byte
  | 0, _ => []
  | k + 1, n => BitVec.ofNat 8 n :: toLe k (n / 256)

/-- The 32-bit word at an address. -/
def mget32 (m : Memory) (a : Nat) : Word := BitVec.ofNat 32 (ofLe (mreads m a 4))

/-- Writes a 32-bit word. -/
def mset32 (m : Memory) (a : Nat) (w : Word) : Memory := mwrites m a (toLe 4 w.toNat)

/-- The 64-bit value at an address. -/
def mget64 (m : Memory) (a : Nat) : DWord := BitVec.ofNat 64 (ofLe (mreads m a 8))

/-- A field of a byte list: offset and length, little-endian. -/
def bfield (bs : List Byte) (off len : Nat) : Nat := ofLe ((bs.drop off).take len)

/-- Byte `i` of a list, zero past its end. -/
def byteAt (bs : List Byte) (i : Nat) : Byte := bs.getD i 0

/-- Overwrites part of a byte list. -/
def splice (bs : List Byte) (off : Nat) (new : List Byte) : List Byte :=
  bs.take off ++ new ++ bs.drop (off + new.length)

/-- Pads with zeros to a length. -/
def padTo (n : Nat) (bs : List Byte) : List Byte := bs ++ List.replicate (n - bs.length) 0

/-- A list cut into pieces of `k`; `fuel` bounds the number of pieces. -/
def chunks {α : Type} (k : Nat) : Nat → List α → List (List α)
  | 0, _ => []
  | _ + 1, [] => []
  | fuel + 1, xs => xs.take k :: chunks k fuel (xs.drop k)

/-- The words of a byte list. -/
def wordsOf (bs : List Byte) : List Word := (chunks 4 bs.length bs).map fun c => BitVec.ofNat 32 (ofLe c)

/-- The bytes of a list of words. -/
def bytesOf (ws : List Word) : List Byte := ws.flatMap fun w => toLe 4 w.toNat

/-- Sum of a list of numbers. -/
def total (xs : List Nat) : Nat := xs.foldl (· + ·) 0

/-- The least of a nonempty list, with its bound. -/
def least (d : Nat) (xs : List Nat) : Nat := xs.foldl min d

/-- The first element whose key is least. -/
def argMin {α : Type} (key : α → Nat) : List α → Option α
  | [] => none
  | x :: xs =>
    match argMin key xs with
    | none => some x
    | some y => if key x ≤ key y then some x else some y

/-- Sorts by a key, stable. -/
def insertBy {α : Type} (key : α → Nat) (x : α) : List α → List α
  | [] => [x]
  | y :: ys => if key x ≤ key y then x :: y :: ys else y :: insertBy key x ys

/-- Sorts by a key, stable. -/
def sortBy {α : Type} (key : α → Nat) (xs : List α) : List α := xs.foldr (insertBy key) []

end Sys2Proof.Machine
end

