-- ==== Sys2Proof/Machine/Operands.lean ====
section
/-! DEFINITION. Reads and writes of lanes, registers and predicates (R26, R27, R57, R60, R62, R64), and what each Vilesk
instruction reads, writes and requires at issue. -/

namespace Sys2Proof.Machine

/-! ### Where things stand in the state -/

/-- A core. -/
def State.core (s : State) (c : Nat) : Core := tget Core.reset s.cores c
/-- Replaces a core. -/
def State.setCore (s : State) (c : Nat) (k : Core) : State := { s with cores := tput s.cores c k }
/-- A polder. -/
def State.polder (s : State) (p : Nat) : Polder := tget Polder.reset s.polders p
/-- Replaces a polder. -/
def State.setPolder (s : State) (p : Nat) (x : Polder) : State := { s with polders := tput s.polders p x }
/-- A die. -/
def State.die (s : State) (d : Nat) : Die := tget Die.reset s.dies d
/-- Replaces a die. -/
def State.setDie (s : State) (d : Nat) (x : Die) : State := { s with dies := tput s.dies d x }
/-- An HBM stack. -/
def State.hbm (s : State) (i : Nat) : Stack := tget Stack.reset s.hbms i
/-- Replaces a stack. -/
def State.setHbm (s : State) (i : Nat) (x : Stack) : State := { s with hbms := tput s.hbms i x }
/-- The group in a slot. -/
def State.group (s : State) (c sl : Nat) : Option Group := tfind (s.core c).groups sl
/-- Replaces the group in a slot. -/
def State.setGroup (s : State) (c sl : Nat) (g : Group) : State :=
  s.setCore c { s.core c with groups := tput (s.core c).groups sl g }
/-- A resident block. -/
def State.block (s : State) (c b : Nat) : Option Block := tfind (s.core c).blocks b
/-- Replaces a resident block. -/
def State.setBlock (s : State) (c b : Nat) (x : Block) : State :=
  s.setCore c { s.core c with blocks := tput (s.core c).blocks b x }
/-- A free value, and the counter advanced (log entry 2). -/
def State.fresh (s : State) : Word × State := (Config.freeWord s.choices, { s with choices := s.choices + 1 })
/-- A new number. -/
def State.newId (s : State) : Nat × State := (s.next + 1, { s with next := s.next + 1 })

/-- The die of a core: the port die, 4, for a front core (R9, R184). -/
def dieOf (core : Nat) : Nat := if core < 32 then core / 8 else 4

/-- The launch of a group's block. -/
def State.launchOf (s : State) (c : Nat) (g : Group) : Launch :=
  match s.block c g.bslot with
  | some b => b.launch
  | none => default

/-- First byte of a block's allocation in the core's shared memory. -/
def State.shBaseOf (s : State) (c : Nat) (g : Group) : Nat :=
  match s.block c g.bslot with
  | some b => b.shBase
  | none => 0

/-- Registers per lane: 32 · b (R25). -/
def allocOf (l : Launch) : Nat := 32 * ((l.regs + 31) / 32)

/-- Rewrites a group. -/
def State.onGroup (s : State) (c sl : Nat) (f : Group → Group) : State :=
  match s.group c sl with
  | some g => s.setGroup c sl (f g)
  | none => s

/-- The core clock counter of a die's cores at a reference clock: it goes on from where it stood when the core clock last changed
(R109, R304). -/
def Die.coreClk (d : Die) (clock : Nat) : Nat := d.clkBase + (clock - d.clkRef) * d.mhz / 1600

/-- The core clock changes at a reference clock; the counter goes on from where it stands (R304). -/
def Die.retime (d : Die) (clock mhz : Nat) : Die := { d with mhz := mhz, clkBase := d.coreClk clock, clkRef := clock }

/-- The core clock counter of a core (R109): at 1.6 GHz it advances with the clock count; a throttled die's cores run in
proportion (R304). -/
def State.coreClk (s : State) (c : Nat) : Nat := (s.die (dieOf c)).coreClk s.clock

/-! ### Lanes -/

/-- The lanes of a group. -/
def lanes32 : List Nat := List.range 32

/-- A lane of a group. -/
def Group.lane (g : Group) (l : Nat) : Lane := tget Lane.reset g.lanes l

/-- Rewrites every lane. -/
def Group.mapLanes (g : Group) (f : Nat → Lane → Lane) : Group :=
  { g with lanes := lanes32.map fun l => (l, f l (g.lane l)) }

/-- A mask of lanes. -/
def maskOf (p : Nat → Bool) : BitVec 32 := BitVec.ofNat 32 (total (lanes32.map fun l => if p l then 2 ^ l else 0))

/-- A lane holds a thread (R26). -/
def Group.occ (g : Group) (l : Nat) : Bool := (g.lane l).st = .occupied

/-- The lanes that hold threads. -/
def Group.occs (g : Group) : List Nat := lanes32.filter g.occ

/-- The poison value (R60, R62). -/
def poison : Word := 0x7FD00000

/-- A location has a result that has not arrived (R60); p7 has none, since it discards writes (R84). -/
def Group.hidden (g : Group) (l : Nat) (loc : Loc) : Bool :=
  loc ≠ .pred 7 && g.inflight.any fun f => f.writes.any fun w => w.lane = l && w.loc = loc

/-- A read of register r in lane l is a poison read (R60, R62, R148). -/
def Group.bad (g : Group) (l r : Nat) : Bool :=
  r ≠ 255 && (g.lane l).st ≠ .empty
    && ((g.lane l).dead.contains r || (tfind (g.lane l).pend r).isSome || g.hidden l (.reg r))

/-- v[l][r] (R26, R57, R60, R62, R148). -/
def Group.reg (g : Group) (l r : Nat) : Word :=
  if r = 255 || (g.lane l).st = .empty then 0
  else if g.bad l r then poison
  else tget 0 (g.lane l).regs r

/-- p[l][k]: p7 is true, a predicate in its window reads false (R27, R60). -/
def Group.pred (g : Group) (l k : Nat) : Bool :=
  if k = 7 then true
  else if (g.lane l).st = .empty then false
  else if g.hidden l (.pred k) then false
  else (g.lane l).preds.getLsbD k

/-- The guard of R64 in a lane. -/
def Group.guard (g : Group) (gd : Guard) (l : Nat) : Bool := g.pred l gd.pred.toNat != gd.neg

/-- Active lanes (R27, R64). -/
def Group.active (g : Group) (gd : Guard) (l : Nat) : Bool := (g.lane l).st ≠ .empty && g.guard gd l

/-- Active lanes that are not helper lanes. -/
def Group.works (g : Group) (gd : Guard) (l : Nat) : Bool := g.occ l && g.guard gd l

/-- The lowest lane that satisfies p. -/
def lowest (p : Nat → Bool) : Option Nat := (lanes32.filter p).head?

/-- Register pair r:r+1 (R2). -/
def Group.pair (g : Group) (l r : Nat) : DWord := g.reg l (r + 1) ++ g.reg l r

/-- Sets a register of a lane that is not empty; v255 ignores writes (R57). -/
def Lane.setReg (ln : Lane) (r : Nat) (v : Word) : Lane :=
  if r = 255 || ln.st = .empty then ln else { ln with regs := tset 0 ln.regs r v }

/-- Sets a predicate; p7 discards writes (R84). -/
def Lane.setPred (ln : Lane) (p : Nat) (v : Bool) : Lane :=
  if p ≥ 7 || ln.st = .empty then ln
  else { ln with preds := if v then ln.preds ||| BitVec.twoPow 7 p else ln.preds &&& ~~~(BitVec.twoPow 7 p) }

/-- Writes a location. -/
def Lane.put (ln : Lane) (loc : Loc) (v : Word) : Lane :=
  match loc with
  | .reg r => ln.setReg r v
  | .pred p => ln.setPred p (v ≠ 0)

/-- A location that an instruction writes becomes live and is no longer pending (R62, R148). -/
def Lane.freshen (ln : Lane) (loc : Loc) : Lane :=
  match loc with
  | .reg r => { ln with dead := ln.dead.filter (· ≠ r), pend := tdel ln.pend r }
  | .pred _ => ln

/-- Registers base to base + n − 1 become dead (R62); v255 never does (R57). -/
def Lane.kill (ln : Lane) (base n : Nat) : Lane :=
  if ln.st = .empty then ln
  else { ln with dead := ln.dead ++ (((List.range n).map (base + ·)).filter fun r => r ≠ 255 && !ln.dead.contains r) }

/-! ### What an instruction does at issue -/

/-- The lanes in which a source is read (R27, R103, R112, R143). -/
inductive RdLanes where
  | act | all | zero | one
deriving DecidableEq, Repr

/-- A source register range. -/
structure Use where
  reg   : Nat
  n     : Nat
  last  : Bool
  keep  : Bool
  lanes : RdLanes
deriving DecidableEq, Repr

/-- What an instruction needs at issue. -/
structure Issue where
  cls     : Nat
  words   : Nat := 2
  guard   : Guard := noGuard
  /-- lookahead of a long-latency instruction (R60) -/
  la      : Option Nat := none
  uses    : List Use := []
  /-- predicates read; true: in all lanes -/
  puses   : List (Nat × Bool) := []
  dsts    : List Loc := []
  /-- the destinations are written in lanes that hold threads alone: an atomic's (R138, R163) -/
  threads : Bool := false
  /-- further ranges that must lie in the allocation -/
  ranges  : List (Nat × Nat) := []
  /-- ranges that may not name v255 even alone (R112, R168) -/
  strict  : List (Nat × Nat) := []
  /-- live count of a branch (R168) -/
  live    : Option Nat := none
  /-- clause-ending (R59); ends the run by its own entry (R58) -/
  ends    : Bool := false
  runEnd  : Bool := false
  feature : Option Nat := none
  /-- excluded on a front core (R184) -/
  noFront : Bool := false
deriving DecidableEq, Repr

/-- A source read in the active lanes. -/
def useA (s : Src) : Use := { reg := s.reg.toNat, n := 1, last := s.last, keep := s.keep, lanes := .act }
/-- A source of n registers read in the active lanes. -/
def useN (s : Src) (n : Nat) : Use := { reg := s.reg.toNat, n := n, last := s.last, keep := s.keep, lanes := .act }
/-- A source read in all lanes. -/
def useAll (s : Src) : Use := { reg := s.reg.toNat, n := 1, last := s.last, keep := s.keep, lanes := .all }
/-- A matrix range, whose keep bit is ignored (R112). -/
def useR (s : Src) (n : Nat) : Use := { reg := s.reg.toNat, n := n, last := s.last, keep := false, lanes := .all }
/-- An address register read in lane 0 (R112). -/
def useZ (s : Src) : Use := { reg := s.reg.toNat, n := 1, last := s.last, keep := s.keep, lanes := .zero }
/-- An operand taken from one lane (R143, R183). -/
def useO (s : Src) (n : Nat) : Use := { reg := s.reg.toNat, n := n, last := s.last, keep := s.keep, lanes := .one }

/-- Registers d to d + n − 1 as destinations; none for a single v255. -/
def dstN (d : Reg) (n : Nat) : List Loc :=
  if d = 255 then [] else (List.range n).map fun i => .reg (d.toNat + i)

/-- Predicates pd as a destination; p7 is none. -/
def dstP (p : BitVec 3) : List Loc := if p = 7 then [] else [.pred p.toNat]

/-- A VEC instruction of up to three sources. -/
def vecI (d : Reg) (uses : List Src) (g : Guard) : Issue :=
  { cls := 1, guard := g, uses := uses.map useA, dsts := dstN d 1, ranges := [(d.toNat, 1)] }

/-- A VEC instruction in immediate form (R55). -/
def vecImm (d : Reg) (uses : List Src) : Issue := vecI d uses noGuard

/-- A VEC compare. -/
def cmpI (pd : BitVec 3) (uses : List Src) (g : Guard) : Issue :=
  { cls := 1, guard := g, uses := uses.map useA, dsts := dstP pd }

/-- An SFU instruction. -/
def sfuI (d : Reg) (a : Src) (la : BitVec 4) (g : Guard) : Issue :=
  { cls := 2, guard := g, la := some la.toNat, uses := [useA a], dsts := dstN d 1, ranges := [(d.toNat, 1)] }

/-- An XL instruction. -/
def xlI (d : Reg) (uses : List Use) (la : BitVec 4) (g : Guard) : Issue :=
  { cls := 3, guard := g, la := some la.toNat, uses := uses, dsts := dstN d 1, ranges := [(d.toNat, 1)] }

/-- Registers of an A fragment for s steps (R110). -/
def aRegs (af : AFmt) (st : BitVec 2) : Nat := if af = .bf16 then 12 * (st.toNat + 1) else 6 * (st.toNat + 1)

/-- A matrix instruction with accumulator d (R112, R117). -/
def mxI (d : Reg) (z : Bool) (uses : List Use) (la : BitVec 4) (g : Guard) : Issue :=
  { cls := 4, guard := g, la := some la.toNat, dsts := dstN d 32, ranges := [(d.toNat, 32)], noFront := true,
    uses := uses ++ if z then [] else [{ reg := d.toNat, n := 32, last := false, keep := false, lanes := .all }] }

/-- Registers of an access (R137). -/
def widRegs : Wid → Nat
  | .b32 => 1 | .b64 => 2 | .b128 => 4

/-- A load. -/
def loadI (d : Reg) (a : Src) (w : Wid) (la : BitVec 4) (g : Guard) : Issue :=
  { cls := 5, guard := g, la := some la.toNat, uses := [useA a], dsts := dstN d (widRegs w), ranges := [(d.toNat, widRegs w)] }

/-- A store. -/
def storeI (a s : Src) (w : Wid) (g : Guard) : Issue :=
  { cls := 5, guard := g, uses := [useA a, useN s (widRegs w)] }

/-- Registers of an atomic operand. -/
def wideN (w64 : Bool) : Nat := if w64 then 2 else 1

/-- The operands of an atomic; c is used by `.cas` alone (R138, R139). -/
def atomUses (b c : Src) (op : AOp) (w64 : Bool) : List Use :=
  useN b (wideN w64) :: if op = .cas then [useN c (wideN w64)] else []

/-- A thread atomic. -/
def atomI (d : Reg) (a b c : Src) (op : AOp) (w64 : Bool) (la : BitVec 4) (g : Guard) : Issue :=
  { cls := 5, guard := g, la := some la.toNat, uses := useA a :: atomUses b c op w64, dsts := dstN d (wideN w64),
    threads := true, ranges := if d = 255 then [] else [(d.toNat, wideN w64)] }

/-- A SYS instruction with a result. -/
def sysI (d : Reg) (uses : List Use) (g : Guard) : Issue :=
  { cls := 7, guard := g, uses := uses, dsts := dstN d 1, ranges := [(d.toNat, 1)] }

/-- A clause-ending CTL instruction. -/
def ctlI (g : Guard) (uses : List Use) (live : Option Nat) : Issue :=
  { cls := 0, guard := g, uses := uses, live := live, ends := true }

/-- What each Vilesk instruction needs at issue. -/
def issueOf : Instr → Issue
  | .nop => { cls := 0, words := 1 }
  | .bra n _ g => ctlI g [] (some n.toNat)
  | .brx n t g => ctlI g [useA t] (some n.toNat)
  | .call n _ => ctlI noGuard [] (some n.toNat)
  | .callx n t => ctlI noGuard [useA t] (some n.toNat)
  | .ret n => ctlI noGuard [] (some n.toNat)
  | .join _ _ => { cls := 0, ends := true, runEnd := true }
  | .exit g => ctlI g [] none
  | .yield => { cls := 0, words := 1, ends := true, runEnd := true }
  | .sleep _ g => { cls := 0, guard := g, ends := true, runEnd := true }
  | .trap _ g => ctlI g [] none
  | .brk _ => { cls := 0, words := 1, ends := true }
  | .spawn blk other s k _ g =>
    { cls := 0, guard := g, noFront := true, feature := some 10, strict := [(s.reg.toNat, k.toNat)],
      uses := useN s k.toNat :: if other then [useA (plain blk)] else [] }
  | .reord key s k _ g =>
    { cls := 0, guard := g, noFront := true, feature := some 9, ends := true, strict := [(s.reg.toNat, k.toNat)],
      uses := [useN s k.toNat, useA (plain key)] }
  | .wflush => { cls := 0, words := 1 }
  | .tile _ => { cls := 0, words := 1 }
  | .iadd d a b _ _ g => vecI d [a, b] g
  | .iaddImm d a _ _ _ => vecImm d [a]
  | .isub d a b _ _ g => vecI d [a, b] g
  | .imul d a b _ _ g => vecI d [a, b] g
  | .imulImm d a _ _ _ => vecImm d [a]
  | .imulhi d a b _ g => vecI d [a, b] g
  | .imad d a b c _ _ g => vecI d [a, b, c] g
  | .iabs d a _ _ g => vecI d [a] g
  | .imin d a b _ g => vecI d [a, b] g
  | .imax d a b _ g => vecI d [a, b] g
  | .and d a b g => vecI d [a, b] g
  | .andImm d a _ => vecImm d [a]
  | .or d a b g => vecI d [a, b] g
  | .orImm d a _ => vecImm d [a]
  | .xor d a b g => vecI d [a, b] g
  | .xorImm d a _ => vecImm d [a]
  | .not d a g => vecI d [a] g
  | .shl d a b g => vecI d [a, b] g
  | .shr d a b g => vecI d [a, b] g
  | .sar d a b g => vecI d [a, b] g
  | .popc d a g => vecI d [a] g
  | .clz d a g => vecI d [a] g
  | .brev d a g => vecI d [a] g
  | .bfx d a b _ g => vecI d [a, b] g
  | .bfi d a b c g => vecI d [a, b, c] g
  | .sel d a b q _ g => { vecI d [a, b] g with puses := [(q.toNat, false)] }
  | .cmp pd a b _ _ g => cmpI pd [a, b] g
  | .idp4 d a b c _ _ _ g => vecI d [a, b, c] g
  | .addc d a b pout _ cin g =>
    { vecI d [a, b] g with
      dsts := dstN d 1 ++ dstP pout
      puses := match cin with | some p => [(p.toNat, false)] | none => [] }
  | .lea d a b _ _ g => { vecI d [b] g with uses := [useN a 2, useA b], dsts := dstN d 2, ranges := [(d.toNat, 2)] }
  | .mov d a g => vecI d [a] g
  | .movP2r d g => { vecI d [] g with puses := (List.range 7).map fun p => (p, false) }
  | .movR2p a g => { cls := 1, guard := g, uses := [useA a], dsts := (List.range 7).map .pred }
  | .movi d _ => vecImm d []
  | .fadd d a b _ g => vecI d [a, b] g
  | .faddImm d a _ => vecImm d [a]
  | .fsub d a b _ g => vecI d [a, b] g
  | .fmul d a b _ g => vecI d [a, b] g
  | .fmulImm d a _ => vecImm d [a]
  | .ffma d a b c _ g => vecI d [a, b, c] g
  | .fmin d a b g => vecI d [a, b] g
  | .fmax d a b g => vecI d [a, b] g
  | .fcmp pd a b _ g => cmpI pd [a, b] g
  | .frnd d a _ g => vecI d [a] g
  | .cvt d a c df _ _ _ _ _ g => vecI d (if df = .f32 || df = .i32 || df = .n32 then [a] else [a, c]) g
  | .hadd2 d a b _ _ g => vecI d [a, b] g
  | .hmul2 d a b _ _ g => vecI d [a, b] g
  | .hfma2 d a b c _ _ g => vecI d [a, b, c] g
  | .frcp d a _ la g => sfuI d a la g
  | .frsq d a _ la g => sfuI d a la g
  | .fsqrt d a _ la g => sfuI d a la g
  | .fexp2 d a _ la g => sfuI d a la g
  | .flog2 d a _ la g => sfuI d a la g
  | .fsin d a _ la g => sfuI d a la g
  | .fcos d a _ la g => sfuI d a la g
  | .ftanh d a _ la g => sfuI d a la g
  | .qswap d a _ la g => xlI d [useAll a] la g
  | .qbcast d a _ la g => xlI d [useAll a] la g
  | .shfl d a b _ la g => xlI d [useAll a, useA b] la g
  | .vote d q m _ la g =>
    if m = .ballot then { xlI d [] la g with puses := [(q.toNat, true)] }
    else { cls := 3, guard := g, la := some la.toNat, puses := [(q.toNat, true)], dsts := dstP (d.extractLsb' 0 3) }
  | .redadd d a _ _ _ la g => xlI d [useAll a] la g
  | .redmax d a _ _ la g => xlI d [useAll a] la g
  | .redmin d a _ _ la g => xlI d [useAll a] la g
  | .scan d a _ _ _ _ _ la g => xlI d [useAll a] la g
  | .mma d a w af _ z st la g => mxI d z [useR a (aRegs af st), useR w (6 * (st.toNat + 1))] la g
  | .mmaw d a w sc af wf _ z st la g =>
    { mxI d z [useR a (aRegs af st),
        useR w (if wf = .i4g || wf = .i3g then 3 * (st.toNat + 1) else 6 * (st.toNat + 1)), useR sc 1] la g with
      feature := if wf = .i4g || wf = .i3g then some 4 else none }
  | .mmas d a b af _ z st la g => mxI d z [useR a (aRegs af st), useZ b] la g
  | .mmasp d a w c af _ n z st la g =>
    { mxI d z [useR a (aRegs af st), useR w ((st.toNat + 1) * ((n.toNat + 4) / 4)), useR c (st.toNat + 1)] la g with
      feature := some 3
      strict := [(w.reg.toNat, (st.toNat + 1) * ((n.toNat + 4) / 4)), (c.reg.toNat, st.toNat + 1)] }
  | .ldfrag d a cnt _ la g =>
    { cls := 4, guard := g, la := some la.toNat, uses := [useZ a], dsts := dstN d (cnt.toNat + 1),
      ranges := [(d.toNat, cnt.toNat + 1)], strict := [(d.toNat, cnt.toNat + 1)], noFront := true }
  | .fxpose d a f _ _ la g =>
    let n := match f with | .b32 => 32 | .bf16 => 16 | .e4m3 => 8 | .e5m2 => 8
    { cls := 4, guard := g, la := some la.toNat, uses := [useR a 32], dsts := dstN d n, ranges := [(d.toNat, n)],
      noFront := true }
  | .ldsh d a _ w _ _ la g => loadI d a w la g
  | .stsh a s _ w _ _ g => storeI a s w g
  | .atsh d a b c op _ w64 _ la g => atomI d a b c op w64 la g
  | .ldsp d a _ w _ _ la g => loadI d a w la g
  | .stsp a s _ w _ _ g => storeI a s w g
  | .atsp d a b c op _ w64 _ la g => atomI d a b c op w64 la g
  | .ldc d a w _ la g => loadI d a w la g
  | .sreg d _ la g => { cls := 5, guard := g, la := some la.toNat, dsts := dstN d 1, ranges := [(d.toNat, 1)] }
  | .sregClr d la g => { cls := 5, guard := g, la := some la.toNat, dsts := dstN d 1, ranges := [(d.toNat, 1)] }
  | .cpy a s o _ _ _ g => { cls := 6, guard := g, uses := [useO a 2, useO s 2, useO o 1] }
  | .sealRec d a _ g => { cls := 6, guard := g, uses := [useO a 1], dsts := dstN d 1, ranges := [(d.toNat, 1)] }
  | .gat n r i o _ _ g =>
    { cls := 6, guard := g, noFront := true, uses := [useO (plain n) 1, useO r 1, useO i 1, useO o 1] }
  | .sct n r i o _ _ _ _ g =>
    { cls := 6, guard := g, noFront := true, uses := [useO (plain n) 1, useO r 1, useO i 1, useO o 1] }
  | .matom d a b c op w64 g =>
    { cls := 6, guard := g, uses := useN a 2 :: atomUses b c op w64, dsts := dstN d (wideN w64), threads := true,
      ranges := if d = 255 then [] else [(d.toNat, wideN w64)] }
  | .mred a b _ _ g => { cls := 6, guard := g, uses := [useN a 2, useA b] }
  | .bkrun a g => { cls := 6, guard := g, noFront := true, feature := some 1, uses := [useO a 1] }
  | .pred r x o g => { cls := 6, guard := g, noFront := true, feature := some 2, uses := [useO r 2, useO x 1, useO o 1] }
  | .pchk r x o g => { cls := 6, guard := g, noFront := true, feature := some 2, uses := [useO r 2, useO x 1, useO o 1] }
  | .batch _ g => { cls := 6, guard := g }
  | .wait d _ _ g =>
    { cls := 6, guard := g, ranges := [(d.toNat, 1)], ends := true, runEnd := true }
  | .fence _ g => { cls := 6, guard := g }
  | .bar => { cls := 6, ends := true, runEnd := true }
  | .barMx => { cls := 6, ends := true, runEnd := true }
  | .gsync => { cls := 6, ends := true, runEnd := true }
  | .sregw a _ g => { cls := 7, guard := g, uses := [useO a 1] }
  | .sregwRd d _ g => sysI d [] g
  | .qmap d a b g => sysI d [useO a 2, useO b 1] g
  | .qunmap d a g => sysI d [useO a 1] g
  | .place d a g => sysI d [useO a 1] g
  | .ctxsave d a b g => sysI d [useO a 2, useO b 1] g
  | .ctxrest d a b g => sysI d [useO a 2, useO b 1] g
  | .tbinv k a b g =>
    { cls := 7, guard := g
      uses := match k with | .pol => [useO b 1] | .page => [useO a 2, useO b 1] | .all => [] }
  | .cinvSprd g => { cls := 7, guard := g }
  | .cinvRec b g => { cls := 7, guard := g, uses := [useO b 1] }
  | .wkload d a b c _ g => sysI d [useO a 2, useO b 1, useO c 2] g
  | _ => { cls := 0 }

end Sys2Proof.Machine
end

