-- ==== Sys2Proof/Machine/Ecc.lean ====
section
/-! DEFINITION. The checks of a DRAM block (R323, R324): its 16-bit CRC, and the Reed–Solomon code over the 66 symbols of data and
CRC. Both are linear, so that what a check finds depends on the symbols in error alone: an error pattern lists each symbol that
differs from what was written, with what it differs by. -/

namespace Sys2Proof.Machine

/-! ### The CRC -/

/-- One step of the division by x^16 + x^12 + x^5 + 1 (R323). -/
def crcBit (crc : Nat) : Nat := if crc ≥ 32768 then (2 * crc) % 65536 ^^^ 0x1021 else 2 * crc

/-- The CRC register after a byte. -/
def crcByte (crc : Nat) (b : Byte) : Nat := (List.range 8).foldl (fun r _ => crcBit r) (crc ^^^ (256 * b.toNat))

/-- The CRC of some bytes from an initial value; a block's starts at 0xFFFF (R323). -/
def crc16 (init : Nat) (bs : List Byte) : Nat := bs.foldl crcByte init

/-- Symbols of a block in error, by place: 0 to 63 the data, 64 and 65 the CRC, low byte first, 66 to 73 the check symbols. -/
abbrev ErrPat := List (Nat × Byte)

/-- What a symbol differs by. -/
def ErrPat.at' (e : ErrPat) (i : Nat) : Byte := (e.filter fun x => x.1 = i).foldl (fun r x => r ^^^ x.2) 0

/-- The CRC check of a block with errors passes (R323). -/
def ErrPat.crcOk (e : ErrPat) : Bool :=
  crc16 0 ((List.range 64).map e.at') = (e.at' 64).toNat + 256 * (e.at' 65).toNat

/-! ### GF(2^8) with field polynomial 0x11D (R323) -/

/-- A product by x. -/
def gfDouble (a : Nat) : Nat := if a ≥ 128 then (2 * a) ^^^ 0x11D else 2 * a

/-- A product in the field. -/
def gfMul (a b : Nat) : Nat :=
  (List.range 8).foldl (fun r i => (gfDouble r) ^^^ if b.testBit (7 - i) then a else 0) 0

/-- A power in the field. -/
def gfPow (a : Nat) : Nat → Nat
  | 0 => 1
  | n + 1 => gfMul (gfPow a n) a

/-- The inverse of a nonzero element. -/
def gfInv (a : Nat) : Nat := gfPow a 254

/-! ### The Reed–Solomon code: 66 symbols and 8 check symbols (R323) -/

/-- Symbols of a block with its CRC and its check symbols. -/
def rsLen : Nat := 74

/-- The place value of a symbol: the first has the highest power. -/
def rsRoot (i : Nat) : Nat := gfPow 2 (rsLen - 1 - i)

/-- The eight syndromes of an error pattern, for the powers 0 to 7 of each place value.
(DESIGN CHOICE: log entry 20.) -/
def ErrPat.syndromes (e : ErrPat) : List Nat :=
  (List.range 8).map fun j => e.foldl (fun r x => r ^^^ gfMul x.2.toNat (gfPow (rsRoot x.1) j)) 0

/-- Gaussian elimination over the field: the solution of a square system, each row with its right side last. `n` counts the
unknowns still to be solved for. -/
def gfSolve : Nat → List (List Nat) → Option (List Nat)
  | 0, _ => some []
  | n + 1, rows =>
    match rows.find? fun r => r.headD 0 ≠ 0 with
    | none => none
    | some p =>
      let inv := gfInv (p.headD 0)
      let p' := p.tail.map (gfMul inv)
      let rest := (rows.erase p).map fun r => (r.tail.zip p').map fun x => x.1 ^^^ gfMul (r.headD 0) x.2
      match gfSolve n rest with
      | none => none
      | some xs =>
        let rhs := p'.getLastD 0
        let known := (p'.zip xs).foldl (fun s x => s ^^^ gfMul x.1 x.2) 0
        some ((rhs ^^^ known) :: xs)

/-- The places at which a locator polynomial (constant 1, then its coefficients) vanishes. -/
def locatorRoots (cs : List Nat) : List Nat :=
  (List.range rsLen).filter fun i =>
    let z := gfInv (rsRoot i)
    (cs.zipIdx.foldl (fun s c => s ^^^ gfMul c.1 (gfPow z (c.2 + 1))) 1) = 0

/-- The error pattern of `v` symbols that has the syndromes `s`, if there is one. -/
def rsTry (s : List Nat) (v : Nat) : Option ErrPat :=
  let at' (i : Nat) : Nat := s.getD i 0
  match gfSolve v ((List.range v).map fun i => (List.range v).map (fun j => at' (i + v - 1 - j)) ++ [at' (i + v)]) with
  | none => none
  | some cs =>
    let is := locatorRoots cs
    if is.length ≠ v then none
    else
      match gfSolve v ((List.range v).map fun j => is.map (fun i => gfPow (rsRoot i) j) ++ [at' j]) with
      | none => none
      | some es =>
        let e : ErrPat := (is.zip es).map fun x => (x.1, BitVec.ofNat 8 x.2)
        if e.syndromes = s then some e else none

/-- What correction finds to be in error: at most 4 symbols, or nothing that explains the syndromes (R323, R324). -/
def ErrPat.found (e : ErrPat) : Option ErrPat :=
  let s := e.syndromes
  if s.all (· = 0) then some [] else (List.range 4).findSome? fun v => rsTry s (v + 1)

/-- What is still in error after correction. -/
def ErrPat.corrected (e : ErrPat) : Option ErrPat := (ErrPat.found e).map fun f => e ++ f

/-- What the check of a block finds: its CRC passes, or correction leaves a pattern whose CRC passes, or it is lost (R324). -/
inductive BlockCheck where
  | clean
  | repaired (left : ErrPat)
  | lost
deriving DecidableEq, Repr

/-- The check of a block with errors (R323, R324). -/
def ErrPat.check (e : ErrPat) : BlockCheck :=
  if ErrPat.crcOk e then .clean
  else
    match ErrPat.corrected e with
    | some r => if ErrPat.crcOk r then .repaired r else .lost
    | none => .lost

/-- Data bytes of a block with the errors of a pattern. -/
def ErrPat.apply (e : ErrPat) (bs : List Byte) : List Byte :=
  if e = [] then bs else bs.zipIdx.map fun x => x.1 ^^^ ErrPat.at' e x.2

end Sys2Proof.Machine
end

