-- ==== Sys2Proof/Machine/Flags.lean ====
section
/-! DEFINITION. Number formats, rounding and the FSTAT flags: file 04 (R67 to R83) and the floating-point rules of file
05 (R96 to R100). Values are exact dyadic numbers; each result is rounded once. -/

namespace Sys2Proof.Machine

/-- Flag bits INV DZ OF UF NX, bit 4 to bit 0 (R77). -/
abbrev Flags := BitVec 5

/-- Invalid operation. -/
def fINV : Flags := 0x10
/-- Division by zero. -/
def fDZ : Flags := 0x08
/-- Overflow. -/
def fOF : Flags := 0x04
/-- Underflow. -/
def fUF : Flags := 0x02
/-- Inexact. -/
def fNX : Flags := 0x01

/-- A floating-point format (R67). `ieee` is false for e4m3, which has no infinities (R68). -/
structure FFmt where
  width : Nat
  mbits : Nat
  bias  : Nat
  ieee  : Bool
deriving DecidableEq, Repr

/-- FP32. -/
def fp32 : FFmt := { width := 32, mbits := 23, bias := 127, ieee := true }
/-- FP16. -/
def fp16 : FFmt := { width := 16, mbits := 10, bias := 15, ieee := true }
/-- BF16. -/
def bf16 : FFmt := { width := 16, mbits := 7, bias := 127, ieee := true }
/-- e4m3. -/
def e4m3 : FFmt := { width := 8, mbits := 3, bias := 7, ieee := false }
/-- e5m2. -/
def e5m2 : FFmt := { width := 8, mbits := 2, bias := 15, ieee := true }

/-- Exponent field of all ones. -/
def FFmt.emax (f : FFmt) : Nat := 2 ^ (f.width - 1 - f.mbits) - 1

/-- The canonical NaN (R68). -/
def FFmt.nan (f : FFmt) : Nat :=
  if f.ieee then f.emax * 2 ^ f.mbits + 2 ^ (f.mbits - 1) else 2 ^ (f.width - 1) - 1

/-- Magnitude of the largest finite code (R67). -/
def FFmt.maxFin (f : FFmt) : Nat := if f.ieee then f.emax * 2 ^ f.mbits - 1 else 2 ^ (f.width - 1) - 2

/-- The sign bit as a number. -/
def FFmt.sign (f : FFmt) (neg : Bool) : Nat := if neg then 2 ^ (f.width - 1) else 0

/-- Exponent of the last place of subnormal codes. -/
def FFmt.qmin (f : FFmt) : Int := 1 - (f.bias : Int) - (f.mbits : Int)

/-- A decoded value; a finite one is m · 2^e with its sign. -/
inductive FVal where
  | nan (sig : Bool)
  | inf (neg : Bool)
  | fin (neg : Bool) (m : Nat) (e : Int)
deriving DecidableEq, Repr

/-- Decodes a code (R67, R68). -/
def FFmt.dec (f : FFmt) (c : Nat) : FVal :=
  let mag := c % 2 ^ (f.width - 1)
  let neg := c / 2 ^ (f.width - 1) % 2 = 1
  let e := mag / 2 ^ f.mbits
  let m := mag % 2 ^ f.mbits
  if f.ieee then
    if e = f.emax then (if m = 0 then .inf neg else .nan (m < 2 ^ (f.mbits - 1)))
    else if e = 0 then .fin neg m f.qmin else .fin neg (m + 2 ^ f.mbits) (f.qmin + e - 1)
  else if mag = 2 ^ (f.width - 1) - 1 then .nan false
  else if e = 0 then .fin neg m f.qmin else .fin neg (m + 2 ^ f.mbits) (f.qmin + e - 1)

/-- Whether a remainder rounds the magnitude up (R74). -/
def roundsUp (rm : RM) (neg : Bool) (n rem half : Nat) : Bool :=
  match rm with
  | .rne => rem > half || (rem = half && n % 2 = 1 && rem ≠ 0)
  | .rtz => false
  | .rdn => neg && rem ≠ 0
  | .rup => !neg && rem ≠ 0

/-- Rounds m · 2^e to a multiple of 2^q: the multiple, and whether it is inexact. -/
def roundAt (rm : RM) (neg : Bool) (m : Nat) (e q : Int) : Nat × Bool :=
  let s := q - e
  if s ≤ 0 then (m * 2 ^ (-s).toNat, false)
  else
    let k := s.toNat
    let n := m / 2 ^ k
    let r := m % 2 ^ k
    (if roundsUp rm neg n r (2 ^ (k - 1)) then n + 1 else n, r ≠ 0)

/-- The result of an overflow (R75). -/
def FFmt.overflow (f : FFmt) (rm : RM) (sat neg : Bool) : Nat :=
  if sat then f.sign neg + f.maxFin
  else if f.ieee then
    let toInf := match rm with
      | .rne => true
      | .rtz => false
      | .rdn => neg
      | .rup => !neg
    f.sign neg + (if toInf then f.emax * 2 ^ f.mbits else f.maxFin)
  else f.nan

/-- Rounds a non-zero exact magnitude m · 2^e once to a format: code and flags OF, UF, NX (R74, R75, R78). -/
def FFmt.round (f : FFmt) (rm : RM) (sat neg : Bool) (m : Nat) (e : Int) : Nat × Flags :=
  let free : Int := (m.log2 : Int) + e - f.mbits
  let q := max free f.qmin
  let (n, nx) := roundAt rm neg m e q
  let code := (q - f.qmin).toNat * 2 ^ f.mbits + n
  if code > f.maxFin then (f.overflow rm sat neg, fOF ||| fNX)
  else
    let (n', _) := roundAt rm neg m e free
    let tiny := free < f.qmin && !(free = f.qmin - 1 && n' = 2 ^ (f.mbits + 1))
    (f.sign neg + code, if nx then (if tiny then fUF ||| fNX else fNX) else 0)

/-- Signed mantissa. -/
def signed (neg : Bool) (m : Nat) : Int := if neg then -(m : Int) else m

/-- Whether a value is a signalling NaN. -/
def FVal.snan : FVal → Bool
  | .nan sig => sig
  | _ => false

/-- Whether a value is a NaN. -/
def FVal.isNan : FVal → Bool
  | .nan _ => true
  | _ => false

/-- INV where some operand is a signalling NaN. -/
def nanFlags (vs : List FVal) : Flags := if vs.any FVal.snan then fINV else 0

/-- Rounds a signed sum t · 2^e; `zneg` is the sign of an exact zero. -/
def FFmt.roundInt (f : FFmt) (rm : RM) (sat : Bool) (zneg : Bool) (t e : Int) : Nat × Flags :=
  if t = 0 then (f.sign zneg, 0) else f.round rm sat (t < 0) t.natAbs e

/-- Exact sum of two finite values, to a common exponent. -/
def sumAt (n1 : Bool) (m1 : Nat) (e1 : Int) (n2 : Bool) (m2 : Nat) (e2 : Int) : Int × Int :=
  let e := min e1 e2
  (signed n1 m1 * 2 ^ (e1 - e).toNat + signed n2 m2 * 2 ^ (e2 - e).toNat, e)

/-- x + y, rounded once (R96). -/
def FFmt.addV (f : FFmt) (rm : RM) (x y : FVal) : Nat × Flags :=
  match x, y with
  | .fin n1 m1 e1, .fin n2 m2 e2 =>
    let (t, e) := sumAt n1 m1 e1 n2 m2 e2
    f.roundInt rm false (if n1 = n2 then n1 else rm = .rdn) t e
  | .inf n1, .inf n2 => if n1 = n2 then (f.sign n1 + f.emax * 2 ^ f.mbits, 0) else (f.nan, fINV)
  | .inf n, .fin _ _ _ => (f.sign n + f.emax * 2 ^ f.mbits, 0)
  | .fin _ _ _, .inf n => (f.sign n + f.emax * 2 ^ f.mbits, 0)
  | _, _ => (f.nan, nanFlags [x, y])

/-- The exact product of two values, and whether it is invalid (0 · ∞). -/
def mulV (x y : FVal) : FVal × Bool :=
  match x, y with
  | .fin n1 m1 e1, .fin n2 m2 e2 => (.fin (n1 != n2) (m1 * m2) (e1 + e2), false)
  | .inf n1, .inf n2 => (.inf (n1 != n2), false)
  | .inf n1, .fin n2 m _ => if m = 0 then (.nan false, true) else (.inf (n1 != n2), false)
  | .fin n1 m _, .inf n2 => if m = 0 then (.nan false, true) else (.inf (n1 != n2), false)
  | _, _ => (.nan false, false)

/-- x · y, rounded once (R96). -/
def FFmt.mul (f : FFmt) (rm : RM) (x y : FVal) : Nat × Flags :=
  match mulV x y with
  | (.fin n m e, _) => f.roundInt rm false n (signed n m) e
  | (.inf n, _) => (f.sign n + f.emax * 2 ^ f.mbits, 0)
  | (.nan _, bad) => (f.nan, nanFlags [x, y] ||| if bad then fINV else 0)

/-- x · y + z, rounded once (R96). 0 · ∞ + a quiet NaN sets INV (DEDUCED: log entry 57). -/
def FFmt.fma (f : FFmt) (rm : RM) (x y z : FVal) : Nat × Flags :=
  match mulV x y with
  | (.nan _, bad) => (f.nan, nanFlags [x, y, z] ||| if bad then fINV else 0)
  | (p, _) =>
    let (r, fl) := f.addV rm p z
    (r, fl ||| nanFlags [x, y, z])

/-- The negation of a value. -/
def FVal.neg : FVal → FVal
  | .nan s => .nan s
  | .inf n => .inf (!n)
  | .fin n m e => .fin (!n) m e

/-- A strict order of numbers: the sign of x − y as an integer; +0 and −0 are equal. -/
def FVal.cmp : FVal → FVal → Int
  | .fin n1 m1 e1, .fin n2 m2 e2 => (sumAt n1 m1 e1 (!n2) m2 e2).1
  | .inf n1, .inf n2 => if n1 = n2 then 0 else if n1 then -1 else 1
  | .inf n, _ => if n then -1 else 1
  | _, .inf n => if n then 1 else -1
  | _, _ => 0

/-- Whether the first of two numbers is the lesser, −0 counting as less than +0 (R97). -/
def FVal.lesser (x y : FVal) : Bool :=
  let c := x.cmp y
  c < 0 || (c = 0 && match x, y with
    | .fin n1 _ _, .fin n2 _ _ => n1 && !n2
    | _, _ => false)

/-- `fmin` or `fmax` of two codes (R97). -/
def FFmt.minmax (f : FFmt) (max : Bool) (a b : Nat) : Nat × Flags :=
  let x := f.dec a
  let y := f.dec b
  let fl := nanFlags [x, y]
  match x.isNan, y.isNan with
  | true, true => (f.nan, fl)
  | true, false => (b, fl)
  | false, true => (a, fl)
  | false, false => (if x.lesser y != max then a else b, fl)

/-- `fcmp` of two FP32 values (R98). -/
def fcompare (c : FCond) (x y : FVal) : Bool × Flags :=
  let un := x.isNan || y.isNan
  let d := x.cmp y
  let sig := nanFlags [x, y]
  let strict : Flags := if un then fINV else 0
  match c with
  | .eq => (!un && d = 0, sig)
  | .ne => (un || d ≠ 0, sig)
  | .lt => (!un && d < 0, strict)
  | .le => (!un && d ≤ 0, strict)
  | .gt => (!un && d > 0, strict)
  | .ge => (!un && d ≥ 0, strict)
  | .un => (un, sig)
  | .ord => (!un, sig)

/-- A value rounded to an integer (R75). -/
def roundToInt (rm : RM) (neg : Bool) (m : Nat) (e : Int) : Int × Bool :=
  let (n, nx) := roundAt rm neg m e 0
  (signed neg n, nx)

/-- `frnd` of an FP32 code (R96). -/
def frndCode (rm : RM) (c : Nat) : Nat × Flags :=
  match fp32.dec c with
  | .nan sig => (fp32.nan, if sig then fINV else 0)
  | .inf _ => (c, 0)
  | .fin neg m e =>
    let (n, _) := roundAt rm neg m e 0
    if n = 0 then (fp32.sign neg, 0) else if e ≥ 0 then (c, 0) else ((fp32.round .rne false neg n 0).1, 0)

/-- Width and signedness of an integer format. -/
def fmtInt : Fmt → Option (Nat × Bool)
  | .i32 => some (32, true) | .n32 => some (32, false) | .i16 => some (16, true) | .n16 => some (16, false)
  | .i8 => some (8, true) | .n8 => some (8, false) | _ => none

/-- The floating-point format of a format code. -/
def fmtFp : Fmt → Option FFmt
  | .f32 => some fp32 | .f16 => some fp16 | .bf16 => some bf16 | .e4m3 => some e4m3 | .e5m2 => some e5m2 | _ => none

/-- Width of a format (R100). -/
def fmtWidth (f : Fmt) : Nat :=
  match f with
  | .f32 | .i32 | .n32 => 32
  | .f16 | .bf16 | .i16 | .n16 => 16
  | .e4m3 | .e5m2 | .i8 | .n8 => 8

/-- Least and greatest value of an integer type. -/
def intRange (w : Nat) (sgn : Bool) : Int × Int := if sgn then (-(2 ^ (w - 1)), 2 ^ (w - 1) - 1) else (0, 2 ^ w - 1)

/-- Clamps to a range. -/
def clampInt (lo hi x : Int) : Int := if x < lo then lo else if x > hi then hi else x

/-- The low `w` bits of an integer. -/
def lowBits (w : Nat) (x : Int) : Nat := (x % 2 ^ w).toNat

/-- The integer a code of `w` bits stands for. -/
def asInt (w : Nat) (sgn : Bool) (c : Nat) : Int := if sgn && decide (2 ^ (w - 1) ≤ c) then (c : Int) - 2 ^ w else c

/-- A value converted to a floating-point format (R75): `.sat` concerns the overflow of a finite source, and any source of
e4m3, which has no infinity. -/
def FFmt.ofFp (d : FFmt) (rm : RM) (sat : Bool) (v : FVal) : Nat × Flags :=
  match v with
  | .nan sig => (d.nan, if sig then fINV else 0)
  | .inf neg =>
    if d.ieee then (d.sign neg + d.emax * 2 ^ d.mbits, 0)
    else (if sat then d.sign neg + d.maxFin else d.nan, fINV)
  | .fin neg m e => d.roundInt rm sat neg (signed neg m) e

/-- Converts a code between formats: the destination code and the flags (R75). -/
def convert (df sf : Fmt) (rm : RM) (sat : Bool) (c : Nat) : Nat × Flags :=
  match fmtFp sf, fmtInt sf with
  | some sfp, _ =>
    let v := sfp.dec c
    match fmtFp df, fmtInt df with
    | some dfp, _ => dfp.ofFp rm sat v
    | none, some (w, sgn) =>
      let (lo, hi) := intRange w sgn
      match v with
      | .nan _ => (0, fINV)
      | .inf neg => (lowBits w (if neg then lo else hi), fINV)
      | .fin neg m e =>
        let (n, nx) := roundToInt rm neg m e
        let r := clampInt lo hi n
        (lowBits w r, if r ≠ n then fINV else if nx then fNX else 0)
    | none, none => (0, 0)
  | none, some (ws, sgns) =>
    let x := asInt ws sgns c
    match fmtFp df, fmtInt df with
    | some dfp, _ => dfp.roundInt rm sat false x 0
    | none, some (w, sgn) =>
      let (lo, hi) := intRange w sgn
      (lowBits w (if sat then clampInt lo hi x else x), 0)
    | none, none => (0, 0)
  | none, none => (0, 0)

/-- FP32 addition with rne: the nodes of R82 and R83. -/
def faddRne (a b : Nat) : Nat × Flags := fp32.addV .rne (fp32.dec a) (fp32.dec b)

/-- FP32 multiplication with rne. -/
def fmulRne (a b : Nat) : Nat × Flags := fp32.mul .rne (fp32.dec a) (fp32.dec b)

/-- An exact sum of values in progress: some addend seen, NaN seen, infinities seen, every addend −0 so far, and the
finite part t · 2^e. -/
structure Acc where
  any    : Bool
  nan    : Bool
  pinf   : Bool
  ninf   : Bool
  allNegZero : Bool
  t      : Int
  e      : Int
deriving DecidableEq, Repr

/-- The empty sum. -/
def Acc.empty : Acc := { any := false, nan := false, pinf := false, ninf := false, allNegZero := true, t := 0, e := 0 }

/-- Adds one value exactly (R81). -/
def Acc.add (s : Acc) (v : FVal) : Acc :=
  let s := { s with any := true }
  match v with
  | .nan _ => { s with nan := true, allNegZero := false }
  | .inf neg => if neg then { s with ninf := true, allNegZero := false } else { s with pinf := true, allNegZero := false }
  | .fin neg m x =>
    let e := min s.e x
    { s with t := s.t * 2 ^ (s.e - e).toNat + signed neg m * 2 ^ (x - e).toNat, e := e,
             allNegZero := s.allNegZero && neg && m = 0 }

/-- Rounds an exact sum once to FP32 with rne (R81). -/
def Acc.round (s : Acc) : Nat × Flags :=
  if s.nan || (s.pinf && s.ninf) then (fp32.nan, fINV)
  else if s.pinf then (0x7F800000, 0)
  else if s.ninf then (0xFF800000, 0)
  else fp32.roundInt .rne false (s.any && s.allNegZero) s.t s.e

/-- A gs8 scale; none for the reserved code 0xFF (R70, R73). -/
def gs8 (c : Nat) : Option FVal :=
  if c = 0xFF then none
  else if c = 0 then some (.fin false 0 0)
  else some (.fin false (8 + c % 8) ((c / 8 : Nat) - 16 - 3))

/-- A narrow weight times its scale; NaN for a reserved code or scale (R72, R73). -/
def narrow (bits : Nat) (code : Nat) (scale : Option FVal) : FVal :=
  match scale with
  | none => .nan false
  | some sc =>
    if code = 2 ^ (bits - 1) then .nan false
    else
      let x := asInt bits true code
      match sc with
      | .fin _ 0 _ => .fin false 0 0
      | _ => (mulV (.fin (x < 0) x.natAbs 0) sc).1

/-- An e4m3 or e5m2 weight of `mmaw` times its scale (R73, R118). -/
def scaled (w : FVal) (scale : Option FVal) : FVal :=
  match scale with
  | none => .nan false
  | some sc =>
    match w, sc with
    | .fin _ _ _, .fin _ 0 _ => .fin false 0 0
    | _, _ => (mulV w sc).1

end Sys2Proof.Machine
end

