-- ==== Sys2Proof/Machine/Dram.lean ====
section
/-! DEFINITION. Physical memory: the map of R286, the base die's command queues, coherence (R193 to R195, R232) and
block errors (R323 to R326). -/

namespace Sys2Proof.Machine

/-- What a physical address names (R286). -/
inductive Place where
  | hbm (stack off : Nat)
  | ctl (off : Nat)
  | page (polder off : Nat)
  | tier (port off : Nat)
  | remote
  | none
deriving DecidableEq, Repr

/-- Bytes of a stack (R193). -/
def stackBytes : Nat := 96001327104

/-- The place of a physical address (R286). -/
def placeOf (s : State) (pa : Nat) : Place :=
  if pa < 24 * 2 ^ 37 then if pa % 2 ^ 37 < stackBytes then .hbm (pa / 2 ^ 37) (pa % 2 ^ 37) else .none
  else if 0x0FF000000000 ≤ pa ∧ pa < 0x0FF000001000 then .ctl (pa % 4096)
  else if 0x0FF000100000 ≤ pa ∧ pa < 0x0FF000140000 then .page (pa / 4096 % 256) (pa % 4096)
  else if 0x100000000000 ≤ pa ∧ pa < 0x180000000000 then
    let k := (pa - 0x100000000000) / 2 ^ 40
    if pa % 2 ^ 40 < (tget Tier.reset s.tiers k).size then .tier k (pa % 2 ^ 40) else .none
  else if 2 ^ 51 ≤ pa ∧ pa < 2 ^ 52 then .remote
  else .none

/-- Pseudo-channel, bank and DRAM row of a stack offset (R193). -/
def pcOf (o : Nat) : Nat := o / 1024 % 64
/-- Bank of a stack offset. -/
def bankOf (o : Nat) : Nat := o / 65536 % 48
/-- DRAM row of a stack offset. -/
def dramRow (o : Nat) : Nat := o / 3145728

/-- The offset of a row in its stack (R193). -/
def rowOffset (pc bank row : Nat) : Nat := row * 3145728 + bank * 65536 + pc * 1024

/-- The queue that a write or a reduction to an address enters (R195, R232). -/
def unitOf (s : State) (pa : Nat) (red : Bool) : QUnit :=
  match placeOf s pa with
  | .hbm st o => if red then .red st (pcOf o) else .bank st (pcOf o) (bankOf o)
  | .tier k _ => .tier k
  | _ => .remote

/-- Whether a packet to an address is taken now (R286, R329 to R332). -/
inductive Avail where
  | yes | wait | no
deriving DecidableEq, Repr

/-- A die link: compute dies 0 to 3 and the port die 4 (R10). -/
def linkId (d e : Nat) : Nat := 8 * min d e + max d e

/-- The link between two dies carries traffic; a die needs no link to itself. -/
def State.linkAvail (s : State) (d e : Nat) : Avail :=
  if d = e then .yes
  else
    let l := tget Link.reset s.links (linkId d e)
    if l.failed then .no else if l.training then .wait else .yes

/-- Both of two conditions. -/
def Avail.and : Avail → Avail → Avail
  | .no, _ => .no
  | _, .no => .no
  | .yes, x => x
  | .wait, _ => .wait

/-- Stacks 6d to 6d + 5 belong to compute die d (R9). -/
def stackDie (stack : Nat) : Nat := stack / 6

/-- Whether an engine on a die can reach an address. -/
def State.avail (s : State) (die pa : Nat) : Avail :=
  match placeOf s pa with
  | .hbm st _ =>
    let x := s.hbm st
    (s.linkAvail die (stackDie st)).and (if x.isolate then .no else if x.hot || x.selfRefresh then .wait else .yes)
  | .tier k _ => (s.linkAvail die 4).and (if (tget Tier.reset s.tiers k).up then .yes else .no)
  | .remote => s.linkAvail die 4
  | .ctl _ => s.linkAvail die 4
  | .page _ _ => s.linkAvail die 4
  | .none => .no

/-- AUX of an UNAVAIL record (R330, R332).
(DEDUCED: log entry 50.) -/
def unavailAux (_ : State) (pa : Nat) : Word :=
  if pa < 24 * 2 ^ 37 then BitVec.ofNat 32 (pa / 2 ^ 37)
  else if 0x100000000000 ≤ pa ∧ pa < 0x180000000000 then BitVec.ofNat 32 ((pa - 0x100000000000) / 2 ^ 40)
  else 0

/-! ### Operations at the base die -/

/-- OP of R139 on values of w bits. -/
def atomVal (op : AOp) (w old b c : Nat) : Nat :=
  let sg (x : Nat) : Int := asInt w true x
  match op with
  | .add => (old + b) % 2 ^ w
  | .minI => if sg b < sg old then b else old
  | .maxI => if sg b > sg old then b else old
  | .minN => min old b
  | .maxN => max old b
  | .and => old &&& b
  | .or => old ||| b
  | .xor => old ^^^ b
  | .exch => b
  | .cas => if old = c then b else old
  | .addf => (faddRne old b).1

/-- Bytes of an element of `mred` and `sct` (R161, R164). -/
def eBytes : EFmt → Nat
  | .bf16 => 2
  | _ => 4

/-- A combination of two elements (R161, R164). -/
def elemVal (op : ROp) (f : EFmt) (x y : Nat) : Nat :=
  match f with
  | .f32 => match op with
    | .add => (faddRne x y).1
    | .max => (fp32.minmax true x y).1
    | .min => (fp32.minmax false x y).1
  | .bf16 => match op with
    | .add => (bf16.addV .rne (bf16.dec x) (bf16.dec y)).1
    | .max => (bf16.minmax true x y).1
    | .min => (bf16.minmax false x y).1
  | .i32 => match op with
    | .add => (x + y) % 2 ^ 32
    | .max => if asInt 32 true x ≥ asInt 32 true y then x else y
    | .min => if asInt 32 true x ≤ asInt 32 true y then x else y

/-- A block of 64 bytes and whether it is uncorrectable. -/
abbrev BlockView := List Byte × Bool

/-- A packet applied to the block that holds it (R194, R195, R324, R325): a write of the whole block clears an error,
and nothing else is applied to an uncorrectable block. -/
def QPacket.apply (q : QPacket) (v : BlockView) : BlockView :=
  match q.op with
  | .write data =>
    if data.length = 64 then (data, false)
    else if v.2 then v
    else ((splice v.1 (q.pa % 64) data).take 64, false)
  | .reduce op f x =>
    if v.2 then v
    else
      let n := eBytes f
      let old := bfield v.1 (q.pa % 64) n
      ((splice v.1 (q.pa % 64) (toLe n (elemVal op f old (x.toNat % 256 ^ n)))).take 64, false)
  | _ => v

/-- The accepted packets to a block, oldest first. -/
def State.queued (s : State) (b : Nat) : List QPacket := s.queue.filter fun q => q.pa / 64 = b

/-- The check of a block of the array as it stands (R323, R324). -/
def State.blockCheck (s : State) (b : Nat) : BlockCheck :=
  match tget [] s.flaws b with
  | [] => .clean
  | e => ErrPat.check e

/-- A block of the array cannot be corrected, or is marked (R323, R324). -/
def State.lost (s : State) (b : Nat) : Bool := s.poison.contains b || s.blockCheck b = .lost

/-- The bytes that a read of a block of the array returns: as they stand where their CRC passes, corrected where it fails (R324). -/
def State.arrayBytes (s : State) (b : Nat) : List Byte :=
  let e := match s.blockCheck b with
    | .repaired r => r
    | _ => tget [] s.flaws b
  ErrPat.apply e (mreads s.mem (64 * b) 64)

/-- What a packet that arrives now observes of a block (R194, R232). -/
def State.view (s : State) (b : Nat) : BlockView :=
  (s.queued b).foldl (fun v q => q.apply v) (s.arrayBytes b, s.lost b)

/-- A saturating count. -/
def satAdd (top x : Nat) : Nat := min top (x + 1)

/-- The CRC check of a block that is read from the array: correction and repair with fresh symbols, or the poisoned mark, with the
counts of STACKERR and the notices (R323, R324, R326).
(DESIGN CHOICE: log entry 20.) -/
def State.checkBlock (s : State) (b : Nat) : State :=
  match placeOf s (64 * b) with
  | .hbm st _ =>
    if s.lost b then
      let x := s.hbm st
      let t := s.setHbm st { x with uncorr := satAdd 0xFF x.uncorr }
      { t with poison := if s.poison.contains b then s.poison else s.poison ++ [b]
               notices := s.notices ++ [.uncorrectable st b] }
    else if s.blockCheck b = .clean then s
    else
      let x := s.hbm st
      let t := s.setHbm st { x with corr := satAdd 0xFFFF x.corr }
      { t with mem := mwrites s.mem (64 * b) (s.arrayBytes b), flaws := tdel s.flaws b
               notices := s.notices ++ [.corrected st b] }
  | _ => s

/-- Key of a row of a stack. -/
def rowKey (pc bank row : Nat) : Nat := (row * 48 + bank) * 64 + pc

/-- The key of the row at a stack offset. -/
def rowKeyAt (o : Nat) : Nat := rowKey (pcOf o) (bankOf o) (dramRow o)

/-- A row is activated (R207, R327). -/
def State.activate (s : State) (stack key : Nat) : State :=
  let x := s.hbm stack
  if x.active.contains key then s else s.setHbm stack { x with active := x.active ++ [key] }

/-- A packet works on a block of the array: its row is activated (R327). -/
def State.openRow (s : State) (b : Nat) : State :=
  match placeOf s (64 * b) with
  | .hbm st o => s.activate st (rowKeyAt o)
  | _ => s

/-- Blocks that a byte range touches. -/
def blocksOf (pa len : Nat) : List Nat := (List.range ((pa % 64 + len + 63) / 64)).map fun i => pa / 64 + i

/-- A coherent read at the base die: the bytes, and the offsets of those in uncorrectable blocks (R194, R324). -/
def State.readPa (s : State) (pa len : Nat) : List Byte × List Nat × State :=
  let bs := blocksOf pa len
  let bytes := (bs.flatMap fun b => (s.view b).1).drop (pa % 64)
  let bad := (List.range len).filter fun i => (s.view ((pa + i) / 64)).2
  (bytes.take len, bad, bs.foldl (fun s b => (s.openRow b).checkBlock b) s)

/-- Who has a packet sent that is no engine command's. -/
def Origin.none : Origin :=
  { polder := 0, core := 0, slot := 0, uid := 0, bslot := 0, grp := 0, launch := 0, blk := 0, cls := .cpy, pc := 0,
    ir := 0 }

/-- Enters a write or reduction into its queue, one packet for each 64-byte block (R194, R195, R236). -/
def State.accept (s : State) (org : Origin) (cmd lane va pa : Nat) (op : AccOp) : State :=
  match op with
  | .write data =>
    (blocksOf pa data.length).foldl (init := s) fun s b =>
      let lo := max pa (64 * b)
      let piece := (data.drop (lo - pa)).take (64 * b + 64 - lo)
      let (n, s) := s.newId
      { s with queue := s.queue ++
          [{ seq := n, unit := unitOf s lo false, pa := lo, op := .write piece, cmd := cmd, org := org, lane := lane,
             va := va + (lo - pa), told := false }] }
  | _ =>
    let (n, s) := s.newId
    { s with queue := s.queue ++
        [{ seq := n, unit := unitOf s pa true, pa := pa, op := op, cmd := cmd, org := org, lane := lane, va := va,
           told := false }] }

/-- Whether an address takes packets, as its own die sees it: an unmapped one, an isolated stack and a tier that is down take none
(R286, R301). -/
def State.reach (s : State) (pa : Nat) : Avail :=
  s.avail (match placeOf s pa with | .hbm st _ => stackDie st | _ => 4) pa

/-- A coherent write by the device itself; it ends with UNAVAIL, and changes nothing, where the address takes no packets. -/
def State.writePa (s : State) (pa : Nat) (bytes : List Byte) : State :=
  if s.reach pa = .no then s else s.accept .none 0 0 0 pa (.write bytes)

/-- A coherent read of a little-endian number by the device itself; 0 where the address takes no packets. -/
def State.numPa (s : State) (pa len : Nat) : Nat :=
  if s.reach pa = .no then 0 else ofLe ((((blocksOf pa len).flatMap fun b => (s.view b).1).drop (pa % 64)).take len)

/-- Packets that a command queue of a base die holds (R195). -/
def queueDepth : Nat := 32

/-- The command queue of a packet has no room for it: the controller holds it in its input buffer (R195). -/
def State.backPressed (s : State) (pa len : Nat) (red : Bool) : Bool :=
  let u := unitOf s pa red
  match u with
  | .bank _ _ _ | .red _ _ => decide ((s.queue.filter (·.unit = u)).length + (blocksOf pa len).length > queueDepth)
  | _ => false

/-- A bank that a range lies in still holds packets, and has no room for as many as the range brings (R195). A writer of the range
waits; what exceeds an empty queue lies in the controller's input buffer. -/
def State.crowded (s : State) (pa len : Nat) : Bool :=
  let us := (blocksOf pa len).map fun b => unitOf s (64 * b) false
  us.any fun u => match u with
    | .bank _ _ _ =>
      let n := (s.queue.filter (·.unit = u)).length
      n ≠ 0 && decide (n + (us.filter (· = u)).length > queueDepth)
    | _ => false

/-- A writer on a die may send a range of packets now: they are taken, and their queues have room (R195, R286, R329 to R332). -/
def State.takes (s : State) (die pa len : Nat) : Avail := (s.avail die pa).and (if s.crowded pa len then .wait else .yes)

/-- What the past of a launch keeps as a packet changes a block of the array: the words that it overwrites (R49). -/
def CodePast.note (x : CodePast) (b : Nat) (old new : List Byte) : CodePast :=
  let ws := ((List.range 16).filter fun i => bfield old (4 * i) 4 ≠ bfield new (4 * i) 4).map fun i =>
    (64 * b + 4 * i, BitVec.ofNat 32 (bfield old (4 * i) 4))
  { x with words := x.words ++ ws.filter fun w => !x.words.contains w }

/-- Applies the head packet of a block to the array (R195): an uncorrectable block keeps its bytes. -/
def State.applyPacket (s : State) (q : QPacket) : State × Bool :=
  let b := q.pa / 64
  let full : Bool := match q.op with | .write d => d.length == 64 | _ => false
  let s := s.openRow b
  let s := if full then s else s.checkBlock b
  let v := q.apply (s.arrayBytes b, s.lost b)
  let t := { s with queue := s.queue.filter (·.seq ≠ q.seq) }
  if v.2 then (t, false)
  else
    ({ t with mem := mwrites t.mem (64 * b) v.1
              past := t.past.map fun e => (e.1, if q.seq ≤ e.2.since then e.2 else e.2.note b (s.arrayBytes b) v.1)
              poison := t.poison.filter (· ≠ b), flaws := tdel t.flaws b }, true)

/-! ### The queue descriptor's NOTE word and the doorbells (R239, R247, R347) -/

/-- Sets a bit of a doorbell word on the dispatch board (R247, R248). -/
def State.ringBell (s : State) (slot : Nat) : State :=
  let a := (s.polder 0).spBase + 0xC0 + 4 * (slot / 32)
  { s with sp := mset32 s.sp a (mget32 s.sp a ||| BitVec.twoPow 32 (slot % 32)) }

/-- The slot that a queue is mapped on. -/
def State.slotOf (s : State) (p q : Nat) : Option Nat :=
  (s.slots.find? fun e => e.2.polder = p && e.2.queue = q).map (·.1)

/-- A queue has stopped (R342): QSTAT.FAILED is set, or its descriptor failed. -/
def State.queueFailed (s : State) (x : Queue) : Bool := x.dead || (s.numPa (x.descPa + 24) 4).testBit 1

/-- Sets NOTE.PENDING of a queue, with the time of its oldest pending notification (R246), and rings its doorbell; an unmapped queue joins the service's ready list (R239, R247,
R347). A stopped queue's notification is recorded and does nothing (R342). -/
def State.notify (s : State) (p q : Nat) : State :=
  match tfind (s.polder p).queues q with
  | some x =>
    let y := s.polder p
    let s := s.setPolder p { y with queues := tput y.queues q { x with noted := some (x.noted.getD s.clock) } }
    let s := s.writePa (x.descPa + 20) (toLe 4 1)
    if s.queueFailed x then s
    else
      match s.slotOf p q with
      | some sl => s.ringBell sl
      | none =>
        { s with ready := if s.ready.contains (p, q) then s.ready else s.ready ++ [(p, q)]
                 idle := s.idle.filter (· ≠ (p, q)), notices := s.notices ++ [.doorbell p q] }
  | none => s

end Sys2Proof.Machine
end

