-- ==== Sys2Proof/Machine/Scratch.lean ====
section
/-! DEFINITION. The module's scratchpad: home dies, watches, the die links, the read cache, and the loads and atomics that are
performed there (R133, R220, R222, R228 to R234); results that arrive later (R60, R61); the audit's log of a block (R257 to
R260). -/

namespace Sys2Proof.Machine

/-! ### Fault records and the log (R305, R307) -/

/-- No header at which to continue. -/
def noPc : Word := 0xFFFFFFFF

/-- The eight words of a record. -/
def FRec.words (r : FRec) : List Word :=
  [BitVec.ofNat 32 (r.code.toNat + 2 ^ 16 * r.cause.toNat + (if r.eng then 2 ^ 24 else 0)
    + (if r.dlvFail then 2 ^ 25 else 0)),
   r.pc, r.laneMask, r.addr.extractLsb' 0 32, r.addr.extractLsb' 32 32, r.aux, r.resume, r.bclass.setWidth 32]

/-- Writes an entry into a polder's fault log, counts it, and sends it to the service and to the reeve of its core (R307). -/
def State.logBytes (s : State) (p : Nat) (bytes : List Byte) : State :=
  let x := s.polder p
  let y := { x with flog := tput x.flog (x.fltCount.toNat % 31) bytes, fltCount := x.fltCount + 1 }
  { s.setPolder p y with notices := s.notices ++ [.faultEntry p bytes, .reeveEntry (bytes.getD 48 0).toNat bytes] }

/-- The 64 bytes of a log entry. -/
def entryBytes (words : List Word) (launch blk core slot gnum clock : Nat) : List Byte :=
  bytesOf words ++ toLe 8 launch ++ toLe 8 blk ++ toLe 1 core ++ toLe 1 slot ++ toLe 2 gnum ++ toLe 4 0
    ++ toLe 8 clock

/-- Index of a group within its block, as GRP reads: its group number (R24, R29; log entry 8). -/
def grpIndex (g : Group) : Nat := g.gnum

/-- A block is a re-execution (R261). -/
def State.inRerun (s : State) (c b : Nat) : Bool := (s.block c b).any fun x => x.rerun.isSome

/-- An entry of a block goes into its polder's fault log; one of a re-execution goes only to the service (R307, R349).
(DESIGN CHOICE: log entry 15.) -/
def State.logFor (s : State) (c b p : Nat) (bytes : List Byte) : State :=
  if s.inRerun c b then { s with notices := s.notices ++ [.runEntry c bytes] } else s.logBytes p bytes

/-- Logs a record of a group. -/
def State.logRec (s : State) (c sl : Nat) (g : Group) (r : FRec) : State :=
  let l := s.launchOf c g
  let b := match s.block c g.bslot with | some b => b.idx | none => 0
  s.logFor c g.bslot l.polder (entryBytes r.words l.id b c sl (grpIndex g) s.clock)

/-- The origin of a command, or of a store, that a group issues. -/
def State.originOf (s : State) (c sl : Nat) (g : Group) (k : Cls) : Origin :=
  let l := s.launchOf c g
  { polder := l.polder, core := c, slot := sl, uid := g.uid, bslot := g.bslot, grp := grpIndex g, launch := l.id
    blk := match s.block c g.bslot with | some b => b.idx | none => 0
    cls := k, pc := g.pc, ir := s.ir }

/-- Logs a record under its origin (R307, R312). -/
def State.logOrigin (s : State) (o : Origin) (r : FRec) : State :=
  s.logFor o.core o.bslot o.polder (entryBytes r.words o.launch o.blk o.core o.slot o.grp s.clock)

/-- A fault met at an instruction or header. -/
structure FaultAt where
  code  : Nat
  cause : Nat := 0
  lanes : BitVec 32
  addr  : DWord := 0
  aux   : Word := 0
deriving DecidableEq, Repr

/-- The record of a fault (R305). -/
def FaultAt.record (f : FaultAt) (pc resume : Word) : FRec :=
  { dlvFail := false, eng := false, cause := BitVec.ofNat 8 f.cause, code := BitVec.ofNat 16 f.code, pc := pc,
    laneMask := f.lanes, addr := f.addr, aux := f.aux, resume := resume, bclass := 0 }

/-! ### The audit of a block -/

/-- Cancels the audit of a block (R258, R260). -/
def State.audCancel (s : State) (c b : Nat) : State :=
  match s.block c b with
  | some x =>
    match x.audit with
    | some a =>
      let p := s.polder x.launch.polder
      let s := s.setPolder x.launch.polder { p with audCan := p.audCan + 1, audRingUse := p.audRingUse - p.audRegSz }
      { s.setBlock c b { x with audit := none } with audits := tdel s.audits a }
    | none => s
  | none => s

/-- The audit of a block. -/
def State.auditOf (s : State) (c b : Nat) : Option (Nat × Audit) :=
  (s.block c b).bind fun x => x.audit.bind fun i => (tfind s.audits i).map fun a => (i, a)

/-- Effect records, each with its command or load, 0 for one that is whole at once; they stand in program order (R260). -/
abbrev Entries := List (Nat × List Byte)

/-- Number of a local space in a log entry. -/
def spaceNum : LSpace → Nat
  | .sh => 0
  | .sp => 1

/-- Bytes of a log entry (R259).
(DESIGN CHOICE: log entry 27.) -/
def LogEntry.raw (e : LogEntry) : List Byte :=
  toLe 4 e.bytes.length ++ e.bytes ++ toLe 4 e.recB.length ++ e.recB
    ++ e.writes.flatMap fun w => toLe 1 (spaceNum w.1) ++ toLe 8 w.2.1 ++ toLe 4 w.2.2.length ++ w.2.2

/-- Bytes of a mark. -/
def Mark.raw (m : Mark) : List Byte :=
  toLe 1 (match m.kind with | .spill => 0 | .spawn => 1 | .reorder => 2) ++ toLe 4 m.grp ++ toLe 8 m.issued ++ toLe 1 m.lane

/-- Bytes of a logged formation, merge or eviction: the records taken and their lanes (R259).
(DESIGN CHOICE: log entry 27.) -/
def Ctl.raw (e : Nat × Ctl) : List Byte :=
  toLe 4 e.1 ++ match e.2 with
    | .form ts => toLe 1 0 ++ toLe 1 ts.length ++ ts.flatMap fun t => toLe 1 t.1 ++ t.2.raw
    | .merge l m => toLe 1 1 ++ toLe 1 l ++ m.raw
    | .joined => toLe 1 2
    | .evict n => toLe 1 3 ++ toLe 8 n

/-- The log of an audited block: its inputs by group number, in program order, and what the weaver did (R259). -/
def auditLog (a : Audit) : List Byte := (a.log.flatMap fun e => e.2.flatMap LogEntry.raw) ++ a.ctl.flatMap Ctl.raw

/-- Bytes of an audit's log so far. -/
def Audit.logged (a : Audit) : Nat := (auditLog a).length

/-- Fills in the effect record of a command or load. -/
def fillIn (id : Nat) (bytes : List Byte) (es : Entries) : Entries := es.map fun e => if e.1 = id then (id, bytes) else e

/-- Rewrites the log of a block (R259); one that outgrows its region, with the digest behind it, cancels the audit (R258). -/
def State.onAudit (s : State) (c b : Nat) (f : Audit → Audit) : State :=
  match s.auditOf c b with
  | some (i, a) =>
    let a := f a
    if a.logged + 32 > (s.polder a.polder).audRegSz then s.audCancel c b else { s with audits := tput s.audits i a }
  | none => s

/-- Rewrites the logged inputs of group `gn` of a block (R259). -/
def State.onLog (s : State) (c b gn : Nat) (f : List LogEntry → List LogEntry) : State :=
  s.onAudit c b fun a => { a with log := tput a.log gn (f (tget [] a.log gn)) }

/-- Logs what the weaver does with group `gn` (R259). -/
def State.logCtl (s : State) (c b gn : Nat) (e : Ctl) : State := s.onAudit c b fun a => { a with ctl := a.ctl ++ [(gn, e)] }

/-! ### The re-execution of a block (R261, R351) -/

/-- The re-execution that a block is. -/
def State.rerunOf (s : State) (c b : Nat) : Option (Nat × Audit × Rerun) :=
  (s.block c b).bind fun x => x.rerun.bind fun i => (tfind s.audits i).bind fun a => a.rerun.map fun r => (i, a, r)

/-- Rewrites the re-execution that a block is. -/
def State.onRerun (s : State) (c b : Nat) (f : Rerun → Rerun) : State :=
  match s.rerunOf c b with
  | some (i, a, r) => { s with audits := tput s.audits i { a with rerun := some (f r) } }
  | none => s

/-- A re-execution fails: it ends in a failed digest (R351). -/
def State.failRun (s : State) (c b : Nat) : State := s.onRerun c b fun r => { r with failed := true }

/-- The next input that a re-execution has still to take for group `gn`. -/
def State.peekLog (s : State) (c b gn : Nat) : Option LogEntry :=
  (s.rerunOf c b).bind fun x => (tget [] x.2.2.left gn).head?

/-- A re-execution takes its next input from the log; one beyond the log fails it (R261, R351). -/
def State.nextLog (s : State) (c b gn : Nat) : LogEntry × State :=
  match s.peekLog c b gn with
  | some e => (e, s.onRerun c b fun r => { r with left := tput r.left gn (tget [] r.left gn).tail })
  | none => (default, s.failRun c b)

/-- What the weaver did next with group `gn` of the block that a re-execution follows. -/
def State.nextCtl (s : State) (c b gn : Nat) : Option Ctl :=
  (s.rerunOf c b).bind fun x => (x.2.2.ctl.find? fun e => e.1 = gn).map (·.2)

/-- The re-execution has followed it. -/
def State.dropCtl (s : State) (c b gn : Nat) : State :=
  s.onRerun c b fun r => { r with ctl := r.ctl.eraseP fun e => e.1 = gn }

/-! ### Entries of the log, effect records -/

/-- Rewrites the effect records of group `gn` of a block (R260), or of its re-execution (R261). -/
def State.onEffects (s : State) (c b gn : Nat) (f : Entries → Entries) : State :=
  match s.auditOf c b with
  | some (i, a) => { s with audits := tput s.audits i { a with effects := tput a.effects gn (f (tget [] a.effects gn)) } }
  | none => s.onRerun c b fun r => { r with effects := tput r.effects gn (f (tget [] r.effects gn)) }

/-- Logs an input of a group (R259). -/
def State.audLog (s : State) (c : Nat) (g : Group) (bytes : List Byte) : State :=
  s.onLog c g.bslot g.gnum (· ++ [{ id := 0, bytes := bytes, recB := [], writes := [] }])

/-- A word that is an input: it is logged; in a re-execution the log gives it (R259, R261). -/
def State.inputWord (s : State) (c : Nat) (g : Group) (v : Word) : Word × State :=
  if s.inRerun c g.bslot then
    let (e, s) := s.nextLog c g.bslot g.gnum
    if e.bytes.length = 4 then (BitVec.ofNat 32 (ofLe e.bytes), s) else (v, s.failRun c g.bslot)
  else (v, s.audLog c g (toLe 4 v.toNat))

/-- An effect record: kind, address, operands (R260).
(DEDUCED: log entry 27.) -/
def effectRec (kind addr : Nat) (bytes : List Byte) : List Byte := toLe 1 kind ++ toLe 8 addr ++ bytes

/-- Enters effect records of a group (R260).
(DEDUCED: log entry 27.) -/
def State.audEffect (s : State) (c : Nat) (g : Group) (bytes : List Byte) : State :=
  s.onEffects c g.bslot g.gnum (· ++ [(0, bytes)])

/-- Keeps the place of a command's or load's log entry and effect record in its group's program order (R259, R260). -/
def State.audPlan (s : State) (o : Origin) (id : Nat) : State :=
  (s.onLog o.core o.bslot o.grp (· ++ [{ id := id, bytes := [], recB := [], writes := [] }])).onEffects o.core o.bslot o.grp
    (· ++ [(id, [])])

/-- Rewrites the log entry of a command or load (R259). -/
def State.onEntry (s : State) (o : Origin) (id : Nat) (f : LogEntry → LogEntry) : State :=
  s.onLog o.core o.bslot o.grp fun es => es.map fun e => if e.id = id then f e else e

/-- Fills in a log entry (R259). -/
def State.audFillLog (s : State) (o : Origin) (id : Nat) (bytes : List Byte) : State := s.onEntry o id fun e => { e with bytes := bytes }

/-- Logs the record that a command has read: a re-execution reads none (R129, R260). -/
def State.audRecord (s : State) (o : Origin) (id : Nat) (r : List Byte) : State := s.onEntry o id fun e => { e with recB := r }

/-- Logs bytes that a command writes to local space (R259). -/
def State.audWrite (s : State) (o : Origin) (id : Nat) (sp : LSpace) (a : Nat) (bytes : List Byte) : State :=
  s.onEntry o id fun e => { e with writes := e.writes ++ [(sp, a, bytes)] }

/-- Fills in an effect record (R260). -/
def State.audFill (s : State) (o : Origin) (id kind addr : Nat) (bytes : List Byte) : State :=
  s.onEffects o.core o.bslot o.grp (fillIn id (effectRec kind addr bytes))

/-- The run of an audited block, or its re-execution, takes a fault other than a poison read: it ends in a failed digest (R351). -/
def State.audFail (s : State) (c b : Nat) : State :=
  match s.auditOf c b with
  | some (i, a) => { s with audits := tput s.audits i { a with failed := true } }
  | none => s.failRun c b

/-- What cancels an audit (R260) takes a re-execution off its log. -/
def State.offAudit (s : State) (c b : Nat) : State := if s.inRerun c b then s.failRun c b else s.audCancel c b

/-! ### Where a scratchpad byte lies -/

/-- First module byte of a polder's window (R133). -/
def State.spBase (s : State) (p : Nat) : Nat := (s.polder p).spBase

/-- The home die of a module scratchpad byte (R133). -/
def homeDie (a : Nat) : Nat := a / 2 ^ 27

/-! ### Writes at the home die -/

/-- A write to a word at its home die is reported to its watchers (R233, R245); `after` holds back the report (R234). -/
def State.fire (s : State) (after : List Nat) (a : Nat) : State :=
  let hit := s.watches.filter fun e => s.spBase e.2.polder + e.2.word = a
  let news : List Report := hit.map fun e =>
    { peer := e.2.peer, queue := e.2.queue, handle := e.1, val := mget32 s.sp a, after := after }
  let s := { s with reports := s.reports ++ news }
  (s.lwatches.filter fun w => w.addr = a).foldl (fun s w => s.notify w.polder w.queue) s

/-- Words that a byte range touches, by address. -/
def wordsIn (a len : Nat) : List Nat := (List.range ((a % 4 + len + 3) / 4)).map fun i => (a / 4 + i) * 4

/-- Bytes written at their home dies (R230). -/
def State.spBytes (s : State) (a : Nat) (bytes : List Byte) (after : List Nat) : State :=
  (wordsIn a bytes.length).foldl (fun s w => s.fire after w) { s with sp := mwrites s.sp a bytes }

/-- A word written at its home die. -/
def State.spWord (s : State) (a : Nat) (v : Word) (after : List Nat) : State := s.spBytes a (toLe 4 v.toNat) after


/-! ### Long-latency results (R60, R61) -/

/-- Flags as they lie in FSTAT. -/
def fstatOf (f : Flags) : BitVec 6 := f.setWidth 6

/-- Writes one result: the register or predicate, and its flags where the lane is no helper lane (R78).
(DEDUCED: log entry 29.) -/
def Group.landOne (g : Group) (w : LWrite) : Group :=
  { g with lanes := tput g.lanes w.lane ((g.lane w.lane).put w.loc w.val)
           fstat := if g.occ w.lane then g.fstat ||| fstatOf w.flags else g.fstat }

/-- Writes every result of one instruction and ends its window. -/
def Group.land (g : Group) (f : InFlight) : Group :=
  let h := f.writes.foldl Group.landOne g
  { h with inflight := h.inflight.filter (·.id ≠ f.id) }

/-- Rewrites a long-latency instruction of a group. -/
def State.onFlight (s : State) (c sl id : Nat) (f : InFlight → InFlight) : State :=
  s.onGroup c sl fun g => { g with inflight := g.inflight.map fun x => if x.id = id then f x else x }

/-- A long-latency instruction of a group. -/
def State.flight (s : State) (c sl id : Nat) : Option InFlight :=
  (s.group c sl).bind fun g => g.inflight.find? (·.id = id)

/-- A later access of the group waits for the reply of its atomic (R222). -/
def Group.awaitsReply (g : Group) : Bool := g.inflight.any (·.reply)

/-- A scratchpad load or atomic of the group has parts still to be performed (R221, R229). -/
def Group.loading (g : Group) : Bool := g.inflight.any fun f => f.todo ≠ []

/-! ### The read cache (R133, R231) -/

/-- Updates lines of the read cache with words the core itself wrote (R133, R222). -/
def Core.cacheWords (k : Core) (ws : List (Nat × Word)) : Core :=
  { k with rcache := ws.foldl (init := k.rcache) fun t w =>
      match tfind t (w.1 / 64) with
      | some ln => tput t (w.1 / 64) { ln with bytes := splice ln.bytes (w.1 % 64) (toLe 4 w.2.toNat) }
      | none => t }

/-- Invalidates the core's scratchpad read cache. -/
def State.dropLines (s : State) (c : Nat) : State := s.setCore c { s.core c with rcache := [] }

/-- Lines of a read cache (R133). -/
def rcacheLines : Nat := 4096

/-- Makes room for a line: a line of a free choice leaves a full cache. -/
def State.evictLine (s : State) (c : Nat) : State :=
  let k := s.core c
  if k.rcache.length < rcacheLines then s
  else
    let (f, s) := s.fresh
    s.setCore c { k with rcache := k.rcache.eraseIdx (f.toNat % k.rcache.length) }

/-! ### The die links (R10, R228, R230, R234) -/

/-- The home die that a word on a link goes to. -/
def Sent.die (x : Sent) : Nat := homeDie x.word.addr

/-- What holds back the report of a promoted release (R234): remote writes of the commands that precede it, and words that its
group has sent on a link before number `before`. -/
def State.promoAfter (s : State) (owner p : Nat) (after : List Nat) (rel : Option Scope) (before : Nat) : List Nat :=
  let promo := (tget 0 (s.polder p).featack 0).getLsbD 8
  match rel with
  | some .die | some .pkg =>
    if promo then
      (after.filter fun i => s.queue.any fun q => q.cmd = i && decide (q.unit = .remote))
        ++ (s.linkQ.filter fun x => x.entry.owner = owner && decide (x.id < before)).map (·.id)
    else []
  | _ => []

/-- Drops numbers that are performed or acknowledged from reports that wait for them (R234). -/
def State.pruneReports (s : State) : State :=
  { s with reports := s.reports.map fun r =>
      { r with after := r.after.filter fun i =>
          (s.queue.any fun q => q.cmd = i && decide (q.unit = .remote)) || s.linkQ.any fun x => x.id = i } }

/-- A word that a core has sent is written at its home die (R230). -/
def State.writeSent (s : State) (x : Sent) : State :=
  let s := { s with linkQ := s.linkQ.filter (·.id ≠ x.id) }
  let e := x.entry
  (s.spWord x.word.addr x.word.val (s.promoAfter e.owner e.polder e.after e.rel x.id)).pruneReports

/-- Every word that a core's die has sent to a die is written there: a later access of the core goes the same way, behind them; what
another core of the die has sent is performed at scope `die` (R219, R228, R230).
(DEDUCED: log entry 23.) -/
def State.flushDie (s : State) (c d : Nat) : State :=
  (s.linkQ.filter fun x => dieOf x.core = dieOf c && x.die = d).foldl State.writeSent s

/-! ### Atomics at the home die (R222, R229, R230) -/

/-- The value of a result that has come. -/
def InFlight.fill (f : InFlight) (lane : Nat) (vs : List (Nat × Word)) : InFlight :=
  { f with writes := f.writes.map fun w =>
      match vs.find? fun v => decide (w.lane = lane) && decide (w.loc = .reg v.1) with
      | some v => { w with val := v.2 }
      | none => w }

/-- Applies one lane of an atomic whole at its home die. -/
def State.applyAtom (s : State) (c sl id : Nat) (t : SpTodo) : State :=
  match t.op, s.group c sl with
  | .atom op w64 regs b v rel after, some g =>
    let s := if t.acq then s.dropLines c else s
    let s := s.flushDie c (homeDie t.addr)
    let n := if w64 then 2 else 1
    let old := ofLe (mreads s.sp t.addr (4 * n))
    let new := atomVal op (32 * n) old b v
    let p := (s.launchOf c g).polder
    let s := s.spBytes t.addr (toLe (4 * n) new) (s.promoAfter g.uid p after rel (s.next + 1))
    s.onFlight c sl id fun f =>
      { f.fill t.lane (regs.zipIdx.map fun r => (r.1, BitVec.ofNat 32 (old / 2 ^ (32 * r.2)))) with
        todo := f.todo.erase t
        lines := f.lines ++ (List.range n).map fun i => (t.addr + 4 * i, BitVec.ofNat 32 (new / 2 ^ (32 * i))) }
  | _, _ => s

/-- The reply of an atomic arrives (R222): lines of the read cache that hold its words take its results, and its old values are
written. -/
def State.replyLand (s : State) (c sl id : Nat) : State :=
  match s.flight c sl id with
  | some f => (s.setCore c ((s.core c).cacheWords f.lines)).onGroup c sl fun g => g.land f
  | none => s

/-- The links of the parts that an access has still to perform carry traffic (R329). -/
def State.partsReach (s : State) (c : Nat) (f : InFlight) : Bool :=
  f.todo.all fun t => s.linkAvail (dieOf c) (homeDie t.addr) = .yes

/-- A link that retrains holds a part of an access (R329). -/
def State.heldFlight (s : State) (c : Nat) (f : InFlight) : Bool :=
  f.todo.any fun t => s.linkAvail (dieOf c) (homeDie t.addr) = .wait

/-- A link that retrains holds a result of a group, which then has still to come (R60, R329). -/
def State.linkHolds (s : State) (c : Nat) (g : Group) : Bool := g.inflight.any (s.heldFlight c)

/-- The replies of the core's atomics that have begun at a home die, other than `but`, arrive: what the core does at a home die
from now on comes after them (R219, R222). One of which a part is held by a link leaves its results so far in the read cache. -/
def State.settleReplies (s : State) (c but : Nat) : State :=
  (s.core c).groups.foldl (init := s) fun s e =>
    (e.2.inflight.filter fun f => f.reply && f.lines ≠ [] && f.id ≠ but).foldl (init := s) fun s f =>
      if s.partsReach c f then (f.todo.foldl (fun s t => s.applyAtom c e.1 f.id t) s).replyLand c e.1 f.id
      else (s.setCore c ((s.core c).cacheWords f.lines)).onFlight c e.1 f.id fun f => { f with lines := [] }

/-! ### Loads (R220, R229 to R231) -/

/-- The value that the youngest queued entry writes to a word; within it the highest lane's (R220). -/
def forward (es : List StEntry) (sp : LSpace) (a : Nat) : Option Word :=
  es.foldl (init := none) fun r e =>
    if e.space ≠ sp then r else e.writes.foldl (fun r w => if w.addr = a then some w.val else r) r

/-- The state in which a core reads at a home die: behind what it has done there (R219, R230). -/
def State.atHome (s : State) (c d : Nat) : State := (s.settleReplies c 0).flushDie c d

/-- A word that a load finds without its home die: forwarded from the group's own store queue, or in a line of the read cache
where that may serve the load (R220, R231). -/
def State.spServed (s : State) (c : Nat) (g : Group) (p : Nat) (cached : Bool) (a : Nat) : Option Word :=
  match forward g.stq .sp a with
  | some v => some v
  | none =>
    match cached, tfind (s.core c).rcache (a / 64) with
    | true, some ln =>
      if ln.polder = p ∧ s.clock - ln.filled ≤ 65536 then some (BitVec.ofNat 32 (bfield ln.bytes (a % 64) 4)) else none
    | _, _ => none

/-- A word read at its home die; it fills a line where the cache may serve the load (R230, R231). -/
def State.spFetch (s : State) (c p : Nat) (cached : Bool) (a : Nat) : Word × State :=
  let s := s.atHome c (homeDie a)
  if cached then
    let n := a / 64
    let s := if (tfind (s.core c).rcache n).isSome then s else s.evictLine c
    (mget32 s.sp a, s.setCore c { s.core c with
      rcache := tput (s.core c).rcache n { polder := p, bytes := mreads s.sp (64 * n) 64, filled := s.clock } })
  else (mget32 s.sp a, s)

/-- A word or a part that a failed die link cannot carry completes with UNAVAIL (R329): a log entry and the group's record say
so, and the group goes on.
(DEDUCED: log entry 9.) -/
def State.loseOn (s : State) (o : Origin) (lane a : Nat) : State :=
  let f : FaultAt := { code := 0x13, lanes := BitVec.twoPow 32 lane, addr := BitVec.ofNat 64 (a - s.spBase o.polder) }
  let r := f.record o.pc noPc
  let s := (s.logOrigin o r).audFail o.core o.bslot
  match s.group o.core o.slot with
  | some g => if g.uid = o.uid then s.setGroup o.core o.slot { g with frec := r } else s
  | none => s

/-- Words as logged bytes, in the order of lanes and registers (R259). -/
def loggedWords (ws : List LWrite) : List Byte :=
  let key (w : LWrite) : Nat := 256 * w.lane + match w.loc with | .reg r => r | .pred p => p
  bytesOf ((sortBy key ws).map (·.val))

/-- Results that are inputs, lane after lane: they are logged; in a re-execution the log gives them (R259, R261). -/
def State.inputWords (s : State) (c : Nat) (g : Group) (ws : List LWrite) : List LWrite × State :=
  if s.inRerun c g.bslot then
    let (e, s) := s.nextLog c g.bslot g.gnum
    if e.bytes.length = 4 * ws.length then
      (ws.zipIdx.map fun w => { w.1 with val := BitVec.ofNat 32 (bfield e.bytes (4 * w.2) 4) }, s)
    else (ws, s.failRun c g.bslot)
  else (ws, s.audLog c g (loggedWords ws))

/-- One word of a load has its value; the last one completes what the audit logs (R259). -/
def State.loaded (s : State) (c sl id : Nat) (t : SpTodo) (r : Nat) (v : Word) : State :=
  let s := s.onFlight c sl id fun f =>
    { f.fill t.lane [(r, v)] with
      todo := f.todo.erase t, got := f.got ++ [{ lane := t.lane, loc := .reg r, val := v, flags := 0 }] }
  match s.flight c sl id with
  | some f => if f.todo = [] then s.audFillLog f.org id (loggedWords f.got) else s
  | none => s

/-- Performs one part of a scratchpad access: a word of a load, which may need no home die, or one lane of an atomic. A part that
a failed link cannot carry brings free values (R329; log entry 9); in a helper lane it is suppressed: the lane takes 0, and nothing is
logged (R142). -/
def State.doPart (s : State) (c sl id : Nat) (t : SpTodo) : State :=
  match s.group c sl, s.flight c sl id with
  | some g, some f =>
    let dead : Bool := s.linkAvail (dieOf c) (homeDie t.addr) = .no
    match t.op with
    | .load r cached =>
      let s := if t.acq then s.dropLines c else s
      let p := (s.launchOf c g).polder
      match s.spServed c g p cached t.addr with
      | some v => s.loaded c sl id t r v
      | none =>
        if dead && !g.occ t.lane then s.loaded c sl id t r 0
        else if dead then
          let (v, s) := s.fresh
          (s.loseOn f.org t.lane t.addr).loaded c sl id t r v
        else
          let (v, s) := s.spFetch c p cached t.addr
          s.loaded c sl id t r v
    | .atom _ _ regs _ _ _ _ =>
      if dead then
        let (v, s) := s.fresh
        let (w, s) := s.fresh
        (s.loseOn f.org t.lane t.addr).onFlight c sl id fun f =>
          { f.fill t.lane (regs.zip [v, w]) with todo := f.todo.erase t }
      else (s.settleReplies c id).applyAtom c sl id t
  | _, _ => s

/-- The next part to be performed: of the lowest lane; a free one of its words, which have no order (R213, R218, R220). -/
def State.pickPart {α : Type} (s : State) (lane : α → Nat) (xs : List α) : Option α × State :=
  match xs with
  | [] => (none, s)
  | x :: _ =>
    let ys := xs.filter fun y => lane y = lane x
    if ys.length ≤ 1 then (some x, s)
    else
      let (f, s) := s.fresh
      (ys[f.toNat % ys.length]?, s)

/-- PERFORMS the next part of a scratchpad load or atomic of a group (R220, R222): loads lane by lane, atomics lane by lane and
whole. A link that retrains holds it (R329). -/
def State.performPart (s : State) (c sl id : Nat) : State :=
  match s.flight c sl id with
  | some f =>
    match s.pickPart SpTodo.lane f.todo with
    | (some t, s) => if s.linkAvail (dieOf c) (homeDie t.addr) = .wait then s else s.doPart c sl id t
    | (none, s) => s
  | none => s

/-- Performs all that is left of a scratchpad access. -/
def State.performAll (s : State) (c sl id : Nat) : State :=
  match s.flight c sl id with
  | some f => f.todo.foldl (fun s t => s.doPart c sl id t) s
  | none => s

/-- Every result of every long-latency instruction of the group is written, and every window ends (R61); what a link that retrains
holds comes later (R329).
(DEDUCED: log entry 24.) -/
def State.settle (s : State) (c sl : Nat) : State :=
  match s.group c sl with
  | some g =>
    let held (f : InFlight) : Bool := s.heldFlight c f
    let s := (g.inflight.filter fun f => !held f).foldl (fun s f => s.performAll c sl f.id) s
    match s.group c sl with
    | some g =>
      let fs := g.inflight.filter fun f => !held f
      let s := s.setCore c ((s.core c).cacheWords (fs.flatMap (·.lines)))
      let h := fs.foldl Group.land g
      s.setGroup c sl { h with inflight := h.inflight.map fun f => { f with window := 0 } }
    | none => s
  | none => s

end Sys2Proof.Machine
end

