-- ==== Sys2Proof/Machine/Ops.lean ====
section
/-! DEFINITION. Issue of a group's instruction (R52 to R64), the fault record, the fault log and the taking of a fault
(R305 to R314), and what an instruction writes. -/

namespace Sys2Proof.Machine

/-- The outcome of a step of this machine. -/
abbrev Out := Host.Outcome State Fault Refusal

/-- A progress event of a block (R349). -/
def State.progress (s : State) (c b : Nat) : State :=
  match s.block c b with
  | some x => s.setBlock c b { x with progress := s.clock, idle := 0 }
  | none => s

/-! ### Ports and the age order (R255) -/

/-- The sub-core of a slot (R9). -/
def subOf (slot : Nat) : Nat := slot / 16

/-- A sub-core. -/
def Core.sub (k : Core) (i : Nat) : SubCore := tget SubCore.reset k.subs i

/-- The group leaves its port. -/
def SubCore.leave (x : SubCore) (sl : Nat) : SubCore :=
  { x with portA := if x.portA = some sl then none else x.portA
           portB := if x.portB = some sl then none else x.portB }

/-- The group becomes the youngest of its sub-core and leaves its port (R255). -/
def SubCore.youngest (x : SubCore) (sl : Nat) : SubCore :=
  let y := x.leave sl
  { y with order := y.order.filter (· ≠ sl) ++ [sl] }

/-- Rewrites the sub-core of a slot. -/
def State.onSub (s : State) (c sl : Nat) (f : SubCore → SubCore) : State :=
  let k := s.core c
  s.setCore c { k with subs := tput k.subs (subOf sl) (f (k.sub (subOf sl))) }

/-- The run of a group ends (R58, R255). -/
def State.endRun (s : State) (c sl : Nat) : State :=
  (s.onGroup c sl fun g => { g with run := 0 }).onSub c sl (·.youngest sl)

/-! ### The return stack (R171) -/

/-- A push onto the return stack fits the launch's stack. -/
def Lane.canPush (ln : Lane) (stackSz : Nat) : Bool := ln.rstk.length < 8 || 4 * (ln.mstk.length + ln.deep + 1) ≤ stackSz

/-- Pushes a return address. -/
def Lane.push (ln : Lane) (v : Word) : Lane :=
  if ln.rstk.length < 8 then { ln with rstk := v :: ln.rstk }
  else { ln with rstk := v :: ln.rstk.dropLast, mstk := (ln.rstk.getLast?.getD 0) :: ln.mstk }

/-- Words of a group's spill-stack cache (R135). -/
def stackCache : Nat := 1024

/-- A push of every thread finds room in the group's spill-stack cache (R135). -/
def Group.stackRoom (g : Group) : Bool :=
  total (g.occs.map fun i => (g.lane i).mstk.length + if (g.lane i).rstk.length < 8 then 0 else 1) ≤ stackCache

/-- A thread's return address on top lies in main memory alone (R135, R171). -/
def Lane.topDeep (ln : Lane) : Bool := ln.rstk = [] && ln.mstk = [] && ln.deep ≠ 0

/-- The return address on top, where it is at hand. -/
def Lane.top (ln : Lane) : Option Word :=
  match ln.rstk with
  | v :: _ => some v
  | [] => ln.mstk.head?

/-- Pops a return address. -/
def Lane.pop (ln : Lane) : Lane :=
  match ln.rstk with
  | _ :: r => { ln with rstk := r }
  | [] => { ln with mstk := ln.mstk.tail }

/-! ### Policies and the taking of a fault (R306, R309 to R311) -/

/-- The policies of R306. -/
inductive Policy where
  | park | deliver | replay | cont
deriving DecidableEq, Repr

/-- Policies that R308 allows for a code. -/
def allowed (code : Nat) (p : Policy) : Bool :=
  match p with
  | .park => true
  | .deliver => code ≠ 6
  | .replay => code = 0x10
  | .cont => code = 8 || code = 9 || (0x10 ≤ code && code ≤ 0x16)

/-- The polder's policy for a code (R306). -/
def Polder.policy (x : Polder) (code : Nat) : Policy :=
  let w := if code < 16 then x.fltPol0 else x.fltPol1
  let p := match (w.toNat / 4 ^ (code % 16)) % 4 with
    | 0 => .park
    | 1 => .deliver
    | 2 => .replay
    | _ => Policy.cont
  if allowed code p then p else .park

/-- Delivers a record to the trap handler (R311): the lanes push RESUMEPC and receive the record in the eight highest
registers of the allocation, which no result on its way then changes (R60). Where some lane has no room the group parks with DLVFAIL. -/
def deliverTo (l : Launch) (g : Group) (r : FRec) : Group :=
  let top := min (allocOf l) 255
  if g.occs.any fun i => !(g.lane i).canPush l.stackSz then
    { g with frec := { r with dlvFail := true }, parked := true, clause := none, run := 0 }
  else
    let put8 (ln : Lane) : Lane :=
      (List.range 8).foldl (fun ln i =>
        (ln.freshen (.reg (top - 8 + i))).setReg (top - 8 + i) (r.words.getD i 0)) (ln.push r.resume)
    let taken (w : LWrite) : Bool := g.occ w.lane && (List.range 8).any fun i => w.loc = .reg (top - 8 + i)
    { g.mapLanes (fun _ ln => if ln.st = .occupied then put8 ln else ln) with
      frec := r, cache := [], pc := l.trapVec, clause := none, run := 0
      inflight := g.inflight.map fun f => { f with writes := f.writes.filter fun w => !taken w } }

/-- Applies a policy to a group that has stopped with a record (R311): a fault that REPLAY does not hold acts under
CONTINUE. -/
def applyPolicy (p : Policy) (l : Launch) (g : Group) (r : FRec) : Group :=
  match p with
  | .deliver =>
    if l.trapVec = noPc ∨ r.resume = noPc then { g with frec := r, parked := true, clause := none, run := 0 }
    else deliverTo l g r
  | .cont => { g with frec := r, pc := r.resume, clause := none, run := 0 }
  | .replay =>
    if r.resume = noPc then { g with frec := r, parked := true, clause := none, run := 0 }
    else { g with frec := r, pc := r.resume, clause := none, run := 0 }
  | .park => { g with frec := r, parked := true, clause := none, run := 0 }

/-- The header after a clause (R50). -/
def clauseEnd (h : Header) (pc : Word) : Word :=
  let n := h.count.toNat
  let two := ((List.range n).filter fun i => h.width.getLsbD i).length
  pc + BitVec.ofNat 32 (4 * (1 + n + two))

/-- TAKING A FAULT (R309 to R311): pending results are written and windows end, the run ends, the record is written,
the polder's policy is applied and the log entry is written. -/
def State.takeFault (s : State) (c sl : Nat) (f : FaultAt) (resume : Word) : State :=
  let s := (s.settle c sl).endRun c sl
  match s.group c sl with
  | some g =>
    let l := s.launchOf c g
    let r := f.record g.pc resume
    let g' := applyPolicy ((s.polder l.polder).policy f.code) l g r
    ((s.setGroup c sl g').logRec c sl g g'.frec).audFail c g.bslot
  | none => s

/-- RESUMEPC of a fault at an instruction of a clause (R305). -/
def resumeOf (g : Group) : Word :=
  match g.clause with
  | some cl => clauseEnd cl.hdr cl.hdrPc
  | none => noPc

/-- Every occupied lane as a mask. -/
def Group.occMask (g : Group) : BitVec 32 := maskOf g.occ

/-! ### Issue -/

/-- A location that an instruction really writes: neither v255 nor p7, which ignore writes (R57, R84). -/
def Loc.real (x : Loc) : Bool := x ≠ .reg 255 && x ≠ .pred 7

/-- The window of an instruction is over and a register or predicate that it writes has not been written (R60). An instruction
that writes none has no window: its LA is ignored. -/
def InFlight.holds (f : InFlight) : Bool := f.window = 0 && f.writes.any (·.loc.real)

/-- A group that does not issue: parked, waiting, or suspended until results are written (R60, R61, R311). -/
def Group.stalled (g : Group) : Bool := g.parked || g.waiting ≠ .none || g.inflight.any InFlight.holds

/-- A register range lies in the allocation, or is v255 alone (R25, R57, R112).
(DEDUCED: log entry 28.) -/
def rangeOk (alloc : Nat) (r : Nat × Nat) : Bool := r.2 = 0 || (r.1 = 255 && r.2 = 1) || r.1 + r.2 ≤ min alloc 255

/-- The register ranges that an instruction names. -/
def Issue.named (v : Issue) : List (Nat × Nat) := v.ranges ++ v.uses.map fun u => (u.reg, u.n)

/-- The clause position: this instruction is the last of its clause. -/
def Clause.isLast (cl : Clause) : Bool := cl.done + 1 = cl.hdr.count.toNat

/-- A SYS instruction may issue from slot 63 of a core or on a front core (R52, R183). -/
def sysPlace (c sl : Nat) : Bool := sl = 63 || c ≥ 32

/-- The first cause of R314 that applies to a decoded instruction.
(DEDUCED: log entry 28.) -/
def illegalCause (v : Issue) (s : State) (c sl : Nat) (g : Group) (cl : Clause) : Option Nat :=
  let l := s.launchOf c g
  let alloc := allocOf l
  if v.cls ≠ cl.hdr.cls.toNat then some 3
  else if cl.hdr.width.getLsbD cl.done ≠ decide (v.words = 2) then some 4
  else if v.noFront && decide (c ≥ 32) then some 5
  else if v.cls = 7 && !sysPlace c sl then some 6
  else if v.feature.any fun k => !(tget 0 (s.polder l.polder).featack 0).getLsbD k then some 7
  else if v.live.any fun n => n > alloc then some 8
  else if v.ends && !cl.isLast then some 9
  else if !(v.named.all (rangeOk alloc)) || v.strict.any (fun r => r.2 ≠ 0 && decide (r.1 + r.2 > 255)) then some 10
  else none

/-- The lanes in which a source is read. -/
def readLanes (g : Group) (gd : Guard) (u : RdLanes) : List Nat :=
  match u with
  | .act => lanes32.filter (g.active gd)
  | .all => lanes32
  | .zero => [0]
  | .one => (lowest (g.works gd)).toList

/-- An instruction that is active in no lane, whatever the lanes hold: it changes nothing (R64). -/
def neverActs (gd : Guard) : Bool := gd.pred = 7 && gd.neg

/-- The instruction makes a poison read (R60, R62, R148). -/
def badRead (v : Issue) (g : Group) : Bool :=
  !neverActs v.guard && (
  (v.guard.pred ≠ 7 && lanes32.any fun i => g.hidden i (.pred v.guard.pred.toNat))
  || (v.uses.any fun u => (readLanes g v.guard u.lanes).any fun i => (List.range u.n).any fun j => g.bad i (u.reg + j))
  || v.puses.any fun p => (if p.2 then lanes32 else lanes32.filter (g.active v.guard)).any fun i => g.hidden i (.pred p.1))

/-- The operand cache after the reads of an instruction (R63); v255 never enters it (R57). -/
def cacheAfter (v : Issue) (cache : List Nat) : List Nat :=
  v.uses.foldl (init := cache) fun t u =>
    (List.range u.n).foldl (init := t) fun t j =>
      let r := u.reg + j
      if r = 255 then t
      else if u.last then t.filter (· ≠ r)
      else if u.keep then (r :: t.filter (· ≠ r)).take 8
      else t

/-- The sticky POISONRD bit (R77). -/
def poisonBit : BitVec 6 := 0x20

/-- The lanes in which an instruction writes its destinations: the active ones, or of them those with threads alone
(R138, R163). -/
def Group.writesIn (g : Group) (v : Issue) (l : Nat) : Bool := if v.threads then g.works v.guard l else g.active v.guard l

/-- The marks of an instruction take effect: POISONRD, last-use and keep bits, and the destinations become live
(R60, R62, R63, R148). -/
def Group.marked (g : Group) (v : Issue) : Group :=
  let act := g.active v.guard
  let h := g.mapLanes fun i ln =>
    if act i then
      let killed := v.uses.foldl (fun ln u => if u.last then ln.kill u.reg u.n else ln) ln
      if g.writesIn v i then v.dsts.foldl Lane.freshen killed else killed
    else ln
  { h with
    fstat := if badRead v g then g.fstat ||| poisonBit else g.fstat
    cache := if lanes32.any act then cacheAfter v g.cache else g.cache
    inflight := g.inflight.map fun f =>
      { f with writes := f.writes.filter fun w => !(g.writesIn v w.lane && v.dsts.contains w.loc) } }

/-- The group moves past the instruction: PC, clause, run, and one instruction of each window (R50, R58, R60). -/
def Group.advance (g : Group) (v : Issue) (cl : Clause) : Group :=
  { g with pc := g.pc + BitVec.ofNat 32 (4 * v.words)
           clause := if cl.isLast then none else some { cl with done := cl.done + 1 }
           run := g.run + 1
           inflight := g.inflight.map fun f => { f with window := f.window - 1 } }

/-- Reads of one register bank by an instruction; a cached register counts against none (R255). -/
def bankReads (v : Issue) (cache : List Nat) (bank : Nat) : Nat :=
  (v.uses.filter fun u => u.reg ≠ 255 && u.n ≠ 0 && u.reg % 4 = bank && !cache.contains u.reg).length

/-- Port cycles of an instruction (R255). -/
def portCycles (v : Issue) (cache : List Nat) : Nat :=
  if (List.range 4).any fun b => bankReads v cache b ≥ 3 then 2 else 1

/-- Sets the sticky flag of a block that has made a poison read (R318). -/
def State.notePoison (s : State) (c b : Nat) : State :=
  match s.block c b with
  | some x => s.setBlock c b { x with poisoned := true }
  | none => s

/-- The state in which the body of an instruction acts: its marks are set, the group stands behind it, and its run has
ended where R58 says so. -/
def State.begun (s : State) (v : Issue) (c sl : Nat) (g : Group) (cl : Clause) : State :=
  let h := (g.marked v).advance v cl
  let s1 := s.setGroup c sl { h with issued := g.issued + portCycles v g.cache }
  let s2 := if badRead v g then s1.notePoison c g.bslot else s1
  if v.runEnd || (cl.isLast && cl.hdr.runend) then s2.endRun c sl else s2

/-- What a check before issue finds: the instruction goes on, waits, waits for room for records of some sizes, faults,
or meets a use that the manual leaves undefined: the group stops (R7; log entry 22). -/
inductive Check where
  | ok
  | stall
  | room (sizes : List Nat)
  | fault (f : FaultAt)
  | undef
deriving DecidableEq, Repr

/-- The next number of a polder's order of waiting for room (R36). -/
def State.bumpRoom (s : State) (p : Nat) : State := s.setPolder p { s.polder p with roomCtr := (s.polder p).roomCtr + 1 }

/-- A group begins to wait for room for its records (R36). -/
def State.awaitRoom (s : State) (c sl : Nat) (g : Group) (sizes : List Nat) : State :=
  let p := (s.launchOf c g).polder
  (s.onGroup c sl fun g => { g with waiting := .room (s.polder p).roomCtr sizes false }).bumpRoom p

/-- ISSUE of the current group's instruction. A stalled group keeps its state (R61); an illegal instruction and a fault
found by `pre` are taken; else the body acts. -/
def issueWith (v : Issue) (pre : Nat → Nat → Group → State → Check) (body : Nat → Nat → Group → State → State)
    (s : State) : Out :=
  match s.cur with
  | .group c sl =>
    match s.group c sl with
    | some g =>
      match g.clause with
      | some cl =>
        if g.stalled then .next s
        else
          match illegalCause v s c sl g cl with
          | some cause =>
            .next (s.takeFault c sl { code := 1, cause := cause, lanes := g.occMask, aux := s.ir } (resumeOf g))
          | none =>
            match pre c sl g s with
            | .stall => .next s
            | .room sizes => .next (s.awaitRoom c sl g sizes)
            | .fault f => .next (s.takeFault c sl f (resumeOf g))
            | .undef => .next (s.onGroup c sl fun g => { g with waiting := .undef })
            | .ok => .next (body c sl g (s.begun v c sl g cl))
      | none => .next s
    | none => .next s
  | _ => .next s

/-- Issue of an instruction that no check holds back. -/
def issue (v : Issue) (body : Nat → Nat → Group → State → State) (s : State) : Out :=
  issueWith v (fun _ _ _ _ => .ok) body s

/-- Writes results in the active lanes at once, with their flags (R78, R84).
(DEDUCED: log entry 29.) -/
def State.writeLanes (s : State) (c sl : Nat) (act : Nat → Bool) (f : Nat → List (Loc × Word)) (fl : Nat → Flags) :
    State :=
  s.onGroup c sl fun g =>
    { g.mapLanes (fun i ln => if act i then (f i).foldl (fun ln w => ln.put w.1 w.2) ln else ln) with
      fstat := (lanes32.filter fun i => act i && g.occ i).foldl (fun b i => b ||| fstatOf (fl i)) g.fstat }

/-- Enters results that arrive later, with the window of their instruction (R60). -/
def State.defer (s : State) (c sl : Nat) (la : Nat) (ws : List LWrite) : State :=
  if ws = [] then s
  else
    let (n, s) := s.newId
    s.onGroup c sl fun g =>
      { g with inflight := g.inflight ++
          [{ id := n, window := la, writes := ws, reply := false, lines := [], todo := [], got := [], org := default }] }

/-- Enters a scratchpad access whose parts are performed from now on, one by one (R220, R222). -/
def State.deferParts (s : State) (c sl : Nat) (org : Origin) (la : Nat) (reply : Bool) (ws got : List LWrite) (todo : List SpTodo) : State :=
  if ws = [] && todo = [] then s
  else
    let (n, s) := s.newId
    let s := if todo = [] then s else s.audPlan org n
    s.onGroup c sl fun g =>
      { g with inflight := g.inflight ++
          [{ id := n, window := la, writes := ws, reply := reply, lines := [], todo := todo, got := got, org := org }] }

/-- The fall-through of a two-word instruction (R167). -/
def fallthrough (g : Group) : Word := g.pc + 8

/-- A direct target (R167). -/
def target (g : Group) (off : BitVec 20) : Word := g.pc + (off.signExtend 32 <<< 2)

/-- The group continues at a PC; elsewhere than the next word the run ends (R58). -/
def State.jump (s : State) (c sl : Nat) (next pc : Word) : State :=
  let t := s.onGroup c sl fun g => { g with pc := pc, clause := none }
  if pc = next then t else t.endRun c sl

end Sys2Proof.Machine
end

