-- ==== Sys2Proof/Machine/Local.lean ====
section
/-! DEFINITION. Shared memory and store queues: bounds, forwarding, releases and the performing of stores (R132, R137, R211 to
R223, R228, R229). -/

namespace Sys2Proof.Machine

/-! ### Shared memory -/

/-- Bytes of shared memory that a group's accesses may name; 256 KiB on a front core (R132, R184). -/
def State.shSizeOf (s : State) (c : Nat) (g : Group) : Nat :=
  if c ≥ 32 then 262144 else match s.block c g.bslot with | some b => b.shSize | none => 0

/-- A word written to a core's shared memory by a thread: the matrix path may still see the value before (R119). -/
def State.shWord (s : State) (c a : Nat) (v : Word) : State :=
  let k := s.core c
  s.setCore c { k with sh := mset32 k.sh a v, mxHist := tput k.mxHist a (mget32 k.sh a :: tget [] k.mxHist a) }

/-- Bytes written to a core's shared memory by an engine (R235). -/
def State.shBytes (s : State) (c a : Nat) (bytes : List Byte) : State :=
  let k := s.core c
  s.setCore c { k with sh := mwrites k.sh a bytes, mxHist := (wordsIn a bytes.length).foldl tdel k.mxHist }

/-! ### Store queues -/

/-- What a release waits for before it is written (R228, R229): the drain of `fence.bank` for the group's earlier
commands; at `pkg` and wider the group's writes on die links; at `sys` the acknowledgements of remote writes. -/
def State.drained (s : State) (ids : List Nat) : Bool :=
  (s.queue.all fun q => !(ids.contains q.cmd) || match q.unit with | .bank _ _ _ => false | .red _ _ => false | _ => true)
  && ids.all fun i => match tfind s.cmds i with | some x => x.op ≠ .mred || x.phase = .done | none => true

/-- A group's writes have left the die links. -/
def State.linksClear (s : State) (owner : Nat) : Bool := s.linkQ.all fun x => x.entry.owner ≠ owner

/-- Remote writes of some commands are acknowledged. -/
def State.acked (s : State) (ids : List Nat) : Bool := s.queue.all fun q => !(ids.contains q.cmd && decide (q.unit = .remote))

/-- Everything before a release at a scope is performed at it (R228). -/
def State.relReady (s : State) (owner : Nat) (after : List Nat) (sc : Scope) : Bool :=
  match sc with
  | .grp | .blk => true
  | .die => s.drained after
  | .pkg => s.drained after && s.linksClear owner
  | .sys => s.drained after && s.linksClear owner && s.acked after

/-- Enters a store of `g0`, the group as it issued it, into the group's queue (R218). -/
def State.enqueue (s : State) (c sl : Nat) (g0 : Group) (sp : LSpace) (p : Nat) (rel : Option Scope) (ws : List StWrite) : State :=
  if ws = [] then s
  else
    let (n, s) := s.newId
    s.onGroup c sl fun g =>
      { g with stq := g.stq ++
          [{ id := n, owner := g.uid, org := s.originOf c sl g0 .cpy, after := g.mreds ++ g.finished, space := sp, polder := p
             rel := rel, writes := ws, left := ws }] }

/-- A word of shared memory as a group's load finds it (R220); `a` is an address in the core's shared memory.
(DESIGN CHOICE: log entry 22.) -/
def State.shLoad (s : State) (c : Nat) (g : Group) (a : Nat) : Word :=
  (forward g.stq .sh a).getD (mget32 (s.core c).sh a)

/-- Every earlier store of the group, in its queue or on a die link, by number (R217, R235). -/
def State.storesOf (s : State) (g : Group) : List Nat :=
  g.stq.map (·.id) ++ ((s.linkQ.filter fun x => x.entry.owner = g.uid).map (·.entry.id)).eraseDups

/-! ### Performing stores (R218, R219, R228, R229) -/

/-- Performs one word of a scratchpad entry: it takes its place behind the core's atomics, the core's read cache follows it, and
it is written at the issuing die at once or sent on a die link (R219, R228, R230, R231).
(DEDUCED: log entry 23.) -/
def State.performWord (s : State) (c : Nat) (e : StEntry) (w : StWrite) : State :=
  let d := homeDie w.addr
  match s.linkAvail (dieOf c) d with
  | .no => s.loseOn e.org w.lane w.addr
  | _ =>
    let s := s.settleReplies c 0
    let s := s.setCore c ((s.core c).cacheWords [(w.addr, w.val)])
    let (n, s) := s.newId
    if d = dieOf c then s.spWord w.addr w.val (s.promoAfter e.owner e.polder e.after e.rel n)
    else { s with linkQ := s.linkQ ++ [{ id := n, core := c, entry := e, word := w }] }

/-- What is left of an entry after one step of performing it: a shared-memory entry is performed in one step, a scratchpad entry
word by word, lane after lane (R218).
(DEDUCED: log entry 23.) -/
def State.performEntry (s : State) (c : Nat) (e : StEntry) : Option StEntry × State :=
  match e.space with
  | .sh => (none, e.writes.foldl (fun s w => s.shWord c w.addr w.val) s)
  | .sp =>
    match s.pickPart StWrite.lane e.left with
    | (some w, s) =>
      let left := e.left.erase w
      (if left = [] then none else some { e with left := left }, s.performWord c e w)
    | (none, s) => (none, s)

/-- A word on a die link is written at its home die, once those before it on the same link are; a failed link loses it
(R219, R228, R230, R329).
(DEDUCED: log entry 23.) -/
def State.performLink (s : State) (id : Nat) : State :=
  match s.linkQ.find? (·.id = id) with
  | some x =>
    if (s.linkQ.find? fun y => dieOf y.core = dieOf x.core && y.die = x.die) ≠ some x then s
    else
      match s.linkAvail (dieOf x.core) x.die with
      | .wait => s
      | .no => State.loseOn (State.pruneReports { s with linkQ := s.linkQ.filter (·.id ≠ x.id) }) x.entry.org x.word.lane x.word.addr
      | .yes =>
        let s := s.settleReplies x.core 0
        if s.linkQ.any (·.id = id) then s.writeSent x else s
  | none => s

/-- Orphan entries that no earlier entry of their group precedes (R175). -/
def Core.headOrphans (k : Core) : List StEntry :=
  k.orphans.filter fun e => (k.orphans.find? fun x => x.owner = e.owner) == some e

/-- The head of a store queue may be performed: a release once what precedes it is, at its scope (R228, R229). -/
def State.mayPerform (s : State) (e : StEntry) : Bool := (e.rel.map (s.relReady e.owner e.after)).getD true

/-- STORE_PERFORM (R218, R228, R229): the oldest entry of a group's queue is performed, once a release may be. Slot
64 + i names the i-th entry that a group which ended has left. -/
def execStorePerform (src : StoreSrc) (s : State) : Out :=
  .next <|
    match src with
    | .link id => s.performLink id
    | .queue c sl =>
      if sl < 64 then
        match s.group c sl with
        | some g =>
          match g.stq with
          | e :: r =>
            if s.mayPerform e then
              let x := s.performEntry c e
              x.2.onGroup c sl fun g => { g with stq := x.1.toList ++ r }
            else s
          | [] => s
        | none => s
      else
        match (s.core c).headOrphans[sl - 64]? with
        | some e =>
          if s.mayPerform e then
            let x := s.performEntry c e
            x.2.setCore c { x.2.core c with orphans := (x.2.core c).orphans.flatMap fun y =>
              if y.id = e.id then x.1.toList else [y] }
          else s
        | none => s

end Sys2Proof.Machine
end

