-- ==== Sys2Proof/Machine/Batch.lean ====
section
/-! DEFINITION. Batches, the completion of commands, engine completion faults and waits (R143 to R149, R312, R333). -/

namespace Sys2Proof.Machine

/-- Number of a class (R146). -/
def clsNum : Cls → Nat
  | .cpy => 1 | .gat => 2 | .mem => 3 | .bnk => 4 | .prd => 5 | .spn => 6

/-- The six classes in order. -/
def allCls : List Cls := [.cpy, .gat, .mem, .bnk, .prd, .spn]

/-- The classes that a wait names. -/
def classesOf : WCls → List Cls
  | .one c => [c]
  | .all => allCls

/-- Outstanding batches of a class (R144). -/
def Group.outstanding (g : Group) (c : Cls) : Nat := (tget [] g.closedB (clsNum c)).length

/-- Closing an open batch needs room among 15 outstanding ones (R144). -/
def Group.canClose (g : Group) (c : Cls) : Bool := (tget [] g.openB (clsNum c) = []) || g.outstanding c < 15

/-- Closes the open batch of a class; an empty one stays as it is (R144). -/
def Group.closeBatch (g : Group) (c : Cls) : Group :=
  let k := clsNum c
  match tget [] g.openB k with
  | [] => g
  | b => { g with openB := tdel g.openB k, closedB := tput g.closedB k (tget [] g.closedB k ++ [b]) }

/-- A command joins the open batch of its class (R144). -/
def Group.join (g : Group) (c : Cls) (id : Nat) : Group :=
  { g with openB := tput g.openB (clsNum c) (tget [] g.openB (clsNum c) ++ [id]) }

/-- A command is complete (R145). -/
def State.cmdDone (s : State) (id : Nat) : Bool :=
  match tfind s.cmds id with
  | some x => x.phase = .done
  | none => true

/-- A register that an engine will still write (R148). -/
def State.pendBusy (s : State) (ln : Lane) : Bool := ln.pend.any fun e => !s.cmdDone e.2.cmd

/-- ORs bits into STATUS of a class (R147). -/
def Group.orStatus (g : Group) (c : Cls) (b : BitVec 4) : Group :=
  { g with status := tset 0 g.status (clsNum c) (tget 0 g.status (clsNum c) ||| b) }

/-- The group of a command, if it is still there. -/
def State.cmdGroup (s : State) (o : Origin) : Option Group :=
  match s.group o.core o.slot with
  | some g => if g.uid = o.uid then some g else none
  | none => none

/-- STATUS bits: DATAERR, XFAULT, MISS, UNAVAIL (R147). -/
def stDataErr : BitVec 4 := 1
/-- A translation, seal, bounds, range, record or program fault. -/
def stXfault : BitVec 4 := 2
/-- A miss of the gather engine. -/
def stMiss : BitVec 4 := 4
/-- An unavailable stack or port. -/
def stUnavail : BitVec 4 := 8

/-- The STATUS bit of a fault code (R147, R312). -/
def statusOf (code : Nat) : BitVec 4 := if code = 0x12 then stDataErr else if code = 0x13 then stUnavail else stXfault

/-- The record of an engine completion fault (R312). -/
def engRecord (o : Origin) (f : FaultAt) : FRec :=
  { f.record o.pc noPc with eng := true, bclass := BitVec.ofNat 3 (clsNum o.cls) }

/-- The block of a group is being pre-empted (R253). -/
def State.stopping (s : State) (c : Nat) (g : Group) : Bool :=
  match s.block c g.bslot with
  | some b => b.stopping
  | none => false

/-- AN ENGINE COMPLETION FAULT (R312): the group's record and a log entry are written; under PARK or DELIVER the policy
waits for the batch. A fault found while the block is being pre-empted is pending in its image under any policy (R321, R341). -/
def State.engFault (s : State) (o : Origin) (id : Nat) (f : FaultAt) : State :=
  let r := engRecord o f
  let s := (s.logOrigin o r).audFail o.core o.bslot
  match s.cmdGroup o with
  | some g =>
    let keep : Bool := match (s.polder o.polder).policy f.code with
      | .park | .deliver => true
      | _ => s.stopping o.core g
    s.setGroup o.core o.slot { g with frec := r, pendF := if keep then g.pendF ++ [(id, r)] else g.pendF }
  | none => s

/-- The faults of a command, one for each code: every lane that met it, the rest from the lowest lane (R333). -/
def Cmd.faultList (x : Cmd) : List FaultAt :=
  let codes := (x.faults.map fun f => f.2.1).eraseDups
  codes.filterMap fun k =>
    let fs := x.faults.filter fun f => f.2.1 = k
    (argMin (fun f : Nat × Nat × Nat × DWord × Word => f.1) fs).map fun f =>
      { code := k, cause := f.2.2.1, lanes := maskOf fun l => fs.any fun e => e.1 = l
        addr := f.2.2.2.1, aux := f.2.2.2.2 }

/-- Notes a completion fault of a lane of a command. -/
def State.noteFault (s : State) (id lane code cause : Nat) (addr : DWord) (aux : Word) : State :=
  match tfind s.cmds id with
  | some x =>
    let y := { x with status := x.status ||| statusOf code, faults := x.faults ++ [(lane, code, cause, addr, aux)] }
    { s with cmds := tput s.cmds id y }
  | none => s

/-- Lines of a core's read cache that a command's scratchpad writes touch are dropped: its batch is complete (R235). -/
def Core.dropWrote (k : Core) (ws : List (Nat × Nat)) : Core :=
  { k with rcache := k.rcache.filter fun e => ws.all fun w => !(decide (64 * e.1 < w.1 + w.2) && decide (w.1 < 64 * e.1 + 64)) }

/-- What the commands of a batch have written in scratchpad (R235). -/
def State.wroteOf (s : State) (b : List Nat) : List (Nat × Nat) :=
  b.flatMap fun i => match tfind s.cmds i with | some x => x.wrote | none => []

/-- A DATAERR of a command has been recorded: what its queued packets still meet is not recorded again (R333). -/
def State.tellAll (s : State) (ids : List Nat) : State :=
  let told (i : Nat) : Bool := ids.contains i && match tfind s.cmds i with
    | some x => x.faults.any fun e => e.2.1 = 0x12
    | none => false
  { s with queue := s.queue.map fun q => if told q.cmd then { q with told := true } else q }

/-- The lanes of a command whose accepted packets cannot be applied, where it ends with a DATAERR anyway: one record names them all
(R325, R333). -/
def State.lostLanes (s : State) (id : Nat) (x : Cmd) : Cmd :=
  if x.faults.any fun e => e.2.1 = 0x12 then
    { x with faults := x.faults ++ (s.queue.filter fun q => q.cmd = id && s.lost (q.pa / 64)).map fun q =>
        (q.lane, 0x12, 0, BitVec.ofNat 64 q.va, 0) }
  else x

/-- Complete batches of a class leave the queue in order (R145): STATUS takes their bits (R147), and their main-memory
writes count as finished (R228); lines of the read cache that it wrote are dropped (R235). `fuel` bounds their number. -/
def State.popBatches (s : State) (c sl : Nat) (k : Cls) : Nat → State
  | 0 => s
  | fuel + 1 =>
    match s.group c sl with
    | some g =>
      match tget [] g.closedB (clsNum k) with
      | b :: r =>
        if b.all s.cmdDone then
          let bits := b.foldl (fun w i => match tfind s.cmds i with | some x => w ||| x.status | none => w) 0
          let g := { g.orStatus k bits with
            closedB := if r = [] then tdel g.closedB (clsNum k) else tput g.closedB (clsNum k) r
            finished := g.finished ++ b }
          let s1 := ((s.tellAll b).setCore c ((s.core c).dropWrote (s.wroteOf b))).setGroup c sl g
          State.popBatches { s1 with cmds := b.foldl tdel s1.cmds } c sl k fuel
        else s
      | [] => s
    | none => s

/-- Complete batches of every class leave. -/
def State.popAll (s : State) (c sl : Nat) : State := allCls.foldl (fun s k => s.popBatches c sl k 16) s

/-! ### The end of a group (R28, R144, R175) -/

/-- Frees the slot of a group that has no thread, once its batches are complete; its stores stay to be performed. -/
def State.reap (s : State) (c sl : Nat) : State :=
  match s.group c sl with
  | some g =>
    if g.occs = [] && g.closedB = [] then
      let k := s.core c
      let s := s.setCore c { k with groups := tdel k.groups sl, orphans := k.orphans ++ g.stq }
      s.onSub c sl fun x => { x.leave sl with order := x.order.filter (· ≠ sl) }
    else s
  | none => s

/-- The group ends where no occupied lane is left: helper lanes go, open batches are closed (R28, R144). -/
def State.endGroup (s : State) (c sl : Nat) : State :=
  match s.group c sl with
  | some g =>
    if g.occs = [] then
      ((s.setGroup c sl { allCls.foldl Group.closeBatch g with
        lanes := [], waiting := .none, clause := none }).popAll c sl).reap c sl
    else s
  | none => s

/-! ### Waits (R146, R312) -/

/-- A command's batch has left its queue: it is complete (R145). -/
def State.batchDone (s : State) (id : Nat) : Bool := (tfind s.cmds id).isNone

/-- Pending registers of classes whose batches are complete hold their values from now on (R148). -/
def Group.unpend (g : Group) (done : Nat → Bool) (cs : List Cls) : Group :=
  g.mapLanes fun _ ln => { ln with pend := ln.pend.filter fun e => !(cs.contains e.2.cls && done e.2.cmd) }

/-- The latest pending completion fault of complete batches of some classes is applied at a wait (R312). -/
def State.applyPending (s : State) (c sl : Nat) (cs : List Cls) (resume : Word) : State :=
  match s.group c sl with
  | some g =>
    let mine (e : Nat × FRec) : Bool :=
      (cs.any fun k => e.2.bclass.toNat = clsNum k) && s.batchDone e.1
    match (g.pendF.filter mine).getLast? with
    | some e =>
      let g := { g with pendF := g.pendF.filter fun x => !mine x }
      let l := s.launchOf c g
      let r := { e.2 with resume := resume }
      let p := (s.polder l.polder).policy r.code.toNat
      match p with
      | .cont | .replay => s.setGroup c sl g
      | _ =>
        let h := applyPolicy p l g r
        let s := s.setGroup c sl h
        if h.frec.dlvFail then s.logRec c sl h h.frec else s
    | none => s
  | none => s

/-- One step of a group's wait: classes in order; a class with few enough outstanding batches gives its STATUS
(R146).
(DEDUCED: log entry 45.) -/
def waitLoop (n : Nat) : List Cls → Group → Table (BitVec 4) → List Cls × Group × Table (BitVec 4)
  | [], g, t => ([], g, t)
  | k :: r, g, t =>
    if !g.canClose k then (k :: r, g, t)
    else
      let h := g.closeBatch k
      if h.outstanding k ≤ n then
        waitLoop n r { h with status := tdel h.status (clsNum k) } (tset 0 t (clsNum k) (tget 0 h.status (clsNum k)))
      else (k :: r, h, t)

/-- The status that a `wait` writes: the OR over the classes that have passed (R146). -/
def passedStatus (t : Table (BitVec 4)) : Word := (t.foldl (fun w e => w ||| e.2) (0 : BitVec 4)).setWidth 32

/-- A wait that a checkpoint image holds: a `wait`, or a header wait, which the image holds as its PC (R320, R321). -/
def Group.waitSaved (g : Group) : Bool :=
  match g.waiting with
  | .wait _ _ _ _ _ _ => true
  | .header _ _ => true
  | _ => false

/-- WAIT_RETURN (R146): a waiting group goes on where its wait is satisfied; STATUS takes the place of a long-latency
result that has still to arrive in its register (R60). A group of a block that is being pre-empted
keeps its wait for the image (R320, R321).
(DEDUCED: log entry 45.) -/
def State.wake (s : State) (c sl : Nat) : State :=
  match s.group c sl with
  | some g =>
    if s.stopping c g && g.waitSaved then s
    else
    match g.waiting with
    | .wait cs asked n d lanes t =>
      let (rest, h, t) := waitLoop n cs g t
      if rest = [] then
        let (acc, s) := s.inputWord c h (passedStatus t)
        let h := h.mapLanes fun i ln =>
          if lanes.getLsbD i then (ln.freshen (.reg d)).setReg d acc else ln
        let h := { h.unpend s.batchDone (classesOf asked) with
          waiting := .none
          inflight := h.inflight.map fun f =>
            { f with writes := f.writes.filter fun w => !(lanes.getLsbD w.lane && decide (w.loc = .reg d)) } }
        (s.setGroup c sl h).applyPending c sl (classesOf asked) h.pc
      else s.setGroup c sl { h with waiting := .wait rest asked n d lanes t }
    | .header cs n =>
      let h := (cs.filter g.canClose).foldl Group.closeBatch g
      if cs.all fun k => g.canClose k && decide (h.outstanding k ≤ n) then
        let h := { h.unpend s.batchDone cs with waiting := .none }
        (s.setGroup c sl h).applyPending c sl cs h.pc
      else s.setGroup c sl h
    | _ => s
  | none => s

/-- Complete batches leave, then a wait goes on, which may close a batch that is complete already: once for each class
that a wait may name, and once more. -/
def State.settleRounds (c sl : Nat) : Nat → State → State
  | 0, s => s
  | n + 1, s => State.settleRounds c sl n ((s.popAll c sl).wake c sl)

/-- BATCH_COMPLETE (R145): complete batches leave, a wait may return, a group without a thread may end. -/
def State.settleBatches (s : State) (c sl : Nat) : State := (State.settleRounds c sl 7 s).reap c sl

/-- A command completes (R145, R312): its faults are recorded, and its batch may be complete. -/
def State.finish (s : State) (id : Nat) : State :=
  match tfind s.cmds id with
  | some x =>
    let s := (s.lostLanes id x).faultList.foldl (fun s f => s.engFault x.org id f) s
    match s.cmdGroup x.org with
    | some _ =>
      State.settleBatches
        { s with cmds := tput s.cmds id { x with phase := .done }, accs := x.accs.foldl tdel s.accs }
        x.org.core x.org.slot
    | none =>
      let s := (s.tellAll [id]).setCore x.org.core ((s.core x.org.core).dropWrote x.wrote)
      { s with cmds := tdel s.cmds id, accs := x.accs.foldl tdel s.accs }
  | none => s

/-- Writes a command's result to a register of a lane, unless another instruction has written it since (R148). -/
def State.giveResult (s : State) (o : Origin) (id lane r : Nat) (v : Word) : State :=
  match s.cmdGroup o with
  | some g =>
    match tfind (g.lane lane).pend r with
    | some e =>
      if e.cmd = id then
        let ln := g.lane lane
        s.setGroup o.core o.slot { g with lanes := tput g.lanes lane { ln with regs := tset 0 ln.regs r v } }
      else s
    | none => s
  | none => s

/-- A command whose work stays inside its block: a re-execution does it too (R259, R261). -/
def CmdOp.isOwn : CmdOp → Bool
  | .sealRec _ _ _ => true
  | .spawn _ _ => true
  | _ => false

/-- What a command is issued to do: in a re-execution one that is not its block's own takes its results from the log (R261). -/
def State.opFor (s : State) (c : Nat) (g : Group) (op : CmdOp) (phase : Phase) : CmdOp × Phase × State :=
  if s.inRerun c g.bslot then
    let (e, s) := s.nextLog c g.bslot g.gnum
    if op.isOwn then (op, phase, s) else (.replayed op e, .data, s)
  else (op, phase, s)

/-- Issues a command: it joins its batch, and registers of its lanes become pending (R144, R148). -/
def State.launchCmd (s : State) (c sl : Nat) (g : Group) (k : Cls) (op : CmdOp) (mask : BitVec 32) (phase : Phase)
    (regs : List Nat) (writes : Nat → Bool) : Nat × State :=
  let (op, phase, s) := s.opFor c g op phase
  let (id, s) := s.newId
  let cmd : Cmd :=
    { org := s.originOf c sl g k, op := op, mask := mask, phase := phase, stores := s.storesOf g
      plan := [], accs := [], recB := [], recB2 := [], status := 0, faults := [], wrote := [] }
  let s := State.audPlan { s with cmds := tput s.cmds id cmd } cmd.org id
  (id, s.onGroup c sl fun h =>
    (h.join k id).mapLanes fun i ln =>
      if writes i then { ln with pend := regs.foldl (fun t r => tput t r { cmd := id, cls := k }) ln.pend } else ln)

/-- Rewrites a command. -/
def State.onCmd (s : State) (id : Nat) (f : Cmd → Cmd) : State :=
  match tfind s.cmds id with
  | some x => { s with cmds := tput s.cmds id (f x) }
  | none => s

/-- Every store entry of a list has been written (R235).
(DEDUCED: log entry 25.) -/
def State.storesDone (s : State) (o : Origin) (ids : List Nat) : Bool :=
  let q := match s.cmdGroup o with
    | some g => g.stq
    | none => (s.core o.core).orphans
  ids.all fun i => (q.all fun e => e.id ≠ i) && s.linkQ.all fun x => x.entry.id ≠ i

/-! ### Instructions -/

/-- The condition under which a fence completes (R149, R228, R229). -/
def State.fenceOk (s : State) (g : Group) (sc : FScope) : Bool :=
  let here : Bool := g.stq = [] && !g.awaitsReply && !g.loading
  let ids := g.mreds ++ g.finished
  match sc with
  | .grp | .blk => here
  | .die => here && s.drained ids
  | .pkg => here && s.drained ids && s.linksClear g.uid
  | .sys => here && s.drained ids && s.linksClear g.uid && s.acked ids
  | .bank => s.drained ids
  | .mx => g.stq = []

/-- A batch is closed only while fewer than 16 are outstanding (R144). -/
def batchPre (c : Cls) (gd : Guard) (_c _sl : Nat) (g : Group) (_s : State) : Check :=
  if lanes32.any (g.active gd) && !g.canClose c then .stall else .ok

/-- `batch` (R144, R146). -/
def execBatch (c : Cls) (gd : Guard) (s : State) : Out :=
  issueWith (issueOf (.batch c gd)) (batchPre c gd)
    (fun k sl g s =>
      if lanes32.any (g.active gd) then (s.onGroup k sl (·.closeBatch c)).settleBatches k sl else s) s

/-- `wait` (R146). -/
def execWait (d : Reg) (w : WCls) (n : BitVec 4) (gd : Guard) (s : State) : Out :=
  issue (issueOf (.wait d w n gd))
    (fun c sl g s =>
      if lanes32.any (g.active gd) then
        (s.onGroup c sl fun h =>
          { h with waiting := .wait (classesOf w) w n.toNat d.toNat (maskOf (g.active gd)) [] }).settleBatches c sl
      else s) s

/-- `fence` (R149): the group suspends until the scope's condition holds. -/
def execFence (sc : FScope) (gd : Guard) (s : State) : Out :=
  issue (issueOf (.fence sc gd))
    (fun c sl g s =>
      if lanes32.any (g.active gd) then s.onGroup c sl fun h => { h with waiting := .fence sc } else s) s

/-- FENCE_COMPLETE (R149): the matrix path then observes every performed store (R119). -/
def execFenceComplete (core slot : Nat) (s : State) : Out :=
  .next <|
    match s.group core slot with
    | some g =>
      match g.waiting with
      | .fence sc =>
        if s.fenceOk g sc then
          let s := s.setGroup core slot { g with waiting := .none }
          if sc = .mx then s.setCore core { s.core core with mxHist := [] } else s
        else s
      | _ => s
    | none => s

end Sys2Proof.Machine
end

