-- ==== Sys2Proof/Machine/Special.lean ====
section
/-! DEFINITION. The special functions of R101 and R102, each correctly rounded once. `frcp`, `frsq` and `fsqrt` are
rounded from an exact quotient or root with a sticky bit; the others from a value computed in fixed point with 256
fractional bits, whose error is below 2^-240 (log entry 4). -/

namespace Sys2Proof.Machine

/-- Fractional bits of the fixed-point bounds. -/
def fb : Nat := 256

/-- One in fixed point. -/
def fone : Int := 2 ^ fb

/-- Product in fixed point, rounded down. -/
def fmulX (a b : Int) : Int := a * b / fone

/-- Σ of the terms t_k of a series whose next term is `next k t`. -/
def series (next : Nat → Int → Int) : Nat → Nat → Int → Int
  | 0, _, _ => 0
  | n + 1, k, t => t + series next n (k + 1) (next k t)

/-- atanh z = Σ z^(2k+1) / (2k+1), z at most 1/3. -/
def atanhX (z : Int) : Int :=
  let z2 := fmulX z z
  (List.range 84).foldr (fun (k : Nat) (acc : Int) => fone / (2 * k + 1) + fmulX z2 acc) 0 |> fmulX z

/-- ln 2 = 2 atanh (1/3). -/
def ln2X : Int := 2 * atanhX (fone / 3)

/-- atan (1/n) by its series. -/
def atanInvX (n : Int) : Int :=
  (List.range 160).foldr (fun (k : Nat) (acc : Int) => fone / (2 * k + 1) - acc / (n * n)) 0 / n

/-- π = 16 atan (1/5) − 4 atan (1/239). -/
def piX : Int := 16 * atanInvX 5 - 4 * atanInvX 239

/-- e^y for y from −1 to 1. -/
def expX (y : Int) : Int := series (fun k t => fmulX t y / (k + 1)) 64 0 fone

/-- sin y for y from 0 to 2. -/
def sinX (y : Int) : Int :=
  let y2 := fmulX y y
  series (fun k t => -(fmulX t y2) / ((2 * k + 2) * (2 * k + 3))) 40 0 y

/-- Rounds an irrational positive magnitude whose computed value is v · 2^(e − 256), with a sticky bit below it
(PRESUMED: that no FP32 operand has a result within the error of v of a rounding boundary, log entry 4). -/
def roundX (rm : RM) (neg : Bool) (v : Int) (e : Int) : Nat × Flags :=
  fp32.round rm false neg (2 * v.toNat + 1) (e - fb - 1)

/-- m · 2^e in fixed point, rounded down. -/
def fixed (m : Int) (e : Int) : Int :=
  let s := e + fb
  if 0 ≤ s then m * 2 ^ s.toNat else m / 2 ^ (-s).toNat

/-- Result of a special function: code and flags. -/
abbrev SRes := Nat × Flags

/-- A magnitude n · 2^e with a sticky remainder. -/
def roundSticky (rm : RM) (neg : Bool) (n : Nat) (exact : Bool) (e : Int) : SRes :=
  fp32.round rm false neg (if exact then 2 * n else 2 * n + 1) (e - 1)

/-- ±∞ as an FP32 code. -/
def infCode (neg : Bool) : Nat := fp32.sign neg + 0x7F800000

/-- The canonical NaN with INV. -/
def invalid : SRes := (fp32.nan, fINV)

/-- 1 / x. -/
def rcpV (rm : RM) (x : FVal) : SRes :=
  match x with
  | .nan s => (fp32.nan, if s then fINV else 0)
  | .inf n => (fp32.sign n, 0)
  | .fin n 0 _ => (infCode n, fDZ)
  | .fin n m e =>
    let q := 2 ^ 100 / m
    roundSticky rm n q (2 ^ 100 % m = 0) (-e - 100)

/-- √x. -/
def sqrtV (rm : RM) (x : FVal) : SRes :=
  match x with
  | .nan s => (fp32.nan, if s then fINV else 0)
  | .inf n => if n then invalid else (infCode false, 0)
  | .fin n 0 _ => (fp32.sign n, 0)
  | .fin true _ _ => invalid
  | .fin false m e =>
    let (m', e') := if e % 2 = 0 then (m, e) else (2 * m, e - 1)
    let r := Nat.sqrt (m' * 2 ^ 80)
    roundSticky rm false r (r * r = m' * 2 ^ 80) (e' / 2 - 40)

/-- 1 / √x. -/
def rsqV (rm : RM) (x : FVal) : SRes :=
  match x with
  | .nan s => (fp32.nan, if s then fINV else 0)
  | .inf n => if n then invalid else (0, 0)
  | .fin n 0 _ => (infCode n, 0)
  | .fin true _ _ => invalid
  | .fin false m e =>
    let (m', e') := if e % 2 = 0 then (m, e) else (2 * m, e - 1)
    let r := Nat.sqrt (2 ^ 160 / m')
    roundSticky rm false r (r * r * m' = 2 ^ 160) (-(e' / 2) - 80)

/-- 2^x. -/
def exp2V (rm : RM) (x : FVal) : SRes :=
  match x with
  | .nan s => (fp32.nan, if s then fINV else 0)
  | .inf n => (if n then 0 else infCode false, 0)
  | .fin _ 0 _ => (0x3F800000, 0)
  | .fin n m e =>
    if (m.log2 : Int) + e ≥ 10 then (if n then fp32.round rm false false 1 (-600) else fp32.round rm false false 1 600)
    else
      let v := fixed (signed n m) e
      let k := v / fone
      let f := v % fone
      if f = 0 then fp32.round rm false false 1 k
      else roundX rm false (expX (fmulX f ln2X)) k

/-- log2 x. -/
def log2V (rm : RM) (x : FVal) : SRes :=
  match x with
  | .nan s => (fp32.nan, if s then fINV else 0)
  | .inf n => if n then invalid else (infCode false, 0)
  | .fin _ 0 _ => (infCode true, fDZ)
  | .fin true _ _ => invalid
  | .fin false m e =>
    let l := m.log2
    let k := (l : Int) + e
    if m = 2 ^ l then fp32.roundInt .rne false false k 0
    else
      let y := fixed m (-l)
      let z := (y - fone) * fone / (y + fone)
      let v := k * fone + 2 * atanhX z * fone / ln2X
      roundX rm (v < 0) v.natAbs 0

/-- sin (π · r) for an exact r = p / 2^q, 0 < r ≤ 1/2, with a sign. -/
def sinPi (rm : RM) (neg : Bool) (p q : Nat) : SRes :=
  if 2 * p = 2 ^ q then (fp32.sign neg + 0x3F800000, 0)
  else roundX rm neg (sinX (piX * p / 2 ^ q)) 0

/-- sin (π · x). -/
def sinV (rm : RM) (x : FVal) : SRes :=
  match x with
  | .nan s => (fp32.nan, if s then fINV else 0)
  | .inf _ => invalid
  | .fin n m e =>
    if m = 0 ∨ e ≥ 0 then (fp32.sign n, 0)
    else
      let q := (-e).toNat
      let r := m % 2 ^ (q + 1)
      if r % 2 ^ q = 0 then (fp32.sign n, 0)
      else
        let h := r % 2 ^ q
        let p := if 2 * h > 2 ^ q then 2 ^ q - h else h
        sinPi rm (n != decide (r ≥ 2 ^ q)) p q

/-- cos (π · x). -/
def cosV (rm : RM) (x : FVal) : SRes :=
  match x with
  | .nan s => (fp32.nan, if s then fINV else 0)
  | .inf _ => invalid
  | .fin _ m e =>
    if m = 0 then (0x3F800000, 0)
    else if e ≥ 0 then (fp32.sign (e = 0 && m % 2 = 1) + 0x3F800000, 0)
    -- |x| < 2^-15: just below 1
    else if (m.log2 : Int) + e < -15 then fp32.round rm false false (2 ^ 60 - 1) (-60)
    else
      let q := (-e).toNat
      let r := m % 2 ^ (q + 1)
      let h := r % 2 ^ q
      if h = 0 then (fp32.sign (decide (r ≥ 2 ^ q)) + 0x3F800000, 0)
      else if 2 * h = 2 ^ q then (0, 0)
      else
        -- cos π h = sin π (1/2 − h), with one more bit of denominator
        let neg := decide (r ≥ 2 ^ q) != decide (2 * h > 2 ^ q)
        let p := if 2 * h > 2 ^ q then 2 * h - 2 ^ q else 2 ^ q - 2 * h
        sinPi rm neg p (q + 1)

/-- tanh x. -/
def tanhV (rm : RM) (x : FVal) : SRes :=
  match x with
  | .nan s => (fp32.nan, if s then fINV else 0)
  | .inf n => (fp32.sign n + 0x3F800000, 0)
  | .fin n 0 _ => (fp32.sign n, 0)
  | .fin n m e =>
    let l := (m.log2 : Int) + e
    -- |x| < 2^-13: just below x, and no boundary of a rounding lies between (x³/3 is under 2^-27 of x)
    if l < -13 then fp32.round rm false n (m * 2 ^ 40 - 1) (e - 40)
    -- |x| ≥ 64: just below 1
    else if l ≥ 6 then fp32.round rm false n (2 ^ 60 - 1) (-60)
    else
      let y := 2 * fixed m e
      let k := y / ln2X
      let u := expX (-(y - k * ln2X)) / 2 ^ k.toNat
      roundX rm n ((fone - u) * fone / (fone + u)) 0

/-- The special function numbered as its major opcode is, 0x50 to 0x57. -/
def special (f : Nat) (rm : RM) (c : Nat) : SRes :=
  let x := fp32.dec c
  match f with
  | 0 => rcpV rm x
  | 1 => rsqV rm x
  | 2 => sqrtV rm x
  | 3 => exp2V rm x
  | 4 => log2V rm x
  | 5 => sinV rm x
  | 6 => cosV rm x
  | _ => tanhV rm x

end Sys2Proof.Machine
end

