-- ==== Sys2Proof/Machine/Vec.lean ====
section
/-! DEFINITION. The integer, address, bitwise, selection and move instructions of class VEC (R84 to R95). -/

namespace Sys2Proof.Machine

/-- A VEC instruction: in every active lane, the results that `f` gives at once (R84). -/
def vecLanes (v : Issue) (f : Group → Nat → List (Loc × Word) × Flags) (s : State) : Out :=
  issue v (fun c sl g s => s.writeLanes c sl (g.active v.guard) (fun i => (f g i).1) (fun i => (f g i).2)) s

/-- A VEC instruction that writes one register from up to three sources. -/
def vec3 (v : Issue) (d : Reg) (a b c : Src) (op : Word → Word → Word → Word × Flags) (s : State) : Out :=
  vecLanes v (fun g i =>
    let r := op (g.reg i a.reg.toNat) (g.reg i b.reg.toNat) (g.reg i c.reg.toNat)
    ([(.reg d.toNat, r.1)], r.2)) s

/-- No source: v255 reads zero (R57). -/
def v255 : Src := plain 255

/-- An integer operation sets no flag (R76). -/
def noFlag (w : Word) : Word × Flags := (w, 0)

/-- Width and sign of an integer type (R85). -/
def ityp : IType → Nat × Bool
  | .i32 => (32, true) | .n32 => (32, false) | .i16 => (16, true) | .n16 => (16, false)
  | .i8 => (8, true) | .n8 => (8, false)

/-- A source register read in a type (R85). -/
def readT (t : Nat × Bool) (w : Word) : Int := asInt t.1 t.2 (w.toNat % 2 ^ t.1)

/-- A result brought into a type's range and extended to a register (R85). -/
def writeT (t : Nat × Bool) (sat : Bool) (r : Int) : Word :=
  let (lo, hi) := intRange t.1 t.2
  BitVec.ofInt 32 (if sat then clampInt lo hi r else asInt t.1 t.2 (lowBits t.1 r))

/-- The arithmetic pattern of R87. -/
def arith (i : Instr) (d : Reg) (a b c : Src) (t : Nat × Bool) (sat : Bool) (op : Int → Int → Int → Int) (s : State) :
    Out :=
  vec3 (issueOf i) d a b c (fun x y z => noFlag (writeT t sat (op (readT t x) (readT t y) (readT t z)))) s

/-- The types of `imulhi` and `bfx`. -/
def wtyp : WideType → Nat × Bool
  | .i32 => (32, true)
  | .n32 => (32, false)

/-- The types of `iabs`. -/
def atyp : AbsType → Nat × Bool
  | .i32 => (32, true)
  | .i16 => (16, true)
  | .i8 => (8, true)

/-- `iadd` in register form (R87). -/
def execIadd (d : Reg) (a b : Src) (ty : IType) (sat : Bool) (g : Guard) (s : State) : Out :=
  arith (.iadd d a b ty sat g) d a b v255 (ityp ty) sat (fun x y _ => x + y) s

/-- `iadd` with an immediate (R86, R87). -/
def execIaddImm (d : Reg) (a : Src) (ty : IType) (sat : Bool) (imm : Word) (s : State) : Out :=
  arith (.iaddImm d a ty sat imm) d a v255 v255 (ityp ty) sat (fun x _ _ => x + readT (ityp ty) imm) s

/-- `isub` (R87). -/
def execIsub (d : Reg) (a b : Src) (ty : IType) (sat : Bool) (g : Guard) (s : State) : Out :=
  arith (.isub d a b ty sat g) d a b v255 (ityp ty) sat (fun x y _ => x - y) s

/-- `imul` in register form (R87). -/
def execImul (d : Reg) (a b : Src) (ty : IType) (sat : Bool) (g : Guard) (s : State) : Out :=
  arith (.imul d a b ty sat g) d a b v255 (ityp ty) sat (fun x y _ => x * y) s

/-- `imul` with an immediate (R86, R87). -/
def execImulImm (d : Reg) (a : Src) (ty : IType) (sat : Bool) (imm : Word) (s : State) : Out :=
  arith (.imulImm d a ty sat imm) d a v255 v255 (ityp ty) sat (fun x _ _ => x * readT (ityp ty) imm) s

/-- `imulhi` (R87). -/
def execImulhi (d : Reg) (a b : Src) (ty : WideType) (g : Guard) (s : State) : Out :=
  arith (.imulhi d a b ty g) d a b v255 (wtyp ty) false (fun x y _ => x * y / 2 ^ 32) s

/-- `imad` (R87). -/
def execImad (d : Reg) (a b c : Src) (ty : IType) (sat : Bool) (g : Guard) (s : State) : Out :=
  arith (.imad d a b c ty sat g) d a b c (ityp ty) sat (fun x y z => x * y + z) s

/-- `iabs` (R87). -/
def execIabs (d : Reg) (a : Src) (ty : AbsType) (sat : Bool) (g : Guard) (s : State) : Out :=
  arith (.iabs d a ty sat g) d a v255 v255 (atyp ty) sat (fun x _ _ => x.natAbs) s

/-- `imin` (R87). -/
def execImin (d : Reg) (a b : Src) (ty : IType) (g : Guard) (s : State) : Out :=
  arith (.imin d a b ty g) d a b v255 (ityp ty) false (fun x y _ => min x y) s

/-- `imax` (R87). -/
def execImax (d : Reg) (a b : Src) (ty : IType) (g : Guard) (s : State) : Out :=
  arith (.imax d a b ty g) d a b v255 (ityp ty) false (fun x y _ => max x y) s

/-- A bitwise instruction of two sources (R88). -/
def bitwise (i : Instr) (d : Reg) (a b : Src) (op : Word → Word → Word) (s : State) : Out :=
  vec3 (issueOf i) d a b v255 (fun x y _ => noFlag (op x y)) s

/-- `and` (R88). -/
def execAnd (d : Reg) (a b : Src) (g : Guard) (s : State) : Out := bitwise (.and d a b g) d a b (· &&& ·) s

/-- `and` with an immediate (R88). -/
def execAndImm (d : Reg) (a : Src) (imm : Word) (s : State) : Out :=
  bitwise (.andImm d a imm) d a v255 (fun x _ => x &&& imm) s

/-- `or` (R88). -/
def execOr (d : Reg) (a b : Src) (g : Guard) (s : State) : Out := bitwise (.or d a b g) d a b (· ||| ·) s

/-- `or` with an immediate (R88). -/
def execOrImm (d : Reg) (a : Src) (imm : Word) (s : State) : Out :=
  bitwise (.orImm d a imm) d a v255 (fun x _ => x ||| imm) s

/-- `xor` (R88). -/
def execXor (d : Reg) (a b : Src) (g : Guard) (s : State) : Out := bitwise (.xor d a b g) d a b (· ^^^ ·) s

/-- `xor` with an immediate (R88). -/
def execXorImm (d : Reg) (a : Src) (imm : Word) (s : State) : Out :=
  bitwise (.xorImm d a imm) d a v255 (fun x _ => x ^^^ imm) s

/-- `not` (R88). -/
def execNot (d : Reg) (a : Src) (g : Guard) (s : State) : Out := bitwise (.not d a g) d a v255 (fun x _ => ~~~x) s

/-- `shl`: 0 for a count of 32 or more (R88). -/
def execShl (d : Reg) (a b : Src) (g : Guard) (s : State) : Out :=
  bitwise (.shl d a b g) d a b (fun x n => x <<< n.toNat) s

/-- `shr`: 0 for a count of 32 or more (R88). -/
def execShr (d : Reg) (a b : Src) (g : Guard) (s : State) : Out :=
  bitwise (.shr d a b g) d a b (fun x n => x >>> n.toNat) s

/-- `sar` (R88). -/
def execSar (d : Reg) (a b : Src) (g : Guard) (s : State) : Out :=
  bitwise (.sar d a b g) d a b (fun x n => BitVec.ofInt 32 (x.toInt / 2 ^ min n.toNat 31)) s

/-- Number of one bits. -/
def popcount (x : Word) : Nat := ((List.range 32).filter fun i => x.getLsbD i).length

/-- Leading zero bits. -/
def leadingZeros (x : Word) : Nat := if x = 0 then 32 else 31 - x.toNat.log2

/-- `popc` (R88). -/
def execPopc (d : Reg) (a : Src) (g : Guard) (s : State) : Out :=
  bitwise (.popc d a g) d a v255 (fun x _ => BitVec.ofNat 32 (popcount x)) s

/-- `clz` (R88). -/
def execClz (d : Reg) (a : Src) (g : Guard) (s : State) : Out :=
  bitwise (.clz d a g) d a v255 (fun x _ => BitVec.ofNat 32 (leadingZeros x)) s

/-- `brev` (R88). -/
def execBrev (d : Reg) (a : Src) (g : Guard) (s : State) : Out :=
  bitwise (.brev d a g) d a v255 (fun x _ => x.reverse) s

/-- Field position and width in a `bfx` or `bfi` operand (R89). -/
def fieldPos (b : Word) : Nat × Nat := (b.toNat % 256, min (b.toNat / 256 % 256) 32)

/-- The extracted field of `bfx` (R89). -/
def bfxWord (t : Nat × Bool) (a b : Word) : Word :=
  let (pos, w) := fieldPos b
  let f := lowBits w (readT t a / 2 ^ pos)
  BitVec.ofInt 32 (if w = 0 then 0 else asInt w t.2 f)

/-- `bfx` (R89). -/
def execBfx (d : Reg) (a b : Src) (ty : WideType) (g : Guard) (s : State) : Out :=
  bitwise (.bfx d a b ty g) d a b (bfxWord (wtyp ty)) s

/-- The word with an inserted field (R89). -/
def bfiWord (a b c : Word) : Word :=
  let (pos, w) := fieldPos c
  let hi := min (pos + w) 32
  let mask : Word := if hi ≤ pos then 0 else BitVec.ofNat 32 ((2 ^ (hi - pos) - 1) * 2 ^ pos)
  (a &&& ~~~mask) ||| ((b <<< pos) &&& mask)

/-- `bfi` (R89). -/
def execBfi (d : Reg) (a b c : Src) (g : Guard) (s : State) : Out :=
  vec3 (issueOf (.bfi d a b c g)) d a b c (fun x y z => noFlag (bfiWord x y z)) s

/-- `sel` (R90). -/
def execSel (d : Reg) (a b : Src) (q : BitVec 3) (qneg : Bool) (g : Guard) (s : State) : Out :=
  vecLanes (issueOf (.sel d a b q qneg g)) (fun x i =>
    ([(.reg d.toNat, if x.pred i q.toNat != qneg then x.reg i a.reg.toNat else x.reg i b.reg.toNat)], 0)) s

/-- A comparison of integers (R91). -/
def compareInt (c : Cond) (x y : Int) : Bool :=
  match c with
  | .eq => x = y
  | .ne => x ≠ y
  | .lt => x < y
  | .le => x ≤ y
  | .gt => x > y
  | .ge => x ≥ y

/-- A predicate value as it is written. -/
def ofPred (b : Bool) : Word := if b then 1 else 0

/-- `cmp` (R91). -/
def execCmp (pd : BitVec 3) (a b : Src) (ty : IType) (c : Cond) (g : Guard) (s : State) : Out :=
  vecLanes (issueOf (.cmp pd a b ty c g)) (fun x i =>
    ([(.pred pd.toNat, ofPred (compareInt c (readT (ityp ty) (x.reg i a.reg.toNat))
      (readT (ityp ty) (x.reg i b.reg.toNat))))], 0)) s

/-- Byte `j` of a word as a signed or unsigned number. -/
def byteInt (sgn : Bool) (w : Word) (j : Nat) : Int := asInt 8 sgn (w.toNat / 256 ^ j % 256)

/-- The sum of `idp4` (R95). -/
def dot4 (na nb : Bool) (a b : Word) (c : Word) : Int :=
  c.toInt + ((List.range 4).map fun j => byteInt (!na) a j * byteInt (!nb) b j).foldl (· + ·) 0

/-- `idp4` (R95). -/
def execIdp4 (d : Reg) (a b c : Src) (na nb sat : Bool) (g : Guard) (s : State) : Out :=
  vec3 (issueOf (.idp4 d a b c na nb sat g)) d a b c
    (fun x y z => noFlag (writeT (32, true) sat (dot4 na nb x y z))) s

/-- Result and carry of `addc` (R92). -/
def addCarry (sub : Bool) (a b : Word) (ci : Nat) : Word × Bool :=
  if sub then (a - b - BitVec.ofNat 32 ci, a.toNat < b.toNat + ci)
  else (a + b + BitVec.ofNat 32 ci, a.toNat + b.toNat + ci ≥ 2 ^ 32)

/-- `addc` (R92). -/
def execAddc (d : Reg) (a b : Src) (pout : BitVec 3) (sub : Bool) (cin : Option (BitVec 3)) (g : Guard) (s : State) :
    Out :=
  vecLanes (issueOf (.addc d a b pout sub cin g)) (fun x i =>
    let ci := match cin with
      | some p => if x.pred i p.toNat then 1 else 0
      | none => 0
    let r := addCarry sub (x.reg i a.reg.toNat) (x.reg i b.reg.toNat) ci
    ([(.reg d.toNat, r.1), (.pred pout.toNat, ofPred r.2)], 0)) s

/-- The address of `lea` (R93). -/
def leaAddr (a : DWord) (b : Word) (sh : Nat) (sgn : Bool) : DWord :=
  a + ((if sgn then b.signExtend 64 else b.setWidth 64) <<< sh)

/-- `lea` (R93). -/
def execLea (d : Reg) (a b : Src) (sh : BitVec 3) (sgn : Bool) (g : Guard) (s : State) : Out :=
  vecLanes (issueOf (.lea d a b sh sgn g)) (fun x i =>
    let r := leaAddr (x.pair i a.reg.toNat) (x.reg i b.reg.toNat) sh.toNat sgn
    ([(.reg d.toNat, r.extractLsb' 0 32), (.reg (d.toNat + 1), r.extractLsb' 32 32)], 0)) s

/-- `mov` (R94). -/
def execMov (d : Reg) (a : Src) (g : Guard) (s : State) : Out := bitwise (.mov d a g) d a v255 (fun x _ => x) s

/-- `mov.p2r` (R94). -/
def execMovP2r (d : Reg) (g : Guard) (s : State) : Out :=
  vecLanes (issueOf (.movP2r d g)) (fun x i =>
    ([(.reg d.toNat, BitVec.ofNat 32 (0x80 + total ((List.range 7).map fun p => if x.pred i p then 2 ^ p else 0)))],
      0)) s

/-- `mov.r2p` (R94). -/
def execMovR2p (a : Src) (g : Guard) (s : State) : Out :=
  vecLanes (issueOf (.movR2p a g)) (fun x i =>
    ((List.range 7).map fun p => (.pred p, ofPred ((x.reg i a.reg.toNat).getLsbD p)), 0)) s

/-- `movi` (R94). -/
def execMovi (d : Reg) (imm : Word) (s : State) : Out :=
  vecLanes (issueOf (.movi d imm)) (fun _ _ => ([(.reg d.toNat, imm)], 0)) s

end Sys2Proof.Machine
end

