-- ==== Sys2Proof/Machine/Fpu.lean ====
section
/-! DEFINITION. The floating-point and conversion instructions of class VEC (R96 to R100) and the special functions of
class SFU (R101, R102). -/

namespace Sys2Proof.Machine

/-- A code and its flags as a register result. -/
def asWord (r : Nat × Flags) : Word × Flags := (BitVec.ofNat 32 r.1, r.2)

/-- An FP32 value in a register. -/
def fpv (w : Word) : FVal := fp32.dec w.toNat

/-- An FP32 instruction of up to three sources (R96). -/
def fp3 (i : Instr) (d : Reg) (a b c : Src) (op : FVal → FVal → FVal → Nat × Flags) (s : State) : Out :=
  vec3 (issueOf i) d a b c (fun x y z => asWord (op (fpv x) (fpv y) (fpv z))) s

/-- `fadd` (R96). -/
def execFadd (d : Reg) (a b : Src) (rm : RM) (g : Guard) (s : State) : Out :=
  fp3 (.fadd d a b rm g) d a b v255 (fun x y _ => fp32.addV rm x y) s

/-- `fadd` with an immediate, rounded with rne (R96). -/
def execFaddImm (d : Reg) (a : Src) (imm : Word) (s : State) : Out :=
  fp3 (.faddImm d a imm) d a v255 v255 (fun x _ _ => fp32.addV .rne x (fpv imm)) s

/-- `fsub` (R96). -/
def execFsub (d : Reg) (a b : Src) (rm : RM) (g : Guard) (s : State) : Out :=
  fp3 (.fsub d a b rm g) d a b v255 (fun x y _ => fp32.addV rm x y.neg) s

/-- `fmul` (R96). -/
def execFmul (d : Reg) (a b : Src) (rm : RM) (g : Guard) (s : State) : Out :=
  fp3 (.fmul d a b rm g) d a b v255 (fun x y _ => fp32.mul rm x y) s

/-- `fmul` with an immediate, rounded with rne (R96). -/
def execFmulImm (d : Reg) (a : Src) (imm : Word) (s : State) : Out :=
  fp3 (.fmulImm d a imm) d a v255 v255 (fun x _ _ => fp32.mul .rne x (fpv imm)) s

/-- `ffma` (R96). -/
def execFfma (d : Reg) (a b c : Src) (rm : RM) (g : Guard) (s : State) : Out :=
  fp3 (.ffma d a b c rm g) d a b c (fun x y z => fp32.fma rm x y z) s

/-- `fmin` (R97). -/
def execFmin (d : Reg) (a b : Src) (g : Guard) (s : State) : Out :=
  vec3 (issueOf (.fmin d a b g)) d a b v255 (fun x y _ => asWord (fp32.minmax false x.toNat y.toNat)) s

/-- `fmax` (R97). -/
def execFmax (d : Reg) (a b : Src) (g : Guard) (s : State) : Out :=
  vec3 (issueOf (.fmax d a b g)) d a b v255 (fun x y _ => asWord (fp32.minmax true x.toNat y.toNat)) s

/-- `fcmp` (R98). A discarded write of p7 still raises its flags (DEDUCED: log entry 29). -/
def execFcmp (pd : BitVec 3) (a b : Src) (c : FCond) (g : Guard) (s : State) : Out :=
  vecLanes (issueOf (.fcmp pd a b c g)) (fun x i =>
    let r := fcompare c (fpv (x.reg i a.reg.toNat)) (fpv (x.reg i b.reg.toNat))
    ([(.pred pd.toNat, ofPred r.1)], r.2)) s

/-- `frnd` (R96). -/
def execFrnd (d : Reg) (a : Src) (rm : RM) (g : Guard) (s : State) : Out :=
  vec3 (issueOf (.frnd d a rm g)) d a v255 v255 (fun x _ _ => asWord (frndCode rm x.toNat)) s

/-- The part of a register that a format and a selector name (R100). -/
def partOf (f : Fmt) (sel : BitVec 2) (w : Word) : Nat :=
  let n := fmtWidth f
  w.toNat / 2 ^ (n * (sel.toNat % (32 / n))) % 2 ^ n

/-- The merge register with one part replaced (R100). -/
def mergePart (f : Fmt) (sel : BitVec 2) (c : Word) (r : Nat) : Word :=
  let n := fmtWidth f
  let k := n * (sel.toNat % (32 / n))
  let old := c.toNat / 2 ^ k % 2 ^ n
  BitVec.ofNat 32 (c.toNat - old * 2 ^ k + r % 2 ^ n * 2 ^ k)

/-- `cvt`: an integer destination of 32 bits receives the whole result (R75, R100). -/
def execCvt (d : Reg) (a c : Src) (df sf : Fmt) (dsel ssel : BitVec 2) (sat : Bool) (rm : RM) (g : Guard) (s : State) :
    Out :=
  vec3 (issueOf (.cvt d a c df sf dsel ssel sat rm g)) d a v255 c (fun x _ z =>
    let r := convert df sf rm sat (partOf sf ssel x)
    (mergePart df dsel z r.1, r.2)) s

/-- A packed-half format (R99). -/
def halfFmt : HFmt → FFmt
  | .f16 => fp16
  | .bf16 => bf16

/-- An operation on both halves of packed registers (R99). -/
def packed (i : Instr) (d : Reg) (a b c : Src) (f : HFmt) (op : FFmt → FVal → FVal → FVal → Nat × Flags) (s : State) :
    Out :=
  vec3 (issueOf i) d a b c (fun x y z =>
    let part (w : Word) (h : Nat) : FVal := (halfFmt f).dec (w.toNat / 65536 ^ h % 65536)
    let r (h : Nat) := op (halfFmt f) (part x h) (part y h) (part z h)
    (BitVec.ofNat 32 ((r 1).1 * 65536 + (r 0).1), (r 0).2 ||| (r 1).2)) s

/-- `hadd2` (R99). -/
def execHadd2 (d : Reg) (a b : Src) (f : HFmt) (rm : RM) (g : Guard) (s : State) : Out :=
  packed (.hadd2 d a b f rm g) d a b v255 f (fun h x y _ => h.addV rm x y) s

/-- `hmul2` (R99). -/
def execHmul2 (d : Reg) (a b : Src) (f : HFmt) (rm : RM) (g : Guard) (s : State) : Out :=
  packed (.hmul2 d a b f rm g) d a b v255 f (fun h x y _ => h.mul rm x y) s

/-- `hfma2` (R99). -/
def execHfma2 (d : Reg) (a b c : Src) (f : HFmt) (rm : RM) (g : Guard) (s : State) : Out :=
  packed (.hfma2 d a b c f rm g) d a b c f (fun h x y z => h.fma rm x y z) s

/-- A long-latency instruction: the results that `f` gives at issue in every active lane arrive later (R60, R84). -/
def laterLanes (v : Issue) (f : Group → Nat → List (Loc × Word) × Flags) (s : State) : Out :=
  issue v (fun c sl g s =>
    s.defer c sl (v.la.getD 0) ((lanes32.filter (g.active v.guard)).flatMap fun i =>
      let r := f g i
      r.1.map fun w => { lane := i, loc := w.1, val := w.2, flags := r.2 })) s

/-- A special function (R101). -/
def sfu (i : Instr) (f : Nat) (d : Reg) (a : Src) (rm : RM) (s : State) : Out :=
  laterLanes (issueOf i) (fun g l =>
    let r := special f rm (g.reg l a.reg.toNat).toNat
    ([(.reg d.toNat, BitVec.ofNat 32 r.1)], r.2)) s

/-- `frcp` (R101). -/
def execFrcp (d : Reg) (a : Src) (rm : RM) (la : BitVec 4) (g : Guard) (s : State) : Out :=
  sfu (.frcp d a rm la g) 0 d a rm s

/-- `frsq` (R101). -/
def execFrsq (d : Reg) (a : Src) (rm : RM) (la : BitVec 4) (g : Guard) (s : State) : Out :=
  sfu (.frsq d a rm la g) 1 d a rm s

/-- `fsqrt` (R101). -/
def execFsqrt (d : Reg) (a : Src) (rm : RM) (la : BitVec 4) (g : Guard) (s : State) : Out :=
  sfu (.fsqrt d a rm la g) 2 d a rm s

/-- `fexp2` (R101). -/
def execFexp2 (d : Reg) (a : Src) (rm : RM) (la : BitVec 4) (g : Guard) (s : State) : Out :=
  sfu (.fexp2 d a rm la g) 3 d a rm s

/-- `flog2` (R101). -/
def execFlog2 (d : Reg) (a : Src) (rm : RM) (la : BitVec 4) (g : Guard) (s : State) : Out :=
  sfu (.flog2 d a rm la g) 4 d a rm s

/-- `fsin` (R101). -/
def execFsin (d : Reg) (a : Src) (rm : RM) (la : BitVec 4) (g : Guard) (s : State) : Out :=
  sfu (.fsin d a rm la g) 5 d a rm s

/-- `fcos` (R101). -/
def execFcos (d : Reg) (a : Src) (rm : RM) (la : BitVec 4) (g : Guard) (s : State) : Out :=
  sfu (.fcos d a rm la g) 6 d a rm s

/-- `ftanh` (R101). -/
def execFtanh (d : Reg) (a : Src) (rm : RM) (la : BitVec 4) (g : Guard) (s : State) : Out :=
  sfu (.ftanh d a rm la g) 7 d a rm s

end Sys2Proof.Machine
end

