-- ==== Sys2Proof/Machine/Xl.lean ====
section
/-! DEFINITION. The cross-lane instructions of class XL (R103 to R107) and the order of tile sums (R82, R83). -/

namespace Sys2Proof.Machine

/-- Lanes of a tile (R30). -/
def tileWidth : TileW → Nat
  | .w2 => 2 | .w4 => 4 | .w8 => 8 | .w16 => 16 | .w32 => 32

/-- A value of a reduction tree with the flags of the nodes it comes from. -/
abbrev Node := Word × Flags

/-- A node combines two nodes, the lower first (R82). -/
def joinNodes (op : Word → Word → Node) (x y : Node) : Node :=
  let r := op x.1 y.1
  (r.1, x.2 ||| y.2 ||| r.2)

/-- One level of the tree of R82. -/
def levelUp (op : Word → Word → Node) : List Node → List Node
  | x :: y :: r => joinNodes op x y :: levelUp op r
  | r => r

/-- The node over a range of a power-of-two length, of at most 2^5 lanes (R82). -/
def treeNode (op : Word → Word → Node) : Nat → List Node → Node
  | 0, xs => xs.headD (0, 0)
  | n + 1, xs => if xs.length ≤ 1 then xs.headD (0, 0) else treeNode op n (levelUp op xs)

/-- The aligned segments of the first n lanes, from the left (R83). -/
def segments (op : Word → Word → Node) : Nat → List Node → List Node
  | 0, xs => xs.take 1
  | k + 1, xs =>
    if xs.length ≥ 2 ^ (k + 1) then treeNode op 5 (xs.take (2 ^ (k + 1))) :: segments op k (xs.drop (2 ^ (k + 1)))
    else segments op k xs

/-- Segments combined from left to right (R83). -/
def combineLeft (op : Word → Word → Node) : List Node → Node
  | [] => (0, 0)
  | x :: r => r.foldl (joinNodes op) x

/-- Inclusive scan over lanes 0 to i (R83). -/
def scanTo (op : Word → Word → Node) (xs : List Node) (i : Nat) : Node :=
  combineLeft op (segments op 5 (xs.take (i + 1)))

/-- The operation of a reduction or scan (R107). -/
def redOp (op : ROp) (ty : RType) (sat : Bool) (x y : Word) : Node :=
  match ty with
  | .f32 =>
    match op with
    | .add => asWord (faddRne x.toNat y.toNat)
    | .max => asWord (fp32.minmax true x.toNat y.toNat)
    | .min => asWord (fp32.minmax false x.toNat y.toNat)
  | .i32 =>
    match op with
    | .add => noFlag (writeT (32, true) sat (x.toInt + y.toInt))
    | .max => noFlag (if x.toInt ≥ y.toInt then x else y)
    | .min => noFlag (if x.toInt ≤ y.toInt then x else y)
  | .n32 =>
    match op with
    | .add => noFlag (writeT (32, false) sat (x.toNat + y.toNat))
    | .max => noFlag (if x.toNat ≥ y.toNat then x else y)
    | .min => noFlag (if x.toNat ≤ y.toNat then x else y)

/-- The identity of an operation (R107). -/
def redId (op : ROp) (ty : RType) : Word :=
  match op, ty with
  | .add, _ => 0
  | .max, .f32 => 0xFF800000
  | .max, .i32 => 0x80000000
  | .max, .n32 => 0
  | .min, .f32 => 0x7F800000
  | .min, .i32 => 0x7FFFFFFF
  | .min, .n32 => 0xFFFFFFFF

/-- The source values of the tile that holds lane `i` (R103, R107). -/
def tileVals (g : Group) (a : Src) (occ : Bool) (id : Word) (i : Nat) : List Node :=
  let w := tileWidth g.tilew
  (List.range w).map fun k =>
    let j := i - i % w + k
    (if occ && !g.occ j then id else g.reg j a.reg.toNat, 0)

/-- `qswap`: the partner in the quad (R104). -/
def partner (m : QMode) (i : Nat) : Nat :=
  match m with
  | .h => i ^^^ 1
  | .v => i ^^^ 2
  | .d => i ^^^ 3

/-- `qswap` (R104). -/
def execQswap (d : Reg) (a : Src) (m : QMode) (la : BitVec 4) (g : Guard) (s : State) : Out :=
  laterLanes (issueOf (.qswap d a m la g)) (fun x i => ([(.reg d.toNat, x.reg (partner m i) a.reg.toNat)], 0)) s

/-- `qbcast` (R104). -/
def execQbcast (d : Reg) (a : Src) (k : BitVec 2) (la : BitVec 4) (g : Guard) (s : State) : Out :=
  laterLanes (issueOf (.qbcast d a k la g))
    (fun x i => ([(.reg d.toNat, x.reg (4 * (i / 4) + k.toNat) a.reg.toNat)], 0)) s

/-- The source lane of `shfl`, relative to the tile; none outside it (R105). -/
def shflFrom (m : ShMode) (w i n : Nat) : Option Nat :=
  match m with
  | .idx => some (n % w)
  | .up => if n ≤ i then some (i - n) else none
  | .down => if i + n < w then some (i + n) else none
  | .xor => if i ^^^ (n % 32) < w then some (i ^^^ (n % 32)) else none

/-- `shfl` (R105). -/
def execShfl (d : Reg) (a b : Src) (m : ShMode) (la : BitVec 4) (g : Guard) (s : State) : Out :=
  laterLanes (issueOf (.shfl d a b m la g)) (fun x i =>
    let w := tileWidth x.tilew
    let j := match shflFrom m w (i % w) (x.reg i b.reg.toNat).toNat with
      | some j => i - i % w + j
      | none => i
    ([(.reg d.toNat, x.reg j a.reg.toNat)], 0)) s

/-- The contributions to a vote (R106). -/
def voteBits (g : Group) (q : Nat) (m : VMode) (occ : Bool) (i : Nat) : List Bool :=
  let w := tileWidth g.tilew
  (List.range w).map fun k =>
    let j := i - i % w + k
    if occ && !g.occ j then m = .all else (g.lane j).st ≠ .empty && g.pred j q

/-- `vote` (R106). -/
def execVote (d : Reg) (q : BitVec 3) (m : VMode) (occ : Bool) (la : BitVec 4) (g : Guard) (s : State) : Out :=
  laterLanes (issueOf (.vote d q m occ la g)) (fun x i =>
    let bs := voteBits x q.toNat m occ i
    let pd := d.toNat % 8
    match m with
    | .any => ([(.pred pd, ofPred (bs.any id))], 0)
    | .all => ([(.pred pd, ofPred (bs.all id))], 0)
    | .ballot =>
      ([(.reg d.toNat, BitVec.ofNat 32 (total ((List.range bs.length).map fun k => if bs.getD k false then 2 ^ k else 0)))],
        0)) s

/-- A tile reduction (R82, R107). -/
def reduceTile (i : Instr) (op : ROp) (d : Reg) (a : Src) (ty : RType) (occ sat : Bool) (s : State) : Out :=
  laterLanes (issueOf i) (fun x l =>
    let r := treeNode (redOp op ty sat) 5 (tileVals x a occ (redId op ty) l)
    ([(.reg d.toNat, r.1)], r.2)) s

/-- `redadd` (R107). -/
def execRedadd (d : Reg) (a : Src) (ty : RType) (occ sat : Bool) (la : BitVec 4) (g : Guard) (s : State) : Out :=
  reduceTile (.redadd d a ty occ sat la g) .add d a ty occ sat s

/-- `redmax` (R107). -/
def execRedmax (d : Reg) (a : Src) (ty : RType) (occ : Bool) (la : BitVec 4) (g : Guard) (s : State) : Out :=
  reduceTile (.redmax d a ty occ la g) .max d a ty occ false s

/-- `redmin` (R107). -/
def execRedmin (d : Reg) (a : Src) (ty : RType) (occ : Bool) (la : BitVec 4) (g : Guard) (s : State) : Out :=
  reduceTile (.redmin d a ty occ la g) .min d a ty occ false s

/-- `scan` (R83, R107). -/
def execScan (d : Reg) (a : Src) (op : ROp) (ty : RType) (occ sat excl : Bool) (la : BitVec 4) (g : Guard) (s : State) :
    Out :=
  laterLanes (issueOf (.scan d a op ty occ sat excl la g)) (fun x l =>
    let xs := tileVals x a occ (redId op ty) l
    let i := l % tileWidth x.tilew
    let r := if excl then (if i = 0 then (redId op ty, 0) else scanTo (redOp op ty sat) xs (i - 1))
      else scanTo (redOp op ty sat) xs i
    ([(.reg d.toNat, r.1)], r.2)) s

end Sys2Proof.Machine
end

