-- ==== Sys2Proof/Machine/Mem.lean ====
section
/-! DEFINITION. The thread-memory instructions of class MEM (R136 to R142) and the special registers (R79, R108, R109,
R141). -/

namespace Sys2Proof.Machine

/-- Bytes of an access. -/
def widBytes (w : Wid) : Nat := 4 * widRegs w

/-- The exact address of a lane's access (R137). -/
def effAddr (g : Group) (a : Src) (off : Int) (l : Nat) : Int := (g.reg l a.reg.toNat).toNat + off

/-- A lane's access faults (R142): misaligned, or outside a space of `size` bytes. -/
def misaligned (w : Nat) (a : Int) : Bool := a % w ≠ 0
/-- Outside a space. -/
def outside (w size : Nat) (a : Int) : Bool := a < 0 || a + w > size

/-- A local address as a record holds it: its 32 bits, zero-extended (R305). -/
def localAddr (a : Int) : DWord := (BitVec.ofInt 32 a).setWidth 64

/-- The fault of a group of accesses, found before any lane accesses memory (R142, R308, R310): alignment first. -/
def accessCheck (space size w : Nat) (works : Nat → Bool) (addr : Nat → Int) (ir : Word) : Check :=
  let f (code : Nat) (bad : Int → Bool) : Option Check :=
    (lowest fun l => works l && bad (addr l)).map fun l =>
      .fault { code := code, cause := space, lanes := maskOf fun l => works l && bad (addr l)
               addr := localAddr (addr l), aux := ir }
  match f 4 (misaligned w) with
  | some x => x
  | none => (f 5 (outside w size)).getD .ok

/-- A later access of the group waits until an earlier one is performed, where that takes more than its issue (R221, R222). -/
def Group.accessing (g : Group) : Bool := g.awaitsReply || g.loading

/-- A thread-memory check: the fault if one is found, else a wait where `hold` says so. -/
def holdOr (hold : Bool) (x : Check) : Check :=
  match x with
  | .ok => if hold then .stall else .ok
  | y => y

/-- A scratchpad access needs the links to its home dies (R329): over a failed link it takes UNAVAIL (log entry 9). -/
def linkCheck (s : State) (c p : Nat) (works : Nat → Bool) (addr : Nat → Int) : Check :=
  let av (l : Nat) : Avail := s.linkAvail (dieOf c) (homeDie (s.spBase p + (addr l).toNat))
  let dead (l : Nat) : Bool := works l && decide (av l = .no)
  match lowest dead with
  | some l => .fault { code := 0x13, lanes := maskOf dead, addr := localAddr (addr l) }
  | none => if lanes32.any fun l => works l && decide (av l = .wait) then .stall else .ok

/-- Two checks in turn. -/
def Check.andThen (x y : Check) : Check :=
  match x with
  | .ok => y
  | z => z

/-- A helper lane's access that would fault (R142). -/
def suppressed (g : Group) (w size : Nat) (addr : Nat → Int) (l : Nat) : Bool :=
  !g.occ l && (misaligned w (addr l) || outside w size (addr l))

/-- A helper lane's scratchpad load that would fault, over a failed link too (R142, R329). -/
def spSuppressed (s : State) (c p w : Nat) (g : Group) (addr : Nat → Int) (l : Nat) : Bool :=
  suppressed g w (s.polder p).spSize addr l
    || (!g.occ l && decide (s.linkAvail (dieOf c) (homeDie (s.spBase p + (addr l).toNat)) = .no))

/-- Byte address of word i of a lane's access. -/
def wordAt (base : Nat) (a : Int) (i : Nat) : Nat := base + a.toNat + 4 * i

/-- The results of a load: for each active lane the words that `rd` gives, zero for a suppressed helper lane. -/
def loadResults (g : Group) (gd : Guard) (d n : Nat) (quiet : Nat → Bool) (rd : Nat → Nat → Word) : List LWrite :=
  (lanes32.filter (g.active gd)).flatMap fun l => (List.range n).map fun i =>
    { lane := l, loc := .reg (d + i), val := if quiet l then 0 else rd l i, flags := 0 }

/-- A block's progress event where some lane that is no helper lane is active (R349). -/
def State.progressIf (s : State) (c : Nat) (g : Group) (gd : Guard) : State :=
  if lanes32.any (g.works gd) then s.progress c g.bslot else s

/-- What an `ldsh` requires (R132, R142, R222). -/
def ldshPre (a : Src) (w : Wid) (off : BitVec 20) (gd : Guard) (c _sl : Nat) (g : Group) (s : State) : Check :=
  holdOr g.accessing (accessCheck 0 (s.shSizeOf c g) (widBytes w) (g.works gd) (effAddr g a off.toInt) s.ir)

/-- `ldsh` (R136, R137, R220). -/
def execLdsh (d : Reg) (a : Src) (sem : LdSem) (w : Wid) (off : BitVec 20) (sc : Scope) (la : BitVec 4) (gd : Guard)
    (s : State) : Out :=
  issueWith (issueOf (.ldsh d a sem w off sc la gd)) (ldshPre a w off gd)
    (fun c sl g s =>
      let addr := effAddr g a off.toInt
      let base := s.shBaseOf c g
      s.defer c sl la.toNat (loadResults g gd d.toNat (widRegs w) (suppressed g (widBytes w) (s.shSizeOf c g) addr)
        fun l i => s.shLoad c g (wordAt base (addr l) i))) s

/-- The writes of a store (R137, R218). -/
def storeWrites (g : Group) (gd : Guard) (base : Nat) (addr : Nat → Int) (src n : Nat) : List StWrite :=
  (lanes32.filter (g.works gd)).flatMap fun l => (List.range n).map fun i =>
    { lane := l, addr := wordAt base (addr l) i, val := g.reg l (src + i) }

/-- A store's offset in bytes (R136). -/
def offBytes (off : BitVec 10) : Int := 4 * off.toInt

/-- The release attribute of a store. -/
def relOf (sem : StSem) (sc : Scope) : Option Scope := if sem = .rel then some sc else none

/-- What an `stsh` requires: room in its store queue (R218). -/
def stshPre (a : Src) (w : Wid) (off : BitVec 10) (gd : Guard) (c _sl : Nat) (g : Group) (s : State) : Check :=
  holdOr (g.accessing || g.stq.length ≥ 32)
    (accessCheck 0 (s.shSizeOf c g) (widBytes w) (g.works gd) (effAddr g a (offBytes off)) s.ir)

/-- `stsh` (R136, R137, R218). -/
def execStsh (a v : Src) (sem : StSem) (w : Wid) (off : BitVec 10) (sc : Scope) (gd : Guard) (s : State) : Out :=
  issueWith (issueOf (.stsh a v sem w off sc gd)) (stshPre a w off gd)
    (fun c sl g s =>
      (s.enqueue c sl g .sh (s.launchOf c g).polder (relOf sem sc)
        (storeWrites g gd (s.shBaseOf c g) (effAddr g a (offBytes off)) v.reg.toNat (widRegs w))).progressIf c g gd) s

/-- Bytes of an atomic. -/
def atomBytes (w64 : Bool) : Nat := 4 * wideN w64

/-- Registers r or r:r+1 as a number. -/
def operand (g : Group) (w64 : Bool) (l r : Nat) : Nat :=
  if w64 then (g.pair l r).toNat else (g.reg l r).toNat

/-- The results of an old value. -/
def oldResults (l : Nat) (d : Reg) (w64 : Bool) (old : Nat) : List LWrite :=
  if d = 255 then []
  else (List.range (wideN w64)).map fun i =>
    { lane := l, loc := .reg (d.toNat + i), val := BitVec.ofNat 32 (old / 2 ^ (32 * i)), flags := 0 }

/-- Whether an atomic releases. -/
def semRel : Sem → Bool
  | .rel | .acqrel => true
  | _ => false
/-- Whether an atomic acquires. -/
def semAcq : Sem → Bool
  | .acq | .acqrel => true
  | _ => false

/-- A scope at `die` or wider. -/
def wideScope : Scope → Bool
  | .grp | .blk => false
  | _ => true

/-- An atomic waits for its group's empty store queue, and as a release for what precedes it (R222, R229). -/
def atomHold (s : State) (g : Group) (sem : Sem) (sc : Scope) : Bool :=
  g.accessing || g.stq ≠ [] || (semRel sem && !s.relReady g.uid (g.mreds ++ g.finished) sc)

/-- What an `atsh` requires (R132, R142, R222). -/
def atshPre (a : Src) (sem : Sem) (w64 : Bool) (sc : Scope) (gd : Guard) (k _sl : Nat) (g : Group) (s : State) : Check :=
  holdOr (atomHold s g sem sc) (accessCheck 0 (s.shSizeOf k g) (atomBytes w64) (g.works gd) (effAddr g a 0) s.ir)

/-- `atsh` (R138, R139, R222). -/
def execAtsh (d : Reg) (a b c : Src) (op : AOp) (sem : Sem) (w64 : Bool) (sc : Scope) (la : BitVec 4) (gd : Guard)
    (s : State) : Out :=
  issueWith (issueOf (.atsh d a b c op sem w64 sc la gd)) (atshPre a sem w64 sc gd)
    (fun k sl g s =>
      let n := wideN w64
      let base := s.shBaseOf k g
      let (ws, s) := (lanes32.filter (g.works gd)).foldl (init := ([], s)) fun (ws, s) l =>
        let at0 := wordAt base (effAddr g a 0 l) 0
        let old := ofLe (mreads (s.core k).sh at0 (4 * n))
        let new := atomVal op (32 * n) old (operand g w64 l b.reg.toNat) (operand g w64 l c.reg.toNat)
        (ws ++ oldResults l d w64 old,
          (List.range n).foldl (fun s i => s.shWord k (at0 + 4 * i) (BitVec.ofNat 32 (new / 2 ^ (32 * i)))) s)
      (s.defer k sl la.toNat ws).progressIf k g gd) s

/-- A group's scratchpad access is checked against its polder's window and the links, over which a re-execution sends nothing
(R261). -/
def spCheck (s : State) (c : Nat) (g : Group) (gd : Guard) (w : Nat) (addr : Nat → Int) : Check :=
  let p := (s.launchOf c g).polder
  (accessCheck 1 (s.polder p).spSize w (g.works gd) addr s.ir).andThen
    (if s.inRerun c g.bslot then .ok else linkCheck s c p (g.works gd) addr)

/-- What an `ldsp` requires (R133, R142, R222, R329). -/
def ldspPre (a : Src) (w : Wid) (off : BitVec 20) (gd : Guard) (c _sl : Nat) (g : Group) (s : State) : Check :=
  holdOr g.accessing (spCheck s c g gd (widBytes w) (effAddr g a off.toInt))

/-- The words that a scratchpad load has to read: those of the active lanes that are not suppressed. -/
def loadTodo (g : Group) (gd : Guard) (d n base : Nat) (acq cached : Bool) (quiet : Nat → Bool) (addr : Nat → Int) :
    List SpTodo :=
  (lanes32.filter fun l => g.active gd l && !quiet l).flatMap fun l => (List.range n).map fun i =>
    { lane := l, addr := wordAt base (addr l) i, acq := acq, op := .load (d + i) cached }

/-- `ldsp` (R133, R136, R137, R220, R229 to R231): its words are read from now on, lane after lane; in a re-execution the log gives
them (R261). -/
def execLdsp (d : Reg) (a : Src) (sem : LdSem) (w : Wid) (off : BitVec 20) (sc : Scope) (la : BitVec 4) (gd : Guard)
    (s : State) : Out :=
  issueWith (issueOf (.ldsp d a sem w off sc la gd)) (ldspPre a w off gd)
    (fun c sl g s =>
      let addr := effAddr g a off.toInt
      let p := (s.launchOf c g).polder
      let acq := sem = .acq && wideScope sc
      let quiet := spSuppressed s c p (widBytes w) g addr
      let ws := loadResults g gd d.toNat (widRegs w) quiet fun _ _ => 0
      let got := ws.filter fun w => quiet w.lane
      let todo := loadTodo g gd d.toNat (widRegs w) (s.spBase p) acq (!acq && decide (c < 32)) quiet addr
      if s.inRerun c g.bslot then
        let r := s.inputWords c g ws
        r.2.defer c sl la.toNat r.1
      else
      let s := if todo = [] then s.audLog c g (loggedWords got) else s
      s.deferParts c sl (s.originOf c sl g .cpy) la.toNat false ws got todo) s

/-- The effect records of a scratchpad store: for each active lane, ascending, its address and words (R260). -/
def storeEffect (base : Nat) (ws : List StWrite) : List Byte :=
  lanes32.flatMap fun l =>
    match ws.filter (·.lane = l) with
    | [] => []
    | w :: r => effectRec 1 (w.addr - base) (bytesOf ((w :: r).map (·.val)))

/-- What an `stsp` requires (R133, R142, R218, R329). -/
def stspPre (a : Src) (w : Wid) (off : BitVec 10) (gd : Guard) (c _sl : Nat) (g : Group) (s : State) : Check :=
  holdOr (g.accessing || g.stq.length ≥ 32) (spCheck s c g gd (widBytes w) (effAddr g a (offBytes off)))

/-- `stsp` (R133, R136, R137, R218, R229); a re-execution keeps its effect alone (R261). -/
def execStsp (a v : Src) (sem : StSem) (w : Wid) (off : BitVec 10) (sc : Scope) (gd : Guard) (s : State) : Out :=
  issueWith (issueOf (.stsp a v sem w off sc gd)) (stspPre a w off gd)
    (fun c sl g s =>
      let p := (s.launchOf c g).polder
      let ws := storeWrites g gd (s.spBase p) (effAddr g a (offBytes off)) v.reg.toNat (widRegs w)
      let t := if s.inRerun c g.bslot then s else s.enqueue c sl g .sp p (relOf sem sc) ws
      (t.audEffect c g (storeEffect (s.spBase p) ws)).progressIf c g gd) s

/-- What an `atsp` requires (R133, R142, R222, R229, R329). -/
def atspPre (a : Src) (sem : Sem) (w64 : Bool) (sc : Scope) (gd : Guard) (k _sl : Nat) (g : Group) (s : State) : Check :=
  holdOr (atomHold s g sem sc) (spCheck s k g gd (atomBytes w64) (effAddr g a 0))

/-- The registers of an atomic's old value. -/
def oldRegs (d : Reg) (w64 : Bool) : List Nat := if d = 255 then [] else (List.range (wideN w64)).map (d.toNat + ·)

/-- The operations of an atomic that its home dies have to apply, one for each lane that holds a thread (R138, R222). -/
def atomTodo (g : Group) (gd : Guard) (d : Reg) (a b c : Src) (op : AOp) (acq w64 : Bool) (rel : Option Scope) (base : Nat) :
    List SpTodo :=
  (lanes32.filter (g.works gd)).map fun l =>
    { lane := l, addr := wordAt base (effAddr g a 0 l) 0, acq := acq
      op := .atom op w64 (oldRegs d w64) (operand g w64 l b.reg.toNat) (operand g w64 l c.reg.toNat) rel
        (g.mreds ++ g.finished) }

/-- `atsp` (R133, R138, R139, R222, R229, R230): applied at the home die from now on, lane after lane; the reply brings the old
values. -/
def execAtsp (d : Reg) (a b c : Src) (op : AOp) (sem : Sem) (w64 : Bool) (sc : Scope) (la : BitVec 4) (gd : Guard)
    (s : State) : Out :=
  issueWith (issueOf (.atsp d a b c op sem w64 sc la gd)) (atspPre a sem w64 sc gd)
    (fun k sl g s =>
      let rel := if semRel sem then some sc else none
      let todo := atomTodo g gd d a b c op (semAcq sem && wideScope sc) w64 rel (s.spBase (s.launchOf k g).polder)
      let ws := todo.flatMap fun t => (oldRegs d w64).map fun r => { lane := t.lane, loc := .reg r, val := 0, flags := 0 }
      let s := if todo = [] then s else s.offAudit k g.bslot
      if s.inRerun k g.bslot then s.progressIf k g gd
      else
      (s.deferParts k sl (s.originOf k sl g .cpy) la.toNat true ws [] todo).progressIf k g gd) s

/-- The 4 KiB launch argument block; on a front core the start of the running image's body (R134, R184). -/
def argBytes (s : State) (l : Launch) : List Byte := if l.sram then mreads s.boot.sram 0 4096 else padTo 4096 l.arg

/-- What an `ldc` requires (R134, R142). -/
def ldcPre (a : Src) (w : Wid) (off : BitVec 20) (gd : Guard) (_c _sl : Nat) (g : Group) (s : State) : Check :=
  accessCheck 2 4096 (widBytes w) (g.works gd) (effAddr g a off.toInt) s.ir

/-- `ldc` (R134, R136, R140). -/
def execLdc (d : Reg) (a : Src) (w : Wid) (off : BitVec 20) (la : BitVec 4) (gd : Guard) (s : State) : Out :=
  issueWith (issueOf (.ldc d a w off la gd)) (ldcPre a w off gd)
    (fun c sl g s =>
      let addr := effAddr g a off.toInt
      let arg := argBytes s (s.launchOf c g)
      s.defer c sl la.toNat (loadResults g gd d.toNat (widRegs w) (suppressed g (widBytes w) 4096 addr)
        fun l i => BitVec.ofNat 32 (bfield arg (wordAt 0 (addr l) i) 4))) s

/-- Block coordinates (R23). -/
def blkX (l : Launch) (b : Nat) : Nat := b % l.nblkX
/-- Block coordinate Y. -/
def blkY (l : Launch) (b : Nat) : Nat := b / l.nblkX % l.nblkY
/-- Block coordinate Z. -/
def blkZ (l : Launch) (b : Nat) : Nat := b / l.nblkX / l.nblkY

/-- Groups of a block at launch (R23). -/
def ngrpOf (l : Launch) : Nat := (l.x * l.y * l.z + 31) / 32

/-- The value of a special register in a lane (R24, R108, R109). -/
def sregVal (s : State) (c _sl : Nat) (g : Group) (r : SReg) (i : Nat) : Nat :=
  let l := s.launchOf c g
  let b := match s.block c g.bslot with | some x => x.idx | none => 0
  let home := match s.block c g.bslot with | some x => x.homeCore | none => c
  match r with
  | .lane => i
  | .quad => i / 4
  | .grp => grpIndex g
  | .ngrp => ngrpOf l
  | .blkX => blkX l b
  | .blkY => blkY l b
  | .blkZ => blkZ l b
  | .nblkX => l.nblkX
  | .nblkY => l.nblkY
  | .nblkZ => l.nblkZ
  | .gang => b / l.gangSz
  | .core => home
  | .die => dieOf home
  | .polder => l.polder
  | .clockLo => s.clock % 2 ^ 32
  | .clockHi => match (g.lane i).clkHi with | some h => h.toNat | none => s.clock / 2 ^ 32 % 2 ^ 32
  | .tilew => tileWidth g.tilew
  | .fstat => g.fstat.toNat
  | .slim => allocOf l

/-- Special registers whose values the audit logs (R259). -/
def loggedReg (r : SReg) : Bool := r = .core || r = .die || r = .clockLo || r = .clockHi

/-- The register's value in every active lane. -/
def sregResults (s : State) (c sl : Nat) (g : Group) (gd : Guard) (d : Reg) (r : SReg) : List LWrite :=
  (lanes32.filter (g.active gd)).map fun i =>
    { lane := i, loc := .reg d.toNat, val := BitVec.ofNat 32 (sregVal s c sl g r i), flags := 0 }

/-- A read of CLOCK.LO latches the high half in each reading lane (R109). -/
def Group.latch (g : Group) (gd : Guard) (clock : Nat) (old : Group) : Group :=
  g.mapLanes fun i ln => if old.active gd i then { ln with clkHi := some (BitVec.ofNat 32 (clock / 2 ^ 32)) } else ln

/-- FSTAT is read once every pending result is written (R79). -/
def sregPre (fstat : Bool) (_c _sl : Nat) (g : Group) (_s : State) : Check :=
  if fstat && g.inflight ≠ [] then .stall else .ok

/-- `sreg` (R79, R108, R109, R141): FSTAT waits for every pending result. -/
def execSreg (d : Reg) (r : SReg) (la : BitVec 4) (gd : Guard) (s : State) : Out :=
  issueWith (issueOf (.sreg d r la gd)) (sregPre (decide (r = .fstat)))
    (fun c sl g s =>
      let ws := sregResults s c sl g gd d r
      let s := if r = .clockLo then s.onGroup c sl (fun h => h.latch gd s.clock g) else s
      let (ws, s) := if loggedReg r then s.inputWords c g ws else (ws, s)
      s.defer c sl la.toNat ws) s

/-- `sreg.clr` (R77, R79, R141): reads FSTAT and clears every flag. -/
def execSregClr (d : Reg) (la : BitVec 4) (gd : Guard) (s : State) : Out :=
  issueWith (issueOf (.sregClr d la gd)) (sregPre true)
    (fun c sl g s =>
      let ws := sregResults s c sl g gd d .fstat
      let s := if ws = [] then s else s.onGroup c sl fun h => { h with fstat := 0 }
      let (ws, s) := s.inputWords c g ws
      s.defer c sl la.toNat ws) s

end Sys2Proof.Machine
end

