-- ==== Sys2Proof/Machine/Trans.lean ====
section
/-! DEFINITION. Translation: the buffers, lookup, parking, miss queues and the fates of accesses (R262 to R265, R267,
R275, R338 to R340). -/

namespace Sys2Proof.Machine

/-- The compute die whose walkers serve a core; CD0 for a front core (R12). -/
def walkDie (core : Nat) : Nat := if core < 32 then core / 8 else 0

/-- An entry covers an address of a polder. -/
def TEntry.covers (e : TEntry) (p va : Nat) : Bool := e.polder = p && decide (e.base ≤ va) && decide (va < e.base + e.size)

/-- Capacity of a core's buffer, of a die's, and of a fault buffer (R263, R264). -/
def coreTb : Nat := 2048
/-- Capacity of a die's buffer. -/
def dieTb : Nat := 32768
/-- Entries of a core's fault buffer. -/
def faultBuf : Nat := 256

/-- Installs an entry in a buffer: overlapping entries of the polder go, a full buffer loses one of a free choice
(R263, R272). -/
def install (cap : Nat) (tb : List TEntry) (e : TEntry) (f : Word) : List TEntry :=
  let tb := tb.filter fun x => !(x.polder = e.polder && decide (x.base < e.base + e.size) && decide (e.base < x.base + x.size))
  (if tb.length < cap then tb else tb.eraseIdx (f.toNat % tb.length)) ++ [e]

/-- Installs an entry in a core's buffer. -/
def State.fillCore (s : State) (c : Nat) (e : TEntry) : State :=
  let (f, s) := if (s.core c).tb.length < coreTb then (0, s) else s.fresh
  s.setCore c { s.core c with tb := install coreTb (s.core c).tb e f }

/-- Installs an entry in a die's buffer. -/
def State.fillDie (s : State) (d : Nat) (e : TEntry) : State :=
  let (f, s) := if (s.die d).tb.length < dieTb then (0, s) else s.fresh
  s.setDie d { s.die d with tb := install dieTb (s.die d).tb e f }

/-- Looks an address up: the core's buffer, then the die's, whose hit fills the core's (R263). A front core's miss is
not looked up in CD0's buffer: it joins the miss queue, where a walker looks again (R12, R265). -/
def State.lookup (s : State) (c p va : Nat) : Option TEntry × State :=
  match (s.core c).tb.find? (·.covers p va) with
  | some e => (some e, s)
  | none =>
    if c ≥ 32 then (none, s)
    else
      match (s.die (walkDie c)).tb.find? (·.covers p va) with
      | some e => (some e, s.fillCore c e)
      | none => (none, s)

/-- Permissions that an access needs: R, W, X in bits 0 to 2 (R263). -/
def AccOp.needs : AccOp → BitVec 3
  | .read => 1
  | .slab => 1
  | .write _ => 2
  | .atomic _ _ _ _ => 3
  | .reduce _ _ _ => 3
  | .fetch => 4

/-- KIND of R267. -/
def AccOp.kind : AccOp → Nat
  | .read => 0
  | .slab => 0
  | .fetch => 0
  | .write _ => 1
  | .atomic _ _ _ _ => 2
  | .reduce _ _ _ => 2

/-- w2 of the walk of an access (R267). -/
def Access.w2 (a : Access) : Nat :=
  if a.core < 32 then 256 * a.core + 4 * a.src + a.op.kind else 256 * (a.core - 32) + 4 * 7 + a.op.kind

/-- The 64 KiB region of an address (R264, R265). -/
def region (va : Nat) : Nat := va / 65536

/-- Rewrites an access. -/
def State.onAcc (s : State) (id : Nat) (f : Access → Access) : State :=
  match tfind s.accs id with
  | some a => { s with accs := tput s.accs id (f a) }
  | none => s

/-- A walk of the polder, queued or running on a die, concerns a region (R265). -/
def State.walkFor (s : State) (d p r : Nat) : Bool :=
  ((tget [] (s.die d).missQ p).any fun i => match tfind s.accs i with | some a => region a.va = r | none => false)
  || (s.die d).walks.any fun w => w.2.polder = p && match tfind s.accs w.2.acc with
      | some a => region a.va = r
      | none => false

/-- A parked access joins its polder's miss queue where R265 lets it. -/
def State.queueMiss (s : State) (id : Nat) (a : Access) : State :=
  let k := walkDie a.core
  let d := s.die k
  let q := tget [] d.missQ a.polder
  if s.walkFor k a.polder (region a.va) || q.length ≥ 256 || total (d.missQ.map fun e => e.2.length) ≥ 1024 then s
  else s.setDie k { d with missQ := tput d.missQ a.polder (q ++ [id]) }

/-- Parked accesses without a place in a miss queue join it as an entry of their share frees, in order of parking (R265). -/
def State.refillMiss (s : State) (d : Nat) : State :=
  s.cores.foldl (init := s) fun s k =>
    if walkDie k.1 ≠ d then s
    else
      k.2.parkedA.foldl (init := s) fun s i =>
        match tfind s.accs i with
        | some a => if a.st = .parked 0 then s.queueMiss i a else s
        | none => s

/-- A polder's miss queue becomes shorter; where it is empty and no walk of the polder runs on the die, the polder's deficit is 0
(R278). -/
def Die.shortQ (d : Die) (p : Nat) (q : List Nat) : Die :=
  { d with
    missQ := if q = [] then tdel d.missQ p else tput d.missQ p q
    deficit := if q = [] && d.walks.all (fun w => w.2.polder ≠ p) then tdel d.deficit p else d.deficit }

/-- Takes an access out of its core's fault buffer and its die's miss queue, where another may then take its place (R265). -/
def State.unpark (s : State) (id : Nat) (a : Access) : State :=
  let k := s.core a.core
  let s := s.setCore a.core { k with parkedA := k.parkedA.filter (· ≠ id) }
  let d := s.die (walkDie a.core)
  State.refillMiss (s.setDie (walkDie a.core) (d.shortQ a.polder ((tget [] d.missQ a.polder).filter (· ≠ id)))) (walkDie a.core)

/-- The group that a fetch, or an access of a system instruction, holds up. -/
def State.fetchGroup (s : State) (id : Nat) (a : Access) : Option Group :=
  match s.group a.core a.lane with
  | some g => if g.waiting = .fetch id then some g else none
  | none => none

/-- Held under REPLAY (R339). -/
def AccSt.held : AccSt → Bool
  | .parked k => k ≠ 0
  | _ => false

/-- The lanes that a failed fetch, or a failed access of a system instruction, names (R305): every occupied lane, or
the lane that gave the operands, which `data` holds. -/
def Access.holdLanes (a : Access) (g : Group) : BitVec 32 :=
  match a.data with
  | [l] => BitVec.twoPow 32 l.toNat
  | _ => g.occMask

/-- Stops a group at a clause header and parks it, whatever the policy: with RESUMEPC set to that header for DATAERR, which has
ENG = 1, and for XLATE (R305, R325, R340).
(DEDUCED: RESUMEPC of an UNAVAIL, log entry 47.) -/
def State.parkAt (s : State) (c sl : Nat) (f : FaultAt) (pc : Word) : State :=
  let s := (s.settle c sl).endRun c sl
  match s.group c sl with
  | some g =>
    let r := { f.record pc (if f.code = 0x13 then noPc else pc) with eng := decide (f.code = 0x12) }
    State.audFail ((s.setGroup c sl { g with frec := r, parked := true, clause := none, run := 0, waiting := .none }).logRec c sl g r) c g.bslot
  | none => s

/-- The header at which a group's clause began. -/
def Group.header (g : Group) : Word :=
  match g.clause with
  | some cl => cl.hdrPc
  | none => g.pc

/-- A FAILED ACCESS (R325, R330, R338): a command notes the fault of its lane; a fetch parks its group; a system
instruction takes the fault under polder 0's policy; a slab is judged by its run. -/
def State.failAccess (s : State) (id code cause : Nat) (aux : Word) : State :=
  match tfind s.accs id with
  | some a =>
    let s := s.unpark id a
    if a.cmd ≠ 0 then
      let s := s.onAcc id fun a => { a with st := .failed code cause aux }
      if a.op = .slab then s else s.noteFault a.cmd a.lane code cause (BitVec.ofNat 64 a.va) aux
    else if a.off ≠ 0 then s.onAcc id fun a => { a with st := .failed code cause aux }
    else
      let t := { s with accs := tdel s.accs id }
      match s.fetchGroup id a with
      | some g =>
        let f : FaultAt :=
          { code := code, cause := cause, lanes := a.holdLanes g, addr := BitVec.ofNat 64 a.va, aux := aux }
        if a.op = .fetch then t.parkAt a.core a.lane f g.header
        else (t.onGroup a.core a.lane fun g => { g with waiting := .none }).takeFault a.core a.lane f (resumeOf g)
      | none => t
  | none => s

/-- Parks an access; with a full fault buffer its engine waits (R264). -/
def State.park (s : State) (id : Nat) (a : Access) : State :=
  let k := s.core a.core
  if k.parkedA.length ≥ faultBuf then s.onAcc id fun a => { a with st := .waiting }
  else
    let s := s.setCore a.core { k with parkedA := k.parkedA ++ [id] }
    (s.onAcc id fun a => { a with st := .parked 0 }).queueMiss id a

/-- Some parked access is of an access's engine and region (R264). -/
def State.sameParked (s : State) (a : Access) (is : List Nat) : Bool :=
  is.any fun i => match tfind s.accs i with
    | some b => b.src = a.src && b.polder = a.polder && region b.va = region a.va
    | none => false

/-- An engine has accesses parked for the region of one that it sends now (R264). -/
def State.behind (s : State) (a : Access) : Bool := s.sameParked a (s.core a.core).parkedA

/-- An access of the engine parked before this one for the same region is still parked (R264). -/
def State.parkedBehind (s : State) (id : Nat) (a : Access) : Bool :=
  s.sameParked a ((s.core a.core).parkedA.takeWhile (· ≠ id))

/-- Another access of the command's engine waits for room in the fault buffer: the engine sends nothing else (R264). -/
def State.blocked (s : State) (id : Nat) (a : Access) : Bool :=
  a.cmd ≠ 0 && s.accs.any fun e => e.1 ≠ id && decide (e.2.core = a.core) && decide (e.2.src = a.src)
    && decide (e.2.cmd ≠ 0) && decide (e.2.st = .waiting)

/-- A fetch, or an access of a system instruction, has been sent on: the group tries again (R183, R340). -/
def State.fetchSent (s : State) (id : Nat) (a : Access) : State :=
  let t := { s with accs := tdel s.accs id }
  match s.fetchGroup id a with
  | some _ => t.onGroup a.core a.lane fun g => { g with waiting := .none }
  | none => t

/-- A command of a block reads remote memory: the audit of the block is cancelled (R260). -/
def State.remoteRead (s : State) (a : Access) (pa : Nat) : State :=
  match tfind s.cmds a.cmd with
  | some x => if a.op = .read && placeOf s pa = .remote && (s.cmdGroup x.org).isSome then s.audCancel x.org.core x.org.bslot else s
  | none => s

/-- The buffers are looked up for an access (R262, R263): a permitted hit is sent, any other hit fails, a miss parks. -/
def State.find (s : State) (id : Nat) (a : Access) : State :=
  match s.lookup a.core a.polder a.va with
  | (some e, s) =>
    if e.perm &&& a.op.needs = a.op.needs then
      if a.cmd = 0 && a.off = 0 then (s.unpark id a).fetchSent id a
      else
        let (n, s) := (s.unpark id a).newId
        let pa := e.frame + (a.va - e.base)
        (s.onAcc id fun a => { a with st := .sent pa n }).remoteRead a pa
    else s.failAccess id 0x10 2 (BitVec.ofNat 32 a.w2)
  | (none, s) => s.park id a

/-- AN ACCESS IS LOOKED UP as its engine sends it (R262 to R264): one past 2^57 fails, and one behind parked accesses of its region
parks. -/
def State.try (s : State) (id : Nat) : State :=
  match tfind s.accs id with
  | some a =>
    if s.blocked id a then s
    else if a.va ≥ 2 ^ 57 then s.failAccess id 0x10 11 (BitVec.ofNat 32 a.w2)
    else if s.behind a then s.park id a
    else s.find id a
  | none => s

/-- A parked access is looked up again and sent on, whatever else its engine still holds back (R264). -/
def State.again (s : State) (id : Nat) (a : Access) : State :=
  ((s.unpark id a).onAcc id fun a => { a with st := .ready }).find id a

/-- An access that its engine has still to send, or that waits for room in the fault buffer, is looked up when its turn comes. -/
def State.retry (s : State) (id : Nat) : State :=
  match tfind s.accs id with
  | some a => if a.st = .ready || a.st = .waiting then s.try id else s
  | none => s

/-- A new access of an engine, looked up at once. -/
def State.newAcc (s : State) (a : Access) : Nat × State :=
  let (id, s) := s.newId
  (id, State.try { s with accs := tput s.accs id a } id)

/-- PARKED_RELEASE (R264): every parked access of the polder on the die that an entry covers is looked up again, in
order of parking; one behind an access of its region that the entry does not cover stays parked. -/
def State.release (s : State) (d : Nat) (e : TEntry) : State :=
  s.cores.foldl (init := s) fun s k =>
    if walkDie k.1 ≠ d then s
    else
      k.2.parkedA.foldl (init := s) fun s i =>
        match tfind s.accs i with
        | some a => if e.covers a.polder a.va && !s.parkedBehind i a then s.again i a else s
        | none => s

/-- Accesses held under REPLAY by a polder in a core's fault buffer (R339). -/
def State.held (s : State) (c p : Nat) : Nat :=
  ((s.core c).parkedA.filter fun i => match tfind s.accs i with
    | some a => a.polder = p && a.st.held
    | none => false).length

/-- The log entry of an access held under REPLAY (R311). That of a fetch or of a system instruction is a fault of its
group, which overwrites the group's record (R305, R309).
(DEDUCED: log entry 39.) -/
def State.logHeld (s : State) (a : Access) (f : FaultAt) : State :=
  match tfind s.cmds a.cmd with
  | some x => s.logOrigin x.org (engRecord x.org f)
  | none =>
    let s := s.settle a.core a.lane
    match s.group a.core a.lane with
    | some g =>
      let r := f.record g.pc (if a.op = .fetch then noPc else resumeOf g)
      (s.setGroup a.core a.lane { g with frec := r }).logRec a.core a.lane g r
    | none => s

/-- The block of an access's command is being pre-empted (R253, R341). -/
def State.accStopping (s : State) (a : Access) : Bool :=
  match tfind s.cmds a.cmd with
  | some x => match s.cmdGroup x.org with
    | some g => s.stopping x.org.core g
    | none => false
  | none => false

/-- The fate of an access whose walk ended with a cause; `w2` is that of the depth-0 walk (R311, R338 to R341): held under REPLAY
for NOMAP and ALLOWANCE, within the polder's share and while its block is not being pre-empted; else failed. -/
def State.walkFate (s : State) (id cause : Nat) (w2 : Word) : State :=
  match tfind s.accs id with
  | some a =>
    let lanes : BitVec 32 := match tfind s.cmds a.cmd with
      | some _ => BitVec.twoPow 32 a.lane
      | none => match s.fetchGroup id a with | some g => a.holdLanes g | none => 0
    let hold := (s.polder a.polder).policy 0x10 = .replay && (cause = 1 || cause = 5)
      && decide (s.held a.core a.polder < 128) && !(a.cmd = 0 && a.off ≠ 0) && !s.accStopping a
    if hold then
      let k := walkDie a.core
      let d := s.die k
      let s := s.setDie k (d.shortQ a.polder ((tget [] d.missQ a.polder).filter (· ≠ id)))
      (State.refillMiss (s.onAcc id fun a => { a with st := .parked cause, aux := w2 }) k).logHeld a
        { code := 0x10, cause := cause, lanes := lanes, addr := BitVec.ofNat 64 a.va, aux := w2 }
    else s.failAccess id 0x10 cause w2
  | none => s

/-- Replays a polder's parked accesses after a MAP request (R339). -/
def State.replayAll (s : State) (p : Nat) : State :=
  s.cores.foldl (init := s) fun s k =>
    k.2.parkedA.foldl (init := s) fun s i =>
      match tfind s.accs i with
      | some a =>
        if a.polder = p && a.st.held then
          if s.parkedBehind i a then (s.onAcc i fun a => { a with st := .parked 0 }).queueMiss i a else s.again i a
        else s
      | none => s

/-- Removes entries from every buffer that a die's `tbinv` reaches, and marks the walks of covered polders stale
(R190, R275). -/
def State.invalidate (s : State) (d : Nat) (hit : TEntry → Bool) (pol : Nat → Bool) : State :=
  let x := s.die d
  let s := s.setDie d { x with
    tb := x.tb.filter fun e => !hit e
    walks := x.walks.map fun w => if pol w.2.polder then (w.1, { w.2 with stale := true }) else w }
  { s with cores := s.cores.map fun k =>
      if walkDie k.1 = d then (k.1, { k.2 with tb := k.2.tb.filter fun e => !hit e }) else k }

/-! ### Code fetch (R48, R49, R340) -/

/-- What a fetch of a word finds. -/
inductive Fetched where
  | word (w : Word)
  | wait
  | fail (f : FaultAt)
deriving DecidableEq, Repr

/-- The key of a launch in `State.past`. -/
def pastKey (l : Launch) : Nat := 64 * l.id + l.polder

/-- The word of a block at an address. -/
def BlockView.word (v : BlockView) (pa : Nat) : Word := BitVec.ofNat 32 (bfield v.1 (pa % 64) 4)

/-- The words that an address has held while a block of a launch was resident and holds no more: those overwritten in the array, and
those that accepted packets are to overwrite (R49). -/
def State.oldWords (s : State) (l : Launch) (pa : Nat) : List Word :=
  match tfind s.past (pastKey l) with
  | some x =>
    let qs := s.queued (pa / 64)
    let v := (qs.filter fun q => q.seq ≤ x.since).foldl (fun v q => q.apply v) (s.arrayBytes (pa / 64), s.lost (pa / 64))
    let r := (qs.filter fun q => x.since < q.seq).foldl (init := (v, [])) fun (v, ws) q => (q.apply v, ws ++ [BlockView.word v pa])
    (x.words.filter fun w => w.1 = pa).map (·.2) ++ r.2
  | none => []

/-- A word of code that memory holds now, or, where it has changed while a block of the launch was resident, it or a word that it
held before: which one is unpredictable (R49).
(DEDUCED: log entry 54.) -/
def State.oldOrNew (s : State) (c : Nat) (g : Group) (pa : Nat) (new : Word) : Word × State :=
  let ws := ((s.oldWords (s.launchOf c g) pa).filter (· ≠ new)).eraseDups
  if ws = [] then (new, s)
  else
    let (f, s) := s.fresh
    ((new :: ws).getD (f.toNat % (ws.length + 1)) new, s)

/-- Fetches the code word at a PC of a group: from boot SRAM for the service image, else through translation and the
base die (R48, R184, R294, R325, R340). -/
def State.fetchWord (s : State) (c sl : Nat) (g : Group) (pc : Word) : Fetched × State :=
  let l := s.launchOf c g
  if l.sram then (.word (mget32 s.boot.sram (l.codeBase + pc.toNat)), s)
  else
    let va := l.codeBase + pc.toNat
    let f : FaultAt := { code := 0x12, lanes := g.occMask, addr := BitVec.ofNat 64 va }
    let acc : Access :=
      { polder := l.polder, core := c, cmd := 0, lane := sl, src := 5, op := .fetch, va := va, len := 4, off := 0
        st := .ready, data := [], bad := [], aux := 0 }
    if va ≥ 2 ^ 57 then (.fail { f with code := 0x10, cause := 11, aux := BitVec.ofNat 32 acc.w2 }, s)
    else
      match s.lookup c l.polder va with
      | (some e, s) =>
        if e.perm &&& 4 ≠ 4 then (.fail { f with code := 0x10, cause := 2, aux := BitVec.ofNat 32 acc.w2 }, s)
        else
          let pa := e.frame + (va - e.base)
          match s.avail (dieOf c) pa with
          | .wait => (.wait, s)
          | .no => (.fail { f with code := 0x13, aux := unavailAux s pa }, s)
          | .yes =>
            let (bs, bad, s) := s.readPa pa 4
            if bad = [] then
              let (w, s) := s.oldOrNew c g pa (BitVec.ofNat 32 (ofLe bs))
              (.word w, s)
            else (.fail f, s)
      | (none, s) =>
        let (id, s) := s.newId
        let s := (s.onGroup c sl fun g => { g with waiting := .fetch id })
        (.wait, State.try { s with accs := tput s.accs id acc } id)

end Sys2Proof.Machine
end

