-- ==== Sys2Proof/Machine/Engine.lean ====
section
/-! DEFINITION. What the engine commands share: operand faults (R166), local operands (R235), accesses to main memory
(R195, R262), and the weir (R157, R158). -/

namespace Sys2Proof.Machine

/-! ### Issue of a command -/

/-- The lane whose operands a group command takes (R143). -/
def Group.opLane (g : Group) (gd : Guard) : Option Nat := lowest (g.works gd)

/-- Packets that a core's engines have outstanding (R143). -/
def State.packetsOut (s : State) (c : Nat) : Nat :=
  (s.accs.filter fun a => a.2.core = c && decide (a.2.op ≠ .slab) && match a.2.st with
    | .sent _ _ => true
    | _ => false).length

/-- An engine command waits for room among 1,024 outstanding packets (R143), and for the group's atomic or acquire
(R222, R229). -/
def engCheck (s : State) (c : Nat) (g : Group) (x : Check) : Check :=
  holdOr (g.accessing || decide (s.packetsOut c ≥ 1024)) x

/-- An operand fault of a group command (R166, R305). -/
def opndFault (k : Cls) (lane addr : Nat) (ir : Word) : Check :=
  .fault { code := 0x0A, cause := clsNum k, lanes := BitVec.twoPow 32 lane, addr := BitVec.ofNat 64 addr, aux := ir }

/-- The first bad operand of a list of addresses with their tests. -/
def opndCheck (k : Cls) (lane : Nat) (ir : Word) (xs : List (Nat × Bool)) : Check :=
  match xs.find? (·.2) with
  | some e => opndFault k lane e.1 ir
  | none => .ok

/-- Size of a local space that a group names (R132, R133). -/
def State.localSize (s : State) (c : Nat) (g : Group) (sp : LSpace) : Nat :=
  match sp with
  | .sh => s.shSizeOf c g
  | .sp => (s.polder (s.launchOf c g).polder).spSize

/-- Base of a local space for a command. -/
def State.localBase (s : State) (o : Origin) (sp : LSpace) : Nat :=
  match sp with
  | .sh => match s.block o.core o.bslot with | some b => b.shBase | none => 0
  | .sp => s.spBase o.polder

/-- Bytes of a local space as an engine reads them (R235). -/
def State.localRead (s : State) (o : Origin) (sp : LSpace) (a len : Nat) : List Byte :=
  match sp with
  | .sh => mreads (s.core o.core).sh (s.localBase o sp + a) len
  | .sp => mreads s.sp (s.localBase o sp + a) len

/-- The words that the command's die has sent to the home dies of a scratchpad range are written there: the engine comes behind them
(R230, R235).
(DEDUCED: log entry 23.) -/
def State.comeBehind (s : State) (o : Origin) (sp : LSpace) (a len : Nat) : State :=
  match sp, s.inRerun o.core o.bslot with
  | .sh, _ => s
  | .sp, true => s
  | .sp, false =>
    let b := s.localBase o sp + a
    (s.flushDie o.core (homeDie b)).flushDie o.core (homeDie (b + len - 1))

/-- Bytes written to a local space by a command (R235), which the audit logs (R259); the lines of the core's read cache that scratchpad
writes touch are dropped as the batch completes.
(DEDUCED: log entry 34.) -/
def State.localWrite (s : State) (id : Nat) (o : Origin) (sp : LSpace) (a : Nat) (bytes : List Byte) : State :=
  let b := s.localBase o sp + a
  let s := s.audWrite o id sp a bytes
  match sp with
  | .sh => s.shBytes o.core b bytes
  | .sp =>
    ((s.comeBehind o sp a bytes.length).onCmd id fun x => { x with wrote := x.wrote ++ [(b, bytes.length)] }).spBytes b bytes []

/-- A local operand of a command that is read at issue. In a re-execution the log gives one that lies in scratchpad, `off` bytes into
the entry that comes next (R261).
(DESIGN CHOICE: log entry 27.) -/
def State.operandBytes (s : State) (c : Nat) (g : Group) (o : Origin) (sp : LSpace) (a len off : Nat) : List Byte :=
  match sp, s.inRerun c g.bslot with
  | .sp, true => padTo len ((((s.peekLog c g.bslot g.gnum).map (·.bytes)).getD []).drop off)
  | _, _ => s.localRead o sp a len

/-- The bytes of an operand that the log must hold: those of one in scratchpad. -/
def logged (sp : LSpace) (bytes : List Byte) : List Byte := if sp = .sp then bytes else []

/-- Whether a scratchpad range of a command can be reached over the die links (R329); a re-execution has no need to. -/
def State.localAvail (s : State) (o : Origin) (sp : LSpace) (a len : Nat) : Avail :=
  match sp, s.inRerun o.core o.bslot with
  | .sh, _ => .yes
  | .sp, true => .yes
  | .sp, false =>
    let b := s.localBase o sp + a
    if len = 0 then .yes
    else (s.linkAvail (dieOf o.core) (homeDie b)).and (s.linkAvail (dieOf o.core) (homeDie (b + len - 1)))

/-! ### Accesses to main memory -/

/-- SRC of R267 for a command. -/
def CmdOp.src : CmdOp → Nat
  | .cpy _ _ _ _ _ _ => 0
  | .sealRec _ _ _ => 0
  | .packet _ _ _ _ _ => 0
  | .gat _ _ _ _ _ _ _ _ => 1
  | .sct _ _ => 1
  | .matom _ _ => 2
  | .mred => 2
  | .bkrun _ => 3
  | .pred _ _ _ => 4
  | .pchk _ _ _ => 4
  | .spawn _ _ => 0
  | .replayed _ _ => 0

/-- A command of a re-execution (R261). -/
def CmdOp.isReplayed : CmdOp → Bool
  | .replayed _ _ => true
  | _ => false

/-- A virtual range cut at the boundaries of DRAM rows (R194, R262); `fuel` bounds the number of pieces. -/
def cutRows : Nat → Nat → Nat → Nat → List Piece
  | 0, _, _, _ => []
  | fuel + 1, va, len, off =>
    if len = 0 then []
    else
      let n := min len (1024 - va % 1024)
      { va := va, len := n, off := off } :: cutRows fuel (va + n) (len - n) (off + n)

/-- The pieces of a virtual range. -/
def cut (va len off : Nat) : List Piece := cutRows (len / 1024 + 2) va len off

/-- The lane that a group command's faults name. -/
def Cmd.lane (x : Cmd) : Nat := (lowest x.mask.getLsbD).getD 0

/-- Enters an access of a command, which its engine has still to send: the order in which an engine sends the writes of its
commands is left open (R195, R236, R336). A re-execution sends none (R261). -/
def State.postAcc (s : State) (id lane : Nat) (op : AccOp) (p : Piece) : Nat × State :=
  match tfind s.cmds id with
  | some x =>
    if x.op.isReplayed then (0, s)
    else
    let (n, s) := s.newId
    let a : Access :=
      { polder := x.org.polder, core := x.org.core, cmd := id, lane := lane, src := x.op.src, op := op, va := p.va
        len := p.len, off := p.off, st := .ready, data := [], bad := [], aux := 0 }
    (n, { s with accs := tput s.accs n a, cmds := tput s.cmds id { x with accs := x.accs ++ [n] } })
  | none => (0, s)

/-- Sends an access of a command: it is looked up at once (R262). -/
def State.sendAcc (s : State) (id lane : Nat) (op : AccOp) (p : Piece) : State :=
  let (n, s) := s.postAcc id lane op p
  s.try n

/-- Sends a list of pieces of a command as reads. -/
def State.sendReads (s : State) (id lane : Nat) (ps : List Piece) : State :=
  ps.foldl (fun s p => s.sendAcc id lane .read p) s

/-- An access is done: served, or failed. -/
def AccSt.over : AccSt → Bool
  | .served => true
  | .failed _ _ _ => true
  | _ => false

/-- Every access of a command is done. -/
def State.accsOver (s : State) (x : Cmd) : Bool :=
  x.accs.all fun i => match tfind s.accs i with | some a => a.st.over | none => true

/-- The accesses of a command, in order. -/
def State.accsOf (s : State) (x : Cmd) : List Access := x.accs.filterMap (tfind s.accs)

/-- Drops the accesses of a command that are done with. -/
def State.dropAccs (s : State) (id : Nat) : State :=
  match tfind s.cmds id with
  | some x => { s with cmds := tput s.cmds id { x with accs := [] }, accs := x.accs.foldl tdel s.accs }
  | none => s

/-- Bytes that a read brought: those served, and which of them are good. -/
def Access.good (a : Access) : List (Nat × Byte) :=
  if a.st = .served then
    (a.data.zipIdx.filter fun e => !a.bad.contains e.2).map fun e => (a.off + e.2, e.1)
  else []

/-- The bytes from offset `off` of a command's reads, none where one is missing. -/
def bytesAt (as : List Access) (off len : Nat) : Option (List Byte) :=
  let got := as.flatMap Access.good
  (List.range len).mapM fun i => (got.find? fun e => e.1 = off + i).map (·.2)

/-- The port that a physical address is reached through: one base die, tier port or the transmit queue (R195). -/
def portOf (s : State) (pa : Nat) : Nat :=
  match placeOf s pa with
  | .hbm st _ => st
  | .tier k _ => 32 + k
  | _ => 64

/-- A sent access is the oldest that its engine has sent to its port (R195); reductions arrive in any order (R164). -/
def State.inTurn (s : State) (a : Access) : Bool :=
  match a.st with
  | .sent pa ord =>
    (match a.op with | .reduce _ _ _ => true | _ => false) ||
    s.accs.all fun e => match e.2.st with
      | .sent pb o =>
        !(e.2.core = a.core && e.2.src = a.src && decide (o < ord) && decide (portOf s pb = portOf s pa)
          && match e.2.op with | .reduce _ _ _ => false | _ => true)
      | _ => true
  | _ => false

/-! ### The weir (R157, R158) -/

/-- A chunk of at most `n` bytes from a plan, and the rest. -/
def takeChunk : Nat → List Piece → List Piece × List Piece
  | _, [] => ([], [])
  | n, p :: r =>
    if p.len ≤ n then
      let x := takeChunk (n - p.len) r
      (p :: x.1, x.2)
    else if n = 0 then ([], p :: r)
    else ([{ p with len := n }], { va := p.va + n, len := p.len - n, off := p.off + n } :: r)

/-- Bytes of some pieces. -/
def piecesLen (ps : List Piece) : Nat := total (ps.map (·.len))

/-- Takes a chunk's bytes from a polder's bucket, or borrows (R157): none where the chunk waits. -/
def State.weirTake (s : State) (p n : Nat) : Option State :=
  let x := s.polder p
  if n ≤ x.weirLevel then some (s.setPolder p { x with weirLevel := x.weirLevel - n })
  else
    let short := n - x.weirLevel
    if x.borrow && decide (x.weirDebt + short ≤ x.weirDebtLim) && decide (short ≤ s.pool) then
      some { s.setPolder p { x with weirLevel := 0, weirDebt := x.weirDebt + short } with pool := s.pool - short }
    else none

/-- Bytes of the pool at most: 64 MiB (R158). -/
def poolMax : Nat := 2 ^ 26

/-- One polder's refill and what it adds to the pool (R158); borrowing closes at the first refill after a borrow and
opens when the debt is repaid (R157). -/
def Polder.refill (x : Polder) (pool : Nat) : Polder × Nat :=
  let repay := min x.weirDebt (x.weirRate / 2)
  let level := x.weirLevel + (x.weirRate - repay)
  let excess := level - x.weirDepth
  ({ x with weirDebt := x.weirDebt - repay, weirLevel := min level x.weirDepth, borrow := x.weirDebt - repay = 0 },
    min poolMax (pool + repay + excess))

/-- A refill is due: one for every 1,024 cycles that have passed (R158). -/
def State.refillDue (s : State) : Bool := s.refills < s.clock / 1024

/-- The refill of one live polder. -/
def State.refillOne (s : State) (p : Nat) : State :=
  match tfind s.polders p with
  | some x =>
    if x.alive || p = 0 then
      let r := x.refill s.pool
      { s.setPolder p r.1 with pool := r.2 }
    else s
  | none => s

/-- WEIR_REFILL (R158): every live polder, ascending. -/
def execWeirRefill (s : State) : Out :=
  .next <|
    if s.refillDue then (List.range 64).foldl State.refillOne { s with refills := s.refills + 1 } else s

end Sys2Proof.Machine
end

