-- ==== Sys2Proof/Machine/Sha3.lean ====
section
/-! DEFINITION. SHA3 as the manual uses it for seals, digests and measurements (R153, R261, R293, R297). -/

namespace Sys2Proof.Machine

/-- Lane (x, y) of a Keccak state of 25 lanes. -/
def kget (a : List DWord) (x y : Nat) : DWord := a.getD (x % 5 + 5 * (y % 5)) 0

/-- Rotation offsets of lane x + 5 y. -/
def kRot : List Nat :=
  [0, 1, 62, 28, 27, 36, 44, 6, 55, 20, 3, 10, 43, 25, 39, 41, 45, 15, 21, 8, 18, 2, 61, 56, 14]

/-- Round constants. -/
def kRc : List DWord :=
  [0x0000000000000001, 0x0000000000008082, 0x800000000000808A, 0x8000000080008000, 0x000000000000808B,
   0x0000000080000001, 0x8000000080008081, 0x8000000000008009, 0x000000000000008A, 0x0000000000000088,
   0x0000000080008009, 0x000000008000000A] ++
  [0x000000008000808B, 0x800000000000008B, 0x8000000000008089, 0x8000000000008003, 0x8000000000008002,
   0x8000000000000080, 0x000000000000800A, 0x800000008000000A, 0x8000000080008081, 0x8000000000008080,
   0x0000000080000001, 0x8000000080008008]

/-- One round of Keccak-f[1600]. -/
def kRound (a : List DWord) (rc : DWord) : List DWord :=
  let c := (List.range 5).map fun x => kget a x 0 ^^^ kget a x 1 ^^^ kget a x 2 ^^^ kget a x 3 ^^^ kget a x 4
  let d := (List.range 5).map fun x => c.getD ((x + 4) % 5) 0 ^^^ (c.getD ((x + 1) % 5) 0).rotateLeft 1
  let t := (List.range 25).map fun i => a.getD i 0 ^^^ d.getD (i % 5) 0
  let b := (List.range 25).map fun i =>
    let x := i % 5
    let y := i / 5
    let j := (x + 3 * y) % 5 + 5 * x
    (t.getD j 0).rotateLeft (kRot.getD j 0)
  let e := (List.range 25).map fun i =>
    kget b (i % 5) (i / 5) ^^^ (~~~(kget b (i % 5 + 1) (i / 5)) &&& kget b (i % 5 + 2) (i / 5))
  match e with
  | [] => []
  | h :: r => (h ^^^ rc) :: r

/-- Keccak-f[1600]. -/
def keccakF (a : List DWord) : List DWord := kRc.foldl kRound a

/-- Xors a block into the first lanes of a state. -/
def kAbsorb (a : List DWord) (blk : List Byte) : List DWord :=
  keccakF ((List.range 25).map fun i => a.getD i 0 ^^^ BitVec.ofNat 64 (bfield blk (8 * i) 8))

/-- The padded message of SHA3 with a rate in bytes. -/
def kPad (rate : Nat) (m : List Byte) : List Byte :=
  let k := rate - m.length % rate
  if k = 1 then m ++ [0x86] else m ++ [0x06] ++ List.replicate (k - 2) 0 ++ [0x80]

/-- SHA3 with an output of `n` bytes. -/
def sha3 (n : Nat) (m : List Byte) : List Byte :=
  let rate := 200 - 2 * n
  let p := kPad rate m
  let a := (chunks rate p.length p).foldl kAbsorb (List.replicate 25 0)
  (a.flatMap fun l => toLe 8 l.toNat).take n

/-- SHA3-256. -/
def sha3_256 (m : List Byte) : List Byte := sha3 32 m

/-- SHA3-512. -/
def sha3_512 (m : List Byte) : List Byte := sha3 64 m

/-- The seal of a record: bytes 0 to 3 of SHA3-256 over the key and the record (R153). -/
def sealOf (key record : List Byte) : Word := BitVec.ofNat 32 (ofLe ((sha3_256 (key ++ record)).take 4))

end Sys2Proof.Machine
end

