-- ==== Sys2Proof/Machine/Copy.lean ====
section
/-! DEFINITION. Tensor layout records, seals, and the streamer's copies with their collectives (R150 to R156). -/

namespace Sys2Proof.Machine

/-! ### Layout records (R150, R151) -/

/-- Bytes of an element by format code (R100, R151). -/
def esize (f : Nat) : Nat := if f = 0 || f = 5 || f = 6 then 4 else if f = 1 || f = 2 || f = 7 || f = 8 then 2 else 1

/-- Extent k. -/
def dimOf (r : List Byte) (k : Nat) : Nat := bfield r (8 + 4 * k) 4

/-- Stride k, from 1, in units of 16 bytes. -/
def strideOf (r : List Byte) (k : Nat) : Nat := bfield r (24 + 4 * k) 4

/-- Virtual address of element 0. -/
def baseOf (r : List Byte) : Nat := bfield r 44 8

/-- Bytes of a line (R151). -/
def lineLen (r : List Byte) : Nat := dimOf r 0 * esize (bfield r 5 1)

/-- Lines of a tensor (R151). -/
def lineCount (r : List Byte) : Nat := dimOf r 1 * dimOf r 2 * dimOf r 3 * dimOf r 4

/-- First byte of a line (R151). -/
def lineAddr (r : List Byte) (l : Nat) : Nat :=
  let i1 := l % dimOf r 1
  let l2 := l / dimOf r 1
  let i2 := l2 % dimOf r 2
  let l3 := l2 / dimOf r 2
  baseOf r + 16 * (i1 * strideOf r 1 + i2 * strideOf r 2 + l3 % dimOf r 3 * strideOf r 3
    + l3 / dimOf r 3 % dimOf r 4 * strideOf r 4)

/-- Byte offset of the first field that breaks R150 (log entry 10). -/
def layoutBad (r : List Byte) : Option Nat :=
  let rank := bfield r 4 1
  let bad : List (Nat × Bool) :=
    [(4, !(1 ≤ rank && rank ≤ 5)), (5, decide (bfield r 5 1 > 10)), (6, decide (bfield r 6 2 ≠ 0))]
    ++ (List.range 5).map (fun k => (8 + 4 * k, decide (dimOf r k = 0 ∨ (rank ≤ k ∧ dimOf r k ≠ 1))))
    ++ [1, 2, 3, 4].map (fun k => (24 + 4 * k, decide (k < rank ∧ strideOf r k = 0)))
    ++ [(44, decide (baseOf r % esize (bfield r 5 1) ≠ 0)), (52, decide (bfield r 52 8 ≠ 0))]
  (bad.find? (·.2)).map (·.1)

/-- The seal of a record holds: its last word is the seal of the bytes before (R123, R150, R153). -/
def sealGood (key r : List Byte) : Bool :=
  BitVec.ofNat 32 (bfield r (r.length - 4) 4) = sealOf key (r.take (r.length - 4))

/-- How far a layout record's check goes (R152, R166). -/
inductive RecCheck where
  | good
  | badSeal
  | badField (off : Nat)
deriving DecidableEq, Repr

/-- Checks a layout record; a good one enters the core's record cache, where it is found without rehashing (R152). -/
def State.checkLayout (s : State) (c p : Nat) (r : List Byte) : RecCheck × State :=
  let k := s.core c
  if k.layouts.contains (p, r) then (.good, s)
  else if !sealGood (s.polder p).sealKey r then (.badSeal, s)
  else
    match layoutBad r with
    | some o => (.badField o, s)
    | none => (.good, s.setCore c { k with layouts := k.layouts ++ [(p, r)] })

/-! ### Collectives (R155) -/

/-- Groups of a block that hold an occupied lane. -/
def State.liveUids (s : State) (c b : Nat) : List Nat :=
  ((s.core c).groups.filter fun e => e.2.bslot = b && e.2.occs ≠ []).map fun e => e.2.uid

/-- A slice arrives: it opens a collective, joins the open one, or waits for the next. -/
def State.supply (s : State) (c b : Nat) (e : Slice) : State :=
  match s.block c b with
  | some x =>
    s.setBlock c b <|
      match x.coll with
      | none => { x with coll := some { parts := s.liveUids c b, slices := [e] } }
      | some k =>
        if k.parts.contains e.uid && k.slices.all (·.uid ≠ e.uid) then
          { x with coll := some { k with slices := k.slices ++ [e] } }
        else { x with collNext := x.collNext ++ [e] }
  | none => s

/-- Every participant has supplied its slice or has ended.
(DEDUCED: log entry 36.) -/
def State.collReady (s : State) (c b : Nat) (k : Coll) : Bool :=
  k.parts.all fun u => k.slices.any (·.uid = u) || !(s.liveUids c b).contains u

/-- COLLECTIVE_START (R155): the waiting slices then open the next collective. -/
def execCollectiveStart (core bslot : Nat) (s : State) : Out :=
  .next <|
    match s.block core bslot with
    | some x =>
      match x.coll with
      | some k =>
        if s.collReady core bslot k then
          x.collNext.foldl (fun s e => s.supply core bslot e)
            (s.setBlock core bslot { x with coll := none, collNext := [] })
        else s
      | none => s
    | none => s

/-- The collective of a command has started. -/
def State.started (s : State) (id : Nat) (x : Cmd) : Bool :=
  match s.block x.org.core x.org.bslot with
  | some b =>
    !((match b.coll with | some k => k.slices | none => []) ++ b.collNext).any (·.cmd = some id)
  | none => true

/-! ### Issue -/

/-- Operand check of a copy: the record's address, then the local address (R154, R166).
(DEDUCED: log entry 35.) -/
def cpyCheck (s : State) (c : Nat) (g : Group) (a v o : Src) (sp : LSpace) (l : Nat) : Check :=
  let rva := (g.pair l a.reg.toNat).toNat
  let n := (g.reg l (v.reg.toNat + 1)).toNat
  let x := (g.reg l o.reg.toNat).toNat
  opndCheck .cpy l s.ir [(rva, rva % 64 ≠ 0), (x, x % 16 ≠ 0 || (n ≠ 0 && x ≥ s.localSize c g sp))]

/-- What a `cpy` requires. -/
def cpyPre (a v o : Src) (sp : LSpace) (gd : Guard) (c _sl : Nat) (g : Group) (s : State) : Check :=
  engCheck s c g <|
    match g.opLane gd with
    | some l => cpyCheck s c g a v o sp l
    | none => .ok

/-- `cpy` (R154 to R156): the slice's record is read at once; a collective's slice waits for its start. -/
def execCpy (a v o : Src) (st solo : Bool) (sp : LSpace) (gd : Guard) (s : State) : Out :=
  issueWith (issueOf (.cpy a v o st solo sp gd)) (cpyPre a v o sp gd)
    (fun c sl g s =>
      match g.opLane gd with
      | none => if solo || s.inRerun c g.bslot then s else s.supply c g.bslot { uid := g.uid, cmd := none }
      | some l =>
        let rva := (g.pair l a.reg.toNat).toNat
        let op : CmdOp := .cpy st sp rva (g.reg l v.reg.toNat).toNat (g.reg l (v.reg.toNat + 1)).toNat
          (g.reg l o.reg.toNat).toNat
        let (id, s) := s.launchCmd c sl g .cpy op (BitVec.twoPow 32 l) .record [] (fun _ => false)
        let s := s.sendReads id l [{ va := rva, len := 64, off := 0 }]
        let s := if solo || s.inRerun c g.bslot then s else s.supply c g.bslot { uid := g.uid, cmd := some id }
        s.progress c g.bslot) s

/-- Bytes that a seal hashes. -/
def sealLen (rec128 : Bool) : Nat := if rec128 then 124 else 60

/-- What a `seal` requires (R153, R166). -/
def sealPre (a : Src) (rec128 : Bool) (gd : Guard) (c _sl : Nat) (g : Group) (s : State) : Check :=
  engCheck s c g <|
    match g.opLane gd with
    | some l =>
      let x := (g.reg l a.reg.toNat).toNat
      opndCheck .cpy l s.ir [(x, x % 16 ≠ 0 || x + sealLen rec128 + 4 > s.shSizeOf c g)]
    | none => .ok

/-- `seal` (R153): the record in shared memory is read once the group's earlier stores are performed. -/
def execSealRec (d : Reg) (a : Src) (rec128 : Bool) (gd : Guard) (s : State) : Out :=
  issueWith (issueOf (.sealRec d a rec128 gd)) (sealPre a rec128 gd)
    (fun c sl g s =>
      match g.opLane gd with
      | none => s
      | some l =>
        let op : CmdOp := .sealRec (sealLen rec128) (g.reg l a.reg.toNat).toNat d.toNat
        (s.launchCmd c sl g .cpy op (maskOf (g.active gd)) .data (if d = 255 then [] else [d.toNat]) (g.active gd)).2.progress
          c g.bslot) s

/-- SEAL_COMPLETE (R145, R153). -/
def execSealComplete (cmd : Nat) (s : State) : Out :=
  .next <|
    match tfind s.cmds cmd with
    | some x =>
      match x.op with
      | .sealRec len loc d =>
        if x.phase = .data && s.storesDone x.org x.stores then
          let h := sealOf (s.polder x.org.polder).sealKey (s.localRead x.org .sh loc len)
          let s := s.shBytes x.org.core (s.localBase x.org .sh + loc + len) (toLe 4 h.toNat)
          let s := (lanes32.filter x.mask.getLsbD).foldl (fun s l => s.giveResult x.org cmd l d h) s
          s.finish cmd
        else s
      | _ => s
    | none => s

/-! ### The record arrives; chunks; completion -/

/-- A completion fault of a group command at its lane. -/
def State.cmdFault (s : State) (id : Nat) (x : Cmd) (code cause addr : Nat) (aux : Word) : State :=
  s.noteFault id x.lane code cause (BitVec.ofNat 64 addr) aux

/-- The pieces of lines `first` to `first + n − 1`, packed in local order (R156). -/
def linePieces (r : List Byte) (first n : Nat) : List Piece :=
  (List.range n).flatMap fun j => cut (lineAddr r (first + j)) (lineLen r) (j * lineLen r)

/-- A copy's record has been read (R152, R156, R166): the slice is checked and its plan is made, or it fails whole. ADDR of ENGRANGE
is the record's address for a slice beyond the tensor, and the local address for CAUSE 2.
(DESIGN CHOICE: log entry 64.) -/
def State.copyRecord (s : State) (id : Nat) (x : Cmd) (r : List Byte) : State :=
  match x.op with
  | .cpy _ sp recVa first n loc =>
    let (k, s) := s.checkLayout x.org.core x.org.polder r
    let s := (s.dropAccs id).onCmd id fun x => { x with phase := .data, recB := r }
    match k with
    | .badSeal => s.cmdFault id x 0x11 0 recVa (BitVec.ofNat 32 (bfield r 0 4))
    | .badField o => s.cmdFault id x 0x16 1 recVa (BitVec.ofNat 32 o)
    | .good =>
      let size := match sp with
        | .sh => if x.org.core ≥ 32 then 262144 else match s.block x.org.core x.org.bslot with | some b => b.shSize | none => 0
        | .sp => (s.polder x.org.polder).spSize
      if first + n > lineCount r then s.cmdFault id x 0x16 0 recVa x.org.ir
      else if n ≠ 0 ∧ loc + n * lineLen r > size then s.cmdFault id x 0x16 2 loc x.org.ir
      else s.onCmd id fun x => { x with plan := linePieces r first n }
  | _ => s

/-- Sends one piece of a copy's chunk: a copy-out reads its local bytes now (R235); over a failed link they are not to be had, the
piece is not sent, and the slice takes UNAVAIL (R329). -/
def State.copyPiece (s : State) (id : Nat) (x : Cmd) (p : Piece) : State :=
  match x.op with
  | .cpy true sp _ _ _ loc =>
    if s.localAvail x.org sp (loc + p.off) p.len = .no then s.cmdFault id x 0x13 0 (loc + p.off) 0
    else
      let s := s.comeBehind x.org sp (loc + p.off) p.len
      (s.postAcc id x.lane (.write (s.localRead x.org sp (loc + p.off) p.len)) p).2
  | _ => s.sendAcc id x.lane .read p

/-- A link that retrains holds the local bytes of a copy-out's piece (R329). -/
def State.pieceHeld (s : State) (x : Cmd) (p : Piece) : Bool :=
  match x.op with
  | .cpy true sp _ _ _ loc => s.localAvail x.org sp (loc + p.off) p.len = .wait
  | _ => false

/-- Bytes by address as runs of neighbours. -/
def runsOf : List (Nat × Byte) → List (Nat × List Byte)
  | [] => []
  | e :: r =>
    match runsOf r with
    | (a, bs) :: t => if a = e.1 + 1 then (e.1, e.2 :: bs) :: t else (e.1, [e.2]) :: (a, bs) :: t
    | [] => [(e.1, [e.2])]

/-- Bytes of local memory that a copy moves. -/
def Cmd.span (x : Cmd) : Nat :=
  match x.op with
  | .cpy _ _ _ _ n _ => n * lineLen x.recB
  | _ => 0

/-- The effect record of a copy (R260): the record and the operand addresses, with the bytes sent by a copy-out. -/
def State.copyRec (s : State) (o : Origin) (id : Nat) (op : CmdOp) (r bytes : List Byte) : State :=
  match op with
  | .cpy st _ recVa first n loc =>
    s.audFill o id (if st then 2 else 4) recVa (r ++ toLe 8 first ++ toLe 8 n ++ toLe 8 loc ++ if st then bytes else [])
  | _ => s

/-- The audit's effect of a copy, and the record and the bytes of scratchpad that it logs (R259, R260). -/
def copyEffect (s : State) (id : Nat) (x : Cmd) : State :=
  match x.op with
  | .cpy st sp _ _ _ _ =>
    let bytes := if st then (s.accsOf x).flatMap fun a => match a.op with | .write d => d | _ => [] else []
    ((s.copyRec x.org id x.op x.recB bytes).audRecord x.org id x.recB).audFillLog x.org id (logged sp bytes)
  | _ => s

/-- CPY_COMPLETE (R145, R156, R235): a copy-in's good bytes are written to local space; over a failed link they are
lost and the slice takes UNAVAIL (R329). -/
def execCpyComplete (cmd : Nat) (s : State) : Out :=
  .next <|
    match tfind s.cmds cmd with
    | some x =>
      match x.op with
      | .cpy st sp _ _ _ loc =>
        let av := s.localAvail x.org sp loc x.span
        if (x.phase ≠ .data && x.phase ≠ .record) || x.plan ≠ [] || !s.accsOver x || !s.storesDone x.org x.stores || av = .wait then s
        else
          let s := copyEffect s cmd x
          if st || x.accs = [] then s.finish cmd
          else if av = .no then (s.cmdFault cmd x 0x13 0 loc 0).finish cmd
          else
            let runs := runsOf ((s.accsOf x).flatMap Access.good)
            (runs.foldl (fun s e => s.localWrite cmd x.org sp (loc + e.1) e.2) s).finish cmd
      | _ => s
    | none => s

end Sys2Proof.Machine
end

