-- ==== Sys2Proof/Machine/Weaver.lean ====
section
/-! DEFINITION. The weaver: records, candidate sets, formation, merging at a join, eviction, and the barriers and
timers of groups (R28 to R47, R174, R178, R180, R217, R319, R349). -/

namespace Sys2Proof.Machine

/-! ### Records (R36 to R38) -/

/-- Bytes of a record (R37). -/
def recSize (rsd nlive : Nat) : Nat := 16 * ((16 + 4 * (rsd + nlive) + 15) / 16)

/-- Bytes of a record as it stands. -/
def Record.size (r : Record) : Nat := recSize r.rstk.length r.regs.length

/-- Spawn memory in use (R36). -/
def Core.spawnUse (k : Core) : Nat := total ((k.records.filter fun r => !r.spilled).map Record.size)

/-- The polder of a resident block. -/
def State.blockPolder (s : State) (c b : Nat) : Nat := match s.block c b with | some x => x.launch.polder | none => 0

/-- Bytes of spawn memory. -/
def spawnMem : Nat := 131072

/-- Records of some sizes fit into spawn memory and the spill area, in order (R36): `use` and `spill` are in use. -/
def fitsIn (size : Nat) : List Nat → Nat → Nat → Bool
  | [], _, _ => true
  | n :: r, use, spill =>
    if use + n ≤ spawnMem then fitsIn size r (use + n) spill
    else spill + n ≤ size && fitsIn size r use (spill + n)

/-- Records of some sizes fit on a core for a polder. -/
def State.fits (s : State) (c p : Nat) (sizes : List Nat) : Bool :=
  fitsIn (s.polder p).spillSz sizes (s.core c).spawnUse (s.polder p).spillUse

/-- Renumbers every record from zero upward, keeping their order, before the counter would wrap (R38). -/
def Core.renumber (k : Core) : Core :=
  if k.ageCtr < 2 ^ 32 - 1 then k
  else
    let rs := sortBy (·.age) k.records
    { k with records := rs.zipIdx.map fun e => { e.1 with age := e.2 }, ageCtr := rs.length }

/-- Number of a kind of record. -/
def RKind.num : RKind → Nat
  | .spill => 0
  | .spawn => 1
  | .reorder => 2

/-- A record's bytes (R37); those that round it up are zero, and the return addresses stand from the top of the stack down.
(DESIGN CHOICE: log entry 12.) -/
def recBytes (r : Record) : List Byte :=
  let w1 := r.kind.num * 2 ^ 30 + r.bslot * 2 ^ 24 + r.nlive * 2 ^ 16 + r.rstk.length * 2 ^ 12 + r.preds.toNat * 2 ^ 5
    + if r.kind = .spill then r.homeLane else 0
  padTo r.size (toLe 4 r.pc.toNat ++ toLe 4 w1 ++ toLe 4 r.age ++ toLe 4 r.key.toNat ++ bytesOf r.rstk ++ bytesOf r.regs)

/-- Bytes of one place of a spill area. -/
def spillUnit : Nat := 16

/-- The places of a polder's spill area that records hold. -/
def State.spillHeld (s : State) (p : Nat) : List Nat :=
  s.cores.flatMap fun k => k.2.records.flatMap fun r => if (s.blockPolder k.1 r.bslot) = p then r.place else []

/-- The lowest places of a polder's spill area that are free, for some bytes (R36).
(DESIGN CHOICE: log entry 30.) -/
def State.spillPlaces (s : State) (p n : Nat) : List Nat :=
  let held := s.spillHeld p
  ((List.range (held.length + n / spillUnit)).filter fun i => !held.contains i).take (n / spillUnit)

/-- Physical address of a place of a polder's spill area. -/
def State.placePa (s : State) (p i : Nat) : Nat := (s.polder p).spillPa + spillUnit * i

/-- Nothing that a higher slot has created in this cycle is in the weaver: records of one cycle are created by slot number (R38). -/
def Core.inOrder (k : Core) (clock sl : Nat) : Bool := k.records.all fun r => r.born ≠ clock || decide (r.slot ≤ sl)

/-- Deposits a record: it takes the next AGE; without room in spawn memory it is written into the spill area (R36, R38). -/
def State.deposit (s : State) (c p : Nat) (r : Record) : State :=
  let k := (s.core c).renumber
  let sp : Bool := k.spawnUse + r.size > spawnMem
  let place := if sp then s.spillPlaces p r.size else []
  let r := { r with age := k.ageCtr, spilled := sp, place := place }
  let s := s.setCore c { k with records := k.records ++ [r], ageCtr := k.ageCtr + 1 }
  if sp then
    let s := (place.zip (chunks spillUnit place.length (recBytes r))).foldl (fun s e => s.writePa (s.placePa p e.1) e.2) s
    s.setPolder p { s.polder p with spillUse := (s.polder p).spillUse + r.size }
  else s

/-- Takes records out of the weaver. -/
def State.takeRecords (s : State) (c p : Nat) (rs : List Record) : State :=
  let gone := total ((rs.filter (·.spilled)).map Record.size)
  let k := s.core c
  let s := s.setCore c { k with records := k.records.filter fun r => !(rs.any fun x => x.age = r.age) }
  if gone = 0 then s else s.setPolder p { s.polder p with spillUse := (s.polder p).spillUse - gone }

/-- A launch is to be aborted by the service (R36, R313). -/
def State.doom (s : State) (p id : Nat) : State :=
  let x := s.polder p
  s.setPolder p { x with doomed := if x.doomed.contains id then x.doomed else x.doomed ++ [id] }

/-- The first place of a record in the spill area that an uncorrectable block holds. -/
def State.recordLost (s : State) (p : Nat) (r : Record) : Option Nat := r.place.find? fun i => (s.view (s.placePa p i / 64)).2

/-- Records are read back from the spill area: one that meets an uncorrectable block cannot be restored; it is logged, and the
launch of its block is to be aborted (R36); a re-execution that loses one fails (R351). The records that can be restored are answered.
Every record that the caller's set holds is read, also one that it then leaves over.
(DESIGN CHOICE: log entry 30.) -/
def State.readBack (s : State) (c : Nat) (rs : List Record) : List Record × State :=
  rs.foldl (init := ([], s)) fun (ok, s) r =>
    let l := match s.block c r.bslot with | some b => b.launch | none => default
    let idx := match s.block c r.bslot with | some b => b.idx | none => 0
    let s := r.place.foldl (fun s i => s.checkBlock (s.placePa l.polder i / 64)) s
    match s.recordLost l.polder r with
    | none => (ok ++ [r], s)
    | some _ =>
      if s.inRerun c r.bslot then (ok, (s.takeRecords c l.polder [r]).failRun c r.bslot)
      else
      let pa := s.placePa l.polder (r.place.headD 0)
      let f : FaultAt := { code := 0x12, lanes := 0, addr := BitVec.ofNat 64 pa }
      let s := s.logBytes l.polder (entryBytes (f.record r.pc noPc).words l.id idx c 0xFF 0xFFFF s.clock)
      (ok, (s.takeRecords c l.polder [r]).doom l.polder l.id)

/-- A register as a record or image saves it: a dead one as the poison value (R62), a written engine result as it is
(R148). -/
def Lane.saved (ln : Lane) (r : Nat) : Word := if ln.dead.contains r then poison else tget 0 ln.regs r

/-- The spill record of a thread that leaves a group (R33, R37).
(DESIGN CHOICE: log entry 30.) -/
def spillRec (clock sl : Nat) (stores : List Nat) (g : Group) (l n : Nat) (pc : Word) (held : Hold) : Record :=
  let ln := g.lane l
  { kind := .spill, bslot := g.bslot, pc := pc, nlive := n, regs := (List.range n).map ln.saved, rstk := ln.rstk
    mstk := ln.mstk, deep := ln.deep, preds := ln.preds, homeLane := ln.homeLane, homeGrp := ln.homeGroup
    key := BitVec.ofNat 32 (ln.homeGroup % 2 ^ 26), age := 0, born := clock, orig := g.uid, slot := sl
    stores := stores, due := false, spilled := false, place := [], held := held
    mark := { kind := .spill, grp := g.gnum, issued := g.issued, lane := l } }

/-- Sizes of the spill records of some lanes, as `after` leaves them: a call pushes and a `ret` pops before they leave
(R34, R173). -/
def spillSizes (g : Group) (after : Lane → Lane) (ls : List Nat) (n : Nat) : List Nat :=
  ls.map fun l => recSize (after (g.lane l)).rstk.length n

/-- Lanes leave as spill records at their PCs, in ascending order, and become empty (R33, R34, R45). -/
def State.leaveLanes (s : State) (c sl : Nat) (out : List (Nat × Word)) (n : Nat) (held : Hold) : State :=
  match s.group c sl with
  | some g =>
    let p := (s.launchOf c g).polder
    let stores := s.storesOf g
    let s := out.foldl (fun s e => s.deposit c p (spillRec s.clock sl stores g e.1 n e.2 held)) s
    s.setGroup c sl (g.mapLanes fun i ln => if out.any (·.1 = i) then Lane.reset else ln)
  | none => s

/-! ### Candidate sets (R39 to R42, R217) -/

/-- A record's bucket (R39). -/
def bucket (bw : Nat) (r : Record) : Nat := if r.kind = .reorder then r.key.toNat / 2 ^ bw else 0

/-- Two records belong to one candidate set (R39). -/
def sameSet (bw : Nat) (r x : Record) : Bool :=
  r.kind = x.kind && r.bslot = x.bslot && r.pc = x.pc && bucket bw r = bucket bw x

/-- The stores that precede a record are performed, and no barrier holds it back (R180, R217).
(DEDUCED: log entry 46.) -/
def State.eligible (s : State) (c : Nat) (r : Record) : Bool :=
  let k := s.core c
  r.held = .free && r.stores.all fun i =>
    (k.groups.all fun e => e.2.stq.all fun x => x.id ≠ i) && (k.orphans.all fun x => x.id ≠ i)
      && s.linkQ.all fun x => x.entry.id ≠ i

/-- The launch of a resident block. -/
def State.blockLaunch (s : State) (c b : Nat) : Launch :=
  match s.block c b with
  | some x => x.launch
  | none => default

/-- The fairness interval of a launch (R241). -/
def fairOf (l : Launch) : Nat := if l.fairInt = 0 then 4096 else l.fairInt

/-- The records of the set of `r` that may be taken now, oldest first: none of this cycle (R40). -/
def State.setOf (s : State) (c : Nat) (r : Record) : List Record :=
  let k := s.core c
  let bw := (s.blockLaunch c r.bslot).bw
  sortBy (·.age) (k.records.filter fun x => sameSet bw r x && s.eligible c x && decide (x.born < s.clock))

/-- The oldest record of a set has waited the fairness interval (R39). -/
def State.isDue (s : State) (c : Nat) (r : Record) : Bool :=
  r.due || r.born + fairOf (s.blockLaunch c r.bslot) ≤ s.clock

/-- The group that a record came from has exited or has begun to wait at a join (R41, R42).
(DEDUCED: a group that ended by eviction, or when its last threads left by `reord`, counts as exited, log entry 59.) -/
def Core.origFree (k : Core) (r : Record) : Bool :=
  match k.groups.find? fun e => e.2.uid = r.orig with
  | some e => e.2.joined || e.2.occs = []
  | none => true

/-- A quad of a group in formation: identity and the record at each position. -/
structure Quad where
  grp  : Nat
  quad : Nat
  at'  : Table Record
deriving DecidableEq, Repr

/-- Places a spill record: in a quad of its identity with its position free, else in a further quad (R29). -/
def placeQuad : List Quad → Record → List Quad
  | [], r => [{ grp := r.homeGrp, quad := r.homeLane / 4, at' := [(r.homeLane % 4, r)] }]
  | q :: t, r =>
    if q.grp = r.homeGrp && q.quad = r.homeLane / 4 && (tfind q.at' (r.homeLane % 4)).isNone then
      { q with at' := tput q.at' (r.homeLane % 4) r } :: t
    else q :: placeQuad t r

/-- Quads of a spill set in the order of their oldest members (R40). -/
def quadsOf (rs : List Record) : List Quad := rs.foldl placeQuad []

/-- A set is full (R39). -/
def setFull (k : RKind) (rs : List Record) : Bool :=
  match k with
  | .spill => (quadsOf rs).length ≥ 8
  | _ => rs.length ≥ 32

/-- Some group of the block waits at a join for this PC (R43). -/
def Core.joinAt (k : Core) (b : Nat) (pc : Word) : Bool :=
  k.groups.any fun e => e.2.bslot = b && match e.2.waiting with | .join t _ _ => t = pc | _ => false

/-- A set may form (R41, R43). -/
def State.mayForm (s : State) (c : Nat) (rs : List Record) : Bool :=
  match rs with
  | r :: _ =>
    let promise := !(s.blockLaunch c r.bslot).noprom
    (setFull r.kind rs || (promise && s.isDue c r) || (s.core c).origFree r)
      && !(r.kind = .spill && (s.core c).joinAt r.bslot r.pc)
  | [] => false

/-- A slot that the block holds and that holds no group: the first of them in the order in which the block took its slots.
(DESIGN CHOICE: log entry 59.) -/
def State.freeSlot (s : State) (c b : Nat) : Option Nat :=
  match s.block c b with
  | some x => x.slots.find? fun sl => (s.group c sl).isNone
  | none => none

/-- A due set of a block (R45). -/
def State.hasDue (s : State) (c b : Nat) : Bool :=
  (s.core c).records.any fun r => r.bslot = b && match s.setOf c r with | x :: _ => s.isDue c x | [] => false

/-! ### Threads taken from records (R38) -/

/-- The lane of a thread taken from a record. -/
def Record.toLane (r : Record) (alloc homeGrp homeLane : Nat) : Lane :=
  { st := .occupied, homeGroup := homeGrp, homeLane := homeLane
    regs := r.regs.zipIdx.foldl (fun t e => tset 0 t e.2 e.1) []
    dead := (List.range (min alloc 255)).filter fun i => i ≥ r.regs.length
    pend := [], preds := r.preds, rstk := r.rstk, mstk := r.mstk, deep := r.deep, clkHi := none }

/-- A helper lane (R26). -/
def Lane.helper : Lane := { Lane.reset with st := .helper }

/-- Lanes of a group formed from spill records: quads 0 to 7 (R40). -/
def spillLanes (alloc : Nat) (qs : List Quad) : Table Lane :=
  (qs.take 8).zipIdx.flatMap fun e => (List.range 4).map fun i =>
    (4 * e.2 + i, match tfind e.1.at' i with
      | some r => r.toLane alloc r.homeGrp r.homeLane
      | none => Lane.helper)

/-- Lanes of a group formed from other records: one for each lane, from the lowest up (R29, R40). -/
def otherLanes (alloc gnum : Nat) (rs : List Record) : Table Lane :=
  (rs.take 32).zipIdx.map fun e => (e.2, e.1.toLane alloc gnum e.2)

/-- A group takes a free slot with records in their lanes, which leave the weaver (R29, R30, R40); the audit logs it (R259). -/
def State.formTaken (s : State) (c sl : Nat) (r : Record) (b : Block) (lanes : Table Lane) (taken : List (Nat × Record)) : State :=
  let (uid, s) := s.newId
  let g : Group := { Group.reset with bslot := r.bslot, gnum := b.nextG, lanes := lanes, pc := r.pc, uid := uid }
  let s := s.takeRecords c b.launch.polder (taken.map (·.2))
  let s := s.setBlock c r.bslot { b with nextG := (b.nextG + 1) % 2 ^ 26 }
  ((s.setGroup c sl g).onSub c sl (·.youngest sl)).logCtl c g.bslot g.gnum (.form (taken.map fun e => (e.1, e.2.mark)))

/-- Forms a group from records that can be restored, in a free slot (R29, R30, R40). -/
def State.formFrom (s : State) (c sl : Nat) (rs : List Record) : State :=
  match rs with
  | [] => s
  | r :: _ =>
    match s.block c r.bslot with
    | some b =>
      let alloc := allocOf b.launch
      let qs := quadsOf rs
      let ordered := if r.kind = .reorder then sortBy (fun x => x.key.toNat) rs else rs
      let taken : List (Nat × Record) := match r.kind with
        | .spill => (qs.take 8).zipIdx.flatMap fun e => e.1.at'.map fun x => (4 * e.2 + x.1, x.2)
        | _ => (ordered.take 32).zipIdx.map fun e => (e.2, e.1)
      let lanes := match r.kind with
        | .spill => spillLanes alloc qs
        | _ => otherLanes alloc b.nextG ordered
      s.formTaken c sl r b lanes taken
    | none => s

/-- FORMS a group from a set in a free slot: the records are read back first (R36, R40). -/
def State.formGroup (s : State) (c sl : Nat) (rs : List Record) : State :=
  let r := s.readBack c rs
  r.2.formFrom c sl r.1

/-- Records that may be taken now, oldest first (R40, R217); those of a re-execution follow the log (R261). -/
def State.takeable (s : State) (c : Nat) : List Record :=
  sortBy (·.age) ((s.core c).records.filter fun x => s.eligible c x && decide (x.born < s.clock) && !s.inRerun c x.bslot)

/-! ### What a re-execution follows (R259, R261) -/

/-- The records that marks name, in their lanes; none where one is not there, or may not be taken now. -/
def State.marked (s : State) (c b : Nat) (ts : List (Nat × Mark)) : Option (List (Nat × Record)) :=
  ts.mapM fun t => ((s.core c).records.find? fun r => r.bslot = b && r.mark = t.2 && s.eligible c r && decide (r.born < s.clock)).map
    fun r => (t.1, r)

/-- The lanes of a group formed from logged records: a quad of spill records is whole, with helper lanes (R26, R29, R40). -/
def followLanes (alloc gnum : Nat) (ts : List (Nat × Record)) : Table Lane :=
  lanes32.filterMap fun i =>
    match ts.find? fun t => t.1 = i with
    | some (_, r) => some (i, if r.kind = .spill then r.toLane alloc r.homeGrp r.homeLane else r.toLane alloc gnum i)
    | none => if ts.any fun t => t.2.kind = .spill && t.1 / 4 = i / 4 then some (i, Lane.helper) else none

/-- The formation that a re-execution follows next, where its records are there: the slot, the block and the records. -/
def State.formNext (s : State) (c b : Nat) : Option (Nat × Block × List (Nat × Record)) :=
  match s.block c b, s.freeSlot c b with
  | some x, some sl =>
    match s.nextCtl c b x.nextG with
    | some (.form ts) => (s.marked c b ts).map fun rs => (sl, x, rs)
    | _ => none
  | _, _ => none

/-- A re-execution of a core follows a logged formation: the records are read back, and the group is formed as the log says (R261). -/
def State.formLogged (s : State) (c : Nat) : State :=
  let b := (s.core c).blocks.findSome? fun e => if e.2.rerun.isSome && (s.formNext c e.1).isSome then some e.1 else none
  match b with
  | some b =>
    match s.formNext c b with
    | some (sl, x, (l, r) :: ts) =>
      let t := (s.readBack c (((l, r) :: ts).map (·.2))).2
      if t.rerunOf c b |>.any fun y => y.2.2.failed then t
      else (t.dropCtl c b x.nextG).formTaken c sl r x (followLanes (allocOf x.launch) x.nextG ((l, r) :: ts)) ((l, r) :: ts)
    | _ => s
  | none => s

/-- A group of a re-execution is to be evicted before it issues anything else: it has come to the end of the run at which the log says
so (R45, R261). -/
def State.evictsNow (s : State) (c : Nat) (g : Group) : Bool :=
  g.run = 0 && g.clause = none && match s.nextCtl c g.bslot g.gnum with
    | some (.evict n) => decide (n ≤ g.issued)
    | _ => false

/-- WEAVER_FORM_GROUP (R40, R41): the set whose oldest record is oldest among those that may form; a core forms at most one group in a
cycle. Where no set may form, a re-execution follows its log (R261). -/
def execWeaverFormGroup (core : Nat) (s : State) : Out :=
  .next <|
    if (s.core core).formed > s.coreClk core then s
    else
    let sets := (s.takeable core).map fun r => s.setOf core r
    let t := s.setCore core { s.core core with formed := s.coreClk core + 1 }
    match sets.find? fun rs => s.mayForm core rs && match rs with | r :: _ => (s.freeSlot core r.bslot).isSome | [] => false with
    | some (r :: rs) =>
      match s.freeSlot core r.bslot with
      | some sl => t.formGroup core sl (r :: rs)
      | none => s
    | _ => if (s.core core).blocks.any fun e => e.2.rerun.isSome && (s.formNext core e.1).isSome then t.formLogged core else s

/-- SET_DUE (R39): the set whose oldest record has this AGE becomes due. -/
def execSetDue (core age : Nat) (s : State) : Out :=
  .next <|
    let k := s.core core
    match k.records.find? (·.age = age) with
    | some r =>
      if r.born + fairOf (s.blockLaunch core r.bslot) ≤ s.clock then
        s.setCore core { k with records := k.records.map fun x => if x.age = age then { x with due := true } else x }
      else s
    | none => s

/-! ### Merging at a join (R43, R319) -/

/-- The lane for a merged thread: its position in an empty quad, else the lowest empty lane. -/
def Group.mergeLane (g : Group) (homeLane : Nat) : Option Nat :=
  let empty (l : Nat) : Bool := (g.lane l).st = .empty
  let quadEmpty (q : Nat) : Bool := (List.range 4).all fun i => empty (4 * q + i)
  match (List.range 8).find? quadEmpty with
  | some q => some (4 * q + homeLane % 4)
  | none => lowest empty

/-- A group of the block waits for the same PC and began earlier, or at once in a lower slot (R319). -/
def Core.joinsFirst (k : Core) (b : Nat) (pc : Word) (since sl : Nat) : Bool :=
  k.groups.all fun e =>
    !(e.2.bslot = b && match e.2.waiting with
      | .join t x _ => t = pc && (x < since || (x = since && decide (e.1 < sl)))
      | _ => false)

/-- Merges records in order of AGE while the group has an empty lane. -/
def State.mergeAll (s : State) (c sl : Nat) (pc : Word) (p alloc : Nat) : List Record → State
  | [] => s
  | r :: rs =>
    match s.group c sl with
    | some g =>
      match g.mergeLane r.homeLane with
      | some l =>
        let h := { g with lanes := tput g.lanes l (r.toLane alloc r.homeGrp r.homeLane), cache := [] }
        State.mergeAll (((s.takeRecords c p [r]).setGroup c sl h).logCtl c h.bslot h.gnum (.merge l r.mark)) c sl pc p alloc rs
      | none => s
    | none => s

/-- The group goes on at the join's target; the audit logs it (R259). -/
def State.endJoin (s : State) (c sl : Nat) (pc : Word) : State :=
  match s.group c sl with
  | some g => (s.setGroup c sl { g with waiting := .none, pc := pc }).logCtl c g.bslot g.gnum .joined
  | none => s

/-- A group of a re-execution at a join follows the log: it merges the next record that the log names, once it is there, or goes on
(R261). A log that names neither fails the run (R351). -/
def State.joinLogged (s : State) (c sl : Nat) (g : Group) (pc : Word) : State :=
  let l := s.launchOf c g
  match s.nextCtl c g.bslot g.gnum with
  | some (.merge ln m) =>
    match s.marked c g.bslot [(ln, m)] with
    | some [(_, r)] =>
      let t := (s.readBack c [r]).2
      if (g.lane ln).st ≠ .empty || r.pc ≠ pc || (t.rerunOf c g.bslot).any fun y => y.2.2.failed then t.failRun c g.bslot
      else
        let h := { g with lanes := tput g.lanes ln (r.toLane (allocOf l) r.homeGrp r.homeLane), cache := [] }
        ((t.takeRecords c l.polder [r]).setGroup c sl h).dropCtl c g.bslot g.gnum
    | _ => s
  | some .joined => (s.dropCtl c g.bslot g.gnum).endJoin c sl pc
  | _ => s.failRun c g.bslot

/-- The third condition of R43: no spill record of the block, every other group exited or at a join. -/
def Core.joinAlone (k : Core) (b sl : Nat) : Bool :=
  (k.records.all fun r => !(r.kind = .spill && r.bslot = b))
  && k.groups.all fun e => e.1 = sl || e.2.bslot ≠ b || e.2.occs = [] || match e.2.waiting with | .join _ _ _ => true | _ => false

/-- Merges what has arrived, then ends the wait where R43 says so or the timeout has come. -/
def State.joinStep (s : State) (c sl : Nat) (timed : Bool) : State :=
  match s.group c sl with
  | some g =>
    match g.waiting with
    | .join pc since dl =>
      if s.inRerun c g.bslot then s.joinLogged c sl g pc
      else if timed && decide (s.clock < dl) then s
      else
        let k := s.core c
        let l := s.launchOf c g
        let rs := sortBy (·.age) (k.records.filter fun r =>
          r.kind = .spill && r.bslot = g.bslot && r.pc = pc && s.eligible c r)
        let s := if k.joinsFirst g.bslot pc since sl then
            let r := s.readBack c rs
            r.2.mergeAll c sl pc l.polder (allocOf l) r.1
          else s
        let full := match s.group c sl with | some h => lanes32.all fun i => (h.lane i).st ≠ .empty | none => false
        if timed || full || (s.core c).joinAlone g.bslot sl then s.endJoin c sl pc else s
    | _ => s
  | none => s

/-- JOIN_MERGE (R43). -/
def execJoinMerge (core slot : Nat) (s : State) : Out := .next (s.joinStep core slot false)

/-- JOIN_TIMEOUT (R43, R319): that cycle's arrivals are merged first. -/
def execJoinTimeout (core slot : Nat) (s : State) : Out := .next (s.joinStep core slot true)

/-- SLEEP_EXPIRE (R178). -/
def execSleepExpire (core slot : Nat) (s : State) : Out :=
  .next <|
    match s.group core slot with
    | some g =>
      match g.waiting with
      | .sleep till => if till ≤ s.clock then s.setGroup core slot { g with waiting := .none } else s
      | _ => s
    | none => s

/-! ### Eviction (R45) -/

/-- A group waits for a fetch that is held under REPLAY (R340). -/
def State.fetchHeld (s : State) (g : Group) : Bool :=
  match g.waiting with
  | .fetch id => match tfind s.accs id with | some a => a.st.held | none => false
  | _ => false

/-- A group may be evicted at all (R45, R311, R340). -/
def State.evictable (s : State) (g : Group) : Bool :=
  !g.bound && !g.parked && g.occs ≠ [] && !s.fetchHeld g && match g.waiting with | .join _ _ _ => false | _ => true

/-- A group stands at the end of a run. -/
def Group.atRunEnd (g : Group) : Bool :=
  g.run = 0 && g.clause = none && match g.waiting with
    | .none => true | .bar _ => true | .gsync => true | .sleep _ => true | .fetch _ => true | .header _ _ => true | _ => false

/-- The group that R45 chooses in a block: most issue cycles, then the lowest slot.
(DEDUCED: log entry 32.) -/
def State.evictee (s : State) (c b : Nat) : Option Nat :=
  let cs := (s.core c).groups.filter fun e => e.2.bslot = b && s.evictable e.2
  let top := (cs.map fun e => e.2.issued).foldl max 0
  (cs.find? fun e => e.2.issued = top).map (·.1)

/-- Whether a waiting group has arrived at a barrier. -/
def Group.arrived (g : Group) : Bool :=
  match g.waiting with
  | .bar _ => true
  | .gsync => true
  | _ => false

/-- A group waits at a block barrier. -/
def Group.atBar (g : Group) : Bool := match g.waiting with | .bar _ => true | _ => false

/-- What holds back the records of a group that is evicted: the barrier at which it waits (R180). -/
def Group.holdOf (g : Group) : Hold :=
  match g.waiting with
  | .bar _ => .bar
  | .gsync => .gang
  | _ => .free

/-- A group's fetch is given up. -/
def State.dropFetchOf (s : State) (g : Group) : State :=
  match g.waiting with
  | .fetch id => match tfind s.accs id with
    | some a => let t := s.unpark id a; { t with accs := tdel t.accs id }
    | none => s
  | _ => s

/-- EVICTS a group: each occupied lane becomes a spill record at its next PC with NLIVE the smaller of 32 · b and 255
(R45); a thread evicted at a barrier is held back until it completes (R180). An eviction whose records do not fit, or whose open
batches could not be closed, is not made (R36, R144). The audit logs it (R259). -/
def State.evict (s : State) (c sl : Nat) : State :=
  match s.group c sl with
  | some g =>
    let l := s.launchOf c g
    let n := min (allocOf l) 255
    let busy := s.linkHolds c g || g.occs.any fun i => s.pendBusy (g.lane i)
    if busy || !allCls.all g.canClose || !s.fits c l.polder (spillSizes g id g.occs n) then s
    else
      let s := ((s.dropFetchOf g).logCtl c g.bslot g.gnum (.evict g.issued)).settle c sl
      let s := s.leaveLanes c sl (g.occs.map fun i => (i, g.pc)) n g.holdOf
      let s := match s.block c g.bslot with
        | some b => s.setBlock c g.bslot { b with
            evictedBar := b.evictedBar + if g.atBar then 1 else 0
            evictedGs := b.evictedGs + if g.arrived && !g.atBar then 1 else 0
            evictedMx := b.evictedMx || decide (g.waiting = Wait.bar true) }
        | none => s
      s.endGroup c sl
  | none => s

/-- A group of a re-execution is evicted where the log says so (R261); one that has gone past that point fails the run (R351). -/
def State.evictLogged (s : State) (c sl : Nat) (g : Group) : State :=
  if !s.evictsNow c g then s
  else if s.nextCtl c g.bslot g.gnum ≠ some (.evict g.issued) || !s.evictable g then s.failRun c g.bslot
  else
    let t := s.evict c sl
    if (t.group c sl).isNone || (t.group c sl).any (fun h => h.uid = g.uid && h.occs = []) then t.dropCtl c g.bslot g.gnum else t

/-- GROUP_EVICT (R45). -/
def execGroupEvict (core slot : Nat) (s : State) : Out :=
  .next <|
    match s.group core slot with
    | some g =>
      if s.inRerun core g.bslot then (if (s.core core).inOrder s.clock slot then s.evictLogged core slot g else s)
      else if !(s.launchOf core g).noprom && s.hasDue core g.bslot && (s.freeSlot core g.bslot).isNone
          && s.evictee core g.bslot = some slot && g.atRunEnd && (s.core core).inOrder s.clock slot then s.evict core slot
      else s
    | none => s

/-! ### Room in the spill area (R36), spawned records (R176) -/

/-- A waiter for room: its place in its polder's order, and a group's slot or a command. -/
structure Waiter where
  order : Nat
  core  : Nat
  slot  : Option Nat
  /-- the slot of the group that its records come from (R38) -/
  from' : Nat
  cmd   : Nat
  sizes : List Nat
deriving DecidableEq, Repr

/-- The waiters for room of a polder, over its cores (R36). -/
def State.waiters (s : State) (p : Nat) : List Waiter :=
  (s.cores.flatMap fun k => k.2.groups.filterMap fun e => match e.2.waiting with
    | .room n sizes _ =>
      if (s.launchOf k.1 e.2).polder = p then some { order := n, core := k.1, slot := some e.1, from' := e.1, cmd := 0, sizes := sizes } else none
    | _ => none)
  ++ s.cmds.filterMap fun e =>
    if e.2.org.polder = p && e.2.phase = .waiting then
      match e.2.op with
      | .spawn n ch => some { order := n, core := e.2.org.core, slot := none, from' := e.2.org.slot, cmd := e.1, sizes := ch.map (·.2.size) }
      | _ => none
    else none

/-- A spawn command deposits its records in order and completes (R145, R176). -/
def State.spawnAll (s : State) (id : Nat) : State :=
  match tfind s.cmds id with
  | some x =>
    match x.op with
    | .spawn _ ch =>
      let s := ch.foldl (fun s e => s.deposit x.org.core x.org.polder { e.2 with bslot := e.1, born := s.clock, slot := x.org.slot }) s
      s.finish id
    | _ => s
  | none => s

/-- SPAWN_COMPLETE (R36, R176): the records fit, and nothing of the polder has waited for room longer. -/
def execSpawnComplete (cmd : Nat) (s : State) : Out :=
  .next <|
    match tfind s.cmds cmd with
    | some x =>
      let ws := s.waiters x.org.polder
      match ws.find? fun w => w.slot = none && w.cmd = cmd with
      | some w =>
        if s.fits x.org.core x.org.polder w.sizes && (s.core x.org.core).inOrder s.clock x.org.slot
            && ws.all fun y => w.order ≤ y.order then s.spawnAll cmd else s
      | none => s
    | none => s

/-- Polders with a block on a core, ascending. -/
def State.poldersOn (s : State) (c : Nat) : List Nat :=
  (List.range 64).filter fun p => (s.core c).blocks.any fun b => b.2.launch.polder = p

/-- SPILL_ROOM_FREED (R36, R61): the oldest waiter of a polder proceeds as soon as its records fit, where it stands on this core: a
command completes, and a group arbitrates again; it keeps its place in the order until it issues. -/
def execSpillRoomFreed (core : Nat) (s : State) : Out :=
  .next <|
    let ready (p : Nat) : Option (Nat × Waiter) :=
      match argMin (·.order) (s.waiters p) with
      | some w => if w.core = core && s.fits core p w.sizes then some (p, w) else none
      | none => none
    match (s.poldersOn core).findSome? ready with
    | some (_, w) =>
      match w.slot with
      | some sl =>
        s.onGroup core sl fun g => { g with waiting := .room w.order w.sizes true }
      | none => if (s.core core).inOrder s.clock w.from' then s.spawnAll w.cmd else s
    | none => s

/-! ### Barriers (R180, R181) -/

/-- Groups of a block that hold a thread. -/
def State.threads (s : State) (c b : Nat) : List (Nat × Group) :=
  (s.core c).groups.filter fun e => e.2.bslot = b && e.2.occs ≠ []

/-- The records that a barrier of a block has held back may form again, and its counts are clear. -/
def State.freeHeld (s : State) (c b : Nat) (gang : Bool) : State :=
  let k := s.core c
  let h : Hold := if gang then .gang else .bar
  let s := s.setCore c { k with records := k.records.map fun r =>
    if r.bslot = b && r.held = h then { r with held := .free } else r }
  match s.block c b with
  | some x => s.setBlock c b (if gang then { x with evictedGs := 0 } else { x with evictedBar := 0, evictedMx := false })
  | none => s

/-- Groups of a block that have arrived at a barrier go on. -/
def State.passBarrier (s : State) (c b : Nat) (gang : Bool) : State :=
  let k := s.core c
  let mine (g : Group) : Bool := if gang then g.waiting = .gsync else g.atBar
  (s.setCore c { k with groups := k.groups.map fun e =>
      if e.2.bslot = b && e.2.occs ≠ [] && mine e.2 then (e.1, { e.2 with waiting := .none }) else e }).freeHeld c b gang

/-- BARRIER_COMPLETE (R180, R181): `bar.mx` shows the matrix path every performed store. -/
def execBarrierComplete (core bslot : Nat) (s : State) : Out :=
  .next <|
    let ts := s.threads core bslot
    let n := match s.block core bslot with | some b => b.evictedBar | none => 0
    if (ts = [] && n = 0) || !(ts.all fun e => e.2.atBar) then s
    else
      let mx := (ts.any fun e => e.2.waiting = .bar true) || match s.block core bslot with | some b => b.evictedMx | none => false
      let s := s.passBarrier core bslot false
      if mx then s.setCore core { s.core core with mxHist := [] } else s

/-- A block of a user's launch: neither of the service image nor a re-execution (R184, R261). -/
def Block.tenant (x : Block) : Bool := !x.launch.sram && x.rerun.isNone

/-- Resident blocks of the gang of a block, over the module (R23); a block of the service image is a gang of its own (R182), and so is
a re-execution.
(DESIGN CHOICE: log entry 15.) -/
def State.gang (s : State) (c b : Nat) : List (Nat × Nat) :=
  match s.block c b with
  | some x =>
    if !x.tenant then [(c, b)]
    else
      s.cores.flatMap fun k => (k.2.blocks.filter fun y =>
        y.2.launch.id = x.launch.id && y.2.launch.polder = x.launch.polder && y.2.tenant
          && y.2.idx / x.launch.gangSz = x.idx / x.launch.gangSz).map fun y => (k.1, y.1)
  | none => []

/-- Blocks of a launch's grid (R23). -/
def gridOf (l : Launch) : Nat := l.nblkX * l.nblkY * l.nblkZ

/-- The first block of a launch that has still to be placed, as SNEXT of its queue's slot says (R248). -/
def State.nextBlock (s : State) (l : Launch) : Nat :=
  match s.slots.find? fun e => e.2.polder = l.polder && e.2.launch.any fun x => x.id = l.id with
  | some e => (mget32 s.sp ((s.polder 0).spBase + 0x1000 + 16 * e.1 + 12)).toNat
  | none => gridOf l

/-- Every block of a block's gang is resident or has retired: none is still to be placed, and none lies in an image (R180). -/
def State.gangHere (s : State) (c b : Nat) : Bool :=
  match s.block c b with
  | some x =>
    let l := x.launch
    let mates := (List.range l.gangSz).map (x.idx / l.gangSz * l.gangSz + ·)
    let here (j : Nat) : Bool := (s.gang c b).any fun y => match s.block y.1 y.2 with | some z => z.idx = j | none => false
    !x.tenant || mates.all fun j => j ≥ gridOf l || here j
      || (decide (j < s.nextBlock l)
          && (s.polder l.polder).saved.all fun y => !(y.block.launch.id = l.id && y.block.idx = j))
  | none => false

/-- A word of a gang's cores. -/
def Sent.ofGang (x : Sent) (bs : List (Nat × Nat)) : Bool := bs.any fun y => y.1 = x.core

/-- The words of the die links on which a gang's words are, which come in order (R228, R230). -/
def State.gangWords (s : State) (bs : List (Nat × Nat)) : List Sent :=
  s.linkQ.filter fun x => s.linkQ.any fun z => z.ofGang bs && decide (dieOf z.core = dieOf x.core) && decide (z.die = x.die)

/-- A gang's words on the die links are written, and its cores' read caches hold nothing older (R181).
(DEDUCED: log entry 23.) -/
def State.gangOrder (s : State) (bs : List (Nat × Nat)) : State :=
  let s := (s.gangWords bs).foldl State.writeSent s
  bs.foldl (fun s y => s.dropLines y.1) s

/-- GANG_BARRIER_COMPLETE (R180 to R182): every block of the gang has every thread at `gsync`; a retired block counts, one that is
still to be placed or lies in an image does not. A word on a link that carries no traffic holds the barrier (R181, R329). -/
def execGangBarrierComplete (core bslot : Nat) (s : State) : Out :=
  .next <|
    let bs := s.gang core bslot
    let stuck := s.linkQ.any fun x => x.ofGang bs && decide (s.linkAvail (dieOf x.core) x.die ≠ .yes)
    if s.gangHere core bslot && !stuck && bs.all fun y => (s.threads y.1 y.2).all fun e => e.2.waiting = .gsync then
      (bs.foldl (fun s y => s.passBarrier y.1 y.2 true) s).gangOrder bs
    else s

/-! ### The progress watchdog (R349, R350) -/

/-- The PC at which a group stands: one at a join waits at the join's target (R174). -/
def Group.standsAt (g : Group) : Word :=
  match g.waiting with
  | .join t _ _ => t
  | _ => g.pc

/-- The words of a watchdog entry (R350). -/
def watchWords (s : State) (c b : Nat) (x : Block) : List Word :=
  let ts := s.threads c b
  let cnt (p : Group → Bool) : Word := BitVec.ofNat 32 (ts.filter fun e => p e.2).length
  let low := argMin (fun e : Nat × Group => e.2.gnum) ts
  [0x1E + BitVec.ofNat 32 (ts.length % 64 * 2 ^ 16), match low with | some e => e.2.standsAt | none => 0,
   cnt Group.arrived, cnt fun g => match g.waiting with | .join _ _ _ => true | _ => false,
   BitVec.ofNat 32 ((s.core c).records.filter fun r => r.bslot = b).length, BitVec.ofNat 32 (x.idle + 1), 0xFFFFFFFF, 0]

/-- WATCHDOG_EXPIRE (R349): an entry is written and the counter starts again; that of a re-execution goes only to the service. -/
def execWatchdogExpire (core bslot : Nat) (s : State) : Out :=
  .next <|
    match s.block core bslot with
    | some x =>
      let w := (s.core core).wdogint.toNat
      if w ≠ 0 ∧ x.progress + w ≤ s.clock then
        let s1 := s.setBlock core bslot { x with progress := s.clock, idle := x.idle + 1 }
        s1.logFor core bslot x.launch.polder
          (entryBytes (watchWords s core bslot x) x.launch.id x.idx core 0xFF 0xFFFF s.clock)
      else s
    | none => s

end Sys2Proof.Machine
end

