-- ==== Sys2Proof/Machine/Ctl.lean ====
section
/-! DEFINITION. The control instructions of class CTL (R167 to R179) and the barriers `bar`, `bar.mx` and `gsync`
(R180). -/

namespace Sys2Proof.Machine

/-- A lane of a set that is to leave has an engine result that has still to arrive (R148), or a link that retrains holds a result of
its group (R60, R329). -/
def anyBusy (s : State) (c : Nat) (g : Group) (ls : List Nat) : Bool :=
  (ls ≠ [] && s.linkHolds c g) || ls.any fun l => s.pendBusy (g.lane l)

/-- The check before lanes leave as spill records, as `after` leaves them: pending engine results first (R148), then room
(R36).
(DEDUCED: an instruction that has not waited yet may pass those that wait, log entry 60.) -/
def leaveCheck (s : State) (c : Nat) (g : Group) (after : Lane → Lane) (ls : List Nat) (n : Nat) : Check :=
  if anyBusy s c g ls then .stall
  else
    let sizes := spillSizes g after ls n
    if s.fits c (s.launchOf c g).polder sizes then .ok else .room sizes

/-- The group would end here with an open batch that cannot be closed (R144). -/
def endHold (g : Group) (ls : List Nat) : Bool := (g.occs.all ls.contains) && !allCls.all g.canClose

/-! ### Branches (R169, R170, R172, R173) -/

/-- A divided group: the PC it keeps and the lanes that leave with their PCs, ascending. -/
structure Fork where
  stay  : Word
  leave : List (Nat × Word)
deriving DecidableEq, Repr

/-- The lanes that leave at a divergent `bra`: the smaller side, the taken side on a tie (R33, R169). -/
def braFork (g : Group) (gd : Guard) (tgt next : Word) : Fork :=
  let t := g.occs.filter (g.guard gd)
  let f := g.occs.filter fun l => !g.guard gd l
  if t = [] then { stay := next, leave := [] }
  else if f = [] then { stay := tgt, leave := [] }
  else if t.length ≤ f.length then { stay := next, leave := t.map fun l => (l, tgt) }
  else { stay := tgt, leave := f.map fun l => (l, next) }

/-- The largest set of lanes with one target keeps the group; on a tie the one with the lowest lane (R34). -/
def fork (ts : List (Nat × Word)) (next : Word) : Fork :=
  let cnt (t : Word) : Nat := (ts.filter fun e => e.2 = t).length
  let top := (ts.map fun e => cnt e.2).foldl max 0
  match ts.find? fun e => cnt e.2 = top with
  | some e => { stay := e.2, leave := ts.filter fun x => x.2 ≠ e.2 }
  | none => { stay := next, leave := [] }

/-- The illegal-convergence fault of a divergence (R316). -/
def convergeFault (g : Group) (cause : Nat) (f : Fork) : Check :=
  .fault { code := 2, cause := cause, lanes := maskOf fun l => f.leave.any fun e => e.1 = l, aux := g.occMask }

/-- The check of a branch that may divide the group. -/
def forkCheck (s : State) (c : Nat) (g : Group) (cause : Nat) (f : Fork) (after : Lane → Lane) (n : Nat) : Check :=
  if f.leave = [] then .ok
  else if g.bound then convergeFault g cause f
  else leaveCheck s c g after (f.leave.map (·.1)) n

/-- The group divides or goes on (R33, R34, R61). -/
def State.branch (s : State) (c sl : Nat) (g : Group) (f : Fork) (n : Nat) : State :=
  let s := if f.leave = [] then s else (s.settle c sl).leaveLanes c sl f.leave n .free
  s.jump c sl (fallthrough g) f.stay

/-- How a `bra` divides its group. -/
def braOf (off : BitVec 20) (gd : Guard) (g : Group) : Fork := braFork g gd (target g off) (fallthrough g)

/-- What a `bra` requires. -/
def braPre (n : BitVec 8) (off : BitVec 20) (gd : Guard) (c _sl : Nat) (g : Group) (s : State) : Check :=
  forkCheck s c g 2 (braOf off gd g) id n.toNat

/-- `bra` (R169). -/
def execBra (n : BitVec 8) (off : BitVec 20) (gd : Guard) (s : State) : Out :=
  issueWith (issueOf (.bra n off gd)) (braPre n off gd) (fun c sl g s => s.branch c sl g (braOf off gd g) n.toNat) s

/-- A register target (R167). -/
def regTarget (w : Word) : Word := w &&& 0xFFFFFFFC

/-- How a `brx` divides its group. -/
def brxOf (t : Src) (gd : Guard) (g : Group) : Fork :=
  fork (g.occs.map fun l => (l, if g.guard gd l then regTarget (g.reg l t.reg.toNat) else fallthrough g)) (fallthrough g)

/-- What a `brx` requires. -/
def brxPre (n : BitVec 8) (t : Src) (gd : Guard) (c _sl : Nat) (g : Group) (s : State) : Check :=
  forkCheck s c g 2 (brxOf t gd g) id n.toNat

/-- `brx` (R170). -/
def execBrx (n : BitVec 8) (t : Src) (gd : Guard) (s : State) : Out :=
  issueWith (issueOf (.brx n t gd)) (brxPre n t gd) (fun c sl g s => s.branch c sl g (brxOf t gd g) n.toNat) s

/-- The stack-overflow fault of a call (R171, R308). -/
def pushCheck (s : State) (c : Nat) (g : Group) : Check :=
  let sz := (s.launchOf c g).stackSz
  let full (l : Nat) : Bool := g.occ l && !(g.lane l).canPush sz
  if lanes32.any full then .fault { code := 6, lanes := maskOf full, aux := BitVec.ofNat 32 sz } else .ok

/-- Every occupied lane pushes a return address (R172). -/
def State.pushAll (s : State) (c sl : Nat) (v : Word) : State :=
  s.onGroup c sl fun g => g.mapLanes fun _ ln => if ln.st = .occupied then ln.push v else ln

/-- What a `call` requires: its return addresses find room in the spill-stack cache (R135); those of a re-execution stay with it. -/
def callPre (c _sl : Nat) (g : Group) (s : State) : Check :=
  (pushCheck s c g).andThen (if g.stackRoom || s.inRerun c g.bslot then .ok else .stall)

/-- `call` (R171, R172). -/
def execCall (n : BitVec 8) (off : BitVec 20) (s : State) : Out :=
  issueWith (issueOf (.call n off)) callPre
    (fun c sl g s => (s.pushAll c sl (fallthrough g)).jump c sl (fallthrough g) (target g off)) s

/-- How a `callx` divides its group. -/
def callxOf (t : Src) (g : Group) : Fork :=
  fork (g.occs.map fun l => (l, regTarget (g.reg l t.reg.toNat))) (fallthrough g)

/-- What a `callx` requires: illegal convergence comes before the stack overflow (R310), and its records hold the return address
pushed (R34, R172). -/
def callxPre (n : BitVec 8) (t : Src) (c _sl : Nat) (g : Group) (s : State) : Check :=
  if g.bound && (callxOf t g).leave ≠ [] then convergeFault g 2 (callxOf t g)
  else (callPre c _sl g s).andThen (forkCheck s c g 2 (callxOf t g) (·.push (fallthrough g)) n.toNat)

/-- `callx` (R171, R172). -/
def execCallx (n : BitVec 8) (t : Src) (s : State) : Out :=
  issueWith (issueOf (.callx n t)) (callxPre n t)
    (fun c sl g s => (s.pushAll c sl (fallthrough g)).branch c sl g (callxOf t g) n.toNat) s

/-- The lanes that hold a return address, with it. -/
def Group.tops (g : Group) : List (Nat × Word) := g.occs.filterMap fun l => (g.lane l).top.map fun v => (l, regTarget v)

/-- What a `ret` requires: a return address that lies in main memory alone comes back first (R135, R171); its records no longer hold the
return address (R173). -/
def retPre (n : BitVec 8) (c _sl : Nat) (g : Group) (s : State) : Check :=
  let f := fork g.tops (fallthrough g)
  let short (l : Nat) : Bool := g.occ l && decide ((g.lane l).top = none)
  if g.occs.any fun l => (g.lane l).topDeep then .stall
  else if g.bound && f.leave ≠ [] then convergeFault g 3 f
  else if lanes32.any short then .fault { code := 7, lanes := maskOf short, aux := g.occMask }
  else forkCheck s c g 3 f Lane.pop n.toNat

/-- `ret` (R171, R173). -/
def execRet (n : BitVec 8) (s : State) : Out :=
  issueWith (issueOf (.ret n)) (retPre n)
    (fun c sl g s =>
      (s.onGroup c sl fun h => h.mapLanes fun _ ln => if ln.st = .occupied then ln.pop else ln).branch c sl g
        (fork g.tops (fallthrough g)) n.toNat) s

/-! ### join, exit, spawn, reord (R174 to R177) -/

/-- `join` (R43, R174): a bound group goes on at once. -/
def execJoin (timeout : BitVec 16) (off : BitVec 20) (s : State) : Out :=
  issue (issueOf (.join timeout off))
    (fun c sl g s =>
      (s.settle c sl).onGroup c sl fun h =>
        if g.bound then { h with cache := [], pc := target g off }
        else { h with cache := [], joined := true, waiting := .join (target g off) s.clock (s.clock + timeout.toNat) }) s

/-- Threads end in some lanes; a group without a thread ends (R28, R175). -/
def State.endThreads (s : State) (c sl : Nat) (ls : List Nat) : State :=
  let s := (s.settle c sl).onGroup c sl fun g => g.mapLanes fun i ln => if ls.contains i then Lane.reset else ln
  s.endGroup c sl

/-- The lanes in which a thread acts. -/
def Group.workers (g : Group) (gd : Guard) : List Nat := lanes32.filter (g.works gd)

/-- What an `exit` requires: the engine results of its lanes have come (R148), and a group that ends can close its batches
(R144). -/
def exitPre (gd : Guard) (c _sl : Nat) (g : Group) (s : State) : Check :=
  if anyBusy s c g (g.workers gd) || endHold g (g.workers gd) then .stall else .ok

/-- `exit` (R175). -/
def execExit (gd : Guard) (s : State) : Out :=
  issueWith (issueOf (.exit gd)) (exitPre gd)
    (fun c sl g s =>
      if g.workers gd = [] then s else (s.endThreads c sl (g.workers gd)).progress c g.bslot) s

/-- A `yield` gives its slot to a due set (R46); in a re-execution it does so where the log says that its group was evicted (R261). -/
def State.yields (s : State) (c : Nat) (g : Group) : Bool :=
  !s.inRerun c g.bslot && !(s.launchOf c g).noprom && s.hasDue c g.bslot && (s.freeSlot c g.bslot).isNone && !g.bound

/-- What a `yield` requires (R148). -/
def yieldPre (c _sl : Nat) (g : Group) (s : State) : Check := if s.yields c g && anyBusy s c g g.occs then .stall else .ok

/-- `yield` (R46, R178). -/
def execYield (s : State) : Out :=
  issueWith (issueOf .yield) yieldPre (fun c sl g s => if s.yields c g then s.evict c sl else s) s

/-- `sleep` (R178): n cycles from the cycle after issue. -/
def execSleep (cycles : BitVec 20) (gd : Guard) (s : State) : Out :=
  issue (issueOf (.sleep cycles gd))
    (fun c sl g s =>
      if lanes32.any (g.active gd) then
        s.onGroup c sl fun h => { h with waiting := .sleep (s.clock + 1 + cycles.toNat) }
      else s) s

/-- A `trap` is a fault where some lane is active. -/
def trapPre (code : BitVec 16) (gd : Guard) (_c _sl : Nat) (g : Group) (_s : State) : Check :=
  if lanes32.any (g.active gd) then .fault { code := 8, lanes := maskOf (g.active gd), aux := code.setWidth 32 } else .ok

/-- `trap` (R179). -/
def execTrap (code : BitVec 16) (gd : Guard) (s : State) : Out :=
  issueWith (issueOf (.trap code gd)) (trapPre code gd) (fun _ _ _ s => s) s

/-- A `brk` is a fault. -/
def brkPre (code : BitVec 6) (_c _sl : Nat) (g : Group) (_s : State) : Check :=
  .fault { code := 9, lanes := g.occMask, aux := code.setWidth 32 }

/-- `brk` (R179). -/
def execBrk (code : BitVec 6) (s : State) : Out := issueWith (issueOf (.brk code)) (brkPre code) (fun _ _ _ s => s) s

/-- The block that a lane's child belongs to (R176). -/
def spawnBlock (s : State) (c : Nat) (g : Group) (blk : Reg) (other : Bool) (l : Nat) : Option Nat :=
  if !other then some g.bslot
  else if s.inRerun c g.bslot then
    (s.block c g.bslot).bind fun x => if x.idx = (g.reg l blk.toNat).toNat then some g.bslot else none
  else
    let x := s.launchOf c g
    ((s.core c).blocks.find? fun b =>
      b.2.launch.id = x.id && b.2.launch.polder = x.polder && b.2.tenant
        && b.2.idx = (g.reg l blk.toNat).toNat).map (·.1)

/-- The record of a child thread (R37, R176). -/
def spawnRec (g : Group) (tgt : Word) (src : Reg) (k l b : Nat) : Record :=
  { kind := .spawn, bslot := b, pc := tgt, nlive := k, regs := (List.range k).map fun i => g.reg l (src.toNat + i)
    rstk := [], mstk := [], deep := 0, preds := 0, homeLane := 0, homeGrp := (g.lane l).homeGroup
    key := BitVec.ofNat 32 ((g.lane l).homeGroup % 2 ^ 26), age := 0, born := 0, orig := g.uid, slot := 0, stores := []
    due := false, spilled := false, place := [], held := .free
    mark := { kind := .spawn, grp := g.gnum, issued := g.issued, lane := l } }

/-- A `spawn` waits for its group's atomic or acquire (R222, R229). -/
def spawnPre (_c _sl : Nat) (g : Group) (_s : State) : Check := if g.accessing then .stall else .ok

/-- `spawn` (R176): a lane command of class spn. A lane that names no resident block of the launch takes ENGRANGE. -/
def execSpawn (blk : Reg) (other : Bool) (v : Src) (k : BitVec 4) (off : BitVec 20) (gd : Guard) (s : State) : Out :=
  issueWith (issueOf (.spawn blk other v k off gd)) spawnPre
    (fun c sl g s =>
      let ws := g.workers gd
      if ws = [] then s
      else
        let at' (l : Nat) : Option Nat := spawnBlock s c g blk other l
        let ch := ws.filterMap fun l => (at' l).map fun b => (b, spawnRec g (target g off) v.reg k.toNat l b)
        let (id, s) := s.launchCmd c sl g .spn (.spawn (s.polder (s.launchOf c g).polder).roomCtr ch) (maskOf (g.works gd)) .waiting [] (fun _ => false)
        let s := (ws.filter fun l => at' l = none).foldl (fun s l => s.noteFault id l 0x16 0 0 s.ir) (s.bumpRoom (s.launchOf c g).polder)
        let s := if ch.any fun e => e.1 ≠ g.bslot then s.offAudit c g.bslot else s
        s.progress c g.bslot) s

/-- The record of a relaunched thread (R37, R177). -/
def reordRec (clock sl : Nat) (stores : List Nat) (g : Group) (tgt : Word) (key src : Reg) (k l : Nat) : Record :=
  { kind := .reorder, bslot := g.bslot, pc := tgt, nlive := k
    regs := (List.range k).map fun i => g.reg l (src.toNat + i), rstk := [], mstk := [], deep := 0, preds := 0, homeLane := 0
    homeGrp := (g.lane l).homeGroup, key := g.reg l key.toNat, age := 0, born := clock, orig := g.uid, slot := sl
    stores := stores, due := false, spilled := false, place := [], held := .free
    mark := { kind := .reorder, grp := g.gnum, issued := g.issued, lane := l } }

/-- What a `reord` requires: the engine results of its lanes (R148), batches that can be closed where the group ends (R144), and
room (R36). -/
def reordPre (k : BitVec 4) (gd : Guard) (c _sl : Nat) (g : Group) (s : State) : Check :=
  let ws := g.workers gd
  let sizes := ws.map fun _ => recSize 0 k.toNat
  if anyBusy s c g ws || endHold g ws then .stall
  else if s.fits c (s.launchOf c g).polder sizes then .ok else .room sizes

/-- `reord` (R177). -/
def execReord (key : Reg) (v : Src) (k : BitVec 4) (off : BitVec 20) (gd : Guard) (s : State) : Out :=
  issueWith (issueOf (.reord key v k off gd)) (reordPre k gd)
    (fun c sl g s =>
      let ws := g.workers gd
      if ws = [] then s
      else
        let p := (s.launchOf c g).polder
        let stores := s.storesOf g
        let s := ws.foldl (fun s l => s.deposit c p (reordRec s.clock sl stores g (target g off) key v.reg k.toNat l)) (s.settle c sl)
        s.endThreads c sl ws) s

/-! ### Group state (R178) -/

/-- `nop` (R178). -/
def execNop (s : State) : Out := issue (issueOf .nop) (fun _ _ _ s => s) s

/-- A `wflush` waits for every outstanding result. -/
def wflushPre (_c _sl : Nat) (g : Group) (_s : State) : Check := if g.inflight = [] then .ok else .stall

/-- `wflush` (R178): issues once no result is outstanding. -/
def execWflush (s : State) : Out := issueWith (issueOf .wflush) wflushPre (fun _ _ _ s => s) s

/-- `tile` (R30, R178). -/
def execTile (w : TileW) (s : State) : Out :=
  issue (issueOf (.tile w)) (fun c sl _ s => s.onGroup c sl fun h => { h with tilew := w }) s

/-! ### Barriers (R180) -/

/-- A barrier is arrived at once its fence holds (R181). -/
def barPre (sc : FScope) (_c _sl : Nat) (g : Group) (s : State) : Check := if s.fenceOk g sc then .ok else .stall

/-- A group arrives at a barrier once its fence holds; a front core's barrier completes at once (R181, R184). -/
def arrive (i : Instr) (sc : FScope) (w : Wait) (s : State) : Out :=
  issueWith (issueOf i) (barPre sc)
    (fun c sl _ s => if c ≥ 32 then s else s.onGroup c sl fun h => { h with waiting := w }) s

/-- `bar` (R180, R181). -/
def execBar (s : State) : Out := arrive .bar .blk (.bar false) s

/-- `bar.mx` (R180, R181). -/
def execBarMx (s : State) : Out := arrive .barMx .blk (.bar true) s

/-- `gsync` (R180 to R182). -/
def execGsync (s : State) : Out := arrive .gsync .die .gsync s

end Sys2Proof.Machine
end

