-- ==== Sys2Proof/Machine/Place.lean ====
section
/-! DEFINITION. The resources of a core (R9, R25, R41, R132), the placing of a block (R23, R31, R188), the selection for
audit (R257, R258), and the words of the dispatch board (R248, R284). -/

namespace Sys2Proof.Machine

/-! ### The dispatch board (R248) -/

/-- A word of the dispatch board. -/
def State.board (s : State) (off : Nat) : Word := mget32 s.sp ((s.polder 0).spBase + off)

/-- Writes a word of the dispatch board. -/
def State.setBoard (s : State) (off : Nat) (v : Word) : State := s.spWord ((s.polder 0).spBase + off) v []

/-- States of a hardware queue slot, numbered as SSTATE holds them (R246, R284). -/
def qFree : Word := 0
/-- IDLE. -/
def qIdle : Word := 1
/-- READY. -/
def qReady : Word := 2
/-- ACTIVE. -/
def qActive : Word := 3
/-- WAITING. -/
def qWaiting : Word := 4

/-- SSTATE, SCLASS, SAGE and SNEXT of a slot lie at 0x1000 + 16 s. -/
def slotWord (sl i : Nat) : Nat := 0x1000 + 16 * sl + 4 * i

/-- SSTATE of a slot. -/
def State.sstate (s : State) (sl : Nat) : Word := s.board (slotWord sl 0)

/-- Sets SSTATE. -/
def State.setSstate (s : State) (sl : Nat) (v : Word) : State := s.setBoard (slotWord sl 0) v

/-! ### Resources of a core -/

/-- The BSLOT under which a reeve's, or a front core's, firmware runs (0 to 62 name user blocks, R37). -/
def firmSlot : Nat := 63

/-- User blocks of a core. -/
def Core.userBlocks (k : Core) : Table Block := k.blocks.filter fun e => e.1 ≠ firmSlot

/-- Free slots of a sub-core, ascending; slot 63 is the reeve's (R9). -/
def Core.freeSlots (k : Core) (sub : Nat) : List Nat :=
  ((List.range 16).map (16 * sub + ·)).filter fun sl => sl ≠ 63 && k.userBlocks.all fun e => !e.2.slots.contains sl

/-- Register blocks per slot of a launch (R25). -/
def regBlocks (l : Launch) : Nat := (l.regs + 31) / 32

/-- Free register blocks of a sub-core of 64; the reeve holds 2 of SC3 (R25). -/
def Core.freeRegs (k : Core) (sub : Nat) : Nat :=
  64 - (if sub = 3 then 2 else 0)
    - total (k.userBlocks.map fun e => regBlocks e.2.launch * (e.2.slots.filter fun sl => subOf sl = sub).length)

/-- Shared memory that user blocks use; the firmware's own 64 bytes lie beside it (R285). -/
def Core.sharedUse (k : Core) : Nat := total (k.userBlocks.map fun e => e.2.shSize)

/-- Shared memory that a polder's blocks use. -/
def Core.sharedOf (k : Core) (p : Nat) : Nat := total ((k.userBlocks.filter fun e => e.2.launch.polder = p).map fun e => e.2.shSize)

/-- Bytes of a core's shared memory. -/
def sharedMem : Nat := 524288

/-- SHARED rounded up to 128 (R132). -/
def shSizeFor (l : Launch) : Nat := (l.shared + 127) / 128 * 128

/-- Slots of a block, with its weaver slot (R41, R188). -/
def nslotOf (l : Launch) : Nat := ngrpOf l + if l.bound || l.noprom then 0 else 1

/-- Slots taken over the sub-cores in ascending order (R188 rule 2). -/
def Core.spread (k : Core) (b : Nat) : Nat → List Nat → List Nat
  | _, [] => []
  | n, sub :: r =>
    let take := (k.freeSlots sub).take (min n (if b = 0 then n else k.freeRegs sub / b))
    take ++ Core.spread k b (n - take.length) r

/-- The slots that a block takes (R188). -/
def Core.pickSlots (k : Core) (n b : Nat) : Option (List Nat) :=
  match (List.range 4).find? fun sub => n ≤ (k.freeSlots sub).length && decide (n * b ≤ k.freeRegs sub) with
  | some sub => some ((k.freeSlots sub).take n)
  | none =>
    let xs := k.spread b n (List.range 4)
    if xs.length = n then some xs else none

/-- The lowest free BSLOT (R188).
(DESIGN CHOICE: log entry 19.) -/
def Core.freeBslot (k : Core) : Option Nat := (List.range 63).find? fun b => (tfind k.blocks b).isNone

/-- BSLOT and slots for a block of a launch, where the core has room, and its polder's shared-memory window of `win` bytes (R14). -/
def Core.room (k : Core) (win : Nat) (l : Launch) : Option (Nat × List Nat) :=
  if k.sharedUse + shSizeFor l > sharedMem || k.sharedOf l.polder + shSizeFor l > win then none
  else
    match k.freeBslot, k.pickSlots (nslotOf l) (regBlocks l) with
    | some b, some xs => some (b, xs)
    | _, _ => none

/-- First byte of a block's shared memory in the model's own numbering of a core's bytes. -/
def shBaseFor (bslot : Nat) : Nat := bslot * 2 ^ 20

/-! ### Audit selection (R257, R258) -/

/-- A block is selected (R257). -/
def auditPick (x : Polder) (l : Launch) (b : Nat) : Bool :=
  l.audit && (tget 0 x.featack 0).getLsbD 5
    && decide (bfield (sha3_256 (x.nonce ++ toLe 8 l.id ++ toLe 8 b)) 0 2 % 4096 < x.auditF.toNat)

/-- Where the next region of a retention ring begins (R258). -/
def regionStart (x : Polder) : Nat := if x.audNext + x.audRegSz ≤ x.audRingSz then x.audNext else 0

/-- The place in a log where the image of the launch argument block stands: behind every group number (R29, R259). -/
def argGroup : Nat := 2 ^ 26

/-- A selected block takes a region, or its audit is cancelled (R257, R258). -/
def State.auditPlace (s : State) (core bslot : Nat) (l : Launch) (b : Nat) : State :=
  let x := s.polder l.polder
  if !auditPick x l b then s
  else
    let x := { x with audSel := x.audSel + 1 }
    let start := regionStart x
    let taken := s.audits.any fun e =>
      e.2.polder = l.polder && decide (e.2.region < start + x.audRegSz) && decide (start < e.2.region + x.audRegSz)
    if x.audRingSz < start + x.audRegSz || taken then s.setPolder l.polder { x with audCan := x.audCan + 1 }
    else
      let (id, s) := s.newId
      let a : Audit :=
        { polder := l.polder, launchId := l.id, idx := b, launch := l, region := start, runs := [(core, [])]
          log := [(argGroup, [{ id := 0, bytes := l.arg, recB := [], writes := [] }])], ctl := [], effects := [], failed := false
          avoid := [], rerun := none }
      let s := s.setPolder l.polder { x with
        audNext := (start + x.audRegSz) % max 1 x.audRingSz, audRingUse := x.audRingUse + x.audRegSz }
      let s := { s with audits := tput s.audits id a }
      match s.block core bslot with
      | some y => s.setBlock core bslot { y with audit := some id }
      | none => s

/-! ### Placing (R23, R30, R188) -/

/-- The lanes of a group at launch (R23, R29).
(DESIGN CHOICE: log entry 19.) -/
def launchLanes (l : Launch) (grp : Nat) : Table Lane :=
  (lanes32.filter fun i => 32 * grp + i < l.x * l.y * l.z).map fun i =>
    (i, { Lane.reset with st := .occupied, homeGroup := grp, homeLane := i })

/-- A group at launch. -/
def launchGroup (l : Launch) (bslot grp uid : Nat) : Group :=
  { Group.reset with
    bslot := bslot, gnum := grp, bound := l.bound, lanes := launchLanes l grp, pc := l.entry, uid := uid }

/-- A block at its placement. -/
def launchBlock (l : Launch) (core bslot b : Nat) (slots : List Nat) (clock : Nat) : Block :=
  { launch := l, idx := b, slots := slots, weaver := nslotOf l ≠ ngrpOf l, shBase := shBaseFor bslot
    shSize := shSizeFor l, nextG := ngrpOf l, poisoned := false, progress := clock, idle := 0, coll := none
    collNext := [], homeCore := core, audit := none, rerun := none, evictedBar := 0, evictedGs := 0, evictedMx := false
    stopping := false, abort := false, ticket := 0, booked := false }

/-- A new block's shared memory reads zero.
(DESIGN CHOICE: log entry 19.) -/
def Core.clearShared (k : Core) (bslot : Nat) : Core :=
  let lo := shBaseFor bslot
  { k with
    sh := k.sh.filter fun c => !(decide (lo ≤ c.1) && decide (c.1 < lo + 2 ^ 20))
    mxHist := k.mxHist.filter fun c => !(decide (lo ≤ c.1) && decide (c.1 < lo + 2 ^ 20)) }

/-- A group takes a slot as the youngest of its sub-core (R255). -/
def State.enterSlot (s : State) (c sl : Nat) (g : Group) : State := (s.setGroup c sl g).onSub c sl (·.youngest sl)

/-- A block of a launch is resident on some core (R21). -/
def State.launchHere (s : State) (l : Launch) : Bool :=
  s.cores.any fun k => k.2.blocks.any fun b => b.2.launch.id = l.id && b.2.launch.polder = l.polder && b.2.tenant

/-- The first block of a launch comes: its fetches find what memory holds from now on (R49). -/
def State.beginPast (s : State) (l : Launch) : State :=
  if s.launchHere l then s else { s with past := tput s.past (pastKey l) { since := s.next, words := [] } }

/-- The last block of a launch has gone (R49). -/
def State.endPast (s : State) (l : Launch) : State :=
  if s.launchHere l then s else { s with past := tdel s.past (pastKey l) }

/-- What a block takes with it as it comes onto a core: its ticket (R346). -/
def State.arriving (s : State) (x : Block) : Block := { x with ticket := s.board 4 }

/-- A block comes onto a core with its groups (R30, R188). -/
def State.enterBlock (s : State) (core bslot : Nat) (x : Block) : State :=
  let s := s.setCore core ((s.core core).clearShared bslot)
  let s := s.setBlock core bslot (s.arriving x)
  (x.slots.take (ngrpOf x.launch)).zipIdx.foldl (init := s) fun s e =>
    let (uid, s) := s.newId
    s.enterSlot core e.1 (launchGroup x.launch bslot e.2 uid)

/-- Places a block of a launch with its groups (R188). -/
def State.placeBlock (s : State) (core bslot b : Nat) (l : Launch) (slots : List Nat) : State :=
  ((s.beginPast l).enterBlock core bslot (launchBlock l core bslot b slots s.clock)).auditPlace core bslot l b

/-- The failure results of `place` and `ctxrest` (R188, R189). -/
def noRoom : Word := 0x80000001
/-- The core is outside the polder, quarantined or closed to placement. -/
def noCore : Word := 0x80000002
/-- The head of QSLOT is no LAUNCH. -/
def noLaunch : Word := 0x80000003

/-- `place` of the descriptor's block: its result and the state after it (R188). Of several causes of failure, no LAUNCH comes
first, then the core, then room. A LAUNCH that has not begun, in a READY slot, is no LAUNCH at the head yet.
(DESIGN CHOICE: log entry 19.) -/
def State.place (s : State) (qslot b core : Nat) : Word × State :=
  match (tfind s.slots qslot).bind (·.launch) with
  | none => (noLaunch, s)
  | some l =>
    let k := s.core core
    if core ≥ 32 || !(s.polder l.polder).cores.getLsbD core || k.quar || !k.placeok then (noCore, s)
    else
      match k.room (s.polder l.polder).shSize l with
      | none => (noRoom, s)
      | some (bslot, slots) => (BitVec.ofNat 32 bslot, s.placeBlock core bslot b l slots)

/-! ### What a block takes from the board (R248, R284) -/

/-- SCFREE of a sub-core, and SHFREE of a core (R248). -/
def scFreeAt (c sub : Nat) : Nat := 0x100 + 64 * c + 4 * sub
/-- SHFREE of a core. -/
def shFreeAt (c : Nat) : Nat := 0x100 + 64 * c + 16

/-- A block's slots and register blocks in a sub-core, as an SCFREE word counts them. -/
def Block.scNeed (x : Block) (sub : Nat) : Nat :=
  let n := (x.slots.filter fun sl => subOf sl = sub).length
  256 * n + n * regBlocks x.launch

/-- The holder takes a placed block's needs from the board. -/
def State.book (s : State) (c b : Nat) : State :=
  match s.block c b with
  | some x =>
    let s := s.setBlock c b { x with booked := true }
    let s := (List.range 4).foldl (init := s) fun s j =>
      s.setBoard (scFreeAt c j) (s.board (scFreeAt c j) - BitVec.ofNat 32 (x.scNeed j))
    s.setBoard (shFreeAt c) (s.board (shFreeAt c) - BitVec.ofNat 32 x.shSize)
  | none => s

/-- The reeve of the core adds a block's needs back to the board after the block has gone (R248). -/
def State.unbook (s : State) (c : Nat) (x : Block) : State :=
  if !x.booked then s
  else
    let s := (List.range 4).foldl (init := s) fun s j =>
      s.setBoard (scFreeAt c j) (s.board (scFreeAt c j) + BitVec.ofNat 32 (x.scNeed j))
    s.setBoard (shFreeAt c) (s.board (shFreeAt c) + BitVec.ofNat 32 x.shSize)

/-- The board when the service image starts (R248, R284): nothing is reserved, no head is blocked, and every core is free but for
what its reeve holds.
(DEDUCED: log entry 61.) -/
def State.initBoard (s : State) : State :=
  let s := s.setBoard 0x18 0xFFFFFFFF
  (List.range 32).foldl (init := s) fun s c =>
    let s := (List.range 4).foldl (init := s) fun s j => s.setBoard (scFreeAt c j) (if j = 3 then 0x0F3E else 0x1040)
    s.setBoard (shFreeAt c) (BitVec.ofNat 32 sharedMem)

/-- Frees a block with its groups and records (R47): its slots leave the age orders. -/
def State.freeBlock (s : State) (c b : Nat) : State :=
  match s.block c b with
  | some x =>
    let p := x.launch.polder
    let s := s.takeRecords c p ((s.core c).records.filter fun r => r.bslot = b)
    let s := x.slots.foldl (init := s) fun s sl =>
      let s := s.setCore c { s.core c with groups := tdel (s.core c).groups sl }
      s.onSub c sl fun y => { y.leave sl with order := y.order.filter (· ≠ sl) }
    (State.unbook (s.setCore c { s.core c with blocks := tdel (s.core c).blocks b }) c x).endPast x.launch
  | none => s

end Sys2Proof.Machine
end

