-- ==== Sys2Proof/Machine/Walker.lean ====
section
/-! DEFINITION. Walkers: starting and ending walks, and the walker instructions (R265 to R279, R338). -/

namespace Sys2Proof.Machine

/-! ### The end of a walk -/

/-- Accesses that wait on a walk: parked accesses of its polder and region on the die (R265). -/
def State.waitersOf (s : State) (d : Nat) (w : Walk) : List Nat :=
  let r := match tfind s.accs w.acc with | some a => region a.va | none => 0
  s.cores.flatMap fun k =>
    if walkDie k.1 ≠ d then []
    else k.2.parkedA.filter fun i => match tfind s.accs i with
      | some a => a.polder = w.polder && region a.va = r && decide (a.st = .parked 0)
      | none => false

/-- Groups that wait for the stale walks of some dies go on when none is left (R190, R275), and a reply of the service that waits
for those of its polder may leave (R276). -/
def State.wakeTbinv (s : State) : State :=
  let live (d : Nat) : Bool := (s.die d).walks.any fun w => w.2.stale
  let mine (p d : Nat) : Bool := (s.die d).walks.any fun w => w.2.stale && decide (w.2.polder = p)
  { s with replies := s.replies.map (fun r => { r with after := r.after.filter (mine r.polder) }), cores := s.cores.map fun k =>
      (k.1, { k.2 with groups := k.2.groups.map fun g =>
        match g.2.waiting with
        | .tbinv ds => if ds.any live then g else (g.1, { g.2 with waiting := .none })
        | _ => g }) }

/-- Frees the walker and charges the polder's deficit (R278). -/
def State.freeWalker (s : State) (d w : Nat) (x : Walk) : State :=
  let k := s.die d
  let k := { k with walks := tdel k.walks w, deficit := tset 0 k.deficit x.polder (tget 0 k.deficit x.polder - (x.cycles : Int)) }
  (s.setDie d (k.shortQ x.polder (tget [] k.missQ x.polder))).wakeTbinv

/-- Ends a walk with a cause of R274: every access that waited takes it, and WALKFLT rises once (R338). -/
def State.walkFail (s : State) (d w : Nat) (x : Walk) (cause : Nat) : State :=
  let ids := s.waitersOf d x
  let s := s.setPolder x.polder { s.polder x.polder with walkFlt := (s.polder x.polder).walkFlt + 1 }
  let s := ids.foldl (fun s i => s.walkFate i cause (x.w2.setWidth 32)) s
  (s.freeWalker d w x).refillMiss d

/-- Ends a walk whose `wld` met an error: the access that started it takes the code (R271, R325). -/
def State.walkError (s : State) (d w : Nat) (x : Walk) (code : Nat) (aux : Word) : State :=
  ((s.failAccess x.acc code 0 aux).freeWalker d w x).refillMiss d

/-- Looks up again every access that waited on a walk (R264, R275). -/
def State.walkRetry (s : State) (d w : Nat) (x : Walk) : State :=
  let ids := s.waitersOf d x
  let s := s.freeWalker d w x
  let s := ids.foldl (fun s i => match tfind s.accs i with
    | some a => s.again i a
    | none => s) s
  s.refillMiss d

/-! ### Starting a walk (R265, R266, R278) -/

/-- Polders with a queued miss on a die. -/
def Die.waiting (k : Die) : List Nat := (k.missQ.filter fun e => e.2 ≠ []).map (·.1)

/-- The next polder after `p`, ascending and wrapping. -/
def nextAfter (p : Nat) (ps : List Nat) : Nat :=
  match ps.find? fun q => q > p with
  | some q => q
  | none => ps.headD p

/-- The deficit round-robin choice (R278); `fuel` bounds the turns. -/
def drr (wt : Nat → Nat) (ps : List Nat) : Nat → Nat → Table Int → Nat × Table Int
  | 0, ptr, df => (ptr, df)
  | fuel + 1, ptr, df =>
    if ps.contains ptr && decide (tget 0 df ptr > 0) then (ptr, df)
    else
      let q := nextAfter ptr ps
      drr wt ps fuel q (tset 0 df q (tget 0 df q + 256 * (wt q : Int)))

/-- Enough turns for any deficit that walks of R277's limit leave. -/
def drrFuel : Nat := 65536

/-- Registers of a depth at entry (R266, R273). -/
def entryRegs (va w2 root depth : Nat) : Table DWord :=
  tset 0 (tset 0 (tset 0 (tset 0 [] 1 (BitVec.ofNat 64 va)) 2 (BitVec.ofNat 64 w2)) 3 (BitVec.ofNat 64 root)) 4
    (BitVec.ofNat 64 depth)

/-- A depth at its entry. -/
def newFrame (va w2 : Nat) (root : DWord) (depth : Nat) : Frame :=
  { va := va, depth := depth, pc := 0, regs := entryRegs va w2 root.toNat depth, scratch := [] }

/-- WALK_START (R265, R266, R278): the head miss of the chosen polder; a covered one is looked up and not walked.
(DEDUCED: log entry 33.) -/
def execWalkStart (die walker : Nat) (s : State) : Out :=
  .next <|
    let k := s.die die
    if die ≥ 4 || walker ≥ 16 || (tfind k.walks walker).isSome || k.waiting = [] then s
    else
      let (p, df) := drr (fun q => (s.polder q).walkWt.toNat) k.waiting drrFuel k.ptr k.deficit
      match tget [] k.missQ p with
      | id :: r =>
        match tfind s.accs id with
        | some a =>
          match k.tb.find? (·.covers p a.va) with
          | some e =>
            let s := s.setDie die (Die.shortQ { k with ptr := p, deficit := df } p r)
            ((if a.core < 32 then s else s.fillCore a.core e).release die e).refillMiss die
          | none =>
            let x := s.polder p
            let s := s.setPolder p { x with walks := x.walks + 1 }
            let rt := tfind (s.die die).routines p
            let w : Walk :=
              { polder := p, acc := id, w2 := BitVec.ofNat 64 a.w2, routine := (rt.map (·.1)).getD []
                root := (rt.map (·.2)).getD 0, frames := [newFrame a.va a.w2 ((rt.map (·.2)).getD 0) 0]
                cycles := 0, stale := false, read := none }
            let s := s.setDie die
              (Die.shortQ { s.die die with ptr := p, deficit := df, walks := tput (s.die die).walks walker w } p r)
            if rt.isNone then s.walkFail die walker w 12 else s.refillMiss die
        | none => s.setDie die (Die.shortQ { k with ptr := p, deficit := df } p r)
      | [] => s

/-! ### Instructions -/

/-- The running walk of the current walker and its innermost depth. -/
def State.walkNow (s : State) : Option (Nat × Nat × Walk × Frame) :=
  match s.cur with
  | .walker d w =>
    match tfind (s.die d).walks w with
    | some x =>
      match x.frames with
      | f :: _ => if x.read = none then some (d, w, x, f) else none
      | [] => none
    | none => none
  | _ => none

/-- Replaces a walk. -/
def State.setWalk (s : State) (d w : Nat) (x : Walk) : State :=
  s.setDie d { s.die d with walks := tput (s.die d).walks w x }

/-- A walker register; w0 reads zero (R266). -/
def Frame.reg (f : Frame) (r : BitVec 5) : DWord := if r = 0 then 0 else tget 0 f.regs r.toNat

/-- Writes a walker register; w0 discards writes. -/
def Frame.setReg (f : Frame) (r : BitVec 5) (v : DWord) : Frame :=
  if r = 0 then f else { f with regs := tset 0 f.regs r.toNat v }

/-- The polder's walk time limit (R277, R279). -/
def walkLimit (s : State) (p : Nat) : Nat := (s.polder p).walkLim.toNat

/-- ISSUE of a walker instruction: one walker cycle (R277); a walk at its limit ends with TIMELIMIT. -/
def walkIssue (f : Nat → Nat → Walk → Frame → State → State) (s : State) : Out :=
  .next <|
    match s.walkNow with
    | some (d, w, x, fr) =>
      if x.cycles ≥ walkLimit s x.polder then s.walkFail d w x 3
      else f d w { x with cycles := x.cycles + 1 } fr s
    | none => s

/-- The innermost depth goes on as `fr` at the next instruction. -/
def Walk.next (x : Walk) (fr : Frame) : Walk := { x with frames := { fr with pc := fr.pc + 1 } :: x.frames.tail }

/-- A walker instruction that writes a register (R269). -/
def walkAlu (d : BitVec 5) (v : Frame → DWord) (s : State) : Out :=
  walkIssue (fun k w x fr s => s.setWalk k w (x.next (fr.setReg d (v fr)))) s

/-- A two-source operation. -/
def walkR (d a b : BitVec 5) (op : DWord → DWord → DWord) (s : State) : Out :=
  walkAlu d (fun fr => op (fr.reg a) (fr.reg b)) s

/-- `wadd` (R269). -/
def execWadd (d a b : BitVec 5) (s : State) : Out := walkR d a b (· + ·) s
/-- `wsub` (R269). -/
def execWsub (d a b : BitVec 5) (s : State) : Out := walkR d a b (· - ·) s
/-- `wand` (R269). -/
def execWand (d a b : BitVec 5) (s : State) : Out := walkR d a b (· &&& ·) s
/-- `wor` (R269). -/
def execWor (d a b : BitVec 5) (s : State) : Out := walkR d a b (· ||| ·) s
/-- `wxor` (R269). -/
def execWxor (d a b : BitVec 5) (s : State) : Out := walkR d a b (· ^^^ ·) s
/-- `wshl` (R269): the count is B[5:0]. -/
def execWshl (d a b : BitVec 5) (s : State) : Out := walkR d a b (fun x y => x <<< (y.toNat % 64)) s
/-- `wshr` (R269). -/
def execWshr (d a b : BitVec 5) (s : State) : Out := walkR d a b (fun x y => x >>> (y.toNat % 64)) s
/-- `wmul` (R269). -/
def execWmul (d a b : BitVec 5) (s : State) : Out := walkR d a b (· * ·) s
/-- `wmulhu` (R269). -/
def execWmulhu (d a b : BitVec 5) (s : State) : Out :=
  walkR d a b (fun x y => BitVec.ofNat 64 (x.toNat * y.toNat / 2 ^ 64)) s
/-- `wsltu` (R269). -/
def execWsltu (d a b : BitVec 5) (s : State) : Out := walkR d a b (fun x y => if x.toNat < y.toNat then 1 else 0) s
/-- `wslt` (R269). -/
def execWslt (d a b : BitVec 5) (s : State) : Out := walkR d a b (fun x y => if x.toInt < y.toInt then 1 else 0) s

/-- The walker's hash (R270). -/
def walkHash (a b : DWord) : DWord :=
  let x := (a ^^^ b) * 0x8F3A5C27B14E9D6B
  let y := (x ^^^ (x >>> 29)) * 0x8F3A5C27B14E9D6B
  y ^^^ (y >>> 32)

/-- `whash` (R270). -/
def execWhash (d a b : BitVec 5) (s : State) : Out := walkR d a b walkHash s
/-- `waddi` (R269). -/
def execWaddi (d a : BitVec 5) (imm : BitVec 16) (s : State) : Out :=
  walkAlu d (fun fr => fr.reg a + imm.signExtend 64) s
/-- `wandi` (R269). -/
def execWandi (d a : BitVec 5) (imm : BitVec 16) (s : State) : Out :=
  walkAlu d (fun fr => fr.reg a &&& imm.setWidth 64) s
/-- `wori` (R269). -/
def execWori (d a : BitVec 5) (imm : BitVec 16) (s : State) : Out :=
  walkAlu d (fun fr => fr.reg a ||| imm.setWidth 64) s
/-- `wxori` (R269). -/
def execWxori (d a : BitVec 5) (imm : BitVec 16) (s : State) : Out :=
  walkAlu d (fun fr => fr.reg a ^^^ imm.setWidth 64) s
/-- `wshli` (R269). -/
def execWshli (d a : BitVec 5) (n : BitVec 6) (s : State) : Out := walkAlu d (fun fr => fr.reg a <<< n.toNat) s
/-- `wshri` (R269). -/
def execWshri (d a : BitVec 5) (n : BitVec 6) (s : State) : Out := walkAlu d (fun fr => fr.reg a >>> n.toNat) s
/-- `wins` (R269). -/
def execWins (d : BitVec 5) (imm : BitVec 16) (s : State) : Out :=
  walkAlu d (fun fr => (fr.reg d <<< 16) + imm.setWidth 64) s
/-- `wbfx` (R269): len is IMM[11:6] + 1. -/
def execWbfx (d a : BitVec 5) (pos len : BitVec 6) (s : State) : Out :=
  walkAlu d (fun fr => BitVec.ofNat 64 ((fr.reg a).toNat / 2 ^ pos.toNat % 2 ^ (len.toNat + 1))) s

/-- The address A + sext(IMM) of a walker operand. -/
def walkAddr (fr : Frame) (a : BitVec 5) (imm : BitVec 16) : Nat := (fr.reg a + imm.signExtend 64).toNat

/-- A walker's read of tenant memory (R271, R273): a hit is sent; a miss starts a nested walk and takes no cycle until
it hits. -/
def walkLoad (len : Nat) (d a : BitVec 5) (imm : BitVec 16) (s : State) : Out :=
  walkIssue (fun k w x fr s =>
    let va := walkAddr fr a imm
    if va % len ≠ 0 then s.walkFail k w x 9
    else if va ≥ 2 ^ 57 then s.walkFail k w x 11
    else
      match (s.die k).tb.find? (·.covers x.polder va) with
      | some e =>
        if e.perm.getLsbD 0 then s.setWalk k w { x with read := some { d := d, len := len, pa := e.frame + (va - e.base) } }
        else s.walkFail k w x 2
      | none =>
        if fr.depth ≥ 2 then s.walkFail k w x 4
        else
          let w2 := (x.w2.toNat / 256) * 256 + 4 * 6 + 3
          s.setWalk k w { x with cycles := x.cycles - 1, frames := newFrame va w2 x.root (fr.depth + 1) :: x.frames }) s

/-- `wld` (R271). -/
def execWld (d a : BitVec 5) (imm : BitVec 16) (s : State) : Out := walkLoad 8 d a imm s
/-- `wldw` (R271). -/
def execWldw (d a : BitVec 5) (imm : BitVec 16) (s : State) : Out := walkLoad 4 d a imm s

/-- A scratch access is aligned and inside the 1,024 bytes (R269). -/
def scratchOk (a : Nat) : Bool := a % 8 = 0 && a ≤ 1016

/-- `wlds` (R269). -/
def execWlds (d a : BitVec 5) (imm : BitVec 16) (s : State) : Out :=
  walkIssue (fun k w x fr s =>
    let p := walkAddr fr a imm
    if !scratchOk p then s.walkFail k w x 8
    else s.setWalk k w (x.next (fr.setReg d (mget64 fr.scratch p)))) s
/-- `wsts` (R269). -/
def execWsts (d a : BitVec 5) (imm : BitVec 16) (s : State) : Out :=
  walkIssue (fun k w x fr s =>
    let p := walkAddr fr a imm
    if !scratchOk p then s.walkFail k w x 8
    else s.setWalk k w (x.next { fr with scratch := mwrites fr.scratch p (toLe 8 (fr.reg d).toNat) })) s

/-- A walker branch (R269): a taken target outside the routine ends the walk with WILLEGAL (R274). -/
def walkBranch (a b : BitVec 5) (off : BitVec 16) (c : DWord → DWord → Bool) (s : State) : Out :=
  walkIssue (fun k w x fr s =>
    if c (fr.reg a) (fr.reg b) then
      let t : Int := (fr.pc : Int) + off.toInt
      if t < 0 ∨ t > 1023 then s.walkFail k w x 7
      else s.setWalk k w { x with frames := { fr with pc := t.toNat } :: x.frames.tail }
    else s.setWalk k w (x.next fr)) s

/-- `wbeq` (R269). -/
def execWbeq (a b : BitVec 5) (off : BitVec 16) (s : State) : Out := walkBranch a b off (fun x y => x = y) s
/-- `wbne` (R269). -/
def execWbne (a b : BitVec 5) (off : BitVec 16) (s : State) : Out := walkBranch a b off (fun x y => x ≠ y) s
/-- `wbltu` (R269). -/
def execWbltu (a b : BitVec 5) (off : BitVec 16) (s : State) : Out := walkBranch a b off (fun x y => x.toNat < y.toNat) s
/-- `wbgeu` (R269). -/
def execWbgeu (a b : BitVec 5) (off : BitVec 16) (s : State) : Out := walkBranch a b off (fun x y => x.toNat ≥ y.toNat) s
/-- `wblt` (R269). -/
def execWblt (a b : BitVec 5) (off : BitVec 16) (s : State) : Out := walkBranch a b off (fun x y => x.toInt < y.toInt) s
/-- `wbge` (R269). -/
def execWbge (a b : BitVec 5) (off : BitVec 16) (s : State) : Out := walkBranch a b off (fun x y => x.toInt ≥ y.toInt) s

/-- Bytes of a page by SIZE (R272). -/
def pageBytes (size : Nat) : Nat :=
  match size with
  | 0 => 65536
  | 1 => 2097152
  | _ => 1073741824

/-- A frame passes the allowance check of a polder (R20, R272). -/
def allowance (x : Polder) (frame size : Nat) (perm : BitVec 3) : Bool :=
  let f := tget 0 x.featack 0
  let far := if 0x100000000000 ≤ frame + size - 1 ∧ frame < 0x180000000000 then f.getLsbD 6 else true
  let rem := if 2 ^ 51 ≤ frame + size - 1 then f.getLsbD 7 else true
  far && rem && x.ranges.any fun r =>
    decide (r.2.base ≤ frame) && decide (frame + size ≤ r.2.limit) && decide (perm &&& r.2.perm = perm)

/-- Every entry of the polder that a new one overlaps leaves the die's buffer and those of the cores that its walkers serve (R272,
R275).
(DEDUCED: log entry 33.) -/
def State.dropOverlaps (s : State) (d : Nat) (e : TEntry) : State :=
  let meets (x : TEntry) : Bool :=
    x.polder = e.polder && decide (x.base < e.base + e.size) && decide (e.base < x.base + x.size)
  { s.setDie d { s.die d with tb := (s.die d).tb.filter fun x => !meets x } with
    cores := s.cores.map fun k =>
      if walkDie k.1 = d then (k.1, { k.2 with tb := k.2.tb.filter fun x => !meets x }) else k }

/-- `wmap` (R272, R273, R275). -/
def execWmap (a b : BitVec 5) (perm : BitVec 3) (size : BitVec 2) (s : State) : Out :=
  walkIssue (fun k w x fr s =>
    let sz := pageBytes size.toNat
    let base := (fr.reg a).toNat
    let frame := (fr.reg b).toNat
    if base % sz ≠ 0 ∨ frame % sz ≠ 0 ∨ ¬(base ≤ fr.va ∧ fr.va < base + sz) ∨ base + sz > 2 ^ 57 ∨ frame + sz > 2 ^ 52 then
      s.walkFail k w x 6
    else if !allowance (s.polder x.polder) frame sz perm then s.walkFail k w x 5
    else if x.stale then s.walkRetry k w x
    else
      let e : TEntry := { polder := x.polder, base := base, size := sz, frame := frame, perm := perm }
      let s := (s.dropOverlaps k e).fillDie k e
      if fr.depth = 0 then
        let core := match tfind s.accs x.acc with | some y => y.core | none => 8 * k
        (((s.fillCore core e).freeWalker k w x).release k e).refillMiss k
      else s.setWalk k w { x with frames := x.frames.tail }) s

/-- `wnone` (R272, R274). -/
def execWnone (s : State) : Out :=
  walkIssue (fun k w x fr s => s.walkFail k w x (if fr.depth = 0 then 1 else 10)) s

/-- WLD_DATA_RETURN (R271, R277): the data arrive after some walker cycles; a walk whose count reaches LIMIT ends at LIMIT. -/
def execWldDataReturn (die walker waited : Nat) (s : State) : Out :=
  .next <|
    match tfind (s.die die).walks walker with
    | some x =>
      match x.read, x.frames with
      | some r, fr :: _ =>
        let x := { x with cycles := min (x.cycles + waited) (walkLimit s x.polder) }
        if x.cycles ≥ walkLimit s x.polder then s.walkFail die walker x 3
        else
          match s.avail die r.pa with
          | .wait => s
          | .no => s.walkError die walker x 0x13 (unavailAux s r.pa)
          | .yes =>
            let (bs, bad, s) := s.readPa r.pa r.len
            if bad ≠ [] then s.walkError die walker x 0x12 0
            else s.setWalk die walker { (x.next (fr.setReg r.d (BitVec.ofNat 64 (ofLe bs)))) with read := none }
      | _, _ => s
    | none => s

/-- WALK_TIMELIMIT (R277): a walk that waits for data past its limit, or has reached it, ends.
(DEDUCED: log entry 52.) -/
def execWalkTimelimit (die walker : Nat) (s : State) : Out :=
  .next <|
    match tfind (s.die die).walks walker with
    | some x =>
      if x.read.isSome || x.cycles ≥ walkLimit s x.polder then
        s.walkFail die walker { x with cycles := max x.cycles (walkLimit s x.polder), read := none } 3
      else s
    | none => s

end Sys2Proof.Machine
end

