-- ==== Sys2Proof/Machine/Sys.lean ====
section
/-! DEFINITION. The SYS instructions (R183 to R191) but for those of checkpoint images. -/

namespace Sys2Proof.Machine

/-! ### Polder-0 accesses of a SYS instruction (R183) -/

/-- The entry that covers an address, looked up without filling a buffer (R12, R263). -/
def State.xlat (s : State) (c p va : Nat) : Option TEntry :=
  match (s.core c).tb.find? (·.covers p va) with
  | some e => some e
  | none => if c ≥ 32 then none else (s.die (walkDie c)).tb.find? (·.covers p va)

/-- The first byte of a range in each 64 KiB page that it touches, with the bytes there. -/
def pagesOf (va len : Nat) : List (Nat × Nat) :=
  if len = 0 then []
  else (List.range ((va % 65536 + len + 65535) / 65536)).map fun i =>
    let lo := max va ((va / 65536 + i) * 65536)
    (lo, min (va + len) ((va / 65536 + i + 1) * 65536) - lo)

/-- The first page of a range that is no permitted hit of polder 0. -/
def State.missing (s : State) (c va len : Nat) (write : Bool) : Option Nat :=
  let need : BitVec 3 := if write then 2 else 1
  ((pagesOf va len).find? fun e => decide (e.1 ≥ 2 ^ 57) || match s.xlat c 0 e.1 with
    | some t => t.perm &&& need ≠ need
    | none => true).map (·.1)

/-- The physical pieces of a range whose pages are all hits. -/
def State.piecesPa (s : State) (c va len : Nat) : List (Nat × Nat) :=
  (pagesOf va len).filterMap fun e => (s.xlat c 0 e.1).map fun t => (t.frame + (e.1 - t.base), e.2)

/-- The bytes of a range as a coherent read returns them, without the checks of its blocks. -/
def State.peek (s : State) (c va len : Nat) : List Byte :=
  (s.piecesPa c va len).flatMap fun e =>
    (((blocksOf e.1 e.2).flatMap fun b => (s.view b).1).drop (e.1 % 64)).take e.2

/-- The block checks of a read, and the activation of its rows (R323, R324, R327). -/
def State.touch (s : State) (c va len : Nat) : State :=
  (s.piecesPa c va len).foldl (fun s e => (blocksOf e.1 e.2).foldl (fun s b => (s.openRow b).checkBlock b) s) s

/-- How an attempt of a SYS instruction ends: done with its result and what its group then waits for, held, waiting for
a translation, or with a fault. -/
inductive SysTry where
  | done (d : Word) (w : Wait) (s : State)
  | hold (s : State)
  | ask (va : Nat) (write : Bool) (s : State)
  | fault (f : FaultAt) (s : State)

/-- A range may be used now: translated, and its memory available; a read must meet no lost block (R183). -/
def sysRange (c va len : Nat) (write : Bool) (l : Nat) (s : State) (ok : State → SysTry) : SysTry :=
  match s.missing c va len write with
  | some x => .ask x write s
  | none =>
    let ps := s.piecesPa c va len
    let f (code : Nat) (aux : Word) : SysTry :=
      .fault { code := code, lanes := BitVec.twoPow 32 l, addr := BitVec.ofNat 64 va, aux := aux } s
    match ps.find? fun e => s.avail (dieOf c) e.1 = .no with
    | some e => f 0x13 (unavailAux s e.1)
    | none =>
      if ps.any fun e => (if write then s.takes (dieOf c) e.1 e.2 else s.avail (dieOf c) e.1) = .wait then .hold s
      else if !write && ps.any fun e => (blocksOf e.1 e.2).any fun b => (s.view b).2 then f 0x12 0
      else ok (if write then s else s.touch c va len)

/-- The group waits for the translation of a polder-0 address (R183, R340): the access names its operand lane. -/
def State.sysAsk (s : State) (c sl l va : Nat) (write : Bool) : State :=
  let (id, s) := s.newId
  let a : Access :=
    { polder := 0, core := c, cmd := 0, lane := sl, src := 5, op := if write then .write [] else .read, va := va
      len := 4, off := 0, st := .ready, data := [BitVec.ofNat 8 l], bad := [], aux := 0 }
  let s := s.onGroup c sl fun g => { g with waiting := .fetch id }
  State.try { s with accs := tput s.accs id a } id

/-- The result of a SYS instruction in every active lane, and what its group waits for. -/
def State.sysResult (s : State) (c sl : Nat) (v : Issue) (g : Group) (d : Word) (w : Wait) : State :=
  (s.writeLanes c sl (g.active v.guard) (fun _ => v.dsts.map fun x => (x, d)) (fun _ => 0)).onGroup c sl fun h =>
    { h with waiting := w }

/-- ISSUE of a SYS instruction (R183): once, with the operands of the lowest active lane, when what `fence.sys` waits
for holds; without an active lane nothing is done. -/
def sysIssue (v : Issue) (act : Nat → Nat → Group → Nat → State → SysTry) (s : State) : Out :=
  match s.cur with
  | .group c sl =>
    match s.group c sl with
    | some g =>
      match g.clause with
      | some cl =>
        if g.stalled then .next s
        else
          match illegalCause v s c sl g cl with
          | some cause =>
            .next (s.takeFault c sl { code := 1, cause := cause, lanes := g.occMask, aux := s.ir } (resumeOf g))
          | none =>
            match g.opLane v.guard with
            | none => .next (s.begun v c sl g cl)
            | some l =>
              if !s.fenceOk g .sys then .next s
              else
                match act c sl g l s with
                | .hold t => .next t
                | .ask va w t => .next (t.sysAsk c sl l va w)
                | .fault f t => .next (t.takeFault c sl f (resumeOf g))
                | .done d w t => .next ((t.begun v c sl g cl).sysResult c sl v g d w)
      | none => .next s
    | none => .next s
  | _ => .next s

/-! ### System registers (R186) -/

/-- A system register as it reads. -/
def Core.sysReg (k : Core) (r : SysReg) : Word :=
  match r with
  | .corectl => (if k.placeok then 2 else 0) + if k.barrel then 1 else 0
  | .wdogint => k.wdogint
  | .seepage => k.seepage
  | .coreq => if k.quar then 1 else 0

/-- A write of a system register; read-only fields ignore it. -/
def Core.setSysReg (k : Core) (r : SysReg) (v : Word) : Core :=
  match r with
  | .corectl => { k with placeok := v.getLsbD 1, barrel := v.getLsbD 0 }
  | .wdogint => { k with wdogint := v }
  | _ => k

/-- `sregw` (R186). -/
def execSregw (a : Src) (r : SysReg) (gd : Guard) (s : State) : Out :=
  sysIssue (issueOf (.sregw a r gd))
    (fun c _ g l s => .done 0 .none (s.setCore c ((s.core c).setSysReg r (g.reg l a.reg.toNat)))) s

/-- `sregw.rd` (R186). -/
def execSregwRd (d : Reg) (r : SysReg) (gd : Guard) (s : State) : Out :=
  sysIssue (issueOf (.sregwRd d r gd)) (fun c _ _ _ s => .done ((s.core c).sysReg r) .none s) s

/-! ### Queue slots (R187, R246, R247) -/

/-- The die link between a core and the dispatch board carries traffic (R10, R248, R329). -/
def State.boardReach (s : State) (c : Nat) : Avail := s.linkAvail (dieOf c) (homeDie (s.spBase 0))

/-- An instruction that writes the dispatch board waits for a die link that retrains; over a failed one it takes UNAVAIL (R329). -/
def onBoard (c l : Nat) (s : State) (k : SysTry) : SysTry :=
  match s.boardReach c with
  | .yes => k
  | .wait => .hold s
  | .no => .fault { code := 0x13, lanes := BitVec.twoPow 32 l } s

/-- The polder and queue whose descriptor lies at a physical address. -/
def State.queueAt (s : State) (pa : Nat) : Option (Nat × Nat) :=
  s.polders.findSome? fun e => (e.2.queues.find? fun q => q.2.descPa = pa).map fun q => (e.1, q.1)

/-- RINGADDR and RINGLEN of a descriptor are good (R187, R238). -/
def ringOk (desc : List Byte) : Bool :=
  let n := bfield desc 8 4
  bfield desc 0 8 % 64 = 0 && decide (16 ≤ n) && decide (n ≤ 65536) && n = 2 ^ n.log2

/-- A slot takes a queue (R187, R246): the board entry, then the doorbell. A descriptor that no QUEUE request has created is one of
polder 0, under a queue number that no request uses.
(DESIGN CHOICE: log entry 65.) -/
def State.mapSlot (s : State) (c sl va : Nat) (desc : List Byte) : State :=
  let pa := ((s.xlat c 0 va).map fun t => t.frame + (va - t.base)).getD 0
  let (p, q) := (s.queueAt pa).getD (0, 64 + sl)
  let due := tfind (s.polder p).queues q
  let s := { s with
    ready := s.ready.filter (· ≠ (p, q)), idle := s.idle.filter (· ≠ (p, q))
    slots := tput s.slots sl
      { polder := p, queue := q, descVa := va, launch := none, retired := 0, images := [], deadline := due.bind (·.waitDue)
        skip := due.bind (·.skip), ids := [], copyCmd := none, dead := (due.map Queue.dead).getD false } }
  let s := s.setSstate sl qIdle
  let s := s.setBoard (slotWord sl 1) (BitVec.ofNat 32 (bfield desc 28 1))
  let s := s.setBoard (slotWord sl 2) (s.board 4)
  (s.setBoard (slotWord sl 3) 0).ringBell sl

/-- A free value as a result. -/
def freeResult (s : State) : SysTry :=
  let (w, s) := s.fresh
  .done w .none s

/-- `qmap` (R187): 1 for a slot in use, 2 for a bad descriptor.
(DEDUCED: log entry 48.) -/
def execQmap (d : Reg) (a b : Src) (gd : Guard) (s : State) : Out :=
  sysIssue (issueOf (.qmap d a b gd))
    (fun c _ g l s =>
      let va := (g.pair l a.reg.toNat).toNat
      let sl := (g.reg l b.reg.toNat).toNat
      if sl > 255 then freeResult s
      else
        sysRange c va 64 false l s fun s => onBoard c l s <|
          let desc := s.peek c va 64
          if (tfind s.slots sl).isSome then .done 1 .none s
          else if !ringOk desc then .done 2 .none s
          else .done 0 .none (s.mapSlot c sl va desc)) s

/-- A slot is detached; its queue joins the ready or the idle list (R187, R246, R347). -/
def State.unmapSlot (s : State) (sl : Nat) (h : HwSlot) (pending : Bool) : State :=
  let x := s.polder h.polder
  let s := match tfind x.queues h.queue with
    | some q => s.setPolder h.polder { x with queues := tput x.queues h.queue { q with
        waitDue := h.deadline, skip := h.skip } }
    | none => s
  let pq := (h.polder, h.queue)
  let s := { s with
    slots := tdel s.slots sl
    ready := if pending then s.ready ++ [pq] else s.ready
    idle := if pending then s.idle else s.idle ++ [pq] }
  s.setSstate sl qFree

/-- The result for a slot that is READY or ACTIVE, and for a block that is not resident. -/
def notMade : Word := 0xFFFFFFFF

/-- `qunmap` (R187, R246): of a slot that holds no queue the manual states no result (log entry 2). -/
def execQunmap (d : Reg) (a : Src) (gd : Guard) (s : State) : Out :=
  sysIssue (issueOf (.qunmap d a gd))
    (fun c _ g l s =>
      let sl := (g.reg l a.reg.toNat).toNat
      match if sl > 255 then none else tfind s.slots sl with
      | none => freeResult s
      | some h =>
        if s.sstate sl = qReady || s.sstate sl = qActive then .done notMade .none s
        else
          sysRange c h.descVa 64 false l s fun s => onBoard c l s <|
            let note := bfield (s.peek c h.descVa 64) 20 4 % 2
            .done (BitVec.ofNat 32 note) .none (s.unmapSlot sl h (note = 1))) s

/-! ### Placing (R188) -/

/-- `place` (R188): its descriptor must be aligned and inside polder 0's window, or it takes MISALIGN or BOUNDS.
(DESIGN CHOICE: log entry 66.) -/
def execPlace (d : Reg) (a : Src) (gd : Guard) (s : State) : Out :=
  sysIssue (issueOf (.place d a gd))
    (fun c _ g l s =>
      let x := (g.reg l a.reg.toNat).toNat
      let base := s.spBase 0
      let f (code cause : Nat) : SysTry :=
        .fault { code := code, cause := cause, lanes := BitVec.twoPow 32 l, addr := BitVec.ofNat 64 x, aux := s.ir } s
      if x % 16 ≠ 0 then f 4 1
      else if x + 16 > (s.polder 0).spSize then f 5 1
      else
        match s.linkAvail (dieOf c) (homeDie (base + x)) with
        | .no => .fault { code := 0x13, lanes := BitVec.twoPow 32 l, addr := BitVec.ofNat 64 x } s
        | .wait => .hold s
        | .yes =>
          let desc := mreads s.sp (base + x) 16
          let r := s.place (bfield desc 0 4) (bfield desc 4 8) (bfield desc 12 1)
          .done r.1 .none r.2) s

/-! ### Invalidation (R190, R275) and walk routines (R191) -/

/-- The dies that a core's `tbinv` reaches. -/
def tbinvDies (c : Nat) : List Nat := if c < 32 then [dieOf c] else [0, 1, 2, 3]

/-- The entries that a `tbinv` removes. -/
def tbinvHit (k : TbKind) (p va : Nat) (e : TEntry) : Bool :=
  match k with
  | .pol => e.polder = p
  | .page => e.covers p va
  | .all => true

/-- The polders whose walks a `tbinv` marks stale. -/
def tbinvPol (k : TbKind) (p q : Nat) : Bool := k = .all || p = q

/-- `tbinv` (R190, R275): it completes when no walk that it has marked stale is left.
(DEDUCED: log entry 48.) -/
def execTbinv (k : TbKind) (a b : Src) (gd : Guard) (s : State) : Out :=
  sysIssue (issueOf (.tbinv k a b gd))
    (fun c _ g l s =>
      let va := (g.pair l a.reg.toNat).toNat
      let p := (g.reg l b.reg.toNat).toNat
      let ds := tbinvDies c
      let s := ds.foldl (fun s d => s.invalidate d (tbinvHit k p va) (tbinvPol k p)) s
      let live := ds.any fun d => (s.die d).walks.any fun w => w.2.stale
      .done 0 (if live then .tbinv ds else .none) s) s

/-- `cinv.sprd` (R190). -/
def execCinvSprd (gd : Guard) (s : State) : Out :=
  sysIssue (issueOf (.cinvSprd gd)) (fun c _ _ _ s => .done 0 .none (s.dropLines c)) s

/-- `cinv.rec` (R190). -/
def execCinvRec (b : Src) (gd : Guard) (s : State) : Out :=
  sysIssue (issueOf (.cinvRec b gd))
    (fun c _ g l s =>
      let p := (g.reg l b.reg.toNat).toNat
      let k := s.core c
      .done 0 .none (s.setCore c { k with
        layouts := k.layouts.filter fun e => e.1 ≠ p
        preds := k.preds.filter fun e => e.1 ≠ p })) s

/-- `wkload` (R191): the routine and root value of a polder on one die. -/
def execWkload (d : Reg) (a b c : Src) (die : BitVec 2) (gd : Guard) (s : State) : Out :=
  sysIssue (issueOf (.wkload d a b c die gd))
    (fun k _ g l s =>
      let va := (g.pair l a.reg.toNat).toNat
      sysRange k va 4096 false l s fun s =>
        let n := if k < 32 then dieOf k else die.toNat
        let x := s.die n
        let rt := (mwrites [] 0 (s.peek k va 4096), g.pair l c.reg.toNat)
        .done 0 .none (s.setDie n { x with routines := tput x.routines (g.reg l b.reg.toNat).toNat rt })) s

end Sys2Proof.Machine
end

