-- ==== Sys2Proof/Machine/Image.lean ====
section
/-! DEFINITION. Pre-emption and restoration: the checkpoint image, `ctxsave` and `ctxrest` (R189, R252, R253, R320 to
R322, R341, R344). -/

namespace Sys2Proof.Machine

/-! ### The LAUNCH packet (R241) -/

/-- A launch as its packet gives it. -/
def launchOfPacket (p q id maxprio : Nat) (r arg : List Byte) : Launch :=
  let fl := byteAt r 1
  { polder := p, queue := q, id := id, bound := fl.getLsbD 0, audit := fl.getLsbD 1, noprom := fl.getLsbD 2
    cls := min (fl.toNat / 16 % 4) maxprio, gangSz := bfield r 2 1, bw := bfield r 3 1
    entry := BitVec.ofNat 32 (bfield r 4 4), codeBase := bfield r 8 8, x := bfield r 16 2, y := bfield r 18 2
    z := bfield r 20 2, fairInt := bfield r 22 2, nblkX := bfield r 24 4, nblkY := bfield r 28 2, nblkZ := bfield r 30 2
    regs := bfield r 42 1, shared := bfield r 44 4, trapVec := BitVec.ofNat 32 (bfield r 48 4)
    stackSz := bfield r 52 4, stackAddr := bfield r 56 8, arg := arg, raw := r, sram := false }

/-! ### Group sections (R253, R320, R321) -/

/-- Bytes of a group section. -/
def sectionLen (l : Launch) : Nat := 2048 + 4224 * regBlocks l

/-- Resume action, its operand and PC of a group (R320, R321). -/
def Group.resumption (g : Group) (clock : Nat) : Nat × Nat × Word :=
  if g.parked then (0, 0, g.frec.resume)
  else
    match g.waiting with
    | .wait _ asked n d _ _ => (1, asked.code.toNat + 256 * n + 65536 * d, g.pc)
    | .bar _ => (2, 0, g.pc)
    | .gsync => (3, 0, g.pc)
    | .join t _ dl => (4, dl - clock, t)
    | .sleep till => (5, till - clock, g.pc)
    | _ => (0, 0, g.pc)

/-- STATUS of a class as an image holds it: a `wait` that some classes have passed begins again, with the STATUS that they gave it
(R320). -/
def Group.statusSaved (g : Group) (k : Nat) : BitVec 4 :=
  tget 0 g.status k ||| match g.waiting with
    | .wait _ _ _ _ _ t => tget 0 t k
    | _ => 0

/-- Number of a lane state in an image. -/
def LaneSt.num : LaneSt → Nat
  | .empty => 0
  | .occupied => 1
  | .helper => 2

/-- The predicates of a lane as a byte. -/
def Lane.predByte (ln : Lane) : Byte := ln.preds.setWidth 8

/-- Register block k of a section: registers, then dead bits (R321). -/
def regBytes (g : Group) (k : Nat) : List Byte :=
  ((List.range 32).flatMap fun r => lanes32.flatMap fun l => toLe 4 ((g.lane l).saved (32 * k + r)).toNat)
  ++ (List.range 32).flatMap fun r => toLe 4 (maskOf fun l => (g.lane l).dead.contains (32 * k + r)).toNat

/-- The section of a group. -/
def sectionBytes (l : Launch) (clock : Nat) (g : Group) : List Byte :=
  let r := g.resumption clock
  let pend := total ((List.range 7).map fun c => if c ≠ 0 && g.pendF.any fun e => e.2.bclass.toNat = c then 2 ^ c else 0)
  toLe 4 r.2.2.toNat ++ toLe 4 (tileWidth g.tilew) ++ toLe 4 g.fstat.toNat
  ++ toLe 4 (pend + if g.parked then 1 else 0) ++ toLe 4 r.1 ++ toLe 4 r.2.1
  ++ ((List.range 6).flatMap fun i => toLe 4 (g.statusSaved (i + 1)).toNat)
  ++ List.replicate 16 0 ++ bytesOf g.frec.words
  ++ (lanes32.flatMap fun i =>
      let ln := g.lane i
      toLe 4 (ln.st.num + 4 * ln.homeLane) ++ toLe 4 (ln.homeGroup % 2 ^ 26))
  ++ lanes32.map (fun i => (g.lane i).predByte)
  ++ lanes32.map (fun i => BitVec.ofNat 8 (g.lane i).rstk.length)
  ++ (lanes32.flatMap fun i => padTo 32 (bytesOf (g.lane i).rstk))
  ++ List.replicate 608 0
  ++ (List.range (regBlocks l)).flatMap (regBytes g)

/-- A record from its eight words. -/
def frecOf (bs : List Byte) : FRec :=
  let w (i : Nat) : Word := BitVec.ofNat 32 (bfield bs (4 * i) 4)
  { dlvFail := (w 0).getLsbD 25, eng := (w 0).getLsbD 24, cause := (w 0).extractLsb' 16 8, code := (w 0).extractLsb' 0 16
    pc := w 1, laneMask := w 2, addr := w 4 ++ w 3, aux := w 5, resume := w 6, bclass := (w 7).setWidth 3 }

/-- A tile width from its number. -/
def tileOf (n : Nat) : TileW :=
  match n with
  | 2 => .w2
  | 4 => .w4
  | 8 => .w8
  | 16 => .w16
  | _ => .w32

/-- Lane i of a section; `base` gives its stack in memory. -/
def readLane (base : Lane) (alloc : Nat) (bs : List Byte) (i : Nat) : Lane :=
  let w0 := bfield bs (96 + 8 * i) 4
  let at' (r : Nat) : Nat := 2048 + 4224 * (r / 32)
  let rs := List.range (min alloc 255)
  { st := if w0 % 4 = 1 then .occupied else if w0 % 4 = 2 then .helper else .empty
    homeGroup := bfield bs (100 + 8 * i) 4 % 2 ^ 26, homeLane := w0 / 4 % 32
    regs := rs.foldl (fun t r => tset 0 t r (BitVec.ofNat 32 (bfield bs (at' r + 128 * (r % 32) + 4 * i) 4))) []
    dead := rs.filter fun r => (bfield bs (at' r + 4096 + 4 * (r % 32)) 4).testBit i
    pend := [], preds := (byteAt bs (352 + i)).setWidth 7
    rstk := (List.range (min 8 (byteAt bs (384 + i)).toNat)).map fun j =>
      BitVec.ofNat 32 (bfield bs (416 + 32 * i + 4 * j) 4)
    mstk := base.mstk, deep := base.deep, clkHi := none }

/-- What a restored group waits for (R320). The lanes in which a `wait` was active lie outside the image.
(DESIGN CHOICE: log entry 12.) -/
def resumeWait (old : Wait) (act opn : Nat) (pc : Word) (clock : Nat) (lanes : BitVec 32) : Wait :=
  match act with
  | 1 =>
    match wclsOf (BitVec.ofNat 3 opn) with
    | some k =>
      let ls := match old with | .wait _ _ _ _ ls _ => ls &&& lanes | _ => lanes
      .wait (classesOf k) k (opn / 256 % 16) (opn / 65536 % 256) ls []
    | none => .none
  | 2 => .bar (decide (old = .bar true))
  | 3 => .gsync
  | 4 => .join pc (match old with | .join _ since _ => since | _ => clock) (clock + opn)
  | 5 => .sleep (clock + opn)
  | _ => if old = .undef then .undef else .none

/-- A group from its section; `base` gives what lies outside the image, its count of issue cycles too, which goes on (R45).
(DESIGN CHOICE: log entry 12.) -/
def readGroup (base : Group) (alloc clock bslot uid : Nat) (bs : List Byte) : Group :=
  let f := frecOf (bs.drop 64)
  let n (off : Nat) : Nat := bfield bs off 4
  let pc := BitVec.ofNat 32 (n 0)
  let lanes := (lanes32.map fun i => (i, readLane (base.lane i) alloc bs i)).filter fun e => e.2.st ≠ .empty
  { base with
    bslot := bslot, lanes := lanes, pc := pc, clause := none, run := 0, tilew := tileOf (n 4)
    fstat := BitVec.ofNat 6 (n 8)
    status := (List.range 6).foldl (fun t i => tset 0 t (i + 1) (BitVec.ofNat 4 (n (24 + 4 * i)))) []
    inflight := [], cache := [], stq := [], openB := [], closedB := []
    waiting := resumeWait base.waiting (n 16) (n 20) pc clock (maskOf fun i => lanes.any (·.1 = i))
    frec := f, parked := n 12 % 2 = 1
    pendF := ((List.range 7).filter fun c => c ≠ 0 && (n 12).testBit c).map fun c =>
      (0, { f with eng := true, bclass := BitVec.ofNat 3 c })
    joined := base.joined || n 16 = 4, since := clock, uid := uid, mreds := [], finished := [] }

/-! ### Records (R37, R253) -/

/-- The elapsed wait of the set whose oldest record this is, or 0 (R253). -/
def State.elapsedOf (s : State) (c : Nat) (r : Record) : Nat :=
  let bw := (s.blockLaunch c r.bslot).bw
  if (s.core c).records.all fun x => !sameSet bw r x || decide (r.age ≤ x.age) then s.clock - r.born else 0

/-- Records from an image with their elapsed waits. -/
def readRecs : Nat → List Byte → List (Record × Nat)
  | 0, _ => []
  | n + 1, bs =>
    let w1 := bfield bs 4 4
    let rsd := w1 / 2 ^ 12 % 16
    let nl := w1 / 2 ^ 16 % 256
    let kind : RKind := match w1 / 2 ^ 30 with
      | 0 => .spill
      | 1 => .spawn
      | _ => .reorder
    let key := bfield bs 12 4
    let r : Record :=
      { kind := kind, bslot := w1 / 2 ^ 24 % 64, pc := BitVec.ofNat 32 (bfield bs 0 4), nlive := nl
        regs := (List.range nl).map fun i => BitVec.ofNat 32 (bfield bs (16 + 4 * rsd + 4 * i) 4)
        rstk := (List.range rsd).map fun i => BitVec.ofNat 32 (bfield bs (16 + 4 * i) 4)
        mstk := [], deep := 0, preds := BitVec.ofNat 7 (w1 / 2 ^ 5), homeLane := w1 % 32, homeGrp := key % 2 ^ 26
        key := BitVec.ofNat 32 key, age := 0, born := 0, orig := 0, slot := 0, stores := [], due := false, spilled := false
        place := [], held := .free, mark := default }
    (r, bfield bs (recSize rsd nl) 4) :: readRecs n (bs.drop (recSize rsd nl + 4))

/-! ### The image (R253) -/

/-- Records of a block in order of AGE. -/
def Core.recordsOf (k : Core) (b : Nat) : List Record := sortBy (·.age) (k.records.filter fun r => r.bslot = b)

/-- Bytes of the image of a block. -/
def State.imageLen (s : State) (c b : Nat) (x : Block) : Nat :=
  192 + x.slots.length * sectionLen x.launch + x.shSize
    + total (((s.core c).recordsOf b).map fun r => r.size + 4)

/-- Slots of a block, ascending. -/
def Block.order (x : Block) : List Nat := sortBy id x.slots

/-- A set of the block's groups as bits by section. -/
def State.uidMask (s : State) (c : Nat) (x : Block) (us : List Nat) : Nat :=
  total (x.order.zipIdx.map fun e => match s.group c e.1 with
    | some g => if us.contains g.uid then 2 ^ e.2 else 0
    | none => 0)

/-- The block state of an image: barrier counts, collective membership and audit state; its layout is a DESIGN CHOICE
(log entry 12). -/
def State.blockState (s : State) (c : Nat) (x : Block) : List Byte :=
  let k := x.coll.getD { parts := [], slices := [] }
  toLe 4 x.evictedBar ++ toLe 4 x.evictedGs ++ toLe 8 (s.uidMask c x k.parts)
  ++ toLe 8 (s.uidMask c x (k.slices.map (·.uid))) ++ toLe 8 (s.uidMask c x (x.collNext.map (·.uid)))
  ++ toLe 4 ((if x.coll.isSome then 1 else 0) + (if x.audit.isSome then 2 else 0)
      + (if x.poisoned then 4 else 0) + if x.evictedMx then 8 else 0)
  ++ toLe 4 x.homeCore ++ toLe 8 (x.audit.getD 0) ++ toLe 4 x.nextG ++ List.replicate 12 0

/-- Header of an image. -/
def State.imageHeader (s : State) (c b : Nat) (x : Block) : List Byte :=
  toLe 4 1 ++ toLe 4 (s.imageLen c b x) ++ toLe 8 x.launch.id ++ toLe 8 x.idx ++ toLe 2 x.launch.polder
  ++ toLe 2 x.slots.length ++ toLe 4 ((s.core c).recordsOf b).length ++ padTo 64 x.launch.raw

/-- Every byte of an image after IMAC. -/
def State.imageBody (s : State) (c b : Nat) (x : Block) : List Byte :=
  s.imageHeader c b x
  ++ (x.order.flatMap fun sl => match s.group c sl with
      | some g => sectionBytes x.launch s.clock g
      | none => List.replicate (sectionLen x.launch) 0)
  ++ mreads (s.core c).sh x.shBase x.shSize
  ++ s.blockState c x
  ++ ((s.core c).recordsOf b).flatMap fun r => recBytes r ++ toLe 4 (s.elapsedOf c r)

/-- The image with its IMAC. -/
def State.image (s : State) (c b : Nat) (x : Block) : List Byte :=
  let m := s.imageBody c b x
  sha3_256 ((s.polder x.launch.polder).sealKey ++ m) ++ m

/-! ### Pre-emption (R253, R320, R341) -/

/-- A group has come to a run boundary, or waits at a run-ending instruction (R61, R253). A group behind an undefined operation holds
no pre-emption up: what is undefined for its polder changes nothing of another (R7). -/
def Group.atBoundary (g : Group) : Bool :=
  g.parked || g.waiting = .undef || (g.run = 0 && g.clause = none && match g.waiting with
    | .fence _ => false
    | .room _ _ _ => false
    | .tbinv _ => false
    | _ => true)

/-- A command belongs to a block, or puts records into it. -/
def Cmd.touches (x : Cmd) (c b : Nat) : Bool :=
  x.org.core = c && (x.org.bslot = b || match x.op with
    | .spawn _ ch => ch.any fun e => e.1 = b
    | _ => false)

/-- A store entry is of a block. -/
def StEntry.ofBlock (e : StEntry) (c b : Nat) : Bool := e.org.core = c && e.org.bslot = b

/-- Steps 1 to 3 of R253 are over for a block. -/
def State.quiet (s : State) (c b : Nat) : Bool :=
  ((s.core c).groups.all fun e => e.2.bslot ≠ b || (e.2.atBoundary && e.2.stq = []))
  && ((s.core c).orphans.all fun e => !e.ofBlock c b)
  && (s.linkQ.all fun e => !e.entry.ofBlock c b)
  && s.cmds.all fun e => !e.2.touches c b || e.2.phase = .done

/-- Accesses of a block that are held under REPLAY complete with their own cause (R341). -/
def State.failHeld (s : State) (c b : Nat) : State :=
  (s.core c).parkedA.foldl (init := s) fun s i =>
    match tfind s.accs i with
    | some a =>
      match a.st, tfind s.cmds a.cmd with
      | .parked k, some x =>
        if k ≠ 0 && x.org.bslot = b then s.failAccess i 0x10 k a.aux else s
      | _, _ => s
    | none => s

/-- Pre-emption of a block begins (R253 step 1). -/
def State.beginStop (s : State) (c b : Nat) : State :=
  match s.block c b with
  | some x => if x.stopping then s else (s.setBlock c b { x with stopping := true }).failHeld c b
  | none => s

/-- A walk that an access started is abandoned: every access that waited on it is looked up again (R253 step 4). -/
def State.abandonWalks (s : State) (d id : Nat) : State :=
  (s.die d).walks.foldl (fun s w => if w.2.acc = id then s.walkRetry d w.1 w.2 else s) s

/-- A group's fetch is given up; its group fetches again after restoration. -/
def State.dropFetch (s : State) (c sl id : Nat) : State :=
  let s := s.abandonWalks (walkDie c) id
  let s := match tfind s.accs id with
    | some a => { s.unpark id a with accs := tdel (s.unpark id a).accs id }
    | none => s
  s.onGroup c sl fun g => match g.waiting with
    | .fetch _ => { g with waiting := .none }
    | _ => g

/-- What a group's state comes to at the start of step 5 (R319, R320): batches are closed and leave, an expired wait
ends, a fetch is given up. -/
def State.settleSlot (s : State) (c sl : Nat) : State :=
  let s := (s.settle c sl).onGroup c sl fun g => allCls.foldl Group.closeBatch g
  let s := s.settleBatches c sl
  match s.group c sl with
  | some g =>
    match g.waiting with
    | .join _ _ dl => if dl ≤ s.clock then s.joinStep c sl true else s
    | .sleep till => if till ≤ s.clock then s.setGroup c sl { g with waiting := .none } else s
    | .fetch id => s.dropFetch c sl id
    | _ => s
  | none => s

/-- An image goes to the head of its queue's pending images, with those of its gang (R252, R253). -/
def State.pushImage (s : State) (l : Launch) (idx va : Nat) : State :=
  match s.slotOf l.polder l.queue with
  | some sl =>
    match tfind s.slots sl with
    | some h =>
      let mate (v : Nat) : Bool := (s.polder l.polder).saved.any fun y =>
        y.va = v && y.block.launch.id = l.id && y.block.idx / l.gangSz = idx / l.gangSz
      let im := match h.images with
        | t :: r => if t.any mate then (t ++ [va]) :: r else [va] :: t :: r
        | [] => [[va]]
      { s with slots := tput s.slots sl { h with images := im } }
    | none => s
  | none => s

/-- STEP 5 of R253: records are read back from the spill area (R36), the image is written, and the block's resources are free. -/
def State.saveBlock (s : State) (c b core va : Nat) (x : Block) : Word × State :=
  let s := x.slots.foldl (fun s sl => s.settleSlot core sl) s
  let s := (s.readBack core ((s.core core).recordsOf b)).2
  let x := (s.block core b).getD x
  let bytes := s.image core b x
  let ps := s.piecesPa c va bytes.length
  let s := (ps.foldl (init := (s, bytes)) fun t e => (t.1.writePa e.1 (t.2.take e.2), t.2.drop e.2)).1
  let sv : Saved :=
    { va := va, block := x, groups := x.order.map (s.group core ·), records := (s.core core).recordsOf b }
  let p := s.polder x.launch.polder
  let s := s.pushImage x.launch x.idx va
  let s := s.setPolder x.launch.polder { p with saved := p.saved.filter (fun y => y.va ≠ va) ++ [sv] }
  (BitVec.ofNat 32 bytes.length, s.freeBlock core b)

/-- Lifts a hold on the groups of a block. -/
def State.endStop (s : State) (c b : Nat) : State :=
  match s.block c b with
  | some x => if x.abort then s else s.setBlock c b { x with stopping := false }
  | none => s

/-- `ctxsave` (R189, R253): its pages are translated before anything stops.
(DEDUCED: log entry 49.) -/
def execCtxsave (d : Reg) (a b : Src) (gd : Guard) (s : State) : Out :=
  sysIssue (issueOf (.ctxsave d a b gd))
    (fun c _ g l s =>
      let va := (g.pair l a.reg.toNat).toNat
      let w := (g.reg l b.reg.toNat).toNat
      let core := w / 256 % 32
      let bs := w % 64
      match if bs = firmSlot || s.inRerun core bs then none else s.block core bs with
      | none => .done notMade .none s
      | some x =>
        match sysRange c va (s.imageLen core bs x) true l s (fun s => .hold s) with
        | .ask v w t => .ask v w (t.endStop core bs)
        | .fault f t => .fault f (t.endStop core bs)
        | .done d w t => .done d w t
        | .hold _ =>
          let s := s.beginStop core bs
          if !s.quiet core bs || (s.piecesPa c va (s.imageLen core bs x)).any fun e => s.avail (dieOf c) e.1 = .wait then .hold s
          else
            let r := s.saveBlock c bs core va x
            .done r.1 .none r.2) s

/-! ### Restoration (R253, R320, R322, R344) -/

/-- The hardware slot whose pending images hold an address. -/
def State.imageSlot (s : State) (va : Nat) : Option (Nat × HwSlot) := s.slots.find? fun e => e.2.images.any (·.contains va)

/-- An image is rejected (R253, R344): its IMAC, POLDER or IVERSION is wrong for a request of polder `p`. -/
def State.badImage (s : State) (p : Nat) (im : List Byte) : Bool :=
  im.take 32 ≠ sha3_256 ((s.polder p).sealKey ++ im.drop 32) || bfield im 56 2 ≠ p || bfield im 32 4 ≠ 1

/-- The polder of the request that a `ctxrest` serves: that of the slot whose pending images hold the address, else the image's.
(DEDUCED: log entry 49.) -/
def State.askedBy (s : State) (va : Nat) (im : List Byte) : Nat :=
  match s.imageSlot va with
  | some e => e.2.polder
  | none => bfield im 56 2

/-- The image leaves its queue's pending images. -/
def State.popImage (s : State) (va : Nat) : State :=
  { s with slots := s.slots.map fun e =>
      (e.1, { e.2 with images := (e.2.images.map fun t => t.filter (· ≠ va)).filter (· ≠ []) }) }

/-- The saved parts of an image (R134, R135).
(DESIGN CHOICE: log entry 12.)
(DESIGN CHOICE: log entry 31.) -/
def State.savedOf (s : State) (im : List Byte) : Option Saved :=
  (s.polder (bfield im 56 2)).saved.find? fun y => y.block.launch.id = bfield im 40 8 && y.block.idx = bfield im 48 8

/-- The launch of an image. -/
def State.imageLaunch (s : State) (im : List Byte) : Launch :=
  match s.savedOf im with
  | some y => y.block.launch
  | none => launchOfPacket (bfield im 56 2) 0 (bfield im 40 8) 3 ((im.drop 64).take 64) []

/-- Groups of an image by slot. -/
def State.restoreGroups (s : State) (core bslot : Nat) (l : Launch) (slots : List Nat) (im : List Byte) : State :=
  let olds := match s.savedOf im with
    | some y => y.groups
    | none => []
  (sortBy id slots).zipIdx.foldl (init := s) fun s e =>
    let bs := (im.drop (128 + e.2 * sectionLen l)).take (sectionLen l)
    let base := ((olds[e.2]?).bind id).getD { Group.reset with gnum := e.2, bound := l.bound }
    let (uid, s) := s.newId
    let g := readGroup base (allocOf l) s.clock bslot uid bs
    if g.occs = [] then s else s.enterSlot core e.1 g

/-- The unique numbers of a block's groups before and after restoration. -/
def State.renamed (s : State) (core : Nat) (slots : List Nat) (y : Option Saved) : List (Nat × Nat) :=
  match y with
  | some y => (sortBy id slots).zipIdx.filterMap fun e =>
      match (y.groups[e.2]?).bind id, s.group core e.1 with
      | some old, some new => some (old.uid, new.uid)
      | _, _ => none
  | none => []

/-- The slices that sections mask names have supplied; each is empty, since no command is outstanding. -/
def State.slicesOf (s : State) (core : Nat) (slots : List Nat) (m : Nat) : List Slice :=
  (sortBy id slots).zipIdx.filterMap fun e =>
    if m.testBit e.2 then (s.group core e.1).map fun g => { uid := g.uid, cmd := none } else none

/-- The block of an image (R253, R322): its state, shared memory and records. -/
def State.restoreBlock (s : State) (core bslot : Nat) (l : Launch) (slots : List Nat) (im : List Byte) : State :=
  let shAt := 128 + slots.length * sectionLen l
  let stAt := shAt + shSizeFor l
  let st := (im.drop stAt).take 64
  let y := s.savedOf im
  let fl := bfield st 32 4
  let s := (s.beginPast l).setCore core ((s.core core).clearShared bslot)
  let s := s.setBlock core bslot { s.arriving (launchBlock l core bslot (bfield im 48 8) slots s.clock) with
    nextG := bfield st 48 4, poisoned := fl.testBit 2, homeCore := bfield st 36 4, evictedBar := bfield st 0 4
    evictedGs := bfield st 4 4, evictedMx := fl.testBit 3, audit := if fl.testBit 1 then some (bfield st 40 8) else none }
  let s := s.restoreGroups core bslot l slots im
  let s := match s.block core bslot with
    | some x => s.setBlock core bslot { x with
        coll := if fl.testBit 0 then
            some { parts := (s.slicesOf core slots (bfield st 8 8)).map Slice.uid
                   slices := s.slicesOf core slots (bfield st 16 8) }
          else none
        collNext := s.slicesOf core slots (bfield st 24 8) }
    | none => s
  let k := s.core core
  let s := s.setCore core { k with sh := mwrites k.sh (shBaseFor bslot) ((im.drop shAt).take (shSizeFor l)), rcache := [] }
  let names := s.renamed core slots y
  let olds := (y.map (·.records)).getD []
  (readRecs (bfield im 60 4) (im.drop (stAt + 64))).zipIdx.foldl (init := s) fun s e =>
    let o := (olds[e.2]?).getD e.1.1
    s.deposit core l.polder { e.1.1 with
      bslot := bslot, born := s.clock - e.1.2, mstk := o.mstk, deep := o.deep, held := o.held, mark := o.mark
      orig := ((names.find? (·.1 = o.orig)).map (·.2)).getD 0 }

/-- Groups whose waits the restored state already satisfies go on (R320). -/
def State.wakeBlock (s : State) (core : Nat) (slots : List Nat) : State :=
  slots.foldl (fun s sl => s.settleBatches core sl) s

/-- RESTORES an image onto a core: its result as `ctxrest` gives it (R189, R344). -/
def State.restore (s : State) (va core : Nat) (im : List Byte) : Word × State :=
  if s.badImage (s.askedBy va im) im then (noCore, s)
  else
    let l := s.imageLaunch im
    let sizes := (readRecs (bfield im 60 4) (im.drop (192 + nslotOf l * sectionLen l + shSizeFor l))).map fun e => e.1.size
    match (s.core core).room (s.polder l.polder).shSize l with
    | none => (noRoom, s)
    | some (bslot, slots) =>
      if !s.fits core l.polder sizes then (noRoom, s)
      else
        let p := s.polder l.polder
        let y := s.savedOf im
        let t := (s.restoreBlock core bslot l slots im).popImage va
        let t := t.setPolder l.polder { t.polder l.polder with
          saved := p.saved.filter fun z => some z ≠ y }
        (BitVec.ofNat 32 bslot, t.wakeBlock core slots)

/-- The longest image that a block can have lies below this bound. -/
def imageMax : Nat := 2 ^ 26

/-- `ctxrest` (R189, R253, R344).
(DEDUCED: log entry 49.) -/
def execCtxrest (d : Reg) (a b : Src) (gd : Guard) (s : State) : Out :=
  sysIssue (issueOf (.ctxrest d a b gd))
    (fun c _ g l s =>
      let va := (g.pair l a.reg.toNat).toNat
      let core := (g.reg l b.reg.toNat).toNat % 32
      sysRange c va 128 false l s fun s =>
        let n := bfield (s.peek c va 128) 36 4
        if n < 192 || n > imageMax then .done noCore .none s
        else
          sysRange c va n false l s fun s =>
            let r := s.restore va core (s.peek c va n)
            .done r.1 .none r.2) s

end Sys2Proof.Machine
end

