-- ==== Sys2Proof/Machine/Gather.lean ====
section
/-! DEFINITION. The gather engine (R160 to R162, R336) and the base-die arithmetic `matom` and `mred` (R163, R164). -/

namespace Sys2Proof.Machine

/-- A gather record as the engine reads it (R160). -/
structure GRec where
  tbase  : Nat
  rowb   : Nat
  stride : Nat
  bound  : Nat
  sent   : Nat
  fill   : Word
deriving DecidableEq, Repr

/-- Bytes 0 to 27 of a gather record. -/
def gRec (r : List Byte) : GRec :=
  { tbase := bfield r 0 8, rowb := bfield r 8 4, stride := bfield r 12 4, bound := bfield r 16 4
    sent := bfield r 20 4, fill := BitVec.ofNat 32 (bfield r 24 4) }

/-- The operands of `gat` and `sct` in a lane (R161). -/
structure GOps where
  count : Nat
  rec'  : Nat
  idx   : Nat
  area  : Nat
deriving DecidableEq, Repr

/-- Reads the operands. -/
def gOps (g : Group) (n : Reg) (r i o : Src) (l : Nat) : GOps :=
  { count := (g.reg l n.toNat).toNat, rec' := (g.reg l r.reg.toNat).toNat, idx := (g.reg l i.reg.toNat).toNat
    area := (g.reg l o.reg.toNat).toNat }

/-- Two byte ranges of one space meet. -/
def rangesMeet (a la b lb : Nat) : Bool := decide (a < b + lb) && decide (b < a + la) && la ≠ 0 && lb ≠ 0

/-- Row size and stride of a record are in range (R160). -/
def GRec.ok (r : GRec) : Bool :=
  decide (16 ≤ r.rowb) && decide (r.rowb ≤ 16384) && r.rowb % 16 = 0 && r.stride % 16 = 0 && decide (r.rowb ≤ r.stride)

/-- Some local operand of a command is held by a link that retrains, or cannot be reached over a failed one (R329). -/
def State.opndHeld (s : State) (o : Origin) (xs : List (LSpace × Nat × Nat)) : Bool :=
  xs.any fun x => s.localAvail o x.1 x.2.1 x.2.2 = .wait

/-- The first local operand of a command that a failed link keeps from it (R329). -/
def State.opndLost (s : State) (o : Origin) (xs : List (LSpace × Nat × Nat)) : Option Nat :=
  (xs.find? fun x => s.localAvail o x.1 x.2.1 x.2.2 = .no).map fun x => x.2.1

/-- Checks of the gather engine at issue (R161, R162, R166): the record is read after the group's earlier stores. Of several bad
operands ADDR names the first of the list; it is 0 for a bad count, and the record's address for a bad ROWB or STRIDE.
(DESIGN CHOICE: log entry 64.) -/
def gatherCheck (s : State) (c : Nat) (g : Group) (k : GOps) (isp rsp : LSpace) (l : Nat) : Check :=
  let badRec : Bool := k.rec' % 16 ≠ 0 || k.rec' + 32 > s.shSizeOf c g
  let first := opndCheck .gat l s.ir [(k.rec', badRec), (0, k.count > 65536)]
  if first ≠ .ok then first
  else if s.storesOf g ≠ [] || s.opndHeld (s.originOf c 0 g .gat) [(isp, k.idx, 4 * k.count)] then .stall
  else
    let r := gRec (mreads (s.core c).sh (s.shBaseOf c g + k.rec') 28)
    (opndCheck .gat l s.ir
      [(k.idx, k.idx % 4 ≠ 0 || k.idx + 4 * k.count > s.localSize c g isp), (k.area, k.area % 16 ≠ 0),
        (k.rec', !r.ok), (k.area, k.area + k.count * r.rowb > s.localSize c g rsp)]).andThen
      (if (rsp = isp && rangesMeet k.area (k.count * r.rowb) k.idx (4 * k.count))
          || (rsp = .sh && rangesMeet k.area (k.count * r.rowb) k.rec' 32) then .undef else .ok)

/-- What a command of the gather engine requires. -/
def gatherPre (n : Reg) (r ix o : Src) (isp rsp : LSpace) (gd : Guard) (c _sl : Nat) (g : Group) (s : State) : Check :=
  engCheck s c g <|
    match g.opLane gd with
    | some l => gatherCheck s c g (gOps g n r ix o l) isp rsp l
    | none => .ok

/-- What a `sct` requires, whose rows are read at issue too. -/
def sctPre (n : Reg) (r ix o : Src) (isp rsp : LSpace) (gd : Guard) (c sl : Nat) (g : Group) (s : State) : Check :=
  (gatherPre n r ix o isp rsp gd c sl g s).andThen <|
    match g.opLane gd with
    | some l =>
      let k := gOps g n r ix o l
      let rc := gRec (mreads (s.core c).sh (s.shBaseOf c g + k.rec') 28)
      if s.opndHeld (s.originOf c sl g .gat) [(rsp, k.area, k.count * rc.rowb)] then .stall else .ok
    | none => .ok

/-- Issue of the gather engine's commands.
(DEDUCED: log entry 25.) -/
def gatherIssue (i : Instr) (pre : Nat → Nat → Group → State → Check) (n : Reg) (r ix o : Src) (gd : Guard)
    (body : Nat → Nat → Group → Nat → GOps → State → State) (s : State) : Out :=
  issueWith (issueOf i) pre
    (fun c sl g s =>
      match g.opLane gd with
      | none => s
      | some l => (body c sl g l (gOps g n r ix o l) s).progress c g.bslot) s

/-- The operands of a command of the gather engine as effect records hold them (R260). -/
def GOps.bytes (k : GOps) : List Byte := toLe 8 k.count ++ toLe 8 k.idx ++ toLe 8 k.area

/-- An index list of n words (R161, R162). -/
def indicesOf (n : Nat) (bs : List Byte) : List Word := (chunks 4 n bs).map fun b => BitVec.ofNat 32 (ofLe b)

/-- The index list (R161, R162). -/
def State.indices (s : State) (o : Origin) (sp : LSpace) (a n : Nat) : List Word := indicesOf n (s.localRead o sp a (4 * n))

/-- An index names a table row. -/
def GRec.inBound (r : GRec) (x : Word) : Bool := x.toNat ≠ r.sent && x.toNat < r.bound

/-- An index counts as a miss. -/
def GRec.missed (r : GRec) (x : Word) : Bool := x.toNat ≠ r.sent && decide (r.bound ≤ x.toNat)

/-- `gat` (R161): each distinct row is fetched once. An index list that a failed link keeps from it ends it with UNAVAIL (R329). -/
def execGat (n : Reg) (r i o : Src) (isp rsp : LSpace) (gd : Guard) (s : State) : Out :=
  gatherIssue (.gat n r i o isp rsp gd) (gatherPre n r i o isp rsp gd) n r i o gd
    (fun c sl g l k s =>
      let org := s.originOf c sl g .gat
      let rc := gRec (s.localRead org .sh k.rec' 28)
      let lost := s.opndLost org [(isp, k.idx, 4 * k.count)]
      let s := if lost.isSome then s else s.comeBehind org isp k.idx (4 * k.count)
      let idx := if lost.isSome then [] else s.indices org isp k.idx k.count
      let op : CmdOp := .gat k.rec' rsp k.area rc.rowb rc.fill rc.bound rc.sent idx
      let (id, s) := s.launchCmd c sl g .gat op (BitVec.twoPow 32 l) .data [] (fun _ => false)
      let s := match lost with | some a => s.noteFault id l 0x13 0 (BitVec.ofNat 64 a) 0 | none => s
      let s := s.audFill org id 4 k.rec' (s.localRead org .sh k.rec' 32 ++ k.bytes)
      ((idx.filter rc.inBound).eraseDups).zipIdx.foldl
        (fun s e => s.sendReads id l (cut (rc.tbase + e.1.toNat * rc.stride) rc.rowb (e.2 * rc.rowb))) s) s

/-- Rows of a scatter that name one index, ascending. -/
def rowsFor (idx : List Word) (area : List Byte) (rowb : Nat) (x : Word) : List (List Byte) :=
  (idx.zipIdx.filter fun e : Word × Nat => e.1 = x).map fun e : Word × Nat => (area.drop (e.2 * rowb)).take rowb

/-- Combines two rows element by element (R161). -/
def combineRows (op : ROp) (f : EFmt) (a b : List Byte) : List Byte :=
  let n := eBytes f
  (List.range (a.length / n)).flatMap fun i => toLe n (elemVal op f (bfield a (i * n) n) (bfield b (i * n) n))

/-- The operation of a combination; `.last` has none. -/
def combOp : Comb → Option ROp
  | .last => none
  | .add => some .add
  | .max => some .max
  | .min => some .min

/-- The row that replaces a table row (R161). -/
def scatterRow (cb : Comb) (f : EFmt) (rows : List (List Byte)) : List Byte :=
  match combOp cb, rows with
  | some op, r :: rs => rs.foldl (combineRows op f) r
  | _, _ => rows.getLast?.getD []

/-- `sct` (R161): index list and rows are read at issue, and each combined row is sent as writes, in an order that is left open
(R336). What a failed link keeps from it ends it with UNAVAIL (R329). -/
def execSct (n : Reg) (r i o : Src) (isp rsp : LSpace) (cb : Comb) (f : EFmt) (gd : Guard) (s : State) : Out :=
  gatherIssue (.sct n r i o isp rsp cb f gd) (sctPre n r i o isp rsp gd) n r i o gd
    (fun c sl g l k s =>
      let org := s.originOf c sl g .gat
      let rc := gRec (s.localRead org .sh k.rec' 28)
      let lost := s.opndLost org [(isp, k.idx, 4 * k.count), (rsp, k.area, k.count * rc.rowb)]
      let s := if lost.isSome then s
        else (s.comeBehind org isp k.idx (4 * k.count)).comeBehind org rsp k.area (k.count * rc.rowb)
      let list := if lost.isSome then [] else s.operandBytes c g org isp k.idx (4 * k.count) 0
      let idx := if lost.isSome then [] else indicesOf k.count list
      let area := if lost.isSome then []
        else s.operandBytes c g org rsp k.area (k.count * rc.rowb) (logged isp list).length
      let (id, s) := s.launchCmd c sl g .gat (.sct k.rec' (idx.filter rc.missed).length) (BitVec.twoPow 32 l) .data []
        (fun _ => false)
      let s := match lost with | some a => s.noteFault id l 0x13 0 (BitVec.ofNat 64 a) 0 | none => s
      let rows := ((idx.filter rc.inBound).eraseDups).map fun x => (x, scatterRow cb f (rowsFor idx area rc.rowb x))
      let s := s.audFill org id 2 k.rec' (s.localRead org .sh k.rec' 32 ++ k.bytes ++ bytesOf idx ++ rows.flatMap fun r => r.2)
      let s := s.audFillLog org id (logged isp list ++ logged rsp area)
      rows.foldl (fun s e =>
        (cut (rc.tbase + e.1.toNat * rc.stride) rc.rowb 0).foldl
          (fun s p => (s.postAcc id l (.write ((e.2.drop p.off).take p.len)) p).2) s) s) s

/-- The miss bit of STATUS where a command counted a miss (R147). -/
def missBits (n : Nat) : BitVec 4 := if n = 0 then 0 else stMiss

/-- Ends a gather command: MISS is written and STATUS takes its bit (R145, R160). -/
def State.endGather (s : State) (id : Nat) (x : Cmd) (recA miss : Nat) : State :=
  let s := s.localWrite id x.org .sh (recA + 28) (toLe 4 miss)
  (s.onCmd id fun x => { x with status := x.status ||| missBits miss }).finish id

/-- The rows that a gather has fetched: index and bytes, none where a byte is missing (R325). -/
def fetchedRows (as : List Access) (rc : GRec) (idx : List Word) : List (Word × Option (List Byte)) :=
  ((idx.filter rc.inBound).eraseDups).zipIdx.map fun e => (e.1, bytesAt as (e.2 * rc.rowb) rc.rowb)

/-- The writes of a gather: position and bytes (R161). -/
def gatherWrites (rc : GRec) (idx : List Word) (rows : List (Word × Option (List Byte))) :
    List (Nat × List Byte) :=
  idx.zipIdx.filterMap fun e =>
    if rc.missed e.1 then some (e.2, (List.replicate (rc.rowb / 4) (toLe 4 rc.fill.toNat)).flatten)
    else ((rows.find? fun r => r.1 = e.1).bind fun r => r.2).map fun b => (e.2, b)

/-- GAT_COMPLETE (R145, R161, R235). -/
def execGatComplete (cmd : Nat) (s : State) : Out :=
  .next <|
    match tfind s.cmds cmd with
    | some x =>
      match x.op with
      | .gat recA rsp area rowb fill bound sent idx =>
        let rc : GRec := { tbase := 0, rowb := rowb, stride := 0, bound := bound, sent := sent, fill := fill }
        let av := s.localAvail x.org rsp area (idx.length * rowb)
        if !s.accsOver x || av = .wait then s
        else
          let ws := gatherWrites rc idx (fetchedRows (s.accsOf x) rc idx)
          let miss := (idx.filter rc.missed).length
          let s :=
            if av = .no then s.cmdFault cmd x 0x13 0 area 0
            else ws.foldl (fun s e => s.localWrite cmd x.org rsp (area + e.1 * rowb) e.2) s
          s.endGather cmd x recA miss
      | _ => s
    | none => s

/-- SCT_COMPLETE (R145): every row is accepted. -/
def execSctComplete (cmd : Nat) (s : State) : Out :=
  .next <|
    match tfind s.cmds cmd with
    | some x =>
      match x.op with
      | .sct recA miss => if s.accsOver x then s.endGather cmd x recA miss else s
      | _ => s
    | none => s

/-! ### matom and mred (R163, R164) -/

/-- What a lane command requires. -/
def lanePre (c _sl : Nat) (g : Group) (s : State) : Check := engCheck s c g .ok

/-- `matom` (R163): one operation for each lane; a misaligned lane takes ENGRANGE and its destination 0 (R166). -/
def execMatom (d : Reg) (a b c : Src) (op : AOp) (w64 : Bool) (gd : Guard) (s : State) : Out :=
  issueWith (issueOf (.matom d a b c op w64 gd)) lanePre
    (fun k sl g s =>
      let ws := (lanes32.filter (g.works gd))
      if ws = [] then s
      else
        let s := s.offAudit k g.bslot
        let (id, s) := s.launchCmd k sl g .mem (.matom d.toNat w64) (maskOf (g.works gd)) .data (oldRegs d w64) (g.works gd)
        let one (s : State) (l : Nat) : State :=
          let va := (g.pair l a.reg.toNat).toNat
          if va % atomBytes w64 ≠ 0 then s.noteFault id l 0x16 0 (BitVec.ofNat 64 va) s.ir
          else s.sendAcc id l
            (.atomic op w64 (BitVec.ofNat 64 (operand g w64 l b.reg.toNat))
              (if op = .cas then BitVec.ofNat 64 (operand g w64 l c.reg.toNat) else 0))
            { va := va, len := atomBytes w64, off := 0 }
        (ws.foldl one s).progress k g.bslot) s

/-- The accesses of a command other than those of a lane. -/
def State.otherAccs (s : State) (x : Cmd) (lane : Nat) : List Nat :=
  x.accs.filter fun i => match tfind s.accs i with | some a => a.lane ≠ lane | none => false

/-- The old value of a lane: 0 where its operation was not applied (R163). -/
def oldValue (s : State) (x : Cmd) (lane : Nat) : Nat :=
  match (s.accsOf x).find? (·.lane = lane) with
  | some a => if a.st = .served && a.bad = [] then ofLe a.data else 0
  | none => 0

/-- MATOM_REPLY (R145, R163): a lane's old value is written; the command completes with its last lane. -/
def execMatomReply (cmd lane : Nat) (s : State) : Out :=
  .next <|
    match tfind s.cmds cmd with
    | some x =>
      match x.op with
      | .matom d w64 =>
        if x.phase ≠ .data || !x.mask.getLsbD lane || ((s.accsOf x).any fun a => a.lane = lane && !a.st.over) then s
        else
          let old := oldValue s x lane
          let s := (oldRegs (BitVec.ofNat 8 d) w64).zipIdx.foldl
            (fun s e => s.giveResult x.org cmd lane e.1 (BitVec.ofNat 32 (old / 2 ^ (32 * e.2)))) s
          let gone := x.accs.filter fun i => !(s.otherAccs x lane).contains i
          let rest := s.otherAccs x lane
          let mask := x.mask &&& ~~~(BitVec.twoPow 32 lane)
          let s := { s with accs := gone.foldl tdel s.accs }
          let s := s.onCmd cmd fun x => { x with accs := rest, mask := mask }
          if mask = 0 then s.finish cmd else s
      | _ => s
    | none => s

/-- `mred` (R164): one reduction for each lane; the group's fences wait for it from now on (R149). -/
def execMred (a b : Src) (op : ROp) (f : EFmt) (gd : Guard) (s : State) : Out :=
  issueWith (issueOf (.mred a b op f gd)) lanePre
    (fun k sl g s =>
      let ws := (lanes32.filter (g.works gd))
      if ws = [] then s
      else
        let (id, s) := s.launchCmd k sl g .mem .mred (maskOf (g.works gd)) .data [] (fun _ => false)
        let s := s.onGroup k sl fun h => { h with mreds := h.mreds ++ [id] }
        let w := eBytes f
        let one (s : State) (l : Nat) : State :=
          let va := (g.pair l a.reg.toNat).toNat
          let v := g.reg l b.reg.toNat
          let s := s.audEffect k g (effectRec 3 va (toLe 1 op.code.toNat ++ toLe 1 f.code.toNat ++ toLe 4 v.toNat))
          if va % w ≠ 0 then s.noteFault id l 0x16 0 (BitVec.ofNat 64 va) s.ir
          else s.sendAcc id l (.reduce op f v) { va := va, len := w, off := 0 }
        (ws.foldl one s).progress k g.bslot) s

/-- MRED_ACCEPT (R145): every lane's reduction is accepted. -/
def execMredAccept (cmd : Nat) (s : State) : Out :=
  .next <|
    match tfind s.cmds cmd with
    | some x => if x.op = .mred && s.accsOver x then s.finish cmd else s
    | none => s

end Sys2Proof.Machine
end

