-- ==== Sys2Proof/Machine/BankRun.lean ====
section
/-! DEFINITION. Bank runs (R165, R196 to R209, R337): the descriptor, the loading of a run on a stack, the start of
items, and the combination of results. -/

namespace Sys2Proof.Machine

/-! ### The descriptor (R196) -/

/-- No list, or no scalars. -/
def noAddr : Nat := 0xFFFFFFFF

/-- The fields of a bank-run descriptor. -/
structure BDesc where
  vbase    : Nat
  pcmask   : DWord
  listAddr : Nat
  cntAddr  : Nat
  first    : Nat
  vecAddr  : Nat
  vslice   : Nat
  half     : Bool
  entry    : Nat
  scalAddr : Nat
  itemOut  : Nat
  sumOut   : Nat
  oslots   : Nat
  plen     : Nat
  progAddr : Nat
deriving DecidableEq, Repr

/-- Reads a descriptor. -/
def bDesc (d : List Byte) : BDesc :=
  { vbase := bfield d 0 8, pcmask := BitVec.ofNat 64 (bfield d 8 8), listAddr := bfield d 16 4, cntAddr := bfield d 20 4
    first := bfield d 24 4, vecAddr := bfield d 28 4, vslice := bfield d 32 2, half := bfield d 34 1 = 1
    entry := bfield d 35 1, scalAddr := bfield d 36 4, itemOut := bfield d 40 4, sumOut := bfield d 44 4
    oslots := bfield d 48 2, plen := bfield d 50 2, progAddr := bfield d 52 4 }

/-- Reserved values and fields out of range (R196, R209). -/
def bDescBad (d : List Byte) : Bool :=
  let x := bDesc d
  decide (bfield d 56 8 ≠ 0) || decide (bfield d 34 1 > 1) || decide (x.vslice > 1024) || x.oslots = 0
    || decide (x.oslots > 64) || x.plen = 0 || decide (x.plen > 256) || decide (x.plen ≤ x.entry)

/-- The pseudo-channels that a mask names, ascending. -/
def pcsOf (m : DWord) : List Nat := (List.range 64).filter m.getLsbD

/-- Vector elements that the used pseudo-channels reach. -/
def vecCount (x : BDesc) : Nat := match (pcsOf x.pcmask).getLast? with | some c => (c + 1) * x.vslice | none => 0

/-- Bytes of a vector element. -/
def vecBytes (x : BDesc) : Nat := if x.half then 2 else 4

/-- The operand checks of `bkrun` (R196, R197, R209). Of several bad fields ADDR names the first of the list; a reserved field gives the
descriptor's address.
(DESIGN CHOICE: log entry 64.) -/
def bkrunCheck (s : State) (c : Nat) (g : Group) (a l : Nat) : Check :=
  let shs := s.shSizeOf c g
  let sps := (s.polder (s.launchOf c g).polder).spSize
  let sh (x n : Nat) : List Byte := mreads (s.core c).sh (s.shBaseOf c g + x) n
  let chk (xs : List (Nat × Bool)) : Check := opndCheck .bnk l s.ir xs
  (chk [(a, a % 64 ≠ 0 || a + 64 > shs)]).andThen
    (if s.storesOf g ≠ [] then .stall
     else
      let d := sh a 64
      let x := bDesc d
      (chk [(a, bDescBad d), (x.vbase, x.vbase % 65536 ≠ 0), (x.listAddr, x.listAddr ≠ noAddr && x.listAddr % 4 ≠ 0),
        (x.cntAddr, x.cntAddr % 4 ≠ 0 || x.cntAddr + 4 > shs)]).andThen
        (let n := ofLe (sh x.cntAddr 4)
         chk [(x.cntAddr, n > 65536), (x.listAddr, x.listAddr ≠ noAddr && x.listAddr + 4 * n > shs),
          (x.progAddr, x.progAddr % 4 ≠ 0 || x.progAddr + 4 * x.plen > sps), (x.itemOut, x.itemOut % 64 ≠ 0),
          (x.sumOut, x.sumOut % 64 ≠ 0),
          (x.vecAddr, x.vecAddr % 16 ≠ 0 || x.vecAddr + vecCount x * vecBytes x > sps),
          (x.scalAddr, x.scalAddr ≠ noAddr && (x.scalAddr % 4 ≠ 0 || x.scalAddr + 4 * n > sps))]))

/-! ### Faults at load (R205, R209, R337) -/

/-- A word of an image with a reserved F. -/
def wordReserved (w : Word) : Bool := (decodeBank w).isNone

/-- The mode of a `bemit` word. -/
def emitMode (w : Word) : Option EMode :=
  match decodeBank w with
  | some (.bemit _ _ m _) => some m
  | _ => none

/-- The first `.item` or `.itemc` of an image. -/
def firstItem (ws : List Word) : Option EMode :=
  (ws.filterMap emitMode).find? fun m => m ≠ .sum

/-- The bytes that a mode of a run may write: first byte and length (R205). -/
def modeRange (x : BankRun) (m : EMode) : Nat × Nat :=
  let p := (pcsOf x.pcmask).length
  match m with
  | .item => (x.itemOut, 64 * x.slabs.length * p * x.oslots)
  | .itemc => (x.itemOut, 64 * x.slabs.length * x.oslots)
  | .sum => (x.sumOut, 64 * p * x.oslots)

/-- The first bad store index of a run's image. -/
def loadFault (x : BankRun) (sps : Nat) (ws : List Word) : Option Nat :=
  let bad (w : Word) : Bool :=
    wordReserved w ||
    match emitMode w with
    | some m =>
      (m ≠ .sum && firstItem ws ≠ some m) || decide ((modeRange x m).1 + (modeRange x m).2 > sps)
    | none => false
  (ws.zipIdx.find? fun e => bad e.1).map (·.2)

/-! ### Issue (R165, R197, R198) -/

/-- The vector operand as FP32 codes: n elements (R198). -/
def vecWords (half : Bool) (n : Nat) (bs : List Byte) : List Word :=
  (chunks (if half then 2 else 4) n bs).map fun b => BitVec.ofNat 32 (if half then ofLe b * 65536 else ofLe b)

/-- The slab of each item (R197). -/
def slabIndex (x : BDesc) (list : List Byte) (n : Nat) : List Nat :=
  (List.range n).map fun i => if x.listAddr = noAddr then (x.first + i) % 2 ^ 32 else bfield list (4 * i) 4

/-- Virtual address of a slab. -/
def slabVa (vbase x : Nat) : Nat := (vbase + 65536 * x) % 2 ^ 64

/-- What a `bkrun` requires. -/
def bkrunPre (a : Src) (gd : Guard) (c _sl : Nat) (g : Group) (s : State) : Check :=
  engCheck s c g <|
    match g.opLane gd with
    | some l => bkrunCheck s c g (g.reg l a.reg.toNat).toNat l
    | none => .ok

/-- A run as its descriptor gives it (R196). -/
def runOf (x : BDesc) (cmd polder : Nat) (slabs accs : List Nat) : BankRun :=
  { cmd := cmd, polder := polder, vbase := x.vbase, pcmask := x.pcmask, slabs := slabs, vecAddr := x.vecAddr, half := x.half
    scalAddr := x.scalAddr, vslice := x.vslice, itemOut := x.itemOut, sumOut := x.sumOut, oslots := x.oslots, entry := x.entry
    plen := x.plen, progAddr := x.progAddr, accs := accs, loads := [], items := [] }

/-- `bkrun` (R165, R197): descriptor, count and list are read at issue, and each slab is looked up; a re-execution starts no run
(R261). -/
def execBkrun (a : Src) (gd : Guard) (s : State) : Out :=
  issueWith (issueOf (.bkrun a gd)) (bkrunPre a gd)
    (fun c sl g s =>
      match g.opLane gd with
      | none => s
      | some l =>
        let o := s.originOf c sl g .bnk
        let at0 := (g.reg l a.reg.toNat).toNat
        let d := s.localRead o .sh at0 64
        let x := bDesc d
        let n := ofLe (s.localRead o .sh x.cntAddr 4)
        let list := if x.listAddr = noAddr then [] else s.localRead o .sh x.listAddr (4 * n)
        let slabs := if pcsOf x.pcmask = [] then [] else slabIndex x list n
        let (rid, s) := s.newId
        let (id, s) := s.launchCmd c sl g .bnk (.bkrun rid) (BitVec.twoPow 32 l) .data [] (fun _ => false)
        let s := s.audFill o id 4 at0 d
        let s := slabs.foldl (fun s y => s.sendAcc id l .slab { va := slabVa x.vbase y, len := 65536, off := 0 }) s
        let accs := match tfind s.cmds id with | some y => y.accs | none => []
        let t : State := if s.inRerun c g.bslot then s else { s with runs := tput s.runs rid (runOf x id o.polder slabs accs) }
        t.progress c g.bslot) s

/-! ### Where items run (R197, R200, R201) -/

/-- The access that translates the slab of an item. -/
def State.slabAcc (s : State) (r : BankRun) (i : Nat) : Option Access := (r.accs[i]?).bind (tfind s.accs)

/-- Stack and stack offset of an item's slab, if it lies in HBM. -/
def State.slabAt (s : State) (r : BankRun) (i : Nat) : Option (Nat × Nat) :=
  match s.slabAcc r i with
  | some a => match a.st with
    | .sent pa _ => match placeOf s pa with
      | .hbm st o => some (st, o)
      | _ => none
    | _ => none
  | none => none

/-- Every slab of a run is translated, or has failed. -/
def State.slabsKnown (s : State) (r : BankRun) : Bool :=
  (List.range r.slabs.length).all fun i => match s.slabAcc r i with
    | some a => match a.st with | .sent _ _ => true | .failed _ _ _ => true | _ => false
    | none => true

/-- Positions of a run. -/
def BankRun.positions (r : BankRun) : List Nat := List.range r.slabs.length

/-- Items of a run on a stack. -/
def State.itemsOn (s : State) (r : BankRun) (stack : Nat) : List Nat :=
  r.positions.filter fun i => (s.slabAt r i).map (·.1) = some stack

/-- Key of an item in a pseudo-channel. -/
def itemKey (pc i : Nat) : Nat := pc * 65536 + i

/-- An item has ended in a pseudo-channel. -/
def BankRun.itemEnded (r : BankRun) (pc i : Nat) : Bool :=
  match tfind r.items (itemKey pc i) with | some x => x.ended | none => false

/-- What a run has loaded on a stack. -/
def BankRun.load (r : BankRun) (stack : Nat) : Option BankLoad := tfind r.loads stack

/-- A run has started on a stack with an image that is no fault at load. -/
def BankRun.runs (r : BankRun) (stack : Nat) : Bool :=
  match r.load stack with
  | some x => x.bad.isNone
  | none => false

/-- A run holds a pseudo-channel of a stack: it has started there and some item there has not ended (R200). -/
def State.holdsPc (s : State) (r : BankRun) (stack pc : Nat) : Bool :=
  r.runs stack && r.pcmask.getLsbD pc && (s.itemsOn r stack).any fun i => !r.itemEnded pc i

/-- Rewrites a run. -/
def State.onRun (s : State) (id : Nat) (f : BankRun → BankRun) : State :=
  match tfind s.runs id with
  | some r => { s with runs := tput s.runs id (f r) }
  | none => s

/-- An item that never ran, with its fault. -/
def deadItem (code : Nat) : BankItem :=
  { regs := [], acc := [], pc := 0, count := 0, rowPa := 0, emits := [], ended := true, fault := code }

/-- The stack of an item. -/
def BankItem.stack (x : BankItem) : Nat := x.rowPa / 2 ^ 37

/-- Items of a run on a stack fail where they have not started (R209, R332). -/
def BankRun.failItems (r : BankRun) (is : List Nat) : BankRun :=
  { r with items := (pcsOf r.pcmask).foldl (fun t c => is.foldl (fun t i =>
      if (tfind t (itemKey c i)).isSome then t else tput t (itemKey c i) (deadItem 0x13)) t) r.items }

/-- The die of a run's core. -/
def State.runDie (s : State) (r : BankRun) : Nat :=
  match tfind s.cmds r.cmd with | some x => dieOf x.org.core | none => 0

/-- The scratchpad range of a pseudo-channel's vector slice (R198). -/
def BankRun.slice (r : BankRun) (pc : Nat) : Nat × Nat :=
  let n := r.vslice * if r.half then 2 else 4
  (r.vecAddr + pc * n, n)

/-- The scratchpad range of a run's scalars (R198). -/
def BankRun.scalars (r : BankRun) : List (Nat × Nat) := if r.scalAddr = noAddr then [] else [(r.scalAddr, 4 * r.slabs.length)]

/-- The scratchpad ranges that a run reads when it starts: image, the vector slices of the used pseudo-channels, scalars, and nothing
else (R198). -/
def BankRun.operands (r : BankRun) : List (Nat × Nat) :=
  (r.progAddr, 4 * r.plen) :: (pcsOf r.pcmask).map r.slice ++ r.scalars

/-- What a run loads as it starts on a stack: its operands are read from scratchpad now (R198, R209). The slice of pseudo-channel c
lies at c · VSLICE; those of unused ones are not read. -/
def State.loadRun (s : State) (r : BankRun) (o : Origin) : BankLoad :=
  let rd (e : Nat × Nat) : List Byte := s.localRead o .sp e.1 e.2
  let prog := wordsOf (rd (r.progAddr, 4 * r.plen))
  let pcs := pcsOf r.pcmask
  let top := match pcs.getLast? with | some c => c + 1 | none => 0
  let vec := (List.range top).flatMap fun c =>
    if pcs.contains c then vecWords r.half r.vslice (rd (r.slice c)) else List.replicate r.vslice 0
  { vec := vec, scal := wordsOf (r.scalars.flatMap rd), prog := prog, bad := loadFault r (s.polder r.polder).spSize prog }

/-- An earlier run of the same core has a packet for a stack that has not arrived (R195). -/
def State.runBefore (s : State) (run stack core : Nat) : Bool :=
  s.runs.any fun e => decide (e.1 < run) && s.slabsKnown e.2 && (s.itemsOn e.2 stack) ≠ [] && (e.2.load stack).isNone
    && match tfind s.cmds e.2.cmd with | some x => decide (x.org.core = core) | none => false

/-- BANK_RUN_PACKET (R194, R195, R198, R200): the run starts on a stack once no other run holds its pseudo-channels there; its
image, vector and scalars are loaded, and the store of another polder is replaced whole. Over a failed link its items there
fail (R329). -/
def execBankRunPacket (run stack : Nat) (s : State) : Out :=
  .next <|
    match tfind s.runs run with
    | some r =>
      match tfind s.cmds r.cmd with
      | some x =>
        let is := s.itemsOn r stack
        if !s.slabsKnown r || (r.load stack).isSome || is = [] || s.runBefore run stack x.org.core then s
        else
          let reach := r.operands.foldl (fun a e => a.and (s.localAvail x.org .sp e.1 e.2)) (s.avail (s.runDie r) (stack * 2 ^ 37))
          let empty : BankLoad := { vec := [], scal := [], prog := [], bad := none }
          match reach with
          | .wait => s
          | .no => s.onRun run fun r => { r.failItems is with loads := tput r.loads stack empty }
          | .yes =>
            if s.runs.any fun e => e.1 ≠ run && (pcsOf r.pcmask).any fun c => s.holdsPc e.2 stack c then s
            else
              let s := r.operands.foldl (fun s e => s.comeBehind x.org .sp e.1 e.2) s
              let l := s.loadRun r x.org
              let k := s.hbm stack
              let s := s.setHbm stack { k with stores := (pcsOf r.pcmask).foldl (fun t c => tput t c (r.polder, l.prog)) k.stores }
              s.onRun run fun r => { r with loads := tput r.loads stack l }
      | none => s
    | none => s

/-- Items of a run in progress in a pseudo-channel of a stack. -/
def State.inProgress (s : State) (r : BankRun) (stack pc : Nat) : List Nat :=
  (s.itemsOn r stack).filter fun i => match tfind r.items (itemKey pc i) with | some x => !x.ended | none => false

/-- The bank of an item on its stack. -/
def State.itemBank (s : State) (r : BankRun) (i : Nat) : Nat := ((s.slabAt r i).map fun e => bankOf e.2).getD 0

/-- State of an item at its start (R199). -/
def freshItem (r : BankRun) (scal : List Word) (pc i rowPa : Nat) : BankItem :=
  let b7 := scal.getD i 0
  let regs : Table Word := [(0, BitVec.ofNat 32 i), (1, BitVec.ofNat 32 (r.slabs.getD i 0)), (2, BitVec.ofNat 32 pc), (7, b7)]
  { regs := regs.foldl (fun t e => tset 0 t e.1 e.2) [], acc := [], pc := r.entry, count := 0, rowPa := rowPa
    emits := [], ended := false, fault := 0 }

/-- An item may start: it has not, at most eleven others are in progress, its bank is free and no lower item waits for
a free bank (R201). -/
def State.mayStart (s : State) (r : BankRun) (stack pc i : Nat) : Bool :=
  let busy := (s.inProgress r stack pc).map (s.itemBank r)
  let free (j : Nat) : Bool := !busy.contains (s.itemBank r j)
  (tfind r.items (itemKey pc i)).isNone && decide (busy.length < 12) && free i
    && (s.itemsOn r stack).all fun j => !(decide (j < i) && (tfind r.items (itemKey pc j)).isNone && free j)

/-- BANK_ITEM_START (R199, R201, R207): the item's row is activated. -/
def execBankItemStart (run pc item : Nat) (s : State) : Out :=
  .next <|
    match tfind s.runs run with
    | some r =>
      match s.slabAt r item with
      | some (stack, o) =>
        match r.load stack with
        | some l =>
          if l.bad.isSome || !r.pcmask.getLsbD pc || !s.mayStart r stack pc item then s
          else
            match s.avail (stackDie stack) (stack * 2 ^ 37) with
            | .wait => s
            | .no => s.onRun run fun r => { r with items := tput r.items (itemKey pc item) (deadItem 0x13) }
            | .yes => (s.activate stack (rowKeyAt (o + 1024 * pc))).onRun run fun r =>
                { r with items := tput r.items (itemKey pc item) (freshItem r l.scal pc item (stack * 2 ^ 37 + o + 1024 * pc)) }
        | none => s
      | none => s
    | none => s

/-! ### Results (R205, R206) -/

/-- The sixteen lanes of an all-zero accumulator. -/
def zeroAcc : List Word := List.replicate 16 0

/-- Adds lane by lane with rne. -/
def addLanes (a b : List Word) : List Word :=
  (a.zip b).map fun e => BitVec.ofNat 32 (faddRne e.1.toNat e.2.toNat).1

/-- The last emit of an item to a slot in a mode. -/
def BankItem.lastEmit (x : BankItem) (m : EMode) (q : Nat) : Option (List Word) :=
  ((x.emits.filter fun e => e.1 = q && e.2.1 = m).getLast?).map fun e => e.2.2

/-- Every emit of an item to a slot in a mode, in program order. -/
def BankItem.emitsTo (x : BankItem) (m : EMode) (q : Nat) : List (List Word) :=
  (x.emits.filter fun e => e.1 = q && e.2.1 = m).map fun e => e.2.2

/-- An item of a run that ended without a fault. -/
def BankRun.goodItem (r : BankRun) (pc i : Nat) : Option BankItem :=
  match tfind r.items (itemKey pc i) with
  | some x => if x.ended && x.fault = 0 then some x else none
  | none => none

/-- The result slots that a run writes: scratchpad address and lanes (R205, R206). An item that faulted in a pseudo-channel
contributes nothing from there.
(DEDUCED: log entry 11.)
Where ITEMOUT and SUMOUT ranges overlap a later one of the list stays: the sum results.
(DESIGN CHOICE: log entry 67.) -/
def BankRun.results (r : BankRun) : List (Nat × List Word) :=
  let pcs := pcsOf r.pcmask
  let p := pcs.length
  let slots := List.range r.oslots
  let perItem := r.positions.flatMap fun i => pcs.zipIdx.flatMap fun c =>
    match r.goodItem c.1 i with
    | some x => slots.filterMap fun q => (x.lastEmit .item q).map fun v =>
        (r.itemOut + 64 * ((i * p + c.2) * r.oslots + q), v)
    | none => []
  let comb := r.positions.flatMap fun i =>
    slots.filterMap fun q =>
      let vs := pcs.filterMap fun c => (r.goodItem c i).bind fun x => x.lastEmit .itemc q
      if vs = [] then none else some (r.itemOut + 64 * (i * r.oslots + q), vs.foldl addLanes zeroAcc)
  let sums := pcs.zipIdx.flatMap fun c => slots.filterMap fun q =>
    let vs := r.positions.flatMap fun i => match r.goodItem c.1 i with
      | some x => x.emitsTo .sum q
      | none => []
    if vs = [] then none else some (r.sumOut + 64 * (c.2 * r.oslots + q), vs.foldl addLanes zeroAcc)
  perItem ++ comb ++ sums

/-- The faults of a run in the order of items and pseudo-channels: code, cause, address, AUX (R337).
(DEDUCED: log entry 55.) -/
def State.runFaults (s : State) (r : BankRun) : List (Nat × Nat × Nat × Word) :=
  let load := r.loads.filterMap fun e => e.2.bad.map fun k => (0x14, 0, r.progAddr, BitVec.ofNat 32 k)
  load ++ r.positions.flatMap fun i =>
    let va := slabVa r.vbase (r.slabs.getD i 0)
    match s.slabAcc r i with
    | some a =>
      match a.st with
      | .failed code cause aux => [(code, cause, va, aux)]
      | _ =>
        match s.slabAt r i with
        | none => [(0x14, i % 256, va, 0xFFFFFFFF)]
        | some (st, _) => (pcsOf r.pcmask).filterMap fun c => match tfind r.items (itemKey c i) with
          | some x =>
            if x.fault = 0x14 then some (0x14, i % 256, va, BitVec.ofNat 32 x.pc)
            else if x.fault = 0x13 then some (0x13, 0, va, BitVec.ofNat 32 st)
            else if x.fault = 0 then none
            else some (x.fault, 0, va, 0)
          | none => none
    | none => []

/-- Every item of a run has ended, or will not run. -/
def State.runOver (s : State) (r : BankRun) : Bool :=
  s.slabsKnown r && r.positions.all fun i => match s.slabAt r i with
    | some (st, _) =>
      (r.load st).isSome && (!r.runs st || (pcsOf r.pcmask).all fun c => r.itemEnded c i)
    | none => true

/-- BANK_RUN_COMPLETE (R145, R206, R209): results are written and each code's first fault is recorded. -/
def execBankRunComplete (run : Nat) (s : State) : Out :=
  .next <|
    match tfind s.runs run with
    | some r =>
      match tfind s.cmds r.cmd with
      | some x =>
        if !s.runOver r then s
        else
          let ws := r.results
          let reach := ws.map fun e => s.localAvail x.org .sp e.1 64
          if reach.contains .wait then s
          else
            let s := (s.runFaults r).foldl (fun s f => s.cmdFault r.cmd x f.1 f.2.1 f.2.2.1 f.2.2.2) s
            let s := if reach.contains .no then s.cmdFault r.cmd x 0x13 0 r.itemOut 0 else s
            let ws := ws.filter fun e => s.localAvail x.org .sp e.1 64 = .yes
            let s := ws.foldl (fun s e => s.localWrite r.cmd x.org .sp e.1 (bytesOf e.2)) s
            ({ s with runs := tdel s.runs run }).finish r.cmd
      | none => s
    | none => s

end Sys2Proof.Machine
end

