-- ==== Sys2Proof/Machine/Phys.lean ====
section
/-! DEFINITION. Accepted packets at the array (R194, R195, R236, R325), heat and isolation
(R301, R304, R331, R332), rails and ports (R300, R302), links (R329, R330), and the port-die control space (R291). -/

namespace Sys2Proof.Machine

/-! ### Accepted packets reach the array -/

/-- The packets of a command that the base die cannot apply: the one it has come to, and those still queued to blocks that are lost
(R325, R333). -/
def State.lostWith (s : State) (q : QPacket) : List QPacket :=
  q :: s.queue.filter fun p => p.cmd = q.cmd && decide (p.seq ≠ q.seq) && s.lost (p.pa / 64)

/-- The DATAERR of a packet that the base die could not apply (R325): a command that still runs notes it; a complete
one ORs it into STATUS of its class and records it once, with every lane that met it, the rest from the lowest (R312, R333). -/
def State.lateFault (s : State) (q : QPacket) : State :=
  let ps := s.lostWith q
  let low := (argMin QPacket.lane ps).getD q
  let f : FaultAt :=
    { code := 0x12, lanes := maskOf fun l => ps.any fun p => p.lane = l, addr := BitVec.ofNat 64 low.va }
  let orBit (s : State) : State :=
    match s.cmdGroup q.org with
    | some g => s.setGroup q.org.core q.org.slot (g.orStatus q.org.cls stDataErr)
    | none => s
  match tfind s.cmds q.cmd with
  | some x =>
    if x.phase ≠ .done then s.noteFault q.cmd q.lane 0x12 0 (BitVec.ofNat 64 q.va) 0
    else if x.faults.any fun e => e.2.1 = 0x12 then orBit s
    else ((orBit s).noteFault q.cmd low.lane 0x12 0 f.addr 0).engFault q.org q.cmd f
  | none =>
    if q.told then orBit s
    else
      let s := { s with queue := s.queue.map fun p => if p.cmd = q.cmd then { p with told := true } else p }
      (orBit s).engFault q.org q.cmd f

/-- One accepted packet is applied to the array. -/
def State.applyOne (s : State) (q : QPacket) : State :=
  let r := s.applyPacket q
  if r.2 || q.cmd = 0 then r.1 else r.1.lateFault q

/-- No earlier packet to its block is queued (R195). -/
def State.blockHead (s : State) (q : QPacket) : Bool := (s.queued (q.pa / 64)).head? == some q

/-- QUEUE_APPLY (R195, R236): the head packet of a unit; remote writes wait for their acknowledgement (R232). -/
def execQueueApply (u : QUnit) (s : State) : Out :=
  .next <|
    match s.queue.find? fun q => q.unit = u with
    | some q => if u = .remote || !s.blockHead q then s else s.applyOne q
    | none => s

/-- REMOTE_WRITE_ACK (R232, R234): the remote module holds the write. -/
def execRemoteWriteAck (seq : Nat) (s : State) : Out :=
  .next <|
    match s.queue.find? fun q => q.seq = seq && decide (q.unit = .remote) with
    | some q => if s.blockHead q then (s.applyOne q).pruneReports else s
    | none => s

/-! ### Heat and isolation (R301, R331, R332) -/

/-- A unit of a stack. -/
def unitOnStack (u : QUnit) (st : Nat) : Bool :=
  match u with
  | .bank k _ _ => k = st
  | .red k _ => k = st
  | _ => false

/-- Every packet accepted into a queue of a stack is applied, in order of arrival. -/
def State.drainStack (s : State) (st : Nat) : State :=
  (s.queue.filter fun q => unitOnStack q.unit st).foldl State.applyOne s

/-- A physical address lies in a stack. -/
def onStack (s : State) (pa st : Nat) : Bool :=
  match placeOf s pa with
  | .hbm k _ => k = st
  | _ => false

/-- Every packet sent to some addresses, and not yet taken, fails with UNAVAIL. -/
def State.failSent (s : State) (at' : Nat → Bool) (aux : Word) : State :=
  s.accs.foldl (init := s) fun s e =>
    match e.2.st with
    | .sent pa _ => if at' pa && decide (e.2.op ≠ .slab) then s.failAccess e.1 0x13 0 aux else s
    | _ => s

/-- Walks that wait for data from some addresses end with UNAVAIL (R325, R332). -/
def State.failWalks (s : State) (at' : Nat → Bool) (aux : Word) : State :=
  s.dies.foldl (init := s) fun s d => d.2.walks.foldl (init := s) fun s w =>
    match w.2.read with
    | some r => if at' r.pa then s.walkError d.1 w.1 w.2 0x13 aux else s
    | none => s

/-- Unstarted items on a stack fail (R209, R301, R332); a run of which some slab has still to be translated may start there later with its
other items. -/
def State.failUnstarted (s : State) (st : Nat) : State :=
  { s with runs := s.runs.map fun e =>
      let is := s.itemsOn e.2 st
      if is = [] then e
      else (e.1, { e.2.failItems is with
        loads := if (e.2.load st).isSome || !s.slabsKnown e.2 then e.2.loads
          else tput e.2.loads st { vec := [], scal := [], prog := [], bad := none } }) }

/-- ISOLATES a stack (R301, R332). -/
def State.isolate (s : State) (st : Nat) : State :=
  let aux := BitVec.ofNat 32 st
  let s := s.drainStack st
  let s := s.setHbm st { s.hbm st with isolate := true }
  ((s.failSent (onStack s · st) aux).failWalks (onStack s · st) aux).failUnstarted st

/-- Reference cycles of 10 ms (R109). -/
def tenMs : Nat := 16000000

/-- Items of bank runs are in progress on a stack. -/
def State.itemsRun (s : State) (st : Nat) : Bool :=
  s.runs.any fun e => e.2.items.any fun x => !x.2.ended && decide (x.2.stack = st)

/-- HOT_ASSERT (R331): accepted packets are applied, and started items run on; once they have ended the stack enters self-refresh,
at once where none runs, else as the signal, which stays asserted, is seen again. -/
def execHotAssert (stack : Nat) (s : State) : Out :=
  .next <|
    if stack ≥ 24 then s
    else
      let s := if (s.hbm stack).hot then s
        else (s.drainStack stack).setHbm stack { (s.drainStack stack).hbm stack with hot := true, hotAt := s.clock }
      if s.itemsRun stack then s else s.setHbm stack { s.hbm stack with selfRefresh := true }

/-- HOT has stayed set for 10 ms. -/
def State.overheated (s : State) (st : Nat) : Bool :=
  (s.hbm st).hot && decide ((s.hbm st).hotAt + tenMs ≤ s.clock) && !(s.hbm st).isolate

/-- STACK_ISOLATE (R332). -/
def execStackIsolate (stack : Nat) (s : State) : Out :=
  .next <| if s.overheated stack then s.isolate stack else s

/-- HOT_CLEAR (R331, R332): within 10 ms waiting packets are taken again; an isolated stack stays isolated. -/
def execHotClear (stack : Nat) (s : State) : Out :=
  .next <|
    if !(s.hbm stack).hot then s
    else
      let s := if s.overheated stack then s.isolate stack else s
      s.setHbm stack { s.hbm stack with hot := false, selfRefresh := (s.hbm stack).isolate }

/-- STACK_START (R301). -/
def State.startStack (s : State) (st : Nat) : State :=
  let x := s.hbm st
  if st ≥ 24 || !x.isolate || x.state = 1 then s
  else if x.trainsel = 0 then
    s.setHbm st (if x.trained then { x with state := 2 } else { x with state := 3, failstep := 0xFF })
  else s.setHbm st { x with state := 1 }

/-- STACK_START (R301): ignored unless ISOLATE is 1 and no training runs. -/
def execStackStart (stack : Nat) (s : State) : Out := .next (s.startStack stack)

/-- TRAINING_COMPLETE (R301): READY, or FAILED at a selected step. -/
def execTrainingComplete (stack : Nat) (fail : Option (BitVec 3)) (s : State) : Out :=
  .next <|
    let x := s.hbm stack
    if x.state ≠ 1 then s
    else
      match fail with
      | none => s.setHbm stack { x with state := 2, trained := true }
      | some k =>
        if x.trainsel.getLsbD k.toNat then s.setHbm stack { x with state := 3, failstep := k.setWidth 8 } else s

/-- ISOLATE = 0 is written (R301). -/
def State.unisolate (s : State) (st : Nat) : State :=
  let x := s.hbm st
  if x.state ≠ 2 || x.hot || !x.isolate then s else s.setHbm st { x with isolate := false, selfRefresh := false }

/-- STACK_ISOLATE_CLEAR (R301, R332). -/
def execStackIsolateClear (stack : Nat) (s : State) : Out := .next (s.unisolate stack)

/-- STACK_ISOLATE_SET (R301): a stack already isolated stays so. -/
def execStackIsolateSet (stack : Nat) (s : State) : Out :=
  .next <| if stack ≥ 24 || (s.hbm stack).isolate then s else s.isolate stack

/-- The three counters of STACKERR are cleared. -/
def State.clearErr (s : State) (st : Nat) : State :=
  s.setHbm st { s.hbm st with corr := 0, uncorr := 0, rowpar := 0 }

/-- STACKERR_CLEAR (R326). -/
def execStackerrClear (stack : Nat) (s : State) : Out := .next (if stack < 24 then s.clearErr stack else s)

/-- THERMAL_THROTTLE (R304): steps of 100 MHz between 800 MHz and 1.6 GHz. -/
def execThermalThrottle (die : Nat) (down : Bool) (s : State) : Out :=
  .next <|
    if die ≥ 4 then s
    else
      let x := s.die die
      s.setDie die (x.retime s.clock (if down then max 800 (x.mhz - 100) else min 1600 (x.mhz + 100)))

/-- Every resident block of the compute cores is lost, with the commands and accesses of its groups (R304). -/
def State.loseBlocks (s : State) : State :=
  let front (c : Nat) : Bool := c ≥ 32
  { s with
    cores := s.cores.map fun k => if front k.1 then k else (k.1, { k.2 with
      blocks := [], groups := [], records := [], orphans := [], parkedA := [] })
    cmds := s.cmds.filter fun e => front e.2.org.core
    accs := s.accs.filter fun e => front e.2.core
    runs := []
    linkQ := s.linkQ.filter fun e => front e.core
    past := []
    audits := s.audits.map fun a => (a.1, { a.2 with rerun := none })
    turns := []
    dies := s.dies.map fun d => (d.1, { d.2 with missQ := [], walks := [] }) }

/-- THERMAL_TRIP (R304): RAILSEQ enters FAULT, the rails go down and every resident block is lost. -/
def execThermalTrip (die : Nat) (s : State) : Out :=
  .next <|
    if die ≥ 4 then s
    else
      { s.loseBlocks with
        rails := { s.rails with state := 4, up := 0 }
        boot := { s.boot with code := 6 } }

/-! ### Rails (R300) -/

/-- Reference cycles of 2 ms. -/
def twoMs : Nat := 3200000

/-- ENABLE = 1 is written: ignored in FAULT, and in a cycle in which 0 was written. -/
def Rails.raise (r : Rails) (clock : Nat) : Rails :=
  if r.state = 4 || r.zeroAt = some clock then r
  else if r.state = 1 || r.state = 2 then { r with enable := true }
  else { r with enable := true, state := 1, since := clock }

/-- ENABLE = 0 is written: FAULT becomes OFF; a rise or ON turns into the fall from the last rail up. -/
def Rails.lower (r : Rails) (clock : Nat) : Rails :=
  let x := { r with enable := false, zeroAt := some clock }
  if r.state = 4 then { x with state := 0 }
  else if r.state = 1 || r.state = 2 then { x with state := if r.up = 0 then 0 else 3, since := clock }
  else x

/-- RAILSEQ_ENABLE (R300). -/
def execRailseqEnable (s : State) : Out := .next { s with rails := s.rails.raise s.clock }

/-- RAILSEQ_DISABLE (R300). -/
def execRailseqDisable (s : State) : Out := .next { s with rails := s.rails.lower s.clock }

/-- RAIL_POWER_GOOD (R300): within its 2 ms the step's rail has come up, or has gone down. -/
def execRailPowerGood (s : State) : Out :=
  .next <|
    let r := s.rails
    if s.clock ≥ r.since + twoMs then s
    else if r.state = 1 then
      { s with rails := { r with up := r.up + 1, state := if r.up + 1 ≥ 7 then 2 else 1, since := s.clock } }
    else if r.state = 3 then
      { s with rails := { r with up := r.up - 1, state := if r.up ≤ 1 then 0 else 3, since := s.clock } }
    else s

/-- RAIL_STEP_TIMEOUT (R300): the step fails, and the rails already up are taken down. -/
def execRailStepTimeout (s : State) : Out :=
  .next <|
    let r := s.rails
    if (r.state = 1 || r.state = 3) && decide (r.since + twoMs ≤ s.clock) then
      { s with
        rails := { r with state := 4, failRail := BitVec.ofNat 4 (if r.state = 1 then r.up else r.up - 1), up := 0 }
        boot := { s.boot with code := 6 } }
    else s

/-! ### Ports (R302) -/

/-- A port. -/
def State.port (s : State) (p : Nat) : Port := tget Port.reset s.ports p
/-- Replaces a port. -/
def State.setPort (s : State) (p : Nat) (x : Port) : State := { s with ports := tput s.ports p x }

/-- Reference cycles of 500 ms. -/
def halfSec : Nat := 800000000

/-- ENABLE is written to a port: 0 takes the link down, but a FAILED one stays FAILED until ENABLE is written 1 again (R302). -/
def Port.setEnable (x : Port) (on : Bool) (clock : Nat) : Port :=
  if on = x.enable then x
  else if on then { x with enable := true, fecCor := 0, lanesUp := 0, state := 1, since := clock }
  else { x with enable := false, lanesUp := 0, state := if x.state = 3 then 3 else 0 }

/-- PORT_ENABLE (R302). -/
def execPortEnable (port : Nat) (s : State) : Out :=
  .next <| if port < 16 then s.setPort port ((s.port port).setEnable true s.clock) else s

/-- PORT_DISABLE (R302). -/
def execPortDisable (port : Nat) (s : State) : Out :=
  .next <| if port < 16 then s.setPort port ((s.port port).setEnable false s.clock) else s

/-- The lanes that a width uses. -/
def widthLanes (w : BitVec 2) : BitVec 8 := if w = 0 then 0xFF else if w = 1 then 0x0F else 0x03

/-- PORT_LINK_UP (R302): lanes have locked; with every lane of the width in time the link is UP. -/
def execPortLinkUp (port : Nat) (lanes : BitVec 8) (s : State) : Out :=
  .next <|
    let x := s.port port
    if x.state = 1 && decide (s.clock < x.since + halfSec) then
      s.setPort port { x with lanesUp := lanes, state := if lanes &&& widthLanes x.width = widthLanes x.width then 2 else 1 }
    else s

/-- PORT_TRAIN_TIMEOUT (R302). -/
def execPortTrainTimeout (port : Nat) (s : State) : Out :=
  .next <|
    let x := s.port port
    if x.state = 1 && decide (x.since + halfSec ≤ s.clock) then s.setPort port { x with state := 3 } else s

/-! ### Links (R329, R330) -/

/-- A die link of R10, by its number. -/
def linkExists (l : Nat) : Bool := (List.range 5).any fun d => (List.range 5).any fun e => d < e && linkId d e = l

/-- FLIT_CRC_ERROR (R329): the flit is replayed; after 8 replays the link retrains. -/
def execFlitCrcError (link : Nat) (s : State) : Out :=
  .next <|
    let x := tget Link.reset s.links link
    if !linkExists link || x.failed || x.training then s
    else
      let y := if x.replays + 1 ≥ 8 then { x with replays := 0, training := true } else { x with replays := x.replays + 1 }
      { s with links := tput s.links link y }

/-- The die at which an access of a core meets main memory (R10, R11). -/
def memDie (s : State) (pa : Nat) : Nat :=
  match placeOf s pa with
  | .hbm st _ => stackDie st
  | _ => 4

/-- A scratchpad word held for a failed link completes with UNAVAIL: it is never written (R329). -/
def State.loseSent (s : State) (x : Sent) : State :=
  State.pruneReports (State.loseOn { s with linkQ := s.linkQ.filter (·.id ≠ x.id) } x.entry.org x.word.lane x.word.addr)

/-- Packets, reads of walks, and scratchpad words held for a failed link complete with UNAVAIL (R329). -/
def State.failLink (s : State) (l : Nat) : State :=
  let crosses (core pa : Nat) : Bool := memDie s pa ≠ dieOf core && linkId (dieOf core) (memDie s pa) = l
  let s := s.accs.foldl (init := s) fun s e =>
    match e.2.st with
    | .sent pa _ =>
      if crosses e.2.core pa && decide (e.2.op ≠ .slab) then s.failAccess e.1 0x13 0 (unavailAux s pa) else s
    | _ => s
  let far (die pa : Nat) : Bool := memDie s pa ≠ die && linkId die (memDie s pa) = l
  let s := s.dies.foldl (init := s) fun s d => d.2.walks.foldl (init := s) fun s w =>
    match w.2.read with
    | some r => if far d.1 r.pa then s.walkError d.1 w.1 w.2 0x13 (unavailAux s r.pa) else s
    | none => s
  (s.linkQ.filter fun x => linkId (dieOf x.core) x.die = l).foldl State.loseSent s

/-- DIE_LINK_RETRAIN_END (R329): the link resumes its traffic, or has failed until module reset. -/
def execDieLinkRetrainEnd (link : Nat) (ok : Bool) (s : State) : Out :=
  .next <|
    let x := tget Link.reset s.links link
    if !x.training then s
    else if ok then { s with links := tput s.links link { x with training := false } }
    else State.failLink { s with links := tput s.links link { x with training := false, failed := true } } link

/-- CXL_LINK_DOWN (R330): accesses to the port complete with UNAVAIL, AUX the port. -/
def execCxlLinkDown (port : Nat) (s : State) : Out :=
  .next <|
    if port ≥ 8 then s
    else
      let s := { s with tiers := tput s.tiers port { tget Tier.reset s.tiers port with up := false } }
      let there (pa : Nat) : Bool := match placeOf s pa with | .tier k _ => k = port | _ => false
      (s.failSent there (BitVec.ofNat 32 port)).failWalks there (BitVec.ofNat 32 port)

/-! ### The port-die control space (R291, R299 to R302, R326) -/

/-- A bit as a word. -/
def bitW (b : Bool) : Nat := if b then 1 else 0

/-- Stack and register offset of a control-space offset. -/
def ctlStack (off : Nat) : Option (Nat × Nat) :=
  if 0x100 ≤ off ∧ off < 0x100 + 16 * 24 then some ((off - 0x100) / 16, off % 16) else none

/-- Port and register offset of a control-space offset. -/
def ctlPort (off : Nat) : Option (Nat × Nat) :=
  if 0x300 ≤ off ∧ off < 0x300 + 8 * 16 then some ((off - 0x300) / 8, off % 8) else none

/-- PORTCTL as it reads. -/
def Port.ctl (x : Port) : Nat := bitW x.autoneg * 16 + bitW x.loop * 8 + x.width.toNat * 2 + bitW x.enable

/-- A register of the control space as it reads; none where no register lies. -/
def ctlRead (s : State) (off : Nat) : Option Word :=
  (BitVec.ofNat 32 ·) <$>
    if off = 0 then some (s.boot.code.toNat * 256 + s.boot.phase.toNat)
    else if off = 0x10 then
      some (s.rails.state.toNat * 4096 + s.rails.failRail.toNat * 256 + bitW s.rails.enable)
    else if off = 0x20 then some s.pool
    else
      match ctlStack off, ctlPort off with
      | some (k, o), _ =>
        let x := s.hbm k
        if o = 0 then some (bitW x.isolate * 2)
        else if o = 4 then some (x.failstep.toNat * 256 + bitW x.hot * 16 + x.state.toNat)
        else if o = 8 then some x.trainsel.toNat
        else if o = 12 then some (x.corr * 65536 + x.uncorr * 256 + x.rowpar)
        else none
      | none, some (p, o) =>
        let x := s.port p
        if o = 0 then some x.ctl
        else if o = 4 then some (x.fecCor.toNat * 65536 + x.lanesUp.toNat * 16 + x.state.toNat)
        else none
      | none, none => none

/-- TRAINSEL is written: ignored during training (R301). -/
def State.setTrainsel (s : State) (st : Nat) (v : Word) : State :=
  if st ≥ 24 || (s.hbm st).state = 1 then s else s.setHbm st { s.hbm st with trainsel := v.setWidth 8 }

/-- PORTCTL is written: a change of WIDTH or LOOP of an enabled port makes the write ignored; WIDTH 3 is reserved and
changes nothing (R5, R302).
(DEDUCED: log entry 52.) -/
def Port.write (x : Port) (v : Word) (clock : Nat) : Port :=
  let w := v.extractLsb' 1 2
  let l := v.getLsbD 3
  if x.enable && (w ≠ x.width || l ≠ x.loop) then x
  else
    Port.setEnable { x with autoneg := v.getLsbD 4, loop := l, width := if w = 3 then x.width else w } (v.getLsbD 0) clock

/-- A register of the control space is written; read-only and reserved fields ignore it (R5).
(DEDUCED: log entry 51.) -/
def ctlWrite (s : State) (off : Nat) (v : Word) : State :=
  if off = 0x10 then { s with rails := if v.getLsbD 0 then s.rails.raise s.clock else s.rails.lower s.clock }
  else
    match ctlStack off, ctlPort off with
    | some (k, o), _ =>
      if o = 0 then
        let s := if v.getLsbD 1 then (if (s.hbm k).isolate then s else s.isolate k) else s.unisolate k
        if v.getLsbD 0 then s.startStack k else s
      else if o = 8 then s.setTrainsel k v
      else if o = 12 then s.clearErr k
      else s
    | none, some (p, o) => if o = 0 then s.setPort p ((s.port p).write v s.clock) else s
    | none, none => s

/-! ### Control pages (R16 to R20, R130, R159, R239, R254, R258, R279, R280, R306, R307) -/

/-- The features that the device offers (R17). -/
def featOf (n : Nat) : Word := if n = 0 then 0x7FF else 0

/-- A word of the frame allowance (R280). -/
def rangeWord (r : AllowRange) (o : Nat) : Nat :=
  match o with
  | 0 => r.base / 65536 % 65536 * 65536 + r.perm.toNat
  | 4 => r.base / 2 ^ 32 % 2 ^ 20
  | 8 => r.limit / 65536 % 65536 * 65536
  | _ => r.limit / 2 ^ 32 % 2 ^ 20

/-- A word of a polder's control page as it reads; every word that no register names reads 0 (R5). -/
def pageRead (s : State) (p off : Nat) : Word :=
  let x := s.polder p
  let n (k : Nat) : Word := BitVec.ofNat 32 k
  if off < 0x10 then featOf (off / 4)
  else if off < 0x20 then tget 0 x.featack (off / 4 - 4)
  else if 0x400 ≤ off ∧ off < 0x600 then
    let c := (off - 0x400) / 16
    match off % 16 with
    | 0 => tget 0 x.prdRows c
    | 4 => tget 0 x.chkRows c
    | 8 => tget 0 x.rplRows c
    | _ => 0
  else if 0x600 ≤ off ∧ off < 0x800 then
    match tfind x.ranges ((off - 0x600) / 16) with
    | some r => n (rangeWord r (off % 16))
    | none => 0
  else if 0x840 ≤ off then
    let k := (off - 0x840) / 64
    n (bfield (tget [] x.flog k) ((off - 0x840) % 64) 4)
  else
    match off with
    | 0x20 => n (bitW x.locked)
    | 0x100 => n x.weirRate
    | 0x104 => n x.weirDepth
    | 0x108 => n x.weirDebtLim
    | 0x10C => n x.weirLevel
    | 0x110 => n x.weirDebt
    | 0x120 => n x.spBase
    | 0x124 => n x.spSize
    | 0x130 => n x.ageLim.toNat
    | 0x134 => n x.auditF.toNat
    | 0x138 => n x.preempt.toNat
    | 0x140 => x.audSel
    | 0x144 => x.audCan
    | 0x148 => x.audOk
    | 0x150 => n x.walkLim.toNat
    | 0x154 => n x.walkWt.toNat
    | 0x158 => x.walks
    | 0x15C => x.walkFlt
    | 0x160 => x.fltPol0
    | 0x164 => x.fltPol1
    | 0x168 => x.poisonBlk
    | 0x170 => n x.audRingSz
    | 0x174 => n x.audRegSz
    | 0x178 => n x.audRingUse
    | 0x180 => n x.spillSz
    | 0x184 => n x.spillUse
    | 0x800 => x.fltCount
    | _ => 0

/-- FEATACKn is written (R18, R19): masked by FEATn, bit 0 of FEATACK0 stays 1; ignored once LOCKED is 1. -/
def State.ackWrite (s : State) (p n : Nat) (v : Word) : State :=
  let x := s.polder p
  if x.locked || n ≥ 4 then s
  else
    let old := match x.ackAt with
      | some (c, t) => if c = s.clock then t else x.featack
      | none => x.featack
    let w := (v &&& featOf n) ||| (if n = 0 then 1 else 0)
    s.setPolder p { x with featack := tset 0 x.featack n w, ackAt := some (s.clock, old) }

/-- FEATSTAT.LOCKED becomes 1: a write of the same cycle is ignored (R19). -/
def State.lockFeatures (s : State) (p : Nat) : State :=
  let x := s.polder p
  if x.locked then s
  else
    let f := match x.ackAt with
      | some (c, t) => if c = s.clock then t else x.featack
      | none => x.featack
    s.setPolder p { x with locked := true, featack := f, ackAt := none }

/-- NOTIFYq is written (R239); a polder that closes ignores it (R290). -/
def State.notifyWrite (s : State) (p q : Nat) : State :=
  if (s.polder p).closing.isSome then s else s.notify p q

/-- A word of a control page is written by the polder: FEATACK and NOTIFY take it, every other register ignores it
(R5, R288). -/
def pageWrite (s : State) (p off : Nat) (v : Word) : State :=
  if 0x10 ≤ off ∧ off < 0x20 then s.ackWrite p (off / 4 - 4) v
  else if 0x200 ≤ off ∧ off < 0x300 then s.notifyWrite p ((off - 0x200) / 4)
  else s

/-- NOTIFY_WRITE (R239). -/
def execNotifyWrite (polder q : Nat) (s : State) : Out := .next (s.notifyWrite polder q)

/-- FEATACK_WRITE (R18, R19). -/
def execFeatackWrite (polder n : Nat) (v : Word) (s : State) : Out := .next (s.ackWrite polder n v)

/-- Bits of a word as a number below `2 ^ w`. -/
def wordLow (v : Word) (w : Nat) : Nat := v.toNat % 2 ^ w

/-- A register that only keeps what it is given (R5, R157, R159, R254, R279, R301, R302, R306, R335).
(DESIGN CHOICE: log entry 17.) -/
def State.plainWrite (s : State) (r : PlainReg) (v : Word) : State :=
  let onP (p : Nat) (f : Polder → Polder) : State := if p < 64 then s.setPolder p (f (s.polder p)) else s
  let onPort (p : Nat) (f : Port → Port) : State := if p < 16 then s.setPort p (f (s.port p)) else s
  match r with
  | .portAutoneg p => onPort p fun x => { x with autoneg := v.getLsbD 0 }
  | .portLoop p => onPort p fun x => if x.enable then x else { x with loop := v.getLsbD 0 }
  | .portWidth p => onPort p fun x =>
      if x.enable || v.extractLsb' 0 2 = 3 then x else { x with width := v.extractLsb' 0 2 }
  | .trainsel st => s.setTrainsel st v
  | .weirRate p => onP p fun x => { x with weirRate := v.toNat }
  | .weirDepth p => onP p fun x => { x with weirDepth := max 256 v.toNat }
  | .weirDebtLim p => onP p fun x =>
      { x with weirDebtLim := v.toNat, borrow := x.borrow && decide (x.weirDebt ≤ v.toNat) }
  | .ageLim p => onP p fun x => { x with ageLim := if v.setWidth 8 = 0 then x.ageLim else v.setWidth 8 }
  | .auditF p => onP p fun x => { x with auditF := if wordLow v 11 > 1024 then x.auditF else v.setWidth 11 }
  | .preempt p => onP p fun x => { x with preempt := v.setWidth 4 }
  | .walkLim p => onP p fun x =>
      { x with walkLim := if wordLow v 15 < 64 || wordLow v 15 > 16384 then x.walkLim else v.setWidth 15 }
  | .walkWt p => onP p fun x => { x with walkWt := if v.setWidth 8 = 0 then x.walkWt else v.setWidth 8 }
  | .fltPol0 p => onP p fun x => { x with fltPol0 := v }
  | .fltPol1 p => onP p fun x => { x with fltPol1 := v }
  | .ctlPage p off => pageWrite s p off v

/-- REGISTER_WRITE (R5): a write of the service or of the board controller; the polder's own writes of read-only
registers are ignored. -/
def execRegisterWrite (r : PlainReg) (v : Word) (s : State) : Out := .next (s.plainWrite r v)

end Sys2Proof.Machine
end

