-- ==== Sys2Proof/Machine/Pred.lean ====
section
/-! DEFINITION. The predictor engine (R123 to R130, R334). -/

namespace Sys2Proof.Machine

/-! ### The record (R123) -/

/-- Model width. -/
def pD (r : List Byte) : Nat := bfield r 4 4
/-- Neuron count. -/
def pN (r : List Byte) : Nat := bfield r 8 4
/-- Rank. -/
def pR (r : List Byte) : Nat := bfield r 12 2
/-- x is BF16. -/
def pHalf (r : List Byte) : Bool := bfield r 14 1 = 1
/-- An FP32 field. -/
def pF (r : List Byte) (off : Nat) : FVal := fp32.dec (bfield r off 4)
/-- Bytes of a shadow row: the 3-byte groups of d codes. -/
def pRow (r : List Byte) : Nat := 3 * ((pD r + 7) / 8)
/-- Bytes of x. -/
def pXlen (r : List Byte) : Nat := pD r * (if pHalf r then 2 else 4)
/-- Bytes of the output area (R125). -/
def pArea (r : List Byte) : Nat := 32 + 8 * pN r

/-- Byte offset of the first field out of range (R123, R334).
(DEDUCED: log entry 10.) -/
def predBad (r : List Byte) : Option Nat :=
  let st := bfield r 64 4
  let bad : List (Nat × Bool) :=
    [(4, !(1 ≤ pD r && pD r ≤ 16384)), (8, !(1 ≤ pN r && pN r ≤ 65536)), (12, !(1 ≤ pR r && pR r ≤ 256)),
      (14, decide (bfield r 14 1 > 1)), (15, decide (bfield r 15 1 ≠ 0)),
      (64, decide (st % 16 ≠ 0 ∨ st < pRow r)), (68, decide (bfield r 68 56 ≠ 0))]
  (bad.find? (·.2)).map (·.1)

/-! ### Scores and lists (R127, R128) -/

/-- An exact sum rounded once with rne. -/
def sumRne (vs : List FVal) : Nat := (vs.foldl Acc.add Acc.empty).round.1

/-- The elements of x. -/
def pX (r xs : List Byte) : List FVal :=
  (List.range (pD r)).map fun k => if pHalf r then bf16.dec (bfield xs (2 * k) 2) else fp32.dec (bfield xs (4 * k) 4)

/-- t[j]. -/
def pT (r : List Byte) (x : List FVal) (ps : List Byte) : List FVal :=
  (List.range (pR r)).map fun j =>
    fp32.dec (sumRne (x.zipIdx.map fun e => (mulV e.1 (bf16.dec (bfield ps (2 * (e.2 * pR r + j)) 2))).1))

/-- s[i], as codes. -/
def pS (r : List Byte) (t : List FVal) (qs : List Byte) : List Nat :=
  (List.range (pN r)).map fun i =>
    sumRne (t.zipIdx.map fun e => (mulV e.1 (bf16.dec (bfield qs (2 * (e.2 * pN r + i)) 2))).1)

/-- An FP32 code without its sign. -/
def fabs (c : Nat) : Nat := c % 2 ^ 31

/-- The kinds of a row after `pred` (R127). -/
inductive RowKind where
  | active | check | skipped
deriving DecidableEq, Repr

/-- The kind of a score. -/
def rowKind (hi lo : FVal) (s : FVal) : RowKind :=
  if s.isNan || (fcompare .ge s hi).1 then .active
  else if (fcompare .ge s lo).1 then .check
  else .skipped

/-- The words that `pred` writes: the eight words at the area's start, the active list and the check list (R125, R127). -/
def predArea (r : List Byte) (ss : List Nat) : List Nat × List Nat × List Nat :=
  let k (c : Nat) : RowKind := rowKind (pF r 16) (pF r 20) (fp32.dec c)
  let rows (w : RowKind) : List Nat := (ss.zipIdx.filter fun e => k e.1 = w).map (·.2)
  let low := sumRne ((ss.filter fun c => k c = .skipped).map fun c => fp32.dec (fabs c))
  let nan := ss.any fun c => (fp32.dec c).isNan
  let act := rows .active
  let chk := rows .check
  ([act.length, chk.length, 0, low, 1 + (if nan then 8 else 0), low, 0, 0], act, chk)

/-- m[i] of a row from its shadow row and its scale (R128). -/
def pM (x : List FVal) (row : List Byte) (scale : Nat) : Nat :=
  fabs (sumRne (x.zipIdx.map fun e =>
    (mulV e.1 (narrow 3 (bfield row (3 * (e.2 / 8)) 3 / 8 ^ (e.2 % 8) % 8) (gs8 scale))).1))

/-- A row of the check list with its m. -/
abbrev MRow := Nat × Nat

/-- LOWMASS plus the magnitudes of rows, rounded once. -/
def massOf (low : Nat) (rem : List MRow) : Nat := sumRne (fp32.dec low :: rem.map fun e => fp32.dec e.2)

/-- The row with the largest m, the lowest index on a tie. -/
def topRow (rem : List MRow) : Option MRow :=
  argMin (fun e : MRow => (2 ^ 32 - e.2) * 65536 + e.1) rem

/-- The loop of R128: rows move to `rep` until the mass fits or none is left; `fuel` bounds their number. -/
def pchkLoop (low : Nat) (emax : FVal) : Nat → List MRow → List MRow → List MRow × Nat
  | 0, rep, rem => (rep, massOf low rem)
  | fuel + 1, rep, rem =>
    if (fcompare .le (fp32.dec (massOf low rem)) emax).1 then (rep, massOf low rem)
    else
      match topRow rem with
      | some e => pchkLoop low emax fuel (rep ++ [e]) (rem.erase e)
      | none => (rep, massOf low rem)

/-- The order in which replayed rows are appended (R128). -/
def repOrder (rep : List MRow) : List Nat :=
  let nan (e : MRow) : Bool := (fp32.dec e.2).isNan
  (sortBy (fun e : MRow => e.1) (rep.filter nan) ++
    sortBy (fun e : MRow => (2 ^ 32 - e.2) * 65536 + e.1) (rep.filter fun e => !nan e)).map (·.1)

/-- What `pchk` finds for a list of rows: the rows to append, and SKIPMASS (R128).
(DEDUCED: log entry 37.) -/
def pchkRows (low : Nat) (eps emax : FVal) (ms : List MRow) : List Nat × Nat :=
  let bad (e : MRow) : Bool := (fp32.dec e.2).isNan || (fcompare .gt (fp32.dec e.2) eps).1
  let r := pchkLoop low emax (ms.length + 1) (ms.filter bad) (ms.filter fun e => !bad e)
  (repOrder r.1, r.2)

/-! ### Issue -/

/-- The addresses of a predictor command. -/
def predCheck (s : State) (c : Nat) (g : Group) (r x o : Src) (l : Nat) : Check :=
  let rva := (g.pair l r.reg.toNat).toNat
  let xa := (g.reg l x.reg.toNat).toNat
  let oa := (g.reg l o.reg.toNat).toNat
  let size := s.shSizeOf c g
  opndCheck .prd l s.ir [(rva, rva % 128 ≠ 0), (xa, xa % 16 ≠ 0 || xa ≥ size), (oa, oa % 16 ≠ 0 || oa ≥ size)]

/-- A command of the predictor engine. -/
def CmdOp.isPred : CmdOp → Bool
  | .pred _ _ _ => true
  | .pchk _ _ _ => true
  | _ => false

/-- Its record, x and area addresses. -/
def CmdOp.predAddrs : CmdOp → Nat × Nat × Nat
  | .pred r x o => (r, x, o)
  | .pchk r x o => (r, x, o)
  | _ => (0, 0, 0)

/-- The core's predictor engine begins its oldest command: the record is read, uncharged (R124, R129). -/
def State.startPred (s : State) (c : Nat) : State :=
  match s.cmds.find? fun e => e.2.op.isPred && e.2.org.core = c && e.2.phase ≠ .done with
  | some e =>
    if e.2.phase = .waiting then
      (s.onCmd e.1 fun x => { x with phase := .record }).sendReads e.1 e.2.lane
        [{ va := e.2.op.predAddrs.1, len := 128, off := 0 }]
    else s
  | none => s

/-- What `pred` and `pchk` require. -/
def predPre (r x o : Src) (gd : Guard) (c _sl : Nat) (g : Group) (s : State) : Check :=
  engCheck s c g <|
    match g.opLane gd with
    | some l => predCheck s c g r x o l
    | none => .ok

/-- Issue of `pred` and `pchk` (R126). -/
def predIssue (i : Instr) (r x o : Src) (gd : Guard) (mk : Nat → Nat → Nat → CmdOp) (s : State) : Out :=
  issueWith (issueOf i) (predPre r x o gd)
    (fun c sl g s =>
      match g.opLane gd with
      | none => s
      | some l =>
        let op := mk (g.pair l r.reg.toNat).toNat (g.reg l x.reg.toNat).toNat (g.reg l o.reg.toNat).toNat
        ((s.launchCmd c sl g .prd op (BitVec.twoPow 32 l) .waiting [] (fun _ => false)).2.startPred c).progress c g.bslot) s

/-- `pred` (R126, R127). -/
def execPred (r x o : Src) (gd : Guard) (s : State) : Out := predIssue (.pred r x o gd) r x o gd .pred s

/-- `pchk` (R126, R128). -/
def execPchk (r x o : Src) (gd : Guard) (s : State) : Out := predIssue (.pchk r x o gd) r x o gd .pchk s

/-! ### The record arrives, the plan, completion -/

/-- Checks a predictor record; one that passes its seal enters the core's cache (R124). -/
def State.checkPred (s : State) (c p : Nat) (r : List Byte) : Bool × State :=
  let k := s.core c
  if k.preds.contains (p, r) then (true, s)
  else if sealGood (s.polder p).sealKey r then (true, s.setCore c { k with preds := k.preds ++ [(p, r)] })
  else (false, s)

/-- A predictor command's record has been read (R123, R124, R166, R334). -/
def State.predRecord (s : State) (id : Nat) (x : Cmd) (r : List Byte) : State :=
  let (va, xa, oa) := x.op.predAddrs
  let (good, s) := s.checkPred x.org.core x.org.polder r
  let s := (s.dropAccs id).onCmd id fun x => { x with phase := .data, recB := r }
  let size := match s.block x.org.core x.org.bslot with | some b => b.shSize | none => 0
  if !good then s.cmdFault id x 0x11 0 va (BitVec.ofNat 32 (bfield r 0 4))
  else
    match predBad r with
    | some o => s.cmdFault id x 0x15 0 va (BitVec.ofNat 32 o)
    | none =>
      if xa + pXlen r > size then s.cmdFault id x 0x16 2 xa x.org.ir
      else if oa + pArea r > size then s.cmdFault id x 0x16 2 oa x.org.ir
      else
        match x.op with
        | .pred _ _ _ =>
          let np := 2 * (pD r * pR r)
          let plan := cut (bfield r 32 8) np 0 ++ cut (bfield r 40 8) (2 * (pR r * pN r)) np
          s.onCmd id fun x => { x with plan := plan }
        | _ => s.onCmd id fun x => { x with phase := .plan }

/-- The check list of an area. -/
def checkList (n : Nat) (area : List Byte) : List Nat :=
  (List.range (bfield area 4 4)).map fun k => bfield area (32 + 4 * n + 4 * k) 4

/-- Offset of the first bad word of an area (R334). -/
def areaBad (n : Nat) (area : List Byte) : Option Nat :=
  if bfield area 0 4 > n then some 0
  else if bfield area 4 4 > n then some 4
  else ((checkList n area).zipIdx.find? fun e => e.1 ≥ n).map fun e => 32 + 4 * n + 4 * e.2

/-- `pchk` reads its area once the group's earlier stores are performed, and plans the shadow rows and scales
(R128, R129).
(DEDUCED: log entry 37.) -/
def State.pchkPlan (s : State) (id : Nat) : State :=
  match tfind s.cmds id with
  | some x =>
    if x.phase ≠ .plan || !s.storesDone x.org x.stores then s
    else
      let r := x.recB
      let (_, _, oa) := x.op.predAddrs
      let area := s.localRead x.org .sh oa (pArea r)
      let s := s.onCmd id fun x => { x with phase := .data, recB2 := area }
      match areaBad (pN r) area with
      | some o => s.cmdFault id x 0x15 0 oa (0x80000000 + BitVec.ofNat 32 o)
      | none =>
        let w := pRow r + 1
        let plan := (checkList (pN r) area).zipIdx.flatMap fun e =>
          cut (bfield r 48 8 + e.1 * bfield r 64 4) (pRow r) (e.2 * w)
            ++ cut (bfield r 56 8 + e.1) 1 (e.2 * w + pRow r)
        s.onCmd id fun x => { x with plan := plan }
  | none => s

/-- Numbers as words of local memory. -/
def natBytes (xs : List Nat) : List Byte := xs.flatMap (toLe 4)

/-- The effect record of a predictor command: its record and the addresses of its operands (R260). -/
def State.predEffect (s : State) (o : Origin) (id : Nat) (op : CmdOp) (r : List Byte) : State :=
  s.audFill o id 4 op.predAddrs.1 (r ++ toLe 8 op.predAddrs.2.1 ++ toLe 8 op.predAddrs.2.2)

/-- Writes to an area, logged with the record as an input of an audited block (R129). -/
def State.areaWrite (s : State) (id : Nat) (x : Cmd) (ws : List (Nat × List Byte)) : State :=
  let s := (s.predEffect x.org id x.op x.recB).audRecord x.org id x.recB
  ws.foldl (fun s e => s.localWrite id x.org .sh (x.op.predAddrs.2.2 + e.1) e.2) s

/-- Adds to a counter of R130. -/
def bumpRow (t : Table Word) (c n : Nat) : Table Word := tset 0 t c (tget 0 t c + BitVec.ofNat 32 n)

/-- The area of a finished `pred` is written. -/
def State.writePred (s : State) (id : Nat) (x : Cmd) : State :=
  let r := x.recB
  let np := 2 * (pD r * pR r)
  let bytes := (s.accsOf x).flatMap (·.data)
  let xs := pX r (s.localRead x.org .sh x.op.predAddrs.2.1 (pXlen r))
  let a := predArea r (pS r (pT r xs (bytes.take np)) (bytes.drop np))
  let s := s.areaWrite id x [(0, natBytes a.1), (32, natBytes a.2.1), (32 + 4 * pN r, natBytes a.2.2)]
  let p := s.polder x.org.polder
  s.setPolder x.org.polder { p with prdRows := bumpRow p.prdRows x.org.core a.2.1.length }

/-- The area of a finished `pchk` is written, or it takes PREDFLT where the rows do not fit, and no row counts as checked
(R128, R130, R334).
(DEDUCED: log entry 37.) -/
def State.writePchk (s : State) (id : Nat) (x : Cmd) : State :=
  let r := x.recB
  let area := x.recB2
  let n := pN r
  let w := pRow r + 1
  let bytes := (s.accsOf x).flatMap (·.data)
  let xs := pX r (s.localRead x.org .sh x.op.predAddrs.2.1 (pXlen r))
  let ms := (checkList n area).zipIdx.map fun e =>
    (e.1, pM xs ((bytes.drop (e.2 * w)).take (pRow r)) (bfield bytes (e.2 * w + pRow r) 1))
  let nact := bfield area 0 4
  let (rep, mass) := pchkRows (bfield area 20 4) (pF r 24) (pF r 28) ms
  if nact + rep.length > n then s.cmdFault id x 0x15 0 x.op.predAddrs.2.2 0x80000000
  else
    let met := (fcompare .le (fp32.dec mass) (pF r 28)).1
    let status := ((bfield area 16 4 ||| 2) &&& (0xFFFFFFFF - 4)) ||| (if met then 4 else 0)
    let s := s.areaWrite id x
      [(0, natBytes [nact + rep.length]), (8, natBytes [rep.length, mass, status]), (32 + 4 * nact, natBytes rep)]
    let p := s.polder x.org.polder
    s.setPolder x.org.polder { p with chkRows := bumpRow p.chkRows x.org.core (bfield area 4 4)
                                      rplRows := bumpRow p.rplRows x.org.core rep.length }

/-- PRED_COMPLETE (R125, R145): a command that met a fault writes nothing (R325, R333, R334). -/
def execPredComplete (cmd : Nat) (s : State) : Out :=
  .next <|
    let s := s.pchkPlan cmd
    match tfind s.cmds cmd with
    | some x =>
      if !x.op.isPred || (x.phase ≠ .data && x.phase ≠ .record) || !s.accsOver x || !s.storesDone x.org x.stores then s
      else if x.faults ≠ [] then (s.finish cmd).startPred x.org.core
      else if x.plan ≠ [] || x.phase = .record then s
      else
        let s := match x.op with
          | .pred _ _ _ => s.writePred cmd x
          | _ => s.writePchk cmd x
        (s.finish cmd).startPred x.org.core
    | none => s

end Sys2Proof.Machine
end

