-- ==== Sys2Proof/Machine/Packets.lean ====
section
/-! DEFINITION. Packets at their coherence points (R194, R195, R232, R291), the COPY packet's records and lines (R245),
and the charging of streamer chunks to the weir (R157). -/

namespace Sys2Proof.Machine

/-! ### A packet arrives (R194, R195, R329 to R332) -/

/-- The physical address of an access that has been sent and whose turn has come at its port. -/
def State.turnPa (s : State) (a : Access) : Option Nat :=
  match a.st with
  | .sent pa _ => if a.cmd ≠ 0 && s.inTurn a then some pa else none
  | _ => none

/-- A packet of some kind arrives: it is served, waits, or fails with UNAVAIL. An access that waits for room in the
fault buffer is looked up first. -/
def packet (id : Nat) (kind : AccOp → Bool) (serve : Access → Nat → State → State) (s : State) : Out :=
  .next <|
    let s := s.retry id
    match tfind s.accs id with
    | some a =>
      match kind a.op, s.turnPa a with
      | true, some pa =>
        match s.avail (dieOf a.core) pa with
        | .wait => s
        | .no => s.failAccess id 0x13 0 (unavailAux s pa)
        | .yes => serve a pa s
      | _, _ => s
    | none => s

/-- Registers lie at an address, not memory (R286). -/
def isRegs (s : State) (pa : Nat) : Bool :=
  match placeOf s pa with
  | .ctl _ => true
  | .page _ _ => true
  | _ => false

/-- An access is served. -/
def State.serve (s : State) (id : Nat) (data : List Byte) (bad : List Nat) : State :=
  s.onAcc id fun a => { a with st := .served, data := data, bad := bad }

/-- Who issued the command of an access. -/
def State.accOrigin (s : State) (a : Access) : Origin :=
  match tfind s.cmds a.cmd with
  | some x => x.org
  | none => .none

/-! ### The COPY packet (R245, R342) -/

/-- A record of a COPY packet has been read: the second is read, or the packet's plan is made. In phase `plan` the
packet is bad, and its queue stops; a good one is admitted, and FEATSTAT locks (R19, R243). -/
def State.packetRecord (s : State) (id : Nat) (x : Cmd) (r : List Byte) : State :=
  match x.op with
  | .packet _ _ dst first n =>
    if x.phase = .record then
      ((s.dropAccs id).onCmd id fun x => { x with phase := .record2, recB := r }).sendReads id 0
        [{ va := dst, len := 64, off := 0 }]
    else
      let (a, s) := s.checkLayout x.org.core x.org.polder x.recB
      let (b, s) := s.checkLayout x.org.core x.org.polder r
      let good : Bool := a = .good && b = .good && lineLen x.recB = lineLen r && decide (first + n ≤ lineCount x.recB)
        && decide (first + n ≤ lineCount r)
      let s := if good then s.lockFeatures x.org.polder else s
      (s.dropAccs id).onCmd id fun x =>
        if good then { x with phase := .data, recB2 := r, plan := linePieces x.recB first n } else { x with phase := .plan }
  | _ => s

/-- Bytes of a source line have arrived: the good ones are sent to the destination line. -/
def State.packetLine (s : State) (id : Nat) (x : Cmd) (a : Access) : State :=
  match x.op with
  | .packet _ _ _ first _ =>
    let n := lineLen x.recB2
    (runsOf a.good).foldl (init := s) fun s e =>
      (cut (lineAddr x.recB2 (first + e.1 / n) + e.1 % n) e.2.length 0).foldl (init := s) fun s p =>
        (s.postAcc id 0 (.write ((e.2.drop p.off).take p.len)) p).2
  | _ => s

/-- A byte of a TAIL that takes no write any more: its polder closes (R290). -/
def State.shutByte (s : State) (a : Nat) : Bool :=
  s.polders.any fun e => e.2.closing.isSome
    && e.2.queues.any fun q => decide (q.2.descPa + 16 ≤ a) && decide (a < q.2.descPa + 20)

/-- A write or reduction is accepted but for what it would change of a TAIL that takes no write (R195, R290). -/
def State.acceptOpen (s : State) (org : Origin) (cmd lane va pa : Nat) (op : AccOp) : State :=
  match op with
  | .write data =>
    if (List.range data.length).any fun i => s.shutByte (pa + i) then
      (runsOf ((data.zipIdx.filter fun e => !s.shutByte (pa + e.2)).map fun e => (e.2, e.1))).foldl (init := s) fun s e =>
        s.accept org cmd lane (va + e.1) (pa + e.1) (.write e.2)
    else s.accept org cmd lane va pa op
  | _ => if s.shutByte pa then s else s.accept org cmd lane va pa op

/-- What a command does with the bytes of a read that has been served. -/
def State.readServed (s : State) (id : Nat) (bytes : List Byte) (good : Bool) : State :=
  match tfind s.accs id with
  | some a =>
    match tfind s.cmds a.cmd with
    | some x =>
      match x.op, x.phase with
      | .cpy _ _ _ _ _ _, .record => if good then s.copyRecord a.cmd x bytes else s
      | .pred _ _ _, .record => if good then s.predRecord a.cmd x bytes else s
      | .pchk _ _ _, .record => if good then s.predRecord a.cmd x bytes else s
      | .packet _ _ _ _ _, .record => if good then s.packetRecord a.cmd x bytes else s
      | .packet _ _ _ _ _, .record2 => if good then s.packetRecord a.cmd x bytes else s
      | .packet _ _ _ _ _, .data => s.packetLine a.cmd x a
      | _, _ => s
    | none => s
  | none => s

/-! ### The four packets (R194) -/

/-- READ_PACKET (R194, R323 to R325). -/
def execReadPacket (acc : Nat) (s : State) : Out :=
  packet acc (fun o => o = .read)
    (fun a pa s =>
      if isRegs s pa then s.failAccess acc 0x13 0 0
      else
        let (bytes, bad, s) := s.readPa pa a.len
        let s := s.serve acc bytes bad
        let s := match bad with
          | k :: _ => s.noteFault a.cmd a.lane 0x12 0 (BitVec.ofNat 64 (a.va + k)) 0
          | [] => s
        s.readServed acc bytes (bad = [])) s

/-- The data of a write. -/
def AccOp.writes : AccOp → Bool
  | .write _ => true
  | _ => false

/-- WRITE_PACKET (R194, R195, R232): the write is accepted. -/
def execWritePacket (acc : Nat) (s : State) : Out :=
  packet acc AccOp.writes
    (fun a pa s =>
      if isRegs s pa then s.failAccess acc 0x13 0 0
      else if s.backPressed pa a.len false then s
      else (s.acceptOpen (s.accOrigin a) a.cmd a.lane a.va pa a.op).serve acc [] []) s

/-- The XFAULT of a `matom` on a register that it may not use (R291). -/
def State.regFault (s : State) (id : Nat) (a : Access) : State :=
  s.failAccess id 0x16 0 (s.accOrigin a).ir

/-- A `matom` on a register (R291): OP or reads, exch writes, at 32 bits. -/
def State.regAtomic (s : State) (id : Nat) (a : Access) (op : AOp) (w64 : Bool) (b : DWord) (rd : Option Word)
    (wr : Word → State) : State :=
  match rd with
  | none => s.regFault id a
  | some old =>
    if w64 then s.regFault id a
    else
      let done (t : State) : State := t.serve id (toLe 4 old.toNat) []
      match op with
      | .or => done (if b = 0 then s else wr (old ||| b.setWidth 32))
      | .exch => done (wr (b.setWidth 32))
      | _ => s.regFault id a

/-- A `matom` at its base die: applied whole; an uncorrectable block is left as it is (R163, R325). -/
def State.memAtomic (s : State) (id : Nat) (a : Access) (pa : Nat) (op : AOp) (w64 : Bool) (b c : DWord) : State :=
  let n := if w64 then 8 else 4
  let (bytes, bad, s) := s.readPa pa n
  if bad ≠ [] then (s.serve id [] bad).noteFault a.cmd a.lane 0x12 0 (BitVec.ofNat 64 a.va) 0
  else
    let new := atomVal op (8 * n) (ofLe bytes) b.toNat c.toNat
    (s.acceptOpen (s.accOrigin a) a.cmd a.lane a.va pa (.write (toLe n new))).serve id bytes []

/-- An atomic. -/
def AccOp.atomics : AccOp → Bool
  | .atomic _ _ _ _ => true
  | _ => false

/-- ATOMIC_PACKET (R163, R194, R195, R291). -/
def execAtomicPacket (acc : Nat) (s : State) : Out :=
  packet acc AccOp.atomics
    (fun a pa s =>
      match a.op with
      | .atomic op w64 b c =>
        match placeOf s pa with
        | .ctl off => s.regAtomic acc a op w64 b (ctlRead s off) (ctlWrite s off)
        | .page p off => s.regAtomic acc a op w64 b (some (pageRead s p off)) (pageWrite s p off)
        | _ => if s.backPressed pa 1 false then s else s.memAtomic acc a pa op w64 b c
      | _ => s) s

/-- A reduction. -/
def AccOp.reduces : AccOp → Bool
  | .reduce _ _ _ => true
  | _ => false

/-- REDUCE_PACKET (R164, R194): the reduction is accepted. -/
def execReducePacket (acc : Nat) (s : State) : Out :=
  packet acc AccOp.reduces
    (fun a pa s =>
      if isRegs s pa then s.failAccess acc 0x13 0 0
      else if s.backPressed pa 1 true then s
      else (s.acceptOpen (s.accOrigin a) a.cmd a.lane a.va pa a.op).serve acc [] []) s

/-! ### Chunks (R157) -/

/-- A command has a chunk to send. -/
def State.hasChunk (s : State) (id : Nat) (x : Cmd) : Bool :=
  x.phase = .data && x.plan ≠ [] && match x.op with
    | .cpy st _ _ _ _ _ => s.started id x && (!st || s.storesDone x.org x.stores)
    | _ => true

/-- An older command of the polder has a chunk to send (R157). -/
def State.olderChunk (s : State) (p id : Nat) : Bool :=
  s.cmds.any fun e => decide (e.1 < id) && e.2.org.polder = p && s.hasChunk e.1 e.2

/-- The read of a predictor command that a piece belongs to: a chunk holds bytes of one read only (R129, R157). -/
def Cmd.readOf (x : Cmd) (p : Piece) : Nat :=
  match x.op with
  | .pred _ _ _ => if p.off < 2 * (pD x.recB * pR x.recB) then 0 else 1
  | .pchk _ _ _ =>
    let w := pRow x.recB + 1
    2 * (p.off / w) + if p.off % w < pRow x.recB then 0 else 1
  | _ => 0

/-- The next chunk of a command, and what is left of its plan. -/
def Cmd.chunk (x : Cmd) : List Piece × List Piece :=
  match x.plan with
  | [] => ([], [])
  | p :: _ =>
    let same := x.plan.takeWhile fun q => x.readOf q = x.readOf p
    let c := takeChunk 256 same
    (c.1, c.2 ++ x.plan.drop same.length)

/-- WEIR_CHUNK (R157): the polder's oldest chunk takes its bytes, borrows, or waits. -/
def execWeirChunk (cmd : Nat) (s : State) : Out :=
  .next <|
    let s := s.pchkPlan cmd
    match tfind s.cmds cmd with
    | some x =>
      if s.refillDue || !s.hasChunk cmd x || s.olderChunk x.org.polder cmd then s
      else
        let c := x.chunk
        if c.1.any (s.pieceHeld x) then s
        else
        match s.weirTake x.org.polder (piecesLen c.1) with
        | none => s
        | some t => c.1.foldl (fun s p => s.copyPiece cmd x p) (t.onCmd cmd fun x => { x with plan := c.2 })
    | none => s

end Sys2Proof.Machine
end

