-- ==== Sys2Proof/Machine/Queue.lean ====
section
/-! DEFINITION. User queues: the reeve's accesses to them, tickets and doorbells, the seven kinds of packet, stopped
queues, and the retiring of blocks (R47, R238 to R249, R284, R313, R318, R342, R347). -/

namespace Sys2Proof.Machine

/-! ### A reeve's polder-0 accesses (R342) -/

/-- The access with which a reeve asks for a page, for a hardware slot. -/
def State.qAccess (s : State) (c sl va : Nat) : Option (Nat × Access) :=
  s.accs.find? fun e => e.2.cmd = 0 && e.2.off = sl + 1 && e.2.core = c && e.2.va = va

/-- Uses a polder-0 range: it asks for a translation that is missing, waits for memory that is held, and takes the fate
of a failed access; these accesses never park under REPLAY (R342). -/
def State.qRange (s : State) (c sl va len : Nat) (write : Bool) (bad : FaultAt → State → State) (ok : State → State) :
    State :=
  let f (code cause : Nat) (aux : Word) : FaultAt :=
    { code := code, cause := cause, lanes := 1, addr := BitVec.ofNat 64 va, aux := aux }
  match s.missing c va len write with
  | none =>
    let ps := s.piecesPa c va len
    match ps.find? fun e => s.avail (dieOf c) e.1 = .no with
    | some e => bad (f 0x13 0 (unavailAux s e.1)) s
    | none =>
      if ps.any fun e => (if write then s.takes (dieOf c) e.1 e.2 else s.avail (dieOf c) e.1) = .wait then s
      else if !write && ps.any fun e => (blocksOf e.1 e.2).any fun b => (s.view b).2 then bad (f 0x12 0 0) s
      else ok (if write then s else s.touch c va len)
  | some v =>
    match s.qAccess c sl v with
    | some (i, a) =>
      match a.st with
      | .failed code cause aux => bad (f code cause aux) { s with accs := tdel s.accs i }
      | .sent _ _ => { s with accs := tdel s.accs i }
      | _ => s.retry i
    | none =>
      (s.newAcc { polder := 0, core := c, cmd := 0, lane := 63, src := 5, op := if write then .write [] else .read
                  va := v, len := 4, off := sl + 1, st := .ready, data := [], bad := [], aux := 0 }).2

/-- Logs the failure of a reeve's access in polder 0's fault log (R342). -/
def State.logReeve (s : State) (c : Nat) (f : FaultAt) : State :=
  s.logBytes 0 (entryBytes (f.record 0 noPc).words 0 0 c 63 0 s.clock)

/-- Where a mapped queue's descriptor lies. -/
def State.descPaOf (s : State) (c : Nat) (h : HwSlot) : Option Nat :=
  match tfind (s.polder h.polder).queues h.queue with
  | some q => some q.descPa
  | none => (s.xlat c 0 h.descVa).map fun t => t.frame + (h.descVa - t.base)

/-- Writes a word of a descriptor. -/
def State.setDesc (s : State) (c : Nat) (h : HwSlot) (off : Nat) (v : Word) : State :=
  match s.descPaOf c h with
  | some pa => s.writePa (pa + off) (toLe 4 v.toNat)
  | none => s

/-- A word of a descriptor now. -/
def State.descWord (s : State) (c : Nat) (h : HwSlot) (off : Nat) : Word :=
  match s.descPaOf c h with
  | some pa => BitVec.ofNat 32 (s.numPa (pa + off) 4)
  | none => 0

/-- Rewrites a hardware slot. -/
def State.onSlot (s : State) (sl : Nat) (f : HwSlot → HwSlot) : State :=
  match tfind s.slots sl with
  | some h => { s with slots := tput s.slots sl (f h) }
  | none => s

/-- A queue STOPS (R342): QSTAT.FAILED is set, HEAD stays, the slot is IDLE, and the service is told. -/
def State.stopQueue (s : State) (c sl : Nat) (h : HwSlot) : State :=
  let s := s.setDesc c h 24 (s.descWord c h 24 ||| 2)
  let s := s.onSlot sl fun h => { h with launch := none, images := [], deadline := none, copyCmd := none }
  let s := s.setSstate sl qIdle
  { s with notices := s.notices ++ [.queueStopped h.polder h.queue] }

/-- Rewrites what the service keeps of a queue. -/
def State.onQueue (s : State) (p q : Nat) (f : Queue → Queue) : State :=
  match tfind (s.polder p).queues q with
  | some x => s.setPolder p { s.polder p with queues := tput (s.polder p).queues q (f x) }
  | none => s

/-- A failed access to the descriptor itself (R342): no ticket selects the slot any more, nor another that the queue is mapped on
before a QUEUE request restarts it. -/
def State.killSlot (s : State) (c sl : Nat) (h : HwSlot) (f : FaultAt) : State :=
  let s := (((s.logReeve c f).setSstate sl qIdle)).onQueue h.polder h.queue fun q => { q with dead := true }
  let s := s.onSlot sl fun h => { h with launch := none, images := [], deadline := none, copyCmd := none, dead := true }
  { s with notices := s.notices ++ [.queueStopped h.polder h.queue] }

/-- Reads a queue's descriptor, which is then written too. -/
def State.withDesc (s : State) (c sl : Nat) (h : HwSlot) (bad : State → State) (k : List Byte → State → State) : State :=
  let no (f : FaultAt) (s : State) : State := bad (s.killSlot c sl h f)
  s.qRange c sl h.descVa 64 true no fun s => s.qRange c sl h.descVa 64 false no fun s => k (s.peek c h.descVa 64) s

/-- HEAD, TAIL and RINGLEN of a descriptor. -/
def dHead (d : List Byte) : Nat := bfield d 12 4
/-- TAIL. -/
def dTail (d : List Byte) : Nat := bfield d 16 4
/-- RINGLEN. -/
def dLen (d : List Byte) : Nat := bfield d 8 4
/-- Posted packets from an index on (R238). -/
def dPosted (d : List Byte) (at' : Nat) : Nat := (dTail d + 2 ^ 32 - at' % 2 ^ 32) % 2 ^ 32
/-- QSTAT.FAILED. -/
def dFailed (d : List Byte) : Bool := (bfield d 24 4).testBit 1
/-- MAXPRIO. -/
def dMaxPrio (d : List Byte) : Nat := bfield d 28 1 % 4

/-- Reads the packet of an index. -/
def State.withPacket (s : State) (c sl : Nat) (desc : List Byte) (i : Nat) (bad : State → State)
    (k : List Byte → State → State) : State :=
  let va := bfield desc 0 8 + 64 * (i % max 1 (dLen desc))
  s.qRange c sl va 64 false (fun f s => bad (s.logReeve c f)) fun s => k (s.peek c va 64) s

/-- The effective class of a packet (R241). -/
def packetClass (desc r : List Byte) : Nat :=
  if bfield r 0 1 = 1 then min (bfield r 1 1 / 16 % 4) (dMaxPrio desc) else dMaxPrio desc

/-- The slot is READY with a head packet of a class. -/
def State.makeReady (s : State) (sl cls : Nat) : State :=
  (s.setBoard (slotWord sl 1) (BitVec.ofNat 32 cls)).setSstate sl qReady

/-- A ticket has been taken and served (R249). -/
def State.tick (s : State) : State := (s.setBoard 0 (s.board 0 + 1)).setBoard 4 (s.board 4 + 1)

/-! ### The end of a packet (R243, R244, R246) -/

/-- The index that HEAD takes after the packet at `i`. -/
def HwSlot.after (h : HwSlot) (i : Nat) : Nat × Option (Nat × Nat) :=
  let n := (i + 1) % 2 ^ 32
  match h.skip with
  | some (j, k) => if n = j then ((n + k) % 2 ^ 32, none) else (n, h.skip)
  | none => (n, none)

/-- A head packet completes with its effect `fin`: HEAD goes to `next`, and the slot is READY for a further packet, IDLE,
or stopped (R238, R246). -/
def State.headTo (s : State) (c sl : Nat) (h : HwSlot) (desc : List Byte) (next : Nat) (skip : Option (Nat × Nat))
    (fin : State → State) : State :=
  let close (s : State) : State :=
    ((fin s).onSlot sl fun h => { h with launch := none, deadline := none, copyCmd := none, skip := skip }).setDesc c h 12
      (BitVec.ofNat 32 next)
  if dPosted desc next = 0 then ((close s).setSstate sl qIdle).tick
  else if dPosted desc next > dLen desc then ((close s).stopQueue c sl h).tick
  else
    s.withPacket c sl desc next (fun s => ((close s).stopQueue c sl h).tick) fun r s =>
      ((close s).makeReady sl (packetClass desc r)).tick

/-- The head packet completes. -/
def State.complete (s : State) (c sl : Nat) (h : HwSlot) (desc : List Byte) (fin : State → State) : State :=
  let n := h.after (dHead desc)
  s.headTo c sl h desc n.1 n.2 fin

/-! ### Compares (R242) -/

/-- CMP of a word with a value; `w` is the width in bits. -/
def cmpHolds (cmp w x v : Nat) : Bool :=
  let v := v % 2 ^ w
  match cmp with
  | 0 => x = v
  | 1 => x ≠ v
  | 2 => x < v
  | 3 => x ≥ v
  | 4 => x &&& v ≠ 0
  | _ => x &&& v = 0

/-- WORD of a packet is aligned and inside the window (R242). -/
def wordOk (s : State) (p : Nat) (r : List Byte) (w64 : Bool) : Bool :=
  let n := if w64 then 8 else 4
  bfield r 8 4 % n = 0 && decide (bfield r 8 4 + n ≤ (s.polder p).spSize)

/-- The compare of a packet on its scratchpad word. -/
def wordHolds (s : State) (p : Nat) (r : List Byte) (w64 : Bool) : Bool :=
  let n := if w64 then 8 else 4
  cmpHolds (bfield r 1 1) (8 * n) (ofLe (mreads s.sp (s.spBase p + bfield r 8 4) n)) (bfield r 16 8)

/-- The compare of a WAIT: on its word, or on the last report of the watch whose handle WORD is (R233, R242). -/
def waitHolds (s : State) (h : HwSlot) (r : List Byte) : Bool :=
  let fl := bfield r 4 1
  if fl.testBit 1 then
    match (tfind (s.polder h.polder).queues h.queue).bind fun q => tfind q.reports (bfield r 8 4) with
    | some v => cmpHolds (bfield r 1 1) (if fl.testBit 0 then 64 else 32)
        (if fl.testBit 0 then v.toNat else v.toNat % 2 ^ 32) (bfield r 16 8)
    | none => false
  else wordHolds s h.polder r (fl.testBit 0)

/-- A word of a packet lies at a home die that the reeve's core reaches (R329). -/
def wordAvail (s : State) (c p : Nat) (r : List Byte) : Avail := s.linkAvail (dieOf c) (homeDie (s.spBase p + bfield r 8 4))

/-- A reeve uses the word of a packet: it waits for a link that retrains; over a failed link the access completes with UNAVAIL, and
the queue stops as for another failed access (R329, R342).
(DEDUCED: log entry 40.) -/
def State.withWord (s : State) (c p : Nat) (r : List Byte) (bad ok : State → State) : State :=
  match wordAvail s c p r with
  | .wait => s
  | .no => bad (s.logReeve c { code := 0x13, lanes := 1, addr := BitVec.ofNat 64 (bfield r 8 4) })
  | .yes => ok s

/-- A WAIT that completes by its compare is an acquire at scope `sys`: no core serves the packets after it from a line that is older
(R233, R243). -/
def State.acquireAll (s : State) (p : Nat) : State :=
  { s with cores := s.cores.map fun k => (k.1, { k.2 with rcache := k.2.rcache.filter fun e => e.2.polder ≠ p }) }

/-- Drops the watch of a queue whose WAIT is over, with its carried deadline. -/
def State.endWait (s : State) (h : HwSlot) : State :=
  let s := s.onQueue h.polder h.queue fun q => { q with waitDue := none }
  { s with lwatches := s.lwatches.filter fun w => !(w.polder = h.polder && w.queue = h.queue) }

/-- A WAIT is tested (R243, R245 to R247): it completes by its compare or its timeout, or its queue waits. -/
def State.testWait (s : State) (c sl : Nat) (h : HwSlot) (desc r : List Byte) (pre : State → State) : State :=
  if waitHolds s h r then
    s.complete c sl h desc fun s =>
      (((pre s).endWait h).acquireAll h.polder).setDesc c h 24 (s.descWord c h 24 &&& 0xFFFFFFFE)
  else
    match h.deadline with
    | some t =>
      if t ≤ s.clock then
        s.complete c sl h desc fun s => ((pre s).endWait h).setDesc c h 24 (s.descWord c h 24 ||| 1)
      else ((pre s).setSstate sl qWaiting).tick
    | none => ((pre s).setSstate sl qWaiting).tick

/-! ### Doorbells (R247) -/

/-- A doorbell bit. -/
def State.bell (s : State) (sl : Nat) : Bool := (s.board (0xC0 + 4 * (sl / 32))).getLsbD (sl % 32)

/-- The holder clears a doorbell bit. -/
def State.clearBell (s : State) (sl : Nat) : State :=
  let a := 0xC0 + 4 * (sl / 32)
  s.setBoard a (s.board a &&& ~~~(BitVec.twoPow 32 (sl % 32)))

/-- NOTE is exchanged with 0 (R239, R246). -/
def State.takeNote (s : State) (c : Nat) (h : HwSlot) : State :=
  (s.setDesc c h 20 0).onQueue h.polder h.queue fun q => { q with noted := none }

/-- The test of an IDLE slot (R246, R247). -/
def State.idleTest (s : State) (c sl : Nat) (h : HwSlot) (desc : List Byte) : State :=
  let n := dPosted desc (dHead desc)
  let clr (s : State) : State := (s.takeNote c h).clearBell sl
  if n = 0 then clr s
  else if n > dLen desc then (clr s).stopQueue c sl h
  else s.withPacket c sl desc (dHead desc) (fun s => (clr s).stopQueue c sl h) fun r s =>
    (clr s).makeReady sl (packetClass desc r)

/-- Serves one doorbell bit; a bit whose reads are still under way stays set. -/
def State.serveBell (s : State) (c sl : Nat) : State :=
  match tfind s.slots sl with
  | none => s.clearBell sl
  | some h =>
    if h.dead then s.clearBell sl
    else
      s.withDesc c sl h (·.clearBell sl) fun desc s =>
        if dFailed desc then s.clearBell sl
        else if s.sstate sl = qIdle then s.idleTest c sl h desc
        else if s.sstate sl = qWaiting then
          let stop (s : State) : State := ((s.takeNote c h).clearBell sl).stopQueue c sl h
          s.withPacket c sl desc (dHead desc) stop fun r s =>
            let test (s : State) : State := s.testWait c sl h desc r fun s => (s.takeNote c h).clearBell sl
            if (bfield r 4 1).testBit 1 then test s else s.withWord c h.polder r stop test
        else s.clearBell sl

/-- Slots whose doorbells are set. -/
def State.bells (s : State) : List Nat := (List.range 256).filter s.bell

/-- The holder serves the doorbells before it chooses a slot (R247, R249). -/
def State.serveBells (s : State) (c : Nat) : State := s.bells.foldl (fun s sl => s.serveBell c sl) s

/-! ### Choosing a slot (R249) -/

/-- An image set holds a block of a launch that is aborted: it is not restored (R36, R313). -/
def State.setDoomed (s : State) (p : Nat) (vas : List Nat) : Bool :=
  (s.polder p).saved.any fun y => vas.contains y.va && (s.polder p).doomed.contains y.block.launch.id

/-- An ACTIVE slot has an image set to resume, or blocks left to place of a launch that is not aborted: its unit is a placement
(R249, R252, R313). -/
def State.places (s : State) (sl : Nat) (h : HwSlot) : Bool :=
  !h.dead && s.sstate sl = qActive && match h.images, h.launch with
    | vas :: _, _ => !s.setDoomed h.polder vas
    | [], some l => (s.board (slotWord sl 3)).toNat < gridOf l && !(s.polder l.polder).doomed.contains l.id
    | [], none => false

/-- A slot offers a unit; a packet that has not begun when the grace time of its polder's CLOSE expires is discarded (R290). -/
def State.offers (s : State) (sl : Nat) (h : HwSlot) : Bool :=
  (!h.dead && s.sstate sl = qReady && !(s.polder h.polder).graceOver) || s.places sl h

/-- The order of R249: highest SCLASS, then lowest SAGE. -/
def State.rank (s : State) (e : Nat × HwSlot) : Nat :=
  (2 ^ 32 - (s.board (slotWord e.1 1)).toNat) * 2 ^ 32 + (s.board (slotWord e.1 2)).toNat

/-- The slot that a ticket selects: highest SCLASS, then lowest SAGE, then lowest number. -/
def State.chosen (s : State) : Option Nat := (argMin s.rank (s.slots.filter fun e => s.offers e.1 e.2)).map (·.1)

/-- The first slot, in the order of R249, that offers a placement. -/
def State.firstPlacer (s : State) : Option Nat := (argMin s.rank (s.slots.filter fun e => s.places e.1 e.2)).map (·.1)

/-- HEADQ and HGAGE0 to HGAGE3 return to what they are without a blocked head (R251). -/
def State.clearHead (s : State) : State :=
  [0x8, 0xC, 0x10, 0x14].foldl (fun s a => s.setBoard a 0) (s.setBoard 0x18 0xFFFFFFFF)

/-- The ticket holder finds, before it chooses its unit, that the slot which HEADQ names is no longer the first that offers a
placement (R251, R284). -/
def State.tidyHead (s : State) : State :=
  if s.board 0x18 ≠ 0xFFFFFFFF && s.firstPlacer ≠ some (s.board 0x18).toNat then s.clearHead else s

/-- A step of a packet of some kind, made by the reeve of a core with a ticket: the doorbells first; then the head packet
of a READY slot that the ticket selects begins, or an ACTIVE one goes on. A reserved KIND stops the queue (R240). TAIL is read
afresh: a READY slot whose TAIL has moved back to HEAD has no posted packet and becomes IDLE, and one with more posted packets than
RINGLEN stops (R238, R342).
(DEDUCED: log entry 40.)
(DESIGN CHOICE: log entry 53.) -/
def queueStep (c sl kind : Nat) (begins goesOn : HwSlot → List Byte → List Byte → State → State) (s : State) : Out :=
  .next <|
    if c ≥ 32 || (s.core c).quar || s.boardReach c ≠ .yes || s.board 0 ≠ s.board 4 then s
    else
      let s := s.serveBells c
      if s.bells ≠ [] then s
      else
        let s := s.tidyHead
        match tfind s.slots sl with
        | none => s
        | some h =>
          let st := s.sstate sl
          if h.dead || !(st = qActive || (st = qReady && s.chosen = some sl)) then s
          else
            s.withDesc c sl h State.tick fun desc s =>
              if st = qReady && dPosted desc (dHead desc) = 0 then (s.setSstate sl qIdle).tick
              else if st = qReady && decide (dPosted desc (dHead desc) > dLen desc) then (s.stopQueue c sl h).tick
              else s.withPacket c sl desc (dHead desc) (fun s => (s.stopQueue c sl h).tick) fun r s =>
                let k := bfield r 0 1
                if st = qActive then (if k = kind then goesOn h desc r s else s)
                else if k > 6 then (s.stopQueue c sl h).tick
                else if k = kind then begins h desc r s
                else s

/-- A packet goes no further while its slot is ACTIVE. -/
def idleOn (_ : HwSlot) (_ _ : List Byte) (s : State) : State := s

/-- Bytes of a packet that its layout does not name are zero (R240). -/
def restZero (r : List Byte) (named : List (Nat × Nat)) : Bool :=
  (List.range 64).all fun i => named.any (fun e => decide (e.1 ≤ i) && decide (i ≤ e.2)) || byteAt r i = 0

/-! ### LAUNCH (R241, R243, R342) -/

/-- Cores of a polder in a region (R9). -/
def regionCores (x : Polder) (d : Nat) : Nat := ((List.range 8).filter fun i => x.cores.getLsbD (8 * d + i)).length

/-- A LAUNCH packet that stops its queue (R22, R241, R342). -/
def launchBad (x : Polder) (l : Launch) (r : List Byte) : Bool :=
  let fl := bfield r 1 1
  let thr := l.x * l.y * l.z
  !restZero r [(0, 42), (44, 63)] || fl &&& 0xC8 ≠ 0 || !(1 ≤ l.gangSz && decide (l.gangSz ≤ 8)) || l.bw > 32
    || l.x = 0 || l.y = 0 || l.z = 0 || thr > (if l.bound || l.noprom then 2016 else 1984)
    || l.nblkX = 0 || l.nblkX ≥ 2 ^ 31 || l.nblkY = 0 || l.nblkZ = 0 || gridOf l % l.gangSz ≠ 0
    || (0 < l.fairInt && decide (l.fairInt < 256)) || l.codeBase % 256 ≠ 0 || bfield r 40 2 > 4096 || l.regs = 0
    || l.stackSz % 16 ≠ 0 || l.shared > sharedMem || x.cores = 0 || (Core.reset.room x.shSize l).isNone
    || (List.range 4).all fun d => regionCores x d < l.gangSz

/-- The placement summary of a slot (R284). -/
def State.summary (s : State) (sl : Nat) (l : Launch) : State :=
  s.spBytes ((s.polder 0).spBase + 0x2000 + 16 * sl)
    (toLe 1 l.gangSz ++ toLe 1 l.polder ++ toLe 1 (s.polder l.polder).ageLim.toNat ++ [0] ++ toLe 4 l.shared
      ++ toLe 4 (gridOf l) ++ toLe 1 (nslotOf l * regBlocks l) ++ toLe 1 (nslotOf l) ++ [0, 0]) []

/-- A LAUNCH is admitted (R19, R134, R241, R243, R246). -/
def State.admitLaunch (s : State) (sl : Nat) (h : HwSlot) (l : Launch) : State :=
  let s := s.lockFeatures h.polder
  let s := s.setPolder h.polder { s.polder h.polder with launches := l.id }
  let s := s.onSlot sl fun h => { h with launch := some l, retired := 0 }
  (((s.setBoard (slotWord sl 3) 0).summary sl l).setSstate sl qActive).tick

/-- Every effect of a launch is performed at scope `sys` (R228, R243). -/
def State.effectsDone (s : State) (p id : Nat) : Bool :=
  (s.queue.all fun q => !(q.org.polder = p && q.org.launch = id))
    && s.linkQ.all fun x => !(x.entry.polder = p && x.entry.org.launch = id)

/-- LAUNCH (R241, R243): the packet is admitted; it completes when every block of its grid has retired. -/
def execLaunch (slot core : Nat) (s : State) : Out :=
  queueStep core slot 1
    (fun h desc r s =>
      let x := s.polder h.polder
      let mk (arg : List Byte) : Launch := launchOfPacket h.polder h.queue (x.launches + 1) (dMaxPrio desc) r arg
      let stop (s : State) : State := (s.stopQueue core slot h).tick
      if launchBad x (mk []) r then stop s
      else
        let va := bfield r 32 8
        let n := bfield r 40 2
        s.qRange core slot va n false (fun f s => stop (s.logReeve core f)) fun s =>
          s.admitLaunch slot h (mk (s.peek core va n)))
    (fun h desc _ s =>
      match h.launch with
      | some l =>
        if h.retired ≥ gridOf l && h.images = [] && s.effectsDone l.polder l.id then s.complete core slot h desc id else s
      | none => s) s

/-! ### RESUME (R242, R243, R344) -/

/-- No block of a queue is resident, and none of its images is pending. -/
def State.noneResident (s : State) (p q : Nat) : Bool :=
  s.cores.all fun k => k.2.blocks.all fun b => !(b.2.launch.polder = p && b.2.launch.queue = q && b.2.tenant)

/-- Every image of a list may be restored for a polder (R342, R344); their launches are gathered. -/
def State.withImages (s : State) (c sl p : Nat) (bad : State → State) (ok : List Nat → State → State) (ids : List Nat) :
    List Nat → State
  | [] => ok ids s
  | va :: r =>
    let no (f : FaultAt) (s : State) : State := bad (s.logReeve c f)
    s.qRange c sl va 128 false no fun s =>
      let n := bfield (s.peek c va 128) 36 4
      if n < 192 || n > imageMax then bad s
      else
        s.qRange c sl va n false no fun s =>
          if s.badImage p (s.peek c va n) then bad s
          else State.withImages s c sl p bad ok (ids ++ [bfield (s.peek c va n) 40 8]) r

/-- RESUME (R242, R243, R252): its images are the slot's next unit; it completes when the restored blocks have
retired. -/
def execResume (slot core : Nat) (s : State) : Out :=
  queueStep core slot 2
    (fun h _ r s =>
      let n := bfield r 16 1
      let stop (s : State) : State := (s.stopQueue core slot h).tick
      if !restZero r [(0, 0), (8, 16)] || n = 0 || n > 8 then stop s
      else
        let va := bfield r 8 8
        s.qRange core slot va (8 * n) false (fun f s => stop (s.logReeve core f)) fun s =>
          let bs := s.peek core va (8 * n)
          let vas := (List.range n).map fun i => bfield bs (8 * i) 8
          s.withImages core slot h.polder stop
            (fun ids s =>
              let s := (s.lockFeatures h.polder).onSlot slot fun h => { h with images := [vas], ids := ids }
              (s.setSstate slot qActive).tick) [] vas)
    (fun h desc _ s =>
      if h.images = [] && s.noneResident h.polder h.queue && h.ids.all (s.effectsDone h.polder) then
        s.complete core slot h desc id
      else s) s

/-! ### PREDICATE (R242, R244) -/

/-- A packet that may not stand in an arm (R244).
(DEDUCED: log entry 40.) -/
def armBad (r : List Byte) : Bool := bfield r 0 1 = 3 || (bfield r 0 1 = 1 && (bfield r 1 1).testBit 1)

/-- Reads the packets of the arms. -/
def State.withArms (s : State) (c sl : Nat) (desc : List Byte) (bad : State → State) (ok : State → State) :
    Nat → Nat → State
  | 0, _ => ok s
  | n + 1, i =>
    s.withPacket c sl desc i bad fun r s =>
      if armBad r then bad s else State.withArms s c sl desc bad ok n (i + 1)

/-- PREDICATE (R242 to R244). -/
def execPredicate (slot core : Nat) (s : State) : Out :=
  queueStep core slot 3
    (fun h desc r s =>
      let stop (s : State) : State := (s.stopQueue core slot h).tick
      let w64 := (bfield r 4 1).testBit 0
      let t := bfield r 2 1
      let e := bfield r 3 1
      let head := dHead desc
      if !restZero r [(0, 4), (8, 11), (16, 23)] || bfield r 1 1 > 5 || t > 63 || e > 63 || bfield r 4 1 > 1
          || !wordOk s h.polder r w64 || t + e + 1 > dPosted desc head then stop s
      else
        s.withArms core slot desc stop
          (fun s => s.withWord core h.polder r stop fun s =>
            let one := (head + 1) % 2 ^ 32
            if wordHolds s h.polder r w64 then
              if t = 0 then
                let n := h.after head
                match h.skip with
                | none => s.headTo core slot h desc ((one + e) % 2 ^ 32) none id
                | some _ => s.headTo core slot h desc n.1 n.2 id
              else s.headTo core slot h desc one (if e = 0 then h.skip else some ((one + t) % 2 ^ 32, e)) id
            else s.headTo core slot h desc ((one + t) % 2 ^ 32) h.skip id) (t + e) (head + 1)) idleOn s

/-! ### WAIT (R242, R243, R245) -/

/-- A WAIT packet that stops its queue (R342).
(DEDUCED: log entry 40.) -/
def waitBad (s : State) (p : Nat) (r : List Byte) : Bool :=
  let fl := bfield r 4 1
  !restZero r [(0, 1), (4, 4), (8, 11), (16, 27)] || bfield r 1 1 > 5 || fl > 3
    || (!fl.testBit 1 && !wordOk s p r (fl.testBit 0))

/-- The home die watches the word of a WAIT (R245). -/
def State.watchWord (s : State) (h : HwSlot) (r : List Byte) : State :=
  if (bfield r 4 1).testBit 1 then s
  else
    let w : LWatch := { polder := h.polder, queue := h.queue, addr := s.spBase h.polder + bfield r 8 4 / 4 * 4 }
    let v : LWatch := { w with addr := w.addr + 4 }
    { s with lwatches := s.lwatches ++ if (bfield r 4 1).testBit 0 then [w, v] else [w] }

/-- WAIT (R242, R243, R245): a compare that fails leaves its queue WAITING, with its word watched; a WAIT that an
unmapped queue carried keeps its deadline (R347). -/
def execWaitPacket (slot core : Nat) (s : State) : Out :=
  queueStep core slot 4
    (fun h desc r s =>
      if waitBad s h.polder r then (s.stopQueue core slot h).tick
      else
        let t := bfield r 24 4
        let h := { h with deadline := match h.deadline with
          | some x => some x
          | none => if t = 0 then none else some (s.clock + 1024 * t) }
        let test (s : State) : State :=
          s.testWait core slot h desc r fun s =>
            ((s.endWait h).watchWord h r).onSlot slot fun x => { x with deadline := h.deadline }
        if (bfield r 4 1).testBit 1 then test s
        else s.withWord core h.polder r (fun s => (s.stopQueue core slot h).tick) test) idleOn s

/-- Cores whose reeves take tickets: those that are not quarantined (R249). -/
def State.ticketCores (s : State) : List Nat := (List.range 32).filter fun c => !(s.core c).quar

/-- WAIT_PACKET_TIMEOUT (R243, R247): a front core finds the timeout expired and rings the doorbell; the reeve of a core of a free
choice that takes tickets serves it, so that the WAIT is tested once more and ends with QSTAT.WAITTO. -/
def execWaitPacketTimeout (slot : Nat) (s : State) : Out :=
  .next <|
    match tfind s.slots slot with
    | some h =>
      match h.deadline with
      | some t =>
        if s.sstate slot = qWaiting && decide (t ≤ s.clock) && s.board 0 = s.board 4 then
          let (f, s) := (s.ringBell slot).fresh
          match s.ticketCores[f.toNat % max 1 s.ticketCores.length]? with
          | some c => s.serveBell c slot
          | none => s
        else s
      | none => s
    | none => s

/-! ### SIGNAL (R242, R243, R245) -/

/-- Commands of the reeves for a polder whose packets are still queued. -/
def State.reeveCmds (s : State) (p : Nat) : List Nat :=
  (s.queue.filter fun q => q.org.polder = p && q.org.slot = 63).map (·.cmd)

/-- SIGNAL writes its word as a release at its scope (R229, R234, R245). -/
def State.signalWord (s : State) (p : Nat) (r : List Byte) : State :=
  let n := if (bfield r 1 1).testBit 1 then 8 else 4
  let a := s.spBase p + bfield r 8 4
  let v := bfield r 16 8
  let x := if (bfield r 1 1).testBit 0 then ofLe (mreads s.sp a n) + v else v
  let aft := if (tget 0 (s.polder p).featack 0).getLsbD 8 && bfield r 2 1 ≠ 4 then
      (s.queue.filter fun q => q.org.polder = p && q.org.slot = 63 && decide (q.unit = .remote)).map (·.cmd)
    else []
  s.spBytes a (toLe n x) aft

/-- The scope of a SIGNAL (R136). -/
def signalScope (r : List Byte) : Scope := if bfield r 2 1 = 2 then .die else if bfield r 2 1 = 3 then .pkg else .sys

/-- A SIGNAL's word is written once everything before the release is performed at its scope. -/
def State.trySignal (s : State) (c sl : Nat) (h : HwSlot) (desc r : List Byte) : State :=
  if s.relReady 0 (s.reeveCmds h.polder) (signalScope r) then
    s.withWord c h.polder r (fun s => (s.stopQueue c sl h).tick) fun s =>
      s.complete c sl h desc fun s => s.signalWord h.polder r
  else s.setSstate sl qActive

/-- SIGNAL (R242, R243, R245). -/
def execSignal (slot core : Nat) (s : State) : Out :=
  queueStep core slot 5
    (fun h desc r s =>
      if !restZero r [(0, 2), (8, 11), (16, 23)] || bfield r 1 1 > 3 || bfield r 2 1 < 2 || bfield r 2 1 > 4
          || !wordOk s h.polder r ((bfield r 1 1).testBit 1) then (s.stopQueue core slot h).tick
      else s.trySignal core slot h desc r)
    (fun h desc r s => s.trySignal core slot h desc r) s

/-! ### COPY (R242, R243, R245) -/

/-- Who issues a COPY packet's command: the reeve of a core (R245). -/
def copyOrigin (p core : Nat) : Origin := { Origin.none with polder := p, core := core, slot := 63, bslot := firmSlot }

/-- A COPY begins (R243, R245): its command runs on the streamer of the reeve's core. It is admitted once its records have passed
(R342): FEATSTAT locks then (R19). -/
def State.startCopy (s : State) (core sl : Nat) (h : HwSlot) (r : List Byte) : State :=
  let src := bfield r 8 8
  let (id, s) := s.newId
  let x : Cmd :=
    { org := copyOrigin h.polder core, op := .packet sl src (bfield r 16 8) (bfield r 24 4) (bfield r 28 4), mask := 1
      phase := .record, stores := [], plan := [], accs := [], recB := [], recB2 := [], status := 0, faults := [], wrote := [] }
  let s := { s with cmds := tput s.cmds id x }
  let s := (s.onSlot sl fun h => { h with copyCmd := some id }).sendReads id 0 [{ va := src, len := 64, off := 0 }]
  (s.setSstate sl qActive).tick

/-- A COPY's record could not be used (R342). -/
def copyBad (x : Cmd) : Bool :=
  x.phase = .plan || ((x.phase = .record || x.phase = .record2) && x.faults ≠ [])

/-- COPY (R242, R243, R245, R342). -/
def execCopy (slot core : Nat) (s : State) : Out :=
  queueStep core slot 6
    (fun h _ r s =>
      if !restZero r [(0, 0), (8, 31)] || bfield r 8 8 % 64 ≠ 0 || bfield r 16 8 % 64 ≠ 0 then
        (s.stopQueue core slot h).tick
      else s.startCopy core slot h r)
    (fun h desc _ s =>
      match h.copyCmd with
      | some id =>
        match tfind s.cmds id with
        | some x =>
          if copyBad x then ((s.finish id).stopQueue core slot h).tick
          else if x.phase = .data && x.plan = [] && s.accsOver x then s.complete core slot h desc (·.finish id)
          else s
        | none => s.complete core slot h desc fun s => s
      | none => s) s

/-! ### NOP (R240) and watch reports (R233) -/

/-- NOP (R240, R243). -/
def execNopPacket (slot core : Nat) (s : State) : Out :=
  queueStep core slot 0
    (fun h desc r s =>
      if !restZero r [(0, 0)] then (s.stopQueue core slot h).tick else s.complete core slot h desc fun s => s) idleOn s

/-- WATCH_REPORT_ARRIVAL (R233, R239): the report of a watch sets NOTE.PENDING of the waiting queue. -/
def execWatchReportArrival (p q : Nat) (v : WatchReport) (s : State) : Out :=
  .next <|
    match tfind (s.polder p).queues q with
    | some _ => (s.onQueue p q fun y => { y with reports := tput y.reports v.handle v.val }).notify p q
    | none => s

/-! ### BLOCK_RETIRE (R47, R260, R313, R318) -/

/-- Nothing of a block is left on its core: no thread, no record, no child to come, no store to perform. -/
def State.drainedBlock (s : State) (c b : Nat) (x : Block) : Bool :=
  let k := s.core c
  (k.groups.all fun e => e.2.bslot ≠ b) && (k.records.all fun r => r.bslot ≠ b)
  && (k.orphans.all fun e => e.polder ≠ x.launch.polder) && s.cmds.all fun e => !e.2.touches c b || e.2.phase = .done

/-- The digest of a run (R260): effect records by group number, in program order. -/
def auditDigest (es : Table Entries) : List Byte := sha3_256 (es.flatMap fun e => e.2.flatMap (·.2))

/-- Physical address of an audit's region of the retention ring (R258). -/
def State.regionPa (s : State) (a : Audit) : Nat := (s.polder a.polder).audRing + a.region

/-- The log and the digest of the original run are in the region, at physical addresses (R258, R351). -/
def State.keepDigest (s : State) (x : Block) : State :=
  match x.audit.bind (tfind s.audits) with
  | some a =>
    let d := if a.failed then [] else auditDigest a.effects
    let runs := match a.runs with
      | (k, _) :: r => (k, d) :: r
      | [] => [(x.homeCore, d)]
    let s := s.writePa (s.regionPa a) (auditLog a ++ padTo 32 d)
    { s with audits := tput s.audits (x.audit.getD 0) { a with runs := runs } }
  | none => s

/-- The slot of a launch. -/
def State.launchSlot (s : State) (l : Launch) : Option (Nat × HwSlot) :=
  s.slots.find? fun e => match e.2.launch with
    | some m => m.id = l.id && m.polder = l.polder
    | none => false

/-- A launch's block has gone. -/
def State.countRetired (s : State) (l : Launch) : State :=
  match s.launchSlot l with
  | some e => s.onSlot e.1 fun h => { h with retired := h.retired + 1 }
  | none => s

/-- No block of a launch is resident. -/
def State.launchGone (s : State) (l : Launch) : Bool :=
  s.cores.all fun k => k.2.blocks.all fun b => !(b.2.launch.id = l.id && b.2.launch.polder = l.polder && b.2.tenant)

/-- The slot at whose head a launch stands: its LAUNCH, or the RESUME that has restored its blocks. -/
def State.headOf (s : State) (l : Launch) : Option (Nat × HwSlot) :=
  match s.launchSlot l with
  | some e => some e
  | none => s.slots.find? fun e =>
      e.2.polder = l.polder && e.2.queue = l.queue && s.sstate e.1 = qActive && e.2.launch.isNone && e.2.ids.contains l.id

/-- An aborted launch of which no block is resident ends: its images are discarded, and its queue stops at its packet (R313, R342). -/
def State.endAborted (s : State) (c : Nat) (l : Launch) : State :=
  if s.launchGone l then
    let p := s.polder l.polder
    let gone := (p.saved.filter fun y => y.block.launch.id = l.id).map Saved.va
    let s := s.setPolder l.polder { p with
      saved := p.saved.filter fun y => y.block.launch.id ≠ l.id, doomed := p.doomed.filter (· ≠ l.id) }
    let s := gone.foldl State.popImage s
    match s.headOf l with
    | some e => s.stopQueue c e.1 e.2
    | none => s
  else s

/-- A block is discarded without writing anything: its audit is cancelled and its fetches are given up (R313, R344). -/
def State.dropBlock (s : State) (c b : Nat) (x : Block) : State :=
  let s := x.slots.foldl (init := s.audCancel c b) fun s sl =>
    match s.group c sl with
    | some g => match g.waiting with
      | .fetch id => s.dropFetch c sl id
      | _ => s
    | none => s
  s.freeBlock c b

/-- A block of an aborted launch is discarded; with the last one its queue stops (R313, R342). -/
def State.discardBlock (s : State) (c b : Nat) (x : Block) : State := (s.dropBlock c b x).endAborted c x.launch

/-- A block is of a launch that is aborted, or is to be (R36, R313). -/
def State.isDoomed (s : State) (x : Block) : Bool := x.abort || (s.polder x.launch.polder).doomed.contains x.launch.id

/-- A ticket holder discards a block of a rejected set (R344). -/
def State.rejecting (s : State) (c b : Nat) : Bool :=
  s.unit.any fun u => u.stage = .discard && u.victims.contains (c, b)

/-! ### The end of a re-execution (R261, R348, R351, R354) -/

/-- A re-execution leaves its core: nothing of it is left there. -/
def State.dropRun (s : State) (c b : Nat) (x : Block) : State :=
  let k := s.core c
  let s := s.setCore c { k with orphans := k.orphans.filter fun e => !e.ofBlock c b }
  { s.dropBlock c b x with cmds := (s.dropBlock c b x).cmds.filter fun e => !e.2.touches c b }

/-- A re-execution is abandoned, without points; it starts again from its beginning on another core (R348, R354). -/
def State.abandonRun (s : State) (c b : Nat) : State :=
  match s.block c b with
  | some x =>
    let s := match s.rerunOf c b with
      | some (i, a, _) => { s with audits := tput s.audits i { a with rerun := none, avoid := a.avoid ++ [c] } }
      | none => s
    s.dropRun c b x
  | none => s

/-- The re-executions on some cores, of one polder or of all, are abandoned. -/
def State.abandonOn (s : State) (cs : List Nat) (p : Option Nat) : State :=
  cs.foldl (init := s) fun s c =>
    ((s.core c).blocks.filter fun e => e.2.rerun.isSome && p.all (· = e.2.launch.polder)).foldl (fun s e => s.abandonRun c e.1) s

/-- A re-execution cannot go on: every group of it has ended or waits at a join, nothing of it is under way, and what the log says the
weaver did next cannot be done (R259, R351). -/
def State.runStuck (s : State) (c b : Nat) : Bool :=
  let k := s.core c
  let gs := k.groups.filter fun e => e.2.bslot = b
  let waits (g : Group) : Bool := match g.waiting with
    | .join _ _ _ => match s.nextCtl c b g.gnum with
      | some (.merge l m) => (s.marked c b [(l, m)]).isNone
      | _ => false
    | _ => g.occs = []
  (gs.all fun e => waits e.2 && e.2.stq = []) && (gs ≠ [] || k.records.any fun r => r.bslot = b)
    && (k.records.all fun r => r.bslot ≠ b || decide (r.born < s.clock)) && (k.orphans.all fun e => !e.ofBlock c b)
    && (s.cmds.all fun e => !e.2.touches c b || e.2.phase = .done) && (s.formNext c b).isNone

/-- A run has ended in a digest; an empty one is a failed one (R351). -/
def State.keepRun (s : State) (i c : Nat) (d : List Byte) : State :=
  match tfind s.audits i with
  | some a => { s with audits := tput s.audits i { a with runs := a.runs ++ [(c, d)], rerun := none } }
  | none => s

/-- A re-execution ends in its digest once nothing of it is left, or, as soon as it has failed or cannot follow its log, in a failed one
(R261, R351). -/
def State.rerunEnd (s : State) (c b : Nat) (x : Block) : State :=
  match s.rerunOf c b with
  | some (i, _, r) =>
    let rested := s.drainedBlock c b x
    if r.failed || s.runStuck c b || (rested && r.ctl ≠ []) then (s.dropRun c b x).keepRun i c []
    else if rested then (s.dropRun c b x).keepRun i c (auditDigest r.effects)
    else s
  | none => s.dropRun c b x

/-- BLOCK_RETIRE (R47, R318): its resources return to the core. A block of an aborted launch whose pre-emption has come
through its steps 1 to 3 is discarded (R313); so is one of a launch that has lost a record, once nothing of it is left (R36). -/
def execBlockRetire (core bslot : Nat) (s : State) : Out :=
  .next <|
    match s.block core bslot with
    | some x =>
      if x.rerun.isSome then s.rerunEnd core bslot x
      else if x.launch.sram || s.rejecting core bslot then s
      else if x.abort then if s.quiet core bslot then s.discardBlock core bslot x else s
      else if !s.drainedBlock core bslot x then s
      else if s.isDoomed x then s.discardBlock core bslot x
      else
        let p := s.polder x.launch.polder
        let s := if x.poisoned then s.setPolder x.launch.polder { p with poisonBlk := p.poisonBlk + 1 } else s
        ((s.keepDigest x).freeBlock core bslot).countRetired x.launch
    | none => s

end Sys2Proof.Machine
end

