-- ==== Sys2Proof/Machine/Service.lean ====
section
/-! DEFINITION. Requests to the Sougar service (R290, R298, R343), the RMA operations of hosts (R288, R289), and dropped
packets (R287, R288). -/

namespace Sys2Proof.Machine

/-! ### Replies (R290) -/

/-- The status words of R290. -/
def stOk : Nat := 0
/-- Refused by policy. -/
def stRefused : Nat := 1
/-- No resource. -/
def stNoRoom : Nat := 2
/-- Malformed. -/
def stMalformed : Nat := 3

/-- Sends a reply of a request code. -/
def State.reply (s : State) (p code status : Nat) (data : List Byte) : State :=
  { s with replies := s.replies ++ [{ polder := p, code := code, status := status, data := data, after := [] }] }

/-- A session exists: the service has admitted a job for the polder (R288). -/
def State.session (s : State) (p : Nat) : Bool := p ≠ 0 && p < 64 && (s.polder p).alive

/-- A packet of a job that is not admitted is dropped and counted (R288). -/
def State.dropJob (s : State) : State := { s with jobDrops := s.jobDrops + 1 }

/-- An operation of a session (R287 to R290): one that was sent over ROD is applied when every one sent before it has been; one over
RUD has no order. `f` answers none where the operation waits for a link or a stack that holds its traffic. -/
def ordered (p : Nat) (i : Instr) (f : Polder → State → Option State) (s : State) : Out :=
  .next <|
    if !s.session p then s.dropJob
    else
      let x := s.polder p
      let r := x.rod
      if r.head? = some i then
        match f x s with
        | some t => if (t.polder p).alive then t.setPolder p { t.polder p with rod := r.tail } else t
        | none => s
      else if r.contains i then s
      else (f x s).getD s

/-- A request of a session, which waits for nothing (R290). -/
def request (p : Nat) (i : Instr) (f : Polder → State → State) (s : State) : Out := ordered p i (fun x s => some (f x s)) s

/-! ### Attestation reports (R298) -/

/-- The frame allowance as a report holds it. -/
def rangeBytes (x : Polder) : List Byte :=
  x.ranges.flatMap fun e => toLe 1 e.1 ++ toLe 8 e.2.base ++ toLe 8 e.2.limit ++ toLe 1 e.2.perm.toNat

/-- An attestation report (R298): L, the MINSVN in force, the measurement, the allowance, the nonce, and the signature.
The manual gives the content and no layout of the fields (log entry 13). -/
def State.attest (s : State) (p : Nat) (nonce : List Byte) : List Byte :=
  let m := s.boot.attLog ++ toLe 4 s.boot.minsvn.toNat ++ sha3_512 (s.polder p).measured ++ rangeBytes (s.polder p) ++ nonce
  m ++ Config.mldsaSign s.boot.attSeed m

/-! ### OPEN and the allowance (R290, R14, R19) -/

/-- A range of the frame allowance as the control page can hold it (R280). -/
def rangeFits (r : AllowRange) : Bool :=
  r.base % 65536 = 0 && r.limit % 65536 = 0 && decide (r.base < 2 ^ 52) && decide (r.limit < 2 ^ 52)

/-- A range that needs TIER2 or REMOTE (R20). -/
def rangeGranted (f : Word) (r : AllowRange) : Bool :=
  (f.getLsbD 6 || !(decide (r.base < 0x180000000000) && decide (0x100000000000 < r.limit)))
  && (f.getLsbD 7 || decide (r.limit ≤ 2 ^ 51))

/-- Every address of a range is mapped, and one that a polder may be granted (R286): the service grants no other. Registers are for
polder 0 alone.
(DEDUCED: log entry 43.) -/
def State.rangeMapped (s : State) (p : Nat) (r : AllowRange) : Bool :=
  let inside (lo hi : Nat) : Bool := decide (lo ≤ r.base) && decide (r.limit ≤ hi)
  decide (r.limit ≤ r.base) || inside (2 ^ 51) (2 ^ 52)
    || ((List.range 24).any fun k => inside (k * 2 ^ 37) (k * 2 ^ 37 + stackBytes))
    || ((List.range 8).any fun k => inside (0x100000000000 + k * 2 ^ 40) (0x100000000000 + k * 2 ^ 40 + (tget Tier.reset s.tiers k).size))
    || (p = 0 && (inside 0x0FF000000000 0x0FF000010000 || inside 0x0FF000100000 0x0FF000140000))

/-- Two ranges of addresses meet. -/
def meets (a n b m : Nat) : Bool := decide (a < b + m) && decide (b < a + n)

/-- A polder's frames, its spill area, its retention ring or a queue descriptor lie in a range (R14, R36, R238, R258). -/
def Polder.holds (x : Polder) (a n : Nat) : Bool :=
  (x.ranges.any fun e => meets a n e.2.base (e.2.limit - e.2.base)) || meets a n x.spillPa x.spillSz
    || meets a n x.audRing x.audRingSz || x.queues.any fun q => meets a n q.2.descPa 64

/-- No other polder but the service's own holds anything of a range (R14, R36). -/
def State.rangeFree (s : State) (p : Nat) (r : AllowRange) : Bool :=
  s.polders.all fun e => e.1 = p || e.1 = 0 || !e.2.alive || !e.2.holds r.base (r.limit - r.base)

/-- Exposed ranges lie in the polder's own allowance (R14, R288). -/
def visibleOk (ranges : List AllowRange) (vs : List VisRange) : Bool :=
  vs.all fun v => ranges.any fun r => decide (r.base ≤ v.frame) && decide (v.frame + v.size ≤ r.limit)

/-- The shared-memory windows of the polders that own a core fit it beside a further one (R14). -/
def State.sharedFree (s : State) (p : Nat) (cores : BitVec 32) (size : Nat) : Bool :=
  (List.range 32).all fun c => !cores.getLsbD c
    || decide (total ((s.polders.filter fun e => e.1 ≠ p && e.1 ≠ 0 && e.2.alive && e.2.cores.getLsbD c).map fun e => e.2.shSize)
        + size ≤ sharedMem)

/-- An area that the service reserves for polder `p` is main memory of the module and lies outside every tenant's allowance and every
other area (R36, R258, R286). -/
def State.areaFree (s : State) (p : Nat) (ranges : List AllowRange) (pa n : Nat) : Bool :=
  let r : AllowRange := { base := pa, limit := pa + n, perm := 0 }
  s.rangeFree p r && s.rangeMapped 1 r && decide (pa + n ≤ 2 ^ 51) && ranges.all fun r => !meets pa n r.base (r.limit - r.base)

/-- The values of an OPEN are ones that the registers can hold (R36, R159, R254, R258, R279).
(DEDUCED: log entry 43.) -/
def openGood (o : OpenSpec) : Bool :=
  o.spBase % 65536 = 0 && o.spSize % 65536 = 0 && decide (o.spBase + o.spSize ≤ 2 ^ 29) && decide (256 ≤ o.weirDepth)
    && decide (o.weirRate < 2 ^ 32) && decide (o.weirDepth < 2 ^ 32) && decide (o.weirDebtLim < 2 ^ 32)
    && o.ageLim ≠ 0 && decide (o.auditF.toNat ≤ 1024) && decide (64 ≤ o.walkLim.toNat) && decide (o.walkLim.toNat ≤ 16384)
    && o.walkWt ≠ 0 && o.spillSz % 65536 = 0 && decide (1048576 ≤ o.spillSz) && decide (o.spillSz < 2 ^ 32)
    && o.audRingSz % 65536 = 0 && decide (o.audRingSz < 2 ^ 32) && o.audRegSz % 4096 = 0 && decide (65536 ≤ o.audRegSz)
    && decide (o.audRegSz < 2 ^ 32) && !meets o.spillPa o.spillSz o.audRing o.audRingSz && decide (o.shSize ≤ sharedMem) && o.spillPa % 16 = 0 && o.audRing % 64 = 0
    && visibleOk o.ranges o.visible && o.sealKey.length = 32 && o.nonce.length = 32
    && decide (o.ranges.length ≤ 32) && o.ranges.all rangeFits

/-- The scratchpad windows of live polders do not overlap a range (R14). -/
def State.windowFree (s : State) (base size : Nat) : Bool :=
  s.polders.all fun e => !(e.2.alive || e.1 = 0)
    || decide (e.2.spBase + e.2.spSize ≤ base) || decide (base + size ≤ e.2.spBase)

/-- A polder as OPEN creates it. -/
def openPolder (o : OpenSpec) : Polder :=
  { Polder.reset with
    alive := true, cores := o.cores, spBase := o.spBase, spSize := o.spSize, shSize := o.shSize
    spillPa := o.spillPa, audRing := o.audRing, ranges := o.ranges.zipIdx.map fun e => (e.2, e.1)
    weirRate := o.weirRate, weirDepth := o.weirDepth, weirDebtLim := o.weirDebtLim, weirLevel := o.weirDepth
    ageLim := o.ageLim, auditF := o.auditF, preempt := o.preempt, walkLim := o.walkLim, walkWt := o.walkWt
    fltPol0 := o.fltPol0, fltPol1 := o.fltPol1, spillSz := o.spillSz, audRingSz := o.audRingSz, audRegSz := o.audRegSz
    sealKey := o.sealKey, nonce := o.nonce, visible := o.visible, keySet := Config.sessionKeys o.polder }

/-- PMASK of a core on the dispatch board (R248). -/
def pmaskAt (c p : Nat) : Nat := 0x100 + 64 * c + 24 + 4 * (p / 32)

/-- Sets or clears a polder's bit in PMASK of its cores. -/
def State.setPmask (s : State) (p : Nat) (cores : BitVec 32) (on : Bool) : State :=
  (lanes32.filter cores.getLsbD).foldl (init := s) fun s c =>
    let b := BitVec.twoPow 32 (p % 32)
    s.setBoard (pmaskAt c p) (if on then s.board (pmaskAt c p) ||| b else s.board (pmaskAt c p) &&& ~~~b)

/-- OPEN (R15, R20, R286, R290): the service image must run; its own acceptance is then set (R19). A new polder has accepted BASE
alone, and is granted no range that TIER2 or REMOTE would cover. -/
def execOpenReq (o : OpenSpec) (s : State) : Out :=
  .next <|
    if !(s.polder 0).alive then s.dropJob
    else if o.polder = 0 || o.polder ≥ 64 || !openGood o then s.reply o.polder 1 stMalformed []
    else if !(o.ranges.all fun r => rangeGranted 1 r && s.rangeMapped o.polder r) then s.reply o.polder 1 stRefused []
    else if (s.polder o.polder).alive || !s.windowFree o.spBase o.spSize || !s.sharedFree o.polder o.cores o.shSize
        || !(o.ranges.all (s.rangeFree o.polder)) || !s.areaFree o.polder o.ranges o.spillPa o.spillSz
        || !s.areaFree o.polder o.ranges o.audRing o.audRingSz then s.reply o.polder 1 stNoRoom []
    else
      let s := (s.setPolder o.polder (openPolder o)).setPmask o.polder o.cores true
      s.reply o.polder 1 stOk (toLe 1 o.polder ++ Config.regionKeys o.polder ++ s.attest o.polder (List.replicate 32 0))

/-- A range takes nothing of another away: it holds its frames, with its permissions (R290). -/
def rangeExtends (r old : AllowRange) : Bool :=
  decide (old.limit ≤ old.base) || (decide (r.base ≤ old.base) && decide (old.limit ≤ r.limit) && old.perm &&& ~~~r.perm = 0)

/-- MAP (R290, R339): a range is granted or extended, then held accesses are replayed. A MAP that would take frames or permissions of
an allowance away is refused: that is a resize (R348).
(DEDUCED: log entry 43.) -/
def execMapReq (p k : Nat) (r : AllowRange) (s : State) : Out :=
  request p (.mapReq p k r) (fun x s =>
    if k ≥ 32 || !rangeFits r then s.reply p 5 stMalformed []
    else if !rangeGranted (tget 0 x.featack 0) r || !s.rangeMapped p r || !((tfind x.ranges k).all (rangeExtends r)) then s.reply p 5 stRefused []
    else if !s.rangeFree p r || meets r.base (r.limit - r.base) x.spillPa x.spillSz
        || meets r.base (r.limit - r.base) x.audRing x.audRingSz then s.reply p 5 stNoRoom []
    else ((s.setPolder p { x with ranges := tput x.ranges k r }).replayAll p).reply p 5 stOk []) s

/-! ### QUEUE (R238, R290, R343) -/

/-- A fresh descriptor (R238). -/
def freshDesc (ring entries : Nat) (maxprio : BitVec 2) : List Byte :=
  padTo 64 (toLe 8 ring ++ toLe 4 entries ++ List.replicate 16 0 ++ toLe 1 maxprio.toNat)

/-- A stopped queue is restarted (R343): HEAD := TAIL, FAILED and NOTE clear, the queue IDLE. -/
def State.restartQueue (s : State) (p q : Nat) (x : Queue) : State :=
  let tail := s.numPa (x.descPa + 16) 4
  let st := s.numPa (x.descPa + 24) 4
  let s := s.writePa (x.descPa + 12) (toLe 4 tail)
  let s := s.writePa (x.descPa + 20) (toLe 8 (2 ^ 32 * (st &&& 0xFFFFFFFD)))
  let s := s.onQueue p q fun y => { y with dead := false, skip := none, waitDue := none, noted := none }
  match s.slotOf p q with
  | some sl => (s.onSlot sl fun h => { h with dead := false, skip := none }).setSstate sl qIdle
  | none => { s with ready := s.ready.filter (· ≠ (p, q)), idle := s.idle.filter (· ≠ (p, q)) ++ [(p, q)] }

/-- The service reaches a descriptor, from the port die (R195, R286, R329 to R332). -/
def State.descAvail (s : State) (pa : Nat) : Avail := s.takes 4 pa 64

/-- The place of a new descriptor is the polder's own memory or the service's (R14). -/
def State.descFree (s : State) (p pa : Nat) : Bool :=
  let r : AllowRange := { base := pa, limit := pa + 64, perm := 0 }
  s.rangeFree p r && !(s.polder p).queues.any fun q => meets pa 64 q.2.descPa 64

/-- QUEUE (R290, R343): a new queue with its descriptor and ring at addresses that the service has chosen, or the restart
of a stopped one. The service waits for a descriptor whose memory is held back, and reports no resource for one that it cannot reach
or whose place another polder holds.
(DEDUCED: log entry 42.) -/
def execQueueReq (p q entries : Nat) (maxprio : BitVec 2) (desc ring : Nat) (s : State) : Out :=
  ordered p (.queueReq p q entries maxprio desc ring) (fun x s =>
    if q ≥ 64 then some (s.reply p 2 stMalformed [])
    else
      match tfind x.queues q with
      | some y =>
        match s.descAvail y.descPa with
        | .wait => none
        | .no => some (s.reply p 2 stNoRoom [])
        | .yes =>
          some (if s.queueFailed y then
            (s.restartQueue p q y).reply p 2 stOk (toLe 4 q ++ toLe 8 y.descPa)
          else s.reply p 2 stRefused [])
      | none =>
        let d := freshDesc ring entries maxprio
        if desc % 64 ≠ 0 || !ringOk d then some (s.reply p 2 stMalformed [])
        else if !s.descFree p desc || s.descAvail desc = .no then some (s.reply p 2 stNoRoom [])
        else if s.descAvail desc = .wait then none
        else some <|
          let s := s.setPolder p { x with
            queues := tput x.queues q { descPa := desc, waitDue := none, skip := none, reports := [], dead := false, noted := none } }
          let s := { s.writePa desc d with idle := s.idle ++ [(p, q)] }
          s.reply p 2 stOk (toLe 4 q ++ toLe 8 desc)) s

/-! ### LOAD and WALK (R191, R282, R290) -/

/-- The physical address of a granted virtual range (R288). -/
def Polder.frameOf (x : Polder) (va len : Nat) : Option Nat :=
  (x.visible.find? fun v => decide (v.va ≤ va) && decide (va + len ≤ v.va + v.size)).map fun v => v.frame + (va - v.va)

/-- Writes the SEAL of a marked record of n bytes at an offset (R123, R150, R282). -/
def sealRecord (key : List Byte) (n : Nat) (bs : List Byte) (off : Nat) : List Byte :=
  splice bs (off + n - 4) (toLe 4 (sealOf key ((bs.drop off).take (n - 4))).toNat)

/-- The bytes of an image with its marked records sealed. -/
def sealedBytes (i : Image) (key : List Byte) : List Byte :=
  i.predictors.foldl (sealRecord key 128) (i.layouts.foldl (sealRecord key 64) i.bytes)

/-- Marked records lie inside their image, aligned as R282 says. -/
def imageGood (i : Image) : Bool :=
  (i.layouts.all fun o => (i.addr + o) % 64 = 0 && decide (o + 64 ≤ i.bytes.length))
  && i.predictors.all fun o => (i.addr + o) % 128 = 0 && decide (o + 128 ≤ i.bytes.length)

/-- An image has a place: granted memory, or the window. -/
def imageFits (i : Image) (x : Polder) : Bool :=
  match i.space with
  | .mem => (x.frameOf i.addr i.bytes.length).isSome
  | .sp => i.addr + i.bytes.length ≤ x.spSize

/-- Places one image. -/
def State.placeImage (s : State) (p : Nat) (i : Image) : State :=
  let x := s.polder p
  let bs := sealedBytes i x.sealKey
  match i.space with
  | .mem => match x.frameOf i.addr bs.length with
    | some pa => s.acceptOpen .none 0 0 0 pa (.write bs)
    | none => s
  | .sp => s.spBytes (x.spBase + i.addr) bs []

/-- The place of an image is reached from the port die (R329). -/
def State.imageAvail (s : State) (x : Polder) (i : Image) : Avail :=
  let n := i.bytes.length
  match i.space with
  | .mem => match x.frameOf i.addr n with
    | some pa => s.takes 4 pa n
    | none => .yes
  | .sp => (s.linkAvail 4 (homeDie (x.spBase + i.addr))).and (s.linkAvail 4 (homeDie (x.spBase + i.addr + (n - 1))))

/-- LOAD (R282, R290): the images are written and sealed, and enter the polder's measurement. The service waits for a place that is
held back, and reports no resource for one that cannot be reached.
(DEDUCED: log entry 42.) -/
def execLoadReq (p : Nat) (imgs : List Image) (s : State) : Out :=
  ordered p (.loadReq p imgs) (fun x s =>
    if !(imgs.all imageGood) then some (s.reply p 3 stMalformed [])
    else if !(imgs.all (imageFits · x)) then some (s.reply p 3 stRefused [])
    else if imgs.any fun i => s.imageAvail x i = .no then some (s.reply p 3 stNoRoom [])
    else if imgs.any fun i => s.imageAvail x i = .wait then none
    else some <|
      let s := imgs.foldl (fun s i => s.placeImage p i) s
      let y := s.polder p
      (s.setPolder p { y with measured := y.measured ++ imgs.flatMap (·.bytes) }).reply p 3 stOk []) s

/-- WALK (R191, R290): the routine and root value are installed on every compute die. -/
def execWalkReq (p : Nat) (image : List Byte) (root : DWord) (s : State) : Out :=
  request p (.walkReq p image root) (fun x s =>
    if image.length > 4096 then s.reply p 4 stMalformed []
    else
      let rt := (mwrites [] 0 image, root)
      let s := [0, 1, 2, 3].foldl (init := s) fun s d =>
        s.setDie d { s.die d with routines := tput (s.die d).routines p rt }
      (s.setPolder p { x with measured := x.measured ++ image }).reply p 4 stOk []) s

/-! ### WATCH, UNWATCH, QUOTE (R233, R290, R298) -/

/-- Entries of the watch table (R233). -/
def watchMax : Nat := 1024

/-- WATCH (R233, R290): the entry is installed, then the watched word is read and reported once. -/
def execWatchReq (p word peer q : Nat) (s : State) : Out :=
  ordered p (.watchReq p word peer q) (fun x s =>
    if word % 4 ≠ 0 || word + 4 > x.spSize then some (s.reply p 6 stMalformed [])
    else
      match s.linkAvail 4 (homeDie (x.spBase + word)), (List.range watchMax).find? fun k => (tfind s.watches k).isNone with
      | .wait, _ => none
      | .no, _ => some (s.reply p 6 stNoRoom [])
      | _, none => some (s.reply p 6 stNoRoom [])
      | .yes, some k => some <|
        let s : State := { s with
          watches := tput s.watches k { polder := p, word := word, peer := peer, queue := q }
          reports := s.reports ++ [({ peer := peer, queue := q, handle := k, val := mget32 s.sp (x.spBase + word), after := [] } : Report)] }
        s.reply p 6 stOk (toLe 4 k)) s

/-- UNWATCH (R290). -/
def execUnwatchReq (p handle : Nat) (s : State) : Out :=
  request p (.unwatchReq p handle) (fun _ s =>
    match tfind s.watches handle with
    | some w =>
      if w.polder = p then State.reply { s with watches := tdel s.watches handle } p 7 stOk [] else s.reply p 7 stRefused []
    | none => s.reply p 7 stMalformed []) s

/-- QUOTE (R290, R298). -/
def execQuoteReq (p : Nat) (nonce : List Byte) (s : State) : Out :=
  request p (.quoteReq p nonce) (fun _ s =>
    if nonce.length ≠ 32 then s.reply p 8 stMalformed [] else s.reply p 8 stOk (s.attest p nonce)) s

/-! ### CLOSE (R290, R313) -/

/-- The core on which the service's own routines run: a front core (R184). -/
def serviceCore : Nat := 32

/-- The service may take a ticket: none is out, and it reaches the board (R249, R345). -/
def State.ticketFree (s : State) : Bool := s.board 0 = s.board 4 && s.unit.isNone && s.boardReach serviceCore = .yes

/-- A queue of a polder that closes may be unmapped: it is IDLE or WAITING, or its packet has not begun when the grace time is over
(R290). -/
def State.unmapsNow (s : State) (sl : Nat) (p : Nat) : Bool :=
  s.sstate sl = qIdle || s.sstate sl = qWaiting || (s.sstate sl = qReady && (s.polder p).graceOver)

/-- Unmaps the queues of a closing polder that may be, with their pending WAITs, each under a ticket of the service (R290, R345);
while a ticket is out none is. -/
def State.unmapQuiet (s : State) (p : Nat) : State :=
  if !s.ticketFree then s
  else
    s.slots.foldl (init := s) fun s e =>
      if e.2.polder = p && s.unmapsNow e.1 p then ((s.endWait e.2).unmapSlot e.1 { e.2 with deadline := none } false).tick else s

/-- Nothing of a polder is at work: no slot, no block, no command, no word on a die link. -/
def State.polderQuiet (s : State) (p : Nat) : Bool :=
  (s.slots.all fun e => e.2.polder ≠ p)
  && (s.linkQ.all fun e => e.entry.polder ≠ p)
  && (s.cores.all fun k => k.2.blocks.all fun b => !b.2.tenant || b.2.launch.polder ≠ p)
  && s.cmds.all fun e => e.2.org.polder ≠ p

/-- Destroys a polder (R290): its translations, routines, watches, records and audits go with it. -/
def State.destroy (s : State) (p : Nat) : State :=
  let x := s.polder p
  let s := s.abandonOn (List.range 32) (some p)
  let s := [0, 1, 2, 3].foldl (init := s) fun s d =>
    let s := s.invalidate d (fun e => e.polder = p) fun q => q = p
    s.setDie d { s.die d with routines := tdel (s.die d).routines p }
  let s := s.setPmask p x.cores false
  let s : State := { s with
    cores := s.cores.map fun (k : Nat × Core) => (k.1, { k.2 with
      layouts := k.2.layouts.filter (·.1 ≠ p), preds := k.2.preds.filter (·.1 ≠ p)
      rcache := k.2.rcache.filter (·.2.polder ≠ p) })
    watches := s.watches.filter (·.2.polder ≠ p), lwatches := s.lwatches.filter (·.polder ≠ p)
    ready := s.ready.filter (·.1 ≠ p), idle := s.idle.filter (·.1 ≠ p)
    audits := s.audits.filter (·.2.polder ≠ p), polders := tdel s.polders p
    notices := s.notices ++ [Notice.closed p x.aborted] }
  s.reply p 9 stOk (toLe 4 x.aborted)

/-- Goes on with a CLOSE: queues that have come to rest are unmapped, and the polder is destroyed with the last.
(DEDUCED: log entry 41.) -/
def State.closeOn (s : State) (p : Nat) : State :=
  let s := s.unmapQuiet p
  if s.polderQuiet p then s.destroy p else s

/-- Reference cycles of a millisecond (R109). -/
def oneMs : Nat := 1600000

/-- CLOSE (R290): a grace time of 0 is unlimited. -/
def execCloseReq (p : Nat) (grace : BitVec 16) (s : State) : Out :=
  request p (.closeReq p grace) (fun x s =>
    let dl := if grace = 0 then none else some (s.clock + oneMs * grace.toNat)
    (s.setPolder p { x with closing := some dl }).closeOn p) s

/-- A block is between steps 1 and 5 of its pre-emption: its launch is not aborted now (R321). -/
def Block.saving (x : Block) : Bool := x.stopping && !x.abort

/-- A block of a launch that is aborted goes through steps 1 to 3 of R253 (R313, R341). -/
def State.abortBlock (s : State) (c b : Nat) : State :=
  match s.block c b with
  | some x => if x.saving then s else (s.setBlock c b { x with stopping := true, abort := true }).failHeld c b
  | none => s

/-- Every resident block of a polder. -/
def State.blocksOf (s : State) (p : Nat) : List (Nat × Nat × Block) :=
  s.cores.flatMap fun k => (k.2.blocks.filter fun b => b.2.tenant && b.2.launch.polder = p).map fun b => (k.1, b.1, b.2)

/-- The end of the grace time (R290): resident launches are aborted, pending images and unbegun packets discarded; a packet that has
begun and of whose launch nothing is resident is over. -/
def State.abortAll (s : State) (p : Nat) : State :=
  let bs := s.blocksOf p
  let ids := (bs.map fun e => e.2.2.launch.id).eraseDups
  let s := bs.foldl (fun s e => s.abortBlock e.1 e.2.1) s
  let x := s.polder p
  let s := s.setPolder p { x with
    aborted := x.aborted + ids.length, closing := some none, graceOver := true, saved := [], doomed := ids }
  s.slots.foldl (init := s) fun s e =>
    if e.2.polder ≠ p || s.sstate e.1 ≠ qActive then s
    else
      let live := (e.2.launch.any fun l => ids.contains l.id) || e.2.ids.any ids.contains || e.2.copyCmd.isSome
      if live then s.onSlot e.1 fun h => { h with images := [] }
      else (s.onSlot e.1 fun h => { h with images := [], launch := none, ids := [] }).setSstate e.1 qIdle

/-- CLOSE_GRACE_EXPIRE (R290): once the grace time is over every resident launch is aborted; in any case a polder that
has come to rest is destroyed. -/
def execCloseGraceExpire (p : Nat) (s : State) : Out :=
  .next <|
    match (s.polder p).closing with
    | some (some t) =>
      if t ≤ s.clock && !((s.blocksOf p).any fun e => e.2.2.saving) then (s.abortAll p).closeOn p else s.closeOn p
    | some none => s.closeOn p
    | none => s

/-! ### INVAL (R276, R290) -/

/-- An entry that an INVAL names: every entry of the polder, or those that overlap one page. -/
def invalHit (p : Nat) (page : Option (Nat × BitVec 2)) (e : TEntry) : Bool :=
  e.polder = p && match page with
    | none => true
    | some (a, sz) =>
      let n := pageBytes sz.toNat
      decide (e.base < a / n * n + n) && decide (a / n * n < e.base + e.size)

/-- INVAL (R190, R276, R290): on every compute die; the reply leaves once the walks it has made stale have ended. -/
def execInvalReq (p : Nat) (page : Option (Nat × BitVec 2)) (s : State) : Out :=
  request p (.invalReq p page) (fun _ s =>
    if (match page with | some (_, sz) => decide (sz = 3) | none => false) then s.reply p 10 stMalformed []
    else
      let s := [0, 1, 2, 3].foldl (fun s d => s.invalidate d (invalHit p page) fun q => q = p) s
      let ds := [0, 1, 2, 3].filter fun d => (s.die d).walks.any fun w => w.2.stale
      { s with replies := s.replies ++ [{ polder := p, code := 10, status := stOk, data := [], after := ds }] }) s

/-! ### RMA (R288, R289) -/

/-- Codes under which the model lists what an RMA operation answers: read, write, atomic; a transport error has status 1
(log entry 13). -/
def rmaCode (k : Nat) : Nat := 256 + k

/-- A transport error (R288): nothing changes. -/
def State.rmaError (s : State) (p k : Nat) : State := s.reply p (rmaCode k) 1 []

/-- What an RMA operation at some availability comes to: it waits, is refused with a transport error, or is applied (R288, R329 to
R332). -/
def State.rmaAt (s : State) (p k : Nat) (a : Avail) (ok : State) : Option State :=
  match a with
  | .wait => none
  | .no => some (s.rmaError p k)
  | .yes => some ok

/-- A range of the window is reached from the port die (R329). -/
def State.windowAvail (s : State) (x : Polder) (addr n : Nat) : Avail :=
  if n = 0 then .yes
  else (s.linkAvail 4 (homeDie (x.spBase + addr))).and (s.linkAvail 4 (homeDie (x.spBase + addr + n - 1)))

/-- RMA read (R288, R289).
(DEDUCED: log entry 42.) -/
def execRmaRead (p : Nat) (r : Region) (addr len : Nat) (s : State) : Out :=
  ordered p (.rmaRead p r addr len) (fun x s =>
    match r with
    | .ctl =>
      if (len ≠ 4 && len ≠ 8) || addr % len ≠ 0 || addr + len > 4096 then some (s.rmaError p 0)
      else
        let ws := (List.range (len / 4)).map fun i => pageRead s p (addr + 4 * i)
        some (s.reply p (rmaCode 0) stOk (bytesOf ws))
    | .mem =>
      match x.frameOf addr len with
      | some pa =>
        let (bs, bad, t) := s.readPa pa len
        s.rmaAt p 0 (s.avail 4 pa) (if bad = [] then t.reply p (rmaCode 0) stOk bs else t.rmaError p 0)
      | none => some (s.rmaError p 0)
    | .sp =>
      if addr + len > x.spSize then some (s.rmaError p 0)
      else s.rmaAt p 0 (s.windowAvail x addr len) (s.reply p (rmaCode 0) stOk (mreads s.sp (x.spBase + addr) len))) s

/-- RMA write (R288, R289, R290): acknowledged when it is accepted; while the polder closes, NOTIFY and TAIL ignore it. -/
def execRmaWrite (p : Nat) (r : Region) (addr : Nat) (bytes : List Byte) (s : State) : Out :=
  ordered p (.rmaWrite p r addr bytes) (fun x s =>
    match r with
    | .ctl =>
      if bytes.length ≠ 4 || addr % 4 ≠ 0 || addr + 4 > 4096 then some (s.rmaError p 1)
      else some ((pageWrite s p addr (BitVec.ofNat 32 (ofLe bytes))).reply p (rmaCode 1) stOk [])
    | .mem =>
      match x.frameOf addr bytes.length with
      | some pa =>
        s.rmaAt p 1 (s.takes 4 pa bytes.length) ((s.acceptOpen .none 0 0 0 pa (.write bytes)).reply p (rmaCode 1) stOk [])
      | none => some (s.rmaError p 1)
    | .sp =>
      if addr + bytes.length > x.spSize then some (s.rmaError p 1)
      else s.rmaAt p 1 (s.windowAvail x addr bytes.length)
        ((s.spBytes (x.spBase + addr) bytes []).reply p (rmaCode 1) stOk [])) s

/-- RMA atomic (R163, R288): on host-visible memory only; a TAIL of a polder that closes keeps its value (R290). -/
def execRmaAtomic (p : Nat) (r : Region) (addr : Nat) (op : AOp) (w64 : Bool) (b c : DWord) (s : State) : Out :=
  ordered p (.rmaAtomic p r addr op w64 b c) (fun x s =>
    let n := if w64 then 8 else 4
    match r, x.frameOf addr n with
    | .mem, some pa =>
      if addr % n ≠ 0 then some (s.rmaError p 2)
      else
        let (bs, bad, t) := s.readPa pa n
        let v := atomVal op (8 * n) (ofLe bs) b.toNat c.toNat
        s.rmaAt p 2 (s.takes 4 pa n)
          (if bad ≠ [] then t.rmaError p 2 else (t.acceptOpen .none 0 0 0 pa (.write (toLe n v))).reply p (rmaCode 2) stOk bs)
    | _, _ => some (s.rmaError p 2)) s

/-! ### Dropped packets -/

/-- UNADMITTED_JOB_DROP (R288). -/
def execUnadmittedJobDrop (s : State) : Out := .next s.dropJob

/-- UUD_DROP (R287). -/
def execUudDrop (s : State) : Out := .next { s with uudDrops := s.uudDrops + 1 }

end Sys2Proof.Machine
end

