-- ==== Sys2Proof/Machine/Units.lean ====
section
/-! DEFINITION. The units of work that a ticket holder performs, one step at a time: the placement of a gang or of an image set,
blocked heads, back-fill and pre-emption; and the service's moves under a ticket: a parked holder's ticket, a resize, and a
quarantine move (R246 to R253, R284, R344 to R348, R354; log entry 61). -/

namespace Sys2Proof.Machine

/-! ### RESV words and free cores (R248, R250) -/

/-- RESV of a core. -/
def resvAt (c : Nat) : Nat := 0x20 + 4 * c

/-- The tag of a ticket (R250); the service's is 1 (R285). -/
def ticketTag (t : Word) : Word := 0x100 + BitVec.ofNat 32 (t.toNat % 2 ^ 24)

/-- Frees the RESV words of some cores. -/
def State.freeResv (s : State) (cs : List Nat) : State := cs.foldl (fun s c => s.setBoard (resvAt c) 0) s

/-- The board's free counts fit one block of a launch, in one sub-core or spread over them (R25, R41, R188, R250). -/
def State.boardFits (s : State) (c : Nat) (l : Launch) : Bool :=
  let free (j : Nat) : Nat :=
    let w := (s.board (scFreeAt c j)).toNat
    if regBlocks l = 0 then w / 256 % 256 else min (w / 256 % 256) (w % 256 / regBlocks l)
  decide (nslotOf l ≤ total ((List.range 4).map free)) && decide (shSizeFor l ≤ (s.board (shFreeAt c)).toNat)

/-- A core that a unit for polder `p` may list (R250). A core that is closed to placement or quarantined is not listed, so that no
`place` of a holder fails.
(DEDUCED: log entry 61.) -/
def State.coreOpen (s : State) (p c : Nat) : Bool :=
  (s.board (pmaskAt c p)).getLsbD (p % 32) && s.board (resvAt c) = 0 && (s.core c).placeok && !(s.core c).quar

/-- A core takes a block of a launch: the board says so, and the polder's shared-memory window has room (R14, R250). -/
def State.takesBlock (s : State) (l : Launch) (c : Nat) : Bool :=
  s.coreOpen l.polder c && s.boardFits c l
    && decide ((s.core c).sharedOf l.polder + shSizeFor l ≤ (s.polder l.polder).shSize)

/-- Cores of a region (R9). -/
def regionOf (d : Nat) : List Nat := (List.range 8).map (8 * d + ·)

/-- The cores of a region that the blocks of a unit would take: the lowest-numbered that are listed (R250 steps 1 and 2). -/
def State.listCores (s : State) (ls : List Launch) (d : Nat) : Option (List Nat) :=
  let cs := (regionOf d).filter fun c => ls.all (s.takesBlock · c)
  if ls = [] || cs.length < ls.length then none else some (cs.take ls.length)

/-! ### What a slot's next unit places (R249, R250, R253) -/

/-- The launch of the image at a polder-0 address, as a core reads it. -/
def State.launchAt (s : State) (c va : Nat) : Launch := s.imageLaunch (s.peek c va 128)

/-- The blocks of a slot's next placement unit: its oldest image set, or what is left of its LAUNCH's next gang. -/
def State.nextGang (s : State) (c sl : Nat) (h : HwSlot) : List Launch :=
  match h.images, h.launch with
  | vas :: _, _ => vas.map (s.launchAt c)
  | [], some l => List.replicate (l.gangSz - (s.board (slotWord sl 3)).toNat % max 1 l.gangSz) l
  | [], none => []

/-- SNEXT of the slot of a placed block's launch goes past the block; a restored block lies below it already.
(DESIGN CHOICE: log entry 61.) -/
def State.passNext (s : State) (l : Launch) (idx : Nat) : State :=
  match s.launchSlot l with
  | some e =>
    if (s.board (slotWord e.1 3)).toNat ≤ idx then s.setBoard (slotWord e.1 3) (BitVec.ofNat 32 (idx + 1)) else s
  | none => s

/-- The unit ends: DONE := t + 1. -/
def State.endUnit (s : State) (u : Dispatch) : State := { s with unit := none }.setBoard 4 (u.ticket + 1)

/-- The unit goes on as `u`. -/
def State.setUnit (s : State) (u : Dispatch) : State := { s with unit := some u }

/-- SNEXT goes past every block that a unit has placed (R250, R346). -/
def State.passPlaced (s : State) (u : Dispatch) : State :=
  u.placed.foldl (init := s) fun s e => match s.block e.1 e.2 with
    | some x => s.passNext x.launch x.idx
    | none => s

/-- Whole gangs of some blocks (R253). -/
def State.gangsOf (s : State) (bs : List (Nat × Nat)) : List (Nat × Nat) := (bs.flatMap fun e => s.gang e.1 e.2).eraseDups

/-- Pre-emption of some blocks begins, each with its whole gang (R253). -/
def State.beginVictims (s : State) (u : Dispatch) (bs : List (Nat × Nat)) : State :=
  let vs := s.gangsOf bs
  (vs.foldl (fun s e => s.beginStop e.1 e.2) s).setUnit { u with stage := .preempt, victims := vs }

/-! ### Pre-emption for a blocked head (R252) -/

/-- A block that a head of class `cls` may pre-empt (R252). -/
def State.preemptible (s : State) (cls : Nat) (x : Block) : Bool :=
  x.tenant && decide (x.launch.cls < cls) && (s.polder x.launch.polder).preempt.getLsbD cls && !x.abort

/-- Resident blocks of a region that a head may pre-empt, the lowest class first, then the youngest launch id (R252). -/
def State.victimsIn (s : State) (cls d : Nat) : List (Nat × Nat) :=
  let all : List (Nat × Nat × Block) := (regionOf d).flatMap fun c => ((s.core c).userBlocks.filter fun e => s.preemptible cls e.2).map fun e => (c, e.1, e.2)
  (sortBy (fun e => e.2.2.launch.cls * 2 ^ 65 + (2 ^ 64 - e.2.2.launch.id)) all).map fun e => (e.1, e.2.1)

/-- A core would take a block of a launch once some of its blocks have gone. -/
def State.wouldTake (s : State) (gone : List (Nat × Nat)) (l : Launch) (c : Nat) : Bool :=
  let k := s.core c
  let k := { k with blocks := k.blocks.filter fun e => !gone.contains (c, e.1) }
  s.coreOpen l.polder c && (k.room (s.polder l.polder).shSize l).isSome

/-- The blocks of a unit would fit a region once some blocks have gone. -/
def State.wouldFit (s : State) (gone : List (Nat × Nat)) (ls : List Launch) (d : Nat) : Bool :=
  decide (ls.length ≤ ((regionOf d).filter fun c => ls.all (s.wouldTake gone · c)).length)

/-- As many blocks, in order and each with its gang, as make the unit fit. -/
def State.fewest (s : State) (ls : List Launch) (d : Nat) : List (Nat × Nat) → List (Nat × Nat) → Option (List (Nat × Nat))
  | gone, [] => if s.wouldFit gone ls d then some gone else none
  | gone, b :: r => if s.wouldFit gone ls d then some gone else State.fewest s ls d (gone ++ s.gangsOf [b]).eraseDups r

/-- The region and the blocks that a blocked head pre-empts: the lowest region in which that lets its gang fit (R252). -/
def State.preemption (s : State) (cls : Nat) (ls : List Launch) : Option (Nat × List (Nat × Nat)) :=
  (List.range 4).findSome? fun d => match s.fewest ls d [] (s.victimsIn cls d) with
    | some (v :: vs) => some (d, v :: vs)
    | _ => none

/-! ### Blocked heads and back-fill (R251) -/

/-- Address of HGAGE of a region. -/
def hgageAt (d : Nat) : Nat := 8 + 4 * d

/-- SCLASS of a slot. -/
def State.sclass (s : State) (sl : Nat) : Nat := (s.board (slotWord sl 1)).toNat

/-- Regions that back-fill may still enter: HGAGE is below the ageing limit of the head's polder (R251). -/
def State.openRegions (s : State) (p : Nat) : List Nat :=
  (List.range 4).filter fun d => decide ((s.board (hgageAt d)).toNat < (s.polder p).ageLim.toNat)

/-- Slots that may back-fill behind a blocked head, in the order of R249. -/
def State.fillers (s : State) (head : Nat) : List (Nat × HwSlot) :=
  sortBy s.rank (s.slots.filter fun e => e.1 ≠ head && s.places e.1 e.2 && decide (s.sclass e.1 ≤ s.sclass head))

/-- BACK-FILL (R251): HEADQ names the blocked head; of the candidates, as many as the holder tries, the first that fits an allowed
region is placed. -/
def State.backfill (s : State) (u : Dispatch) (h : HwSlot) : State :=
  let s := s.setBoard 0x18 (BitVec.ofNat 32 u.slot)
  let ds := s.openRegions h.polder
  let cs := s.fillers u.slot
  let (f, s) := s.fresh
  let tried := cs.take (1 + f.toNat % max 1 cs.length)
  match tried.find? fun e => ds.any fun d => (s.listCores (s.nextGang u.core e.1 e.2) d).isSome with
  | some e => s.setUnit { u with goal := .fill u.slot, slot := e.1, allowed := ds, region := 0, stage := .list }
  | none => s.endUnit u

/-- No region is left for the unit: its head is blocked (R251, R252); an image set that fits nowhere is reported (R348). -/
def State.exhausted (s : State) (u : Dispatch) (h : HwSlot) : State :=
  match u.goal with
  | .head =>
    match s.preemption (s.sclass u.slot) (s.nextGang u.core u.slot h) with
    | some (d, vs) => s.beginVictims { u with region := d, allowed := [d] } vs
    | none =>
      let s := if h.images = [] then s else { s with notices := s.notices ++ [.blockedSet h.polder h.queue] }
      s.backfill u h
  | _ => s.endUnit u

/-! ### The stages of a placement (R250) -/

/-- STEP 1 and 2: the cores of the first region that fits are listed. -/
def State.listStep (s : State) (u : Dispatch) (h : HwSlot) : State :=
  let ls := s.nextGang u.core u.slot h
  match u.allowed.find? fun d => decide (u.region ≤ d) && (s.listCores ls d).isSome with
  | some d =>
    s.setUnit { u with region := d, stage := .cas, listed := (s.listCores ls d).getD [], taken := [], placed := [] }
  | none => s.exhausted u h

/-- Which blocks a resize or a quarantine move pre-empts: those on the affected cores, of one polder or of all (R348, R354). -/
def State.affectedBlocks (s : State) (cs : List Nat) (p : Option Nat) : List (Nat × Nat) :=
  cs.flatMap fun c => ((s.core c).userBlocks.filter fun e => e.2.tenant && p.all (· = e.2.launch.polder)).map fun e => (c, e.1)

/-- Cores of a polder that a resize removes. -/
def Polder.removed (x : Polder) (r : Resize) : BitVec 32 := x.cores &&& ~~~r.cores

/-- THE RESV WORDS of the listed cores are taken, one by one in ascending order; a unit that finds one taken rolls back and goes to
the next region, the service waits (R250 steps 2 and 3, R348 steps 1 to 3). -/
def State.casStep (s : State) (u : Dispatch) : State :=
  match u.listed[u.taken.length]? with
  | some c =>
    let tag := match u.goal with
      | .resize _ => 1
      | _ => ticketTag u.ticket
    if s.board (resvAt c) = 0 then (s.setBoard (resvAt c) tag).setUnit { u with taken := u.taken ++ [c] }
    else
      match u.goal with
      | .resize _ => s
      | _ => (s.freeResv u.taken).setUnit { u with region := u.region + 1, stage := .list, listed := [], taken := [] }
  | none =>
    match u.goal with
    | .resize r =>
      let s := s.setPmask r.polder ((s.polder r.polder).removed r) false
      let s := s.abandonOn u.listed (some r.polder)
      s.beginVictims u (s.affectedBlocks u.listed (some r.polder))
    | _ => s.setUnit { u with stage := .place }

/-- COMMIT (R250 step 4, R251): the RESV words are free, SNEXT has advanced, and a placed head clears HEADQ and HGAGE. -/
def State.commit (s : State) (u : Dispatch) : State :=
  let s := (s.passPlaced u).freeResv u.taken
  let s := match u.goal with
    | .fill _ => s.setBoard (hgageAt u.region) (s.board (hgageAt u.region) + 1)
    | _ => if s.board 0x18 = BitVec.ofNat 32 u.slot then s.clearHead else s
  s.endUnit u

/-- WITHDRAWN: what a unit that cannot go on has placed is pre-empted as one gang, as for a parked holder (R346). -/
def State.withdraw (s : State) (u : Dispatch) : State :=
  let s := (s.passPlaced u).freeResv u.taken
  (u.placed.foldl (fun s e => s.beginStop e.1 e.2) s).setUnit
    { u with goal := .rescue, stage := .preempt, taken := [], victims := u.placed, placed := [] }

/-- REJECTED (R344): the blocks that the set has restored go through steps 1 to 3 of R253, in stage `discard`. -/
def State.rejectSet (s : State) (u : Dispatch) : State :=
  (u.placed.foldl (fun s e => s.abortBlock e.1 e.2) s).setUnit { u with stage := .discard, victims := u.placed }

/-- The blocks of a rejected set are discarded, without writing anything, as they come to rest; then the RESV words are free and the
queue stops (R344). -/
def State.discardStep (s : State) (u : Dispatch) (h : HwSlot) : State :=
  match u.victims with
  | (c, b) :: r =>
    match s.block c b with
    | some x => if s.quiet c b then (s.dropBlock c b x).setUnit { u with victims := r } else s
    | none => s.setUnit { u with victims := r }
  | [] => ((s.freeResv u.taken).stopQueue u.core u.slot h).endUnit u

/-- The holder writes its placement descriptor at board offset 0x3000: QSLOT, BLOCK and CORE (R188, R284). -/
def State.writePlacement (s : State) (qslot b c : Nat) : State :=
  s.spBytes ((s.polder 0).spBase + 0x3000) (toLe 4 qslot ++ toLe 8 b ++ toLe 1 c ++ [0, 0, 0]) []

/-- What `place` or `ctxrest` has answered on a core of the unit. -/
def State.placedOn (s : State) (u : Dispatch) (h : HwSlot) (c : Nat) (r : Word × State) : State :=
  if r.1.toNat < 2 ^ 31 then (r.2.book c r.1.toNat).setUnit { u with placed := u.placed ++ [(c, r.1.toNat)] }
  else if h.images ≠ [] && r.1 = noCore then s.rejectSet u
  else s.withdraw u

/-- ONE BLOCK of the unit is placed, or restored with the next image of its set (R250 step 4, R253, R344). -/
def State.placeStep (s : State) (u : Dispatch) (h : HwSlot) : State :=
  match u.listed[u.placed.length]?, h.images.head?.bind List.head? with
  | none, _ => s.commit u
  | some c, none =>
    let b := (s.board (slotWord u.slot 3)).toNat + u.placed.length
    s.placedOn u h c ((s.writePlacement u.slot b c).place u.slot b c)
  | some c, some va =>
    let no (f : FaultAt) (s : State) : State := (s.logReeve u.core f).rejectSet u
    s.qRange u.core u.slot va 128 false no fun s =>
      let n := bfield (s.peek u.core va 128) 36 4
      if n < 192 || n > imageMax then s.rejectSet u
      else s.qRange u.core u.slot va n false no fun s => s.placedOn u h c (s.restore va c (s.peek u.core va n))

/-- The headers of a set's images are read before its cores are listed. -/
def State.withHeads (s : State) (u : Dispatch) (bad : State → State) (k : State → State) : List Nat → State
  | [] => k s
  | va :: r =>
    s.qRange u.core u.slot va 128 false (fun f s => bad (s.logReeve u.core f)) fun s => State.withHeads s u bad k r

/-! ### Pre-emption under a ticket (R252, R253, R346, R348) -/

/-- A smaller allowance takes away frames (R348 step 4). -/
def Polder.loses (x : Polder) (r : Resize) : Bool := x.ranges.any fun e => !r.ranges.contains e.2

/-- What a resize gives the polder: cores, windows, allowance, and of the host-visible ranges those that it keeps (R348 step 4). -/
def Polder.resized (x : Polder) (r : Resize) : Polder :=
  { x with
    cores := r.cores, spBase := r.spBase, spSize := r.spSize, shSize := r.shSize
    ranges := r.ranges.zipIdx.map fun e => (e.2, e.1), visible := x.visible.filter fun v => visibleOk r.ranges [v] }

/-- The resize has been made. -/
def Polder.isResized (x : Polder) (r : Resize) : Bool := x = x.resized r

/-- The windows of the polders other than `p` leave a range free (R14). -/
def State.othersFree (s : State) (p base size : Nat) : Bool :=
  s.polders.all fun e => e.1 = p || !(e.2.alive || e.1 = 0) || !meets base size e.2.spBase e.2.spSize

/-- A resize that the service may make (R14, R20, R286). -/
def State.resizeGood (s : State) (r : Resize) : Bool :=
  let x := s.polder r.polder
  x.alive && r.polder ≠ 0 && r.spBase % 65536 = 0 && r.spSize % 65536 = 0 && decide (r.spBase + r.spSize ≤ 2 ^ 29)
    && decide (r.shSize ≤ sharedMem) && decide (r.ranges.length ≤ 32) && s.othersFree r.polder r.spBase r.spSize
    && s.sharedFree r.polder r.cores r.shSize && s.areaFree r.polder r.ranges x.spillPa x.spillSz
    && s.areaFree r.polder r.ranges x.audRing x.audRingSz
    && r.ranges.all fun y => rangeFits y && rangeGranted (tget 0 x.featack 0) y && s.rangeMapped r.polder y && s.rangeFree r.polder y

/-- The scratchpad window shrinks or moves. -/
def Polder.windowLoses (x : Polder) (r : Resize) : Bool := decide (r.spSize < x.spSize) || r.spBase ≠ x.spBase

/-- Words that watch a word of a polder's window follow the window; those that it no longer holds watch nothing (R14, R233, R245). -/
def State.moveWatches (s : State) (r : Resize) : State :=
  let old := (s.polder r.polder).spBase
  let keeps (off : Nat) : Bool := decide (off + 4 ≤ r.spSize)
  { s with
    watches := s.watches.filter fun e => e.2.polder ≠ r.polder || keeps e.2.word
    lwatches := (s.lwatches.filter fun w => w.polder ≠ r.polder || keeps (w.addr - old)).map fun w =>
      if w.polder = r.polder then { w with addr := w.addr - old + r.spBase } else w }

/-- STEPS 4 and 5 of a resize (R348): the changes, then, once every `tbinv` has completed, the RESV words. A resize that an OPEN, a MAP
or a feature has made impossible since its ticket is not made (R14, R20), and a window is not moved under words that are still on the
die links (R14, R228).
(DESIGN CHOICE: log entry 44.) -/
def State.resizeStep (s : State) (u : Dispatch) (r : Resize) : State :=
  let x := s.polder r.polder
  let ds := [0, 1, 2, 3]
  if x.isResized r then
    if ds.any fun d => (s.die d).walks.any fun w => w.2.stale && decide (w.2.polder = r.polder) then s
    else (s.freeResv u.taken).endUnit u
  else if !s.resizeGood r then ((s.setPmask r.polder x.cores true).freeResv u.taken).endUnit u
  else if x.windowLoses r && s.linkQ.any fun e => e.entry.polder = r.polder then s
  else
    let s := ((s.moveWatches r).setPolder r.polder (x.resized r)).setPmask r.polder r.cores true
    if x.loses r then ds.foldl (fun s d => s.invalidate d (tbinvHit .pol r.polder 0) (tbinvPol .pol r.polder)) s else s

/-- STEPS 4 and 5 of a quarantine: the audit runs on the core are abandoned without points; it enters barrel mode, and its self-test
starts (R354). -/
def State.startTest (s : State) (c : Nat) : State :=
  let s := s.abandonOn [c] none
  s.setCore c { s.core c with condemned := false, barrel := true, selfTest := true, tested := false }

/-- Every block that the unit pre-empts has been saved. -/
def State.preempted (s : State) (u : Dispatch) : State :=
  match u.goal with
  | .resize r => s.resizeStep u r
  | .rescue => s.endUnit u
  | .vacate c => (s.startTest c).endUnit u
  | _ => s.setUnit { u with stage := .list }

/-- Bytes of the image of a saved block. -/
def Saved.len (y : Saved) : Nat :=
  192 + y.block.slots.length * sectionLen y.block.launch + y.block.shSize + total (y.records.map fun r => r.size + 4)

/-- No image that is still to be restored lies in a range of polder 0's addresses. -/
def State.imageSpace (s : State) (va n : Nat) : Bool :=
  s.polders.all fun e => e.2.saved.all fun y => !meets va n y.va y.len

/-- ONE BLOCK is pre-empted: once it is quiet its image is written where the service lets it lie, at `va` (R253). -/
def State.preemptStep (s : State) (u : Dispatch) (va : Nat) : State :=
  match u.victims with
  | [] => s.preempted u
  | (k, b) :: r =>
    let on : Dispatch := { u with victims := r }
    match s.block k b with
    | none => s.setUnit on
    | some x =>
      let s := s.beginStop k b
      let n := s.imageLen k b x
      if x.abort then s.setUnit on
      else if !s.quiet k b || !s.imageSpace va n then s
      else
        s.qRange u.core u.slot va n true (fun f s => s.logReeve u.core f) fun s =>
          ((s.saveBlock u.core b k va x).2).setUnit on

/-! ### A unit, step by step (R249) -/

/-- The firmware of a core runs: its reeve has not parked (R346). -/
def State.reeveRuns (s : State) (c : Nat) : Bool :=
  c ≥ 32 || match s.group c 63 with
    | some g => !g.parked
    | none => false

/-- A ticket is taken for a unit that takes more than one step. -/
def State.takeTicket (s : State) (core slot : Nat) (goal : Goal) (stage : Stage) (listed : List Nat) : State × Dispatch :=
  let u : Dispatch :=
    { core := core, ticket := s.board 0, slot := slot, goal := goal, stage := stage, region := 0, allowed := [0, 1, 2, 3]
      listed := listed, taken := [], victims := [], placed := [] }
  ((s.setBoard 0 (s.board 0 + 1)).setUnit u, u)

/-- A TICKET (R249): doorbells are served first; a slot that offers a placement unit begins it; a ticket without work only
advances. A READY slot's packet begins in the step of its kind. -/
def State.beginUnit (s : State) (c : Nat) : State :=
  if c ≥ 32 || s.boardReach c ≠ .yes || (s.core c).quar || !s.reeveRuns c || s.board 0 ≠ s.board 4 then s
  else
    let s := s.serveBells c
    if s.bells ≠ [] then s
    else
      let s := s.tidyHead
      match s.chosen with
      | none => s.tick
      | some sl =>
        match tfind s.slots sl with
        | some h => if s.places sl h then (s.takeTicket c sl .head .list []).1 else s
        | none => s

/-- The unit under way goes on by one step. -/
def State.unitOn (s : State) (u : Dispatch) (va : Nat) : State :=
  match u.stage, tfind s.slots u.slot with
  | .preempt, _ => s.preemptStep u va
  | .cas, _ => s.casStep u
  | .list, some h => s.withHeads u (·.rejectSet u) (fun s => s.listStep u h) (h.images.head?.getD [])
  | .place, some h => s.placeStep u h
  | .discard, some h => s.discardStep u h
  | _, none => s.withdraw u

/-- A holder's access to the board over a failed die link ends with UNAVAIL, and its reeve parks (R329, R346). -/
def State.parkReeve (s : State) (c : Nat) : State :=
  match s.group c 63 with
  | some g => s.parkAt c 63 { code := 0x13, lanes := 1, addr := 0 } g.pc
  | none => s

/-- A step of the dispatch unit of core `c`; it waits for a die link that retrains (R10, R329). -/
def State.unitStep (s : State) (c va : Nat) : State :=
  match s.unit with
  | none => s.beginUnit c
  | some u =>
    if u.core ≠ c || !s.reeveRuns c then s
    else match s.boardReach c with
      | .yes => s.unitOn u va
      | .wait => s
      | .no => s.parkReeve c

/-! ### The service under a ticket (R345, R346, R348, R354) -/

/-- No slot: the service's moves are for no queue. -/
def noSlot : Nat := 256

/-- A PARKED HOLDER's ticket is completed (R346): RESV words with its tag are free, every block placed under it is pre-empted as one
gang, and DONE advances; the operator is told.
(DEDUCED: log entry 61.) -/
def State.rescue (s : State) (c : Nat) : State :=
  if c ≥ 32 || s.reeveRuns c || s.board 0 = s.board 4 || (s.unit.any fun u => u.core ≠ c) then s
  else
    let t := s.board 4
    let tag := ticketTag t
    let bs := s.cores.flatMap fun k => (k.2.userBlocks.filter fun e => e.2.tenant && e.2.ticket = t).map fun e => (k.1, e.1)
    let s := s.freeResv ((List.range 32).filter fun k => s.board (resvAt k) = tag)
    let s := bs.foldl (init := s) fun s e => match s.block e.1 e.2 with
      | some x => (s.passNext x.launch x.idx).beginStop e.1 e.2
      | none => s
    let s : State := { s with notices := s.notices ++ [Notice.parkedReeve c] }
    s.setUnit
      { core := serviceCore, ticket := t, slot := noSlot, goal := .rescue, stage := .preempt, region := 0, allowed := []
        listed := [], taken := [], victims := bs, placed := [] }

/-- Cores that a resize affects: every core of the polder when a window shrinks or moves, else those removed (R348 step 1). -/
def Polder.affected (x : Polder) (r : Resize) : List Nat :=
  let shrinks := x.windowLoses r || decide (r.shSize < x.shSize)
  (List.range 32).filter fun c => x.cores.getLsbD c && (shrinks || !r.cores.getLsbD c)

/-- RESIZE of a polder, under a ticket of the service (R345, R348). -/
def State.resize (s : State) (r : Resize) : State :=
  if s.ticketFree && s.resizeGood r && !(s.polder r.polder).isResized r then
    (s.takeTicket serviceCore noSlot (.resize r) .cas ((s.polder r.polder).affected r)).1
  else s

/-- THE MOVE of the work of a quarantined core, under a ticket of the service (R354 steps 3 to 5). -/
def State.vacate (s : State) (c : Nat) : State :=
  if s.ticketFree && decide (c < 32) && (s.core c).quar && (s.core c).condemned then
    let (s, u) := s.takeTicket serviceCore noSlot (.vacate c) .preempt []
    s.beginVictims u (s.affectedBlocks [c] none)
  else s

/-- MAXPRIO of an unmapped queue. -/
def State.maxPrioOf (s : State) (e : Nat × Nat) : Nat :=
  match tfind (s.polder e.1).queues e.2 with
  | some q => s.numPa (q.descPa + 28) 1 % 4
  | none => 0

/-- The time of the oldest pending notification of an unmapped queue; of one that a WAIT timeout has made ready, the timeout's. -/
def State.notedOf (s : State) (e : Nat × Nat) : Nat :=
  match tfind (s.polder e.1).queues e.2 with
  | some q => q.noted.getD (q.waitDue.getD 0)
  | none => 0

/-- The queue that the service maps next: highest MAXPRIO, then the one whose oldest pending notification is oldest (R246); a queue
whose descriptor failed is mapped after a QUEUE request alone (R342), and one of a polder that closes is not mapped (R290). -/
def State.nextReady (s : State) : Option (Nat × Nat) :=
  argMin (fun e => (3 - s.maxPrioOf e) * 2 ^ 64 + s.notedOf e) <| s.ready.filter fun e =>
    (s.polder e.1).closing.isNone && !((tfind (s.polder e.1).queues e.2).any Queue.dead)

/-- A QUEUE of the ready list is mapped onto a FREE slot, under a ticket of the service (R246, R345); its descriptor lies at `va`
of polder 0, and `c` is a front core. -/
def State.mapReady (s : State) (c sl va : Nat) : State :=
  match s.nextReady with
  | none => s
  | some e =>
    if !s.ticketFree || c < 32 || c ≥ 40 || sl > 255 || (tfind s.slots sl).isSome then s
    else
      s.qRange c noSlot va 64 false (fun f s => s.logReeve c f) fun s =>
        let desc := s.peek c va 64
        let pa := (s.xlat c 0 va).map fun t => t.frame + (va - t.base)
        if pa ≠ (tfind (s.polder e.1).queues e.2).map Queue.descPa || !ringOk desc then s
        else (s.mapSlot c sl va desc).tick

/-- The WAIT timeout of an unmapped queue expires: the queue joins the ready list (R347). -/
def State.waitExpired (s : State) (p q : Nat) : State :=
  match (tfind (s.polder p).queues q).bind (·.waitDue) with
  | some t =>
    if t ≤ s.clock && s.idle.contains (p, q) then
      { s with idle := s.idle.filter (· ≠ (p, q)), ready := s.ready ++ [(p, q)] }
    else s
  | none => s

end Sys2Proof.Machine
end

