-- ==== Sys2Proof/Machine/Audits.lean ====
section
/-! DEFINITION. Audit outcomes, seepage and quarantine (R261, R351 to R355). -/

namespace Sys2Proof.Machine

/-! ### Seepage (R353, R354) -/

/-- Every halving of SEEPAGE that is due is made (R353): one for each multiple of 2^32 that the clock count has passed. -/
def State.halveDue (s : State) : State :=
  let n := s.clock / 2 ^ 32 - s.halvings
  { s with
    halvings := s.halvings + n
    cores := s.cores.map fun k => (k.1, { k.2 with seepage := k.2.seepage >>> n }) }

/-- A core gains points; SEEPAGE saturates (R353). -/
def State.addSeepage (s : State) (c n : Nat) : State :=
  let k := s.core c
  s.setCore c { k with seepage := BitVec.ofNat 32 (min (2 ^ 32 - 1) (k.seepage.toNat + n)) }

/-- QUARANTINE of a core (R354 step 1): QUAR 1, PLACEOK 0; the service is told. -/
def State.quarantine (s : State) (c : Nat) : State :=
  let k := s.core c
  { s.setCore c { k with quar := true, placeok := false, condemned := true, tested := false } with
    notices := s.notices ++ [.quarantine c] }

/-- The reeve of a core holds the ticket: its dispatch unit is under way. -/
def State.holdsTicket (s : State) (c : Nat) : Bool := s.unit.any fun u => u.core = c

/-- The threshold test (R353, R354): a core that has reached 256 points is quarantined, whatever a later halving makes of them; one whose
reeve holds the ticket only once that reeve has written DONE (R345). -/
def State.judge (s : State) : State :=
  (List.range 32).foldl (init := s) fun s c =>
    let k := s.core c
    if !k.quar && (k.condemned || decide (k.seepage.toNat ≥ 256)) then
      if s.holdsTicket c then s.setCore c { k with condemned := true } else s.quarantine c
    else s

/-- SEEPAGE_HALVING (R353). -/
def execSeepageHalving (s : State) : Out := .next (if s.halvings < s.clock / 2 ^ 32 then s.halveDue.judge else s)

/-! ### Runs and outcomes (R261, R351 to R355) -/

/-- Two digests agree; a failed one agrees with none (R351). -/
def digestsAgree (a b : List Byte) : Bool := a ≠ [] && a = b

/-- Cores of a polder for a further run of an audit: neither used, nor quarantined, nor left when a run was abandoned there (R261, R348,
R352, R354). -/
def State.runCores (s : State) (a : Audit) : List Nat :=
  let used := a.runs.map (·.1) ++ a.avoid
  (List.range 32).filter fun c => (s.polder a.polder).cores.getLsbD c && !used.contains c && !(s.core c).quar

/-- The blocks of the ring that hold an audit's log and digest (R258). -/
def State.regionBlocks (s : State) (a : Audit) : List Nat := Sys2Proof.Machine.blocksOf (s.regionPa a) (a.logged + 32)

/-- The log of an audit meets an uncorrectable block when it is read back (R258). -/
def State.logLost (s : State) (a : Audit) : Bool := (s.regionBlocks a).any fun b => (s.view b).2

/-- The audit ends and its region is free (R258). -/
def State.endAudit (s : State) (id : Nat) (a : Audit) : State :=
  let p := s.polder a.polder
  let s := s.setPolder a.polder { p with audRingUse := p.audRingUse - p.audRegSz }
  { s with audits := tdel s.audits id }

/-- The original block of an audit has retired. -/
def State.auditRetired (s : State) (id : Nat) (a : Audit) : Bool :=
  (s.cores.all fun k => k.2.blocks.all fun b => b.2.audit ≠ some id)
  && (s.polder a.polder).saved.all fun y => y.block.audit ≠ some id

/-- The words of an AUDIT entry (R355). -/
def auditWords (cause c1 c2 c3 gain seep : Nat) (d : List Byte) : List Word :=
  [BitVec.ofNat 32 (0x1F + cause * 65536), BitVec.ofNat 32 c1, BitVec.ofNat 32 c2, BitVec.ofNat 32 c3, BitVec.ofNat 32 gain,
   BitVec.ofNat 32 seep, BitVec.ofNat 32 (ofLe (d.take 4)), 0]

/-- No core. -/
def noneCore : Nat := 0xFFFFFFFF

/-- An outcome is decided: its AUDIT entry is written, and the region is free (R258, R353, R355). -/
def State.auditEntry (s : State) (id : Nat) (a : Audit) (cause c1 c2 c3 gain seep : Nat) : State :=
  (s.logBytes a.polder (entryBytes (auditWords cause c1 c2 c3 gain seep ((a.runs.head?.map (·.2)).getD [])) a.launchId a.idx
    (if gain = noneCore then 0xFF else gain) 0xFF 0xFFFF s.clock)).endAudit id a

/-- Which run differs from the two others: its core, with the cause of R353. -/
def verdict (r1 r2 r3 : Nat × List Byte) : Option Nat :=
  if digestsAgree r1.2 r3.2 then some r2.1
  else if digestsAgree r2.2 r3.2 then some r1.1
  else if digestsAgree r1.2 r2.2 then some r3.1
  else none

/-- The outcome of three runs (R353, R355): the halvings of the cycle have come first, the additions follow, and the threshold test
comes last. -/
def State.outcome (s : State) (id : Nat) (a : Audit) (r1 r2 r3 : Nat × List Byte) : State :=
  match verdict r1 r2 r3 with
  | some x =>
    let s := s.addSeepage x 64
    (s.auditEntry id a 1 r1.1 r2.1 r3.1 x (s.core x).seepage.toNat).judge
  | none =>
    let s := ((s.addSeepage r1.1 16).addSeepage r2.1 16).addSeepage r3.1 16
    (s.auditEntry id a 2 r1.1 r2.1 r3.1 noneCore 0).judge

/-- AUDIT_OUTCOME (R261, R351 to R355): two digests that agree raise AUDOK and free the region. Where they differ and no core of the
polder is left, the service may name no reserve core: the audit is unresolved. A third digest decides. -/
def execAuditOutcome (polder aid : Nat) (s : State) : Out :=
  .next <|
    match tfind s.audits aid with
    | some a =>
      if a.polder ≠ polder || a.rerun.isSome then s
      else
        match a.runs with
        | [r1, r2] =>
          if digestsAgree r1.2 r2.2 then
            let p := s.polder a.polder
            (s.setPolder a.polder { p with audOk := p.audOk + 1 }).endAudit aid a
          else if s.runCores a = [] then s.auditEntry aid a 3 r1.1 r2.1 noneCore noneCore 0
          else s
        | [r1, r2, r3] => s.halveDue.outcome aid a r1 r2 r3
        | _ => s
    | none => s

/-! ### Re-execution (R258, R261, R348, R351, R352) -/

/-- A further run of an audit is to be scheduled: the re-execution once the original block has retired, or the third run where two
digests differ. -/
def State.runDue (s : State) (id : Nat) (a : Audit) : Bool :=
  s.auditRetired id a && a.rerun.isNone && (s.polder a.polder).closing.isNone && match a.runs with
    | [_] => true
    | [r1, r2] => !digestsAgree r1.2 r2.2
    | _ => false

/-- A core for a further run: one of the polder that is left, else the reserve core that the service names (R261, R352); it is open to
placement, and no unit has reserved it. -/
def State.runTarget (s : State) (a : Audit) (t : Nat) : Bool :=
  (if s.runCores a = [] then decide (t < 32) else (s.runCores a).contains t)
    && (s.core t).placeok && !(s.core t).quar && s.board (resvAt t) = 0

/-- The launch of a re-execution: the log gives the image of its argument block (R259). -/
def Audit.rerunLaunch (a : Audit) : Launch :=
  { a.launch with arg := (((tget [] a.log argGroup).head?).map (·.bytes)).getD [] }

/-- A further run of an audit begins on a core, where it finds room: its block takes slots, registers and shared memory there, and the
log from its beginning. -/
def State.startRerun (s : State) (id : Nat) (a : Audit) (t : Nat) : State :=
  let l := a.rerunLaunch
  match (s.core t).room (s.polder l.polder).shSize l with
  | some (bslot, slots) =>
    let x : Block := { launchBlock l t bslot a.idx slots s.clock with rerun := some id }
    let r : Rerun := { core := t, left := a.log, ctl := a.ctl, effects := [], failed := false }
    ((State.enterBlock { s with audits := tput s.audits id { a with rerun := some r } } t bslot x).book t bslot).tick
  | none => s

/-- A REEVE schedules a further run of an audit as a unit of class 0, under a ticket, where no slot offers a unit of a higher class (R249,
R261, R352). The log is read back from the ring; one that meets an uncorrectable block leaves the audit unresolved (R258).
(DESIGN CHOICE: log entry 15.) -/
def State.auditRun (s : State) (c id t : Nat) : State :=
  if c ≥ 32 || s.boardReach c ≠ .yes || (s.core c).quar || !s.reeveRuns c || s.board 0 ≠ s.board 4 || s.unit.isSome then s
  else
    let s := s.serveBells c
    if s.bells ≠ [] then s
    else
      let s := s.tidyHead
      match tfind s.audits id with
      | some a =>
        if !s.runDue id a || !s.runTarget a t || s.chosen.any fun sl => decide (0 < s.sclass sl) then s
        else
          let s := (s.regionBlocks a).foldl State.checkBlock s
          let core (i : Nat) : Nat := ((a.runs[i]?).map (·.1)).getD noneCore
          if s.logLost a then (s.auditEntry id a 3 (core 0) (core 1) noneCore noneCore 0).tick
          else s.startRerun id a t
      | none => s

/-- Some earlier command of the group is still to be replayed. -/
def State.replaysBefore (s : State) (id : Nat) (x : Cmd) : Bool :=
  s.cmds.any fun e => decide (e.1 < id) && decide (e.2.org.uid = x.org.uid) && e.2.op.isReplayed && decide (e.2.phase ≠ .done)

/-- The effect record of a command that a re-execution completes, where its issue has not entered it (R260). -/
def State.replayEffect (s : State) (id : Nat) (o : Origin) (op : CmdOp) (e : LogEntry) : State :=
  match op with
  | .cpy _ .sp _ _ _ _ => s.copyRec o id op e.recB e.bytes
  | .cpy _ .sh _ _ n loc => s.copyRec o id op e.recB (s.localRead o .sh loc (n * lineLen e.recB))
  | .pred _ _ _ => s.predEffect o id op e.recB
  | .pchk _ _ _ => s.predEffect o id op e.recB
  | _ => s

/-- A command of a re-execution completes, after those that its group issued before it: its results come from the log, what it would
write to scratchpad stays undone, and its effect goes into the digest (R129, R259 to R261). -/
def State.replay (s : State) (id : Nat) : State :=
  match tfind s.cmds id with
  | some x =>
    match x.op with
    | .replayed op e =>
      if x.phase = .done || !s.storesDone x.org x.stores || s.replaysBefore id x then s
      else
        let ws := e.writes.filter fun w => w.1 = LSpace.sh
        let t := ws.foldl (fun (s : State) w => s.localWrite id x.org .sh w.2.1 w.2.2) (s.replayEffect id x.org op e)
        t.finish id
    | _ => s
  | none => s

/-- A core that fails sends another effect than it should: a further effect record of a free value in an audited run (R353).
(DESIGN CHOICE: log entry 15.) -/
def State.defect (s : State) (c b gn : Nat) : State :=
  let (f, s) := s.fresh
  s.onEffects c b gn (· ++ [(0, toLe 4 f.toNat)])

/-! ### The end of quarantine (R354) -/

/-- SELF_TEST_END (R354): the service is told. -/
def execSelfTestEnd (core : Nat) (pass : Bool) (s : State) : Out :=
  .next <|
    let k := s.core core
    if k.selfTest then
      { s.setCore core { k with selfTest := false, tested := pass } with notices := s.notices ++ [.selfTest core pass] }
    else s

/-- QUARANTINE_RELEASE (R354): only after a self-test that passed; SEEPAGE becomes 128, and the reeve leaves barrel mode
and sets PLACEOK. -/
def execQuarantineRelease (core : Nat) (s : State) : Out :=
  .next <|
    let k := s.core core
    if k.quar && k.tested && !k.selfTest then
      s.setCore core { k with quar := false, seepage := 128, placeok := true, barrel := false, tested := false }
    else s

end Sys2Proof.Machine
end

