-- ==== Sys2Proof/Machine/Bank.lean ====
section
/-! DEFINITION. The bank instructions (R199, R201 to R205). -/

namespace Sys2Proof.Machine

/-- How an item goes on after an instruction. -/
inductive BNext where
  | next
  | goto (target : Int)
  | fault (code : Nat)
  | over
deriving DecidableEq, Repr

/-- Instructions that an item may execute (R201). -/
def itemLimit : Nat := 16384

/-- The item after an instruction: its PC, its count, and the faults of R201. -/
def BankItem.goOn (x old : BankItem) (plen : Nat) (n : BNext) : BankItem :=
  let y := { x with count := old.count + 1 }
  let limit (z : BankItem) : BankItem :=
    if z.pc = plen ∨ z.count = itemLimit then { z with ended := true, fault := 0x14 } else z
  match n with
  | .over => { y with ended := true }
  | .fault c => { y with ended := true, fault := c }
  | .next => limit { y with pc := old.pc + 1 }
  | .goto t => if t < 0 ∨ t ≥ plen then { y with ended := true, fault := 0x14 } else limit { y with pc := t.toNat }

/-- A bank instruction of the current item.
(DEDUCED: log entry 38.) -/
def bankIns (body : State → BankRun → BankItem → Nat → BankItem × BNext × State) (s : State) : Out :=
  match s.cur with
  | .item run pc i =>
    match tfind s.runs run with
    | some r =>
      match tfind r.items (itemKey pc i) with
      | some x =>
        if x.ended then .next s
        else
          let (y, n, t) := body s r x pc
          .next (t.onRun run fun r => { r with items := tput r.items (itemKey pc i) (y.goOn x r.plen n) })
      | none => .next s
    | none => .next s
  | _ => .next s

/-- A bank instruction that touches nothing but its item. -/
def bankLocal (body : BankItem → BankItem × BNext) (s : State) : Out :=
  bankIns (fun s _ x _ => let r := body x; (r.1, r.2, s)) s

/-- bK. -/
def BankItem.b (x : BankItem) (k : BitVec 3) : Word := tget 0 x.regs k.toNat

/-- Sets bK. -/
def BankItem.setB (x : BankItem) (k : BitVec 3) (v : Word) : BankItem := { x with regs := tset 0 x.regs k.toNat v }

/-- Lane l of accN. -/
def BankItem.lane (x : BankItem) (n : BitVec 2) (l : Nat) : Word := tget 0 x.acc (16 * n.toNat + l)

/-- The lanes of accN. -/
def BankItem.lanes (x : BankItem) (n : BitVec 2) : List Word := (List.range 16).map (x.lane n)

/-- Sets every lane of accN. -/
def BankItem.setLanes (x : BankItem) (n : BitVec 2) (f : Nat → Word) : BankItem :=
  { x with acc := (List.range 16).foldl (fun t l => tset 0 t (16 * n.toNat + l) (f l)) x.acc }

/-- The target of a bank branch (R203). -/
def BankItem.target (x : BankItem) (off : BitVec 16) : Int := x.pc + off.toInt

/-- `bnop`. -/
def execBnop (s : State) : Out := bankLocal (fun x => (x, .next)) s

/-- `bend`. -/
def execBend (s : State) : Out := bankLocal (fun x => (x, .over)) s

/-- `bldi`. -/
def execBldi (k : BitVec 3) (imm : BitVec 16) (s : State) : Out :=
  bankLocal (fun x => (x.setB k (imm.setWidth 32), .next)) s

/-- `baddi`. -/
def execBaddi (k j : BitVec 3) (imm : BitVec 16) (s : State) : Out :=
  bankLocal (fun x => (x.setB k (x.b j + imm.signExtend 32), .next)) s

/-- `bloop`. -/
def execBloop (k : BitVec 3) (off : BitVec 16) (s : State) : Out :=
  bankLocal (fun x => (x.setB k (x.b k - 1), if x.b k - 1 ≠ 0 then .goto (x.target off) else .next)) s

/-- `bbeq`. -/
def execBbeq (k j : BitVec 3) (off : BitVec 16) (s : State) : Out :=
  bankLocal (fun x => (x, if x.b k = x.b j then .goto (x.target off) else .next)) s

/-- The column limits of a MAC (R204). -/
def colOk (f : BFmt) (k : Word) : Bool := if f = .bf16 then k.toNat % 2 = 0 && k.toNat ≤ 62 else k.toNat ≤ 63

/-- Lane l's weight in a row or in a block of it, from column k on (R204). -/
def weightOf (f : BFmt) (row : List Byte) (k l : Nat) : FVal :=
  match f with
  | .bf16 => bf16.dec (bfield row (16 * k + 2 * l) 2)
  | .e4m3 => e4m3.dec (bfield row (16 * k + l) 1)
  | .e5m2 => e5m2.dec (bfield row (16 * k + l) 1)

/-- One MAC of a lane: exact product and sum, one rounding (R81, R204). -/
def macLane (acc : Word) (w x : FVal) : Word :=
  BitVec.ofNat 32 (((Acc.empty.add (fp32.dec acc.toNat)).add (mulV w x).1).round).1

/-- Entry e of the input buffer of a pseudo-channel of a stack (R198). -/
def BankRun.buffer (r : BankRun) (stack pc e : Nat) : Word :=
  match r.load stack with
  | some l => if e < r.vslice then l.vec.getD (pc * r.vslice + e) 0 else 0
  | none => 0

/-- A MAC instruction: the block of the array that holds its weights is read as it stands (R324), and an uncorrectable block ends the item (R195, R204, R209). -/
def bankMac (k : BitVec 3) (n : BitVec 2) (f : BFmt) (ok : BankItem → Bool) (input : BankRun → Nat → BankItem → Nat → Word)
    (after : BankItem → BankItem) (s : State) : Out :=
  bankIns (fun s r x pc =>
    let col := (x.b k).toNat
    if !colOk f (x.b k) || !ok x then (x, .fault 0x14, s)
    else
      let blk := (x.rowPa + 16 * col) / 64
      let s' := s.checkBlock blk
      if s.lost blk then (x, .fault 0x12, s')
      else
        let y := x.setLanes n fun l =>
          macLane (x.lane n l) (weightOf f (s.arrayBytes blk) (col % 4) l) (fp32.dec (input r pc x l).toNat)
        (after y, .next, s')) s

/-- `bmac` (R204). -/
def execBmac (k j : BitVec 3) (n : BitVec 2) (f : BFmt) (ij ic : BitVec 8) (s : State) : Out :=
  bankMac k n f (fun x => (x.b j).toNat + 15 ≤ 1023) (fun r pc x l => r.buffer x.stack pc ((x.b j).toNat + l))
    (fun y =>
      let z := y.setB k (y.b k + ic.setWidth 32)
      z.setB j (z.b j + ij.setWidth 32)) s

/-- `bmacs` (R204). -/
def execBmacs (k : BitVec 3) (n : BitVec 2) (f : BFmt) (ic : BitVec 8) (s : State) : Out :=
  bankMac k n f (fun _ => true) (fun _ _ x _ => x.b 7) (fun y => y.setB k (y.b k + ic.setWidth 32)) s

/-- `bzero`. -/
def execBzero (n : BitVec 2) (s : State) : Out := bankLocal (fun x => (x.setLanes n fun _ => 0, .next)) s

/-- `bmov`. -/
def execBmov (n m : BitVec 2) (s : State) : Out := bankLocal (fun x => (x.setLanes n (x.lane m), .next)) s

/-- `baddv`. -/
def execBaddv (n m : BitVec 2) (s : State) : Out :=
  bankLocal (fun x =>
    (x.setLanes n fun l => BitVec.ofNat 32 (faddRne (x.lane n l).toNat (x.lane m l).toNat).1, .next)) s

/-- `bmaxv`. -/
def execBmaxv (n m : BitVec 2) (s : State) : Out :=
  bankLocal (fun x =>
    (x.setLanes n fun l => BitVec.ofNat 32 (fp32.minmax true (x.lane n l).toNat (x.lane m l).toNat).1, .next)) s

/-- The tree sum of sixteen lanes (R82). -/
def treeSum (xs : List Word) : Word := (treeNode (redOp .add .f32 false) 5 (xs.map fun w => (w, 0))).1

/-- `bred`. -/
def execBred (n : BitVec 2) (s : State) : Out :=
  bankLocal (fun x => (x.setLanes n fun l => if l = 0 then treeSum (x.lanes n) else 0, .next)) s

/-- `bscl`. -/
def execBscl (n : BitVec 2) (s : State) : Out :=
  bankLocal (fun x =>
    (x.setLanes n fun l => BitVec.ofNat 32 (fmulRne (x.lane n l).toNat (x.b 7).toNat).1, .next)) s

/-- A lane of `brelu`. -/
def reluLane (w : Word) : Word :=
  if (fp32.dec w.toNat).isNan then BitVec.ofNat 32 fp32.nan else if w.msb then 0 else w

/-- `brelu`. -/
def execBrelu (n : BitVec 2) (s : State) : Out :=
  bankLocal (fun x => (x.setLanes n fun l => reluLane (x.lane n l), .next)) s

/-- `bemit` (R205). -/
def execBemit (k : BitVec 3) (n : BitVec 2) (m : EMode) (ic : BitVec 8) (s : State) : Out :=
  bankIns (fun s r x _ =>
    let q := (x.b k).toNat
    if q ≥ r.oslots then (x, .fault 0x14, s)
    else (({ x with emits := x.emits ++ [(q, m, x.lanes n)] }).setB k (x.b k + ic.setWidth 32), .next, s)) s

/-! ### Row activation counters (R327, R328) -/

/-- A bank item that has not ended works on a row (R207). -/
def State.rowInUse (s : State) (stack key : Nat) : Bool :=
  s.runs.any fun r => r.2.items.any fun e =>
    !e.2.ended && decide (e.2.stack = stack) && decide (rowKeyAt (e.2.rowPa % 2 ^ 37) = key)

/-- PRECHARGE (R207, R327, R328): an active row, after the `bend` of an item that works on it; its counter rises, and at 1,024,
saturated or with bad parity a neighbour refresh follows. -/
def execPrecharge (stack pc bank row : Nat) (s : State) : Out :=
  .next <|
    let x := s.hbm stack
    let k := rowKey pc bank row
    if !x.active.contains k || s.rowInUse stack k then s
    else
      let bad := x.badPar.contains k
      let n := tget 0 x.rowCtr k
      let n' := min 2047 (n + 1)
      let x := { x with active := x.active.filter (· ≠ k), rowCtr := tset 0 x.rowCtr k n' }
      let due := bad || decide (n' ≥ 1024) || n = 2047
      s.setHbm stack { x with refresh := if due && !x.refresh.contains k then x.refresh ++ [k] else x.refresh }

/-- NEIGHBOUR_REFRESH (R327, R328): the counter is reset with good parity; bad parity counts in ROWPAR. -/
def execNeighbourRefresh (stack pc bank row : Nat) (s : State) : Out :=
  .next <|
    let x := s.hbm stack
    let k := rowKey pc bank row
    if !x.refresh.contains k then s
    else
      let bad := x.badPar.contains k
      let y := { x with
        refresh := x.refresh.filter (· ≠ k), rowCtr := tdel x.rowCtr k, badPar := x.badPar.filter (· ≠ k)
        rowpar := if bad then satAdd 0xFF x.rowpar else x.rowpar }
      let t := s.setHbm stack y
      if bad then { t with notices := t.notices ++ [.rowParity stack k] } else t

end Sys2Proof.Machine
end

