-- ==== Sys2Proof/Machine/Boot.lean ====
section
/-! DEFINITION. Boot, recovery and power loss (R184, R186, R292 to R299). -/

namespace Sys2Proof.Machine

/-! ### The flash (R292, R293, R295) -/

/-- Flash offset of the owner-key slot. -/
def ownerAt : Nat := 0
/-- Flash offset of the configuration record. -/
def recordAt : Nat := 0x10000
/-- Flash offset of the device identity certificate. -/
def identityAt : Nat := 0x20000
/-- Bytes of the flash. -/
def flashSize : Nat := 2 ^ 26
/-- Flash offset of the image slot. -/
def imageAt : Nat := 0x100000
/-- Bytes of the image slot. -/
def bootSlotSize : Nat := 2 ^ 24
/-- Bytes of an ML-DSA-87 public key. -/
def keyLen : Nat := 2592
/-- Bytes of an ML-DSA-87 signature. -/
def sigLen : Nat := 4627

/-- The owner-key slot: key, OWNERONLY byte, signature. -/
def ownerSlot (flash : Memory) : List Byte := mreads flash ownerAt (keyLen + 1 + sigLen)

/-- The slot holds a key: an erased slot is all 0 or all 0xFF (log entry 3). -/
def ownerPresent (flash : Memory) : Bool :=
  let k := mreads flash ownerAt keyLen
  k.any (· ≠ 0) && k.any (· ≠ 0xFF)

/-- The owner slot holds a key with OWNERONLY = 1. -/
def ownerOnly (flash : Memory) : Bool := ownerPresent flash && mget flash (ownerAt + keyLen) = 1

/-- The key that KEYSEL names; none for a selector without a key. -/
def keyOf (flash : Memory) (sel : Nat) : Option (List Byte) :=
  match sel with
  | 0 => some Config.vendorKey
  | 1 => if ownerPresent flash then some (mreads flash ownerAt keyLen) else none
  | _ => none

/-- Bytes of a range are zero. -/
def zeroBytes (bs : List Byte) (lo hi : Nat) : Bool := (List.range (hi + 1 - lo)).all fun i => byteAt bs (lo + i) = 0

/-- The configuration record. -/
def configRecord (flash : Memory) : List Byte := mreads flash recordAt 128

/-- The longest image with header and signature: what RECLEN may ask for. -/
def recMax : Nat := 2 ^ 24 + 64 + sigLen

/-- The configuration record passes (R295): its reserved bytes, VERSION, RECLEN, the OWNERONLY test and its
signature. -/
def recordGood (flash : Memory) : Bool :=
  let r := configRecord flash
  let sel := bfield r 12 1
  bfield r 0 4 = 1 && zeroBytes r 8 11 && zeroBytes r 13 15 && zeroBytes r 36 39 && zeroBytes r 61 63
    && zeroBytes r 96 127 && decide (bfield r 56 4 ≤ recMax) && !(ownerOnly flash && sel = 0)
    && match keyOf flash sel with
      | some k => Config.mldsaVerify k (sha3_512 r) (mreads flash (recordAt + 128) sigLen)
      | none => false

/-- BOOTSTAT.CODE of an image that fails R294 step 5, 0 for one that passes: signature, OWNERONLY, SVN, header. -/
def imageCode (flash : Memory) (im : List Byte) : Nat :=
  let len := bfield im 8 4
  let sel := bfield im 12 1
  let m := im.take (64 + len)
  if 64 + len + sigLen > bootSlotSize then 7
  else if sel > 1 then 7
  else if !(match keyOf flash sel with
      | some k => Config.mldsaVerify k (sha3_512 m) ((im.drop (64 + len)).take sigLen)
      | none => false) then 1
  else if ownerOnly flash && sel = 0 then 3
  else if bfield im 4 4 < bfield (configRecord flash) 4 4 then 2
  else if bfield im 0 4 ≠ 1 || !zeroBytes im 13 15 || !zeroBytes im 20 63 then 7
  else 0

/-! ### Firmware groups (R184, R186, R284) -/

/-- The launch under which the service image runs on a core (R184, R284, R294). -/
def firmLaunch (regs shared entry : Nat) : Launch :=
  { polder := 0, queue := 0, id := 0, bound := true, audit := false, noprom := true, cls := 0, gangSz := 1, bw := 0
    entry := BitVec.ofNat 32 entry, codeBase := 0, x := 1, y := 1, z := 1, fairInt := 0, nblkX := 1, nblkY := 1, nblkZ := 1
    regs := regs, shared := shared, trapVec := noPc, stackSz := 0, stackAddr := 0, arg := [], raw := [], sram := true }

/-- A firmware group of one thread in lane 0. -/
def firmGroup (bslot entry uid : Nat) : Group :=
  { Group.reset with
    bslot := bslot, bound := true, lanes := [(0, { Lane.reset with st := .occupied })], pc := BitVec.ofNat 32 entry
    uid := uid }

/-- A reeve starts in slot 63 of a compute core, with 64 registers and 64 bytes of shared memory (R186, R284).
(DEDUCED: log entry 21.) -/
def State.startReeve (s : State) (c entry : Nat) : State :=
  let l := firmLaunch 64 64 entry
  let (uid, s) := s.newId
  let s := s.setBlock c firmSlot { launchBlock l c firmSlot 0 [63] s.clock with weaver := false }
  s.enterSlot c 63 (firmGroup firmSlot entry uid)

/-- The image starts on a front core (R184, R294).
(DEDUCED: log entry 21.) -/
def State.startFront (s : State) (f entry : Nat) : State :=
  let c := 32 + f
  let l := firmLaunch 255 0 entry
  let (uid, s) := s.newId
  let s := s.setBlock c 0 { launchBlock l c 0 0 [0] s.clock with weaver := false, shBase := 0 }
  s.enterSlot c 0 (firmGroup 0 entry uid)

/-- Polder 0 when the image starts: every core, and a window of 64 KiB at scratchpad byte 0, whose home die is CD0 (R14,
R248). It has no frame allowance, no walk routine, no seal key and no audit nonce, and its weir registers are at reset, until the
service sets them.
(DESIGN CHOICE: log entry 14.) -/
def polderZero : Polder :=
  { Polder.reset with
    alive := true, cores := BitVec.allOnes 32, spBase := 0, spSize := 65536, shSize := sharedMem, featack := [(0, 0x7FF)] }

/-! ### The ROM (R294, R296, R297) -/

/-- L after the entries of R297. -/
def attLogOf (flash : Memory) (imageHash : List Byte) : List Byte :=
  let ext (l d : List Byte) : List Byte := sha3_512 (l ++ d)
  let l := ext (List.replicate 64 0) imageHash
  let l := ext l (sha3_512 (configRecord flash))
  let l := ext l (sha3_512 (ownerSlot flash))
  if byteAt (configRecord flash) 60 = 1 then ext l (List.replicate 64 0xFF) else l

/-! ### Owner keys and the identity certificate (R292, R294, R297) -/

/-- What the signature of an owner-key slot covers: the key, the module's identity public key, and the OWNERONLY byte (R294).
(DEDUCED: log entry 3.) -/
def ownerMessage (key : List Byte) (only : Byte) : List Byte := sha3_512 (key ++ Config.mldsaPublic (sha3_512 Config.puf) ++ [only])

/-- An owner key may be installed: it is signed with the vendor key, or with the key that is installed (R294). -/
def ownerGood (flash : Memory) (slot sig : List Byte) : Bool :=
  let m := ownerMessage (slot.take keyLen) (byteAt slot keyLen)
  slot.length = keyLen + 1 && sig.length = sigLen
    && (Config.mldsaVerify Config.vendorKey m sig
      || (ownerPresent flash && Config.mldsaVerify (mreads flash ownerAt keyLen) m sig))

/-- The image that runs installs an owner key (R294). -/
def State.installOwner (s : State) (slot sig : List Byte) : State :=
  if s.boot.phase = 2 && ownerGood s.boot.flash slot sig then
    { s with boot := { s.boot with flash := mwrites s.boot.flash ownerAt (slot ++ sig) } }
  else s

/-- The identity certificate is written (R292, R297): it lies below the image slot. -/
def State.installCert (s : State) (cert : List Byte) : State :=
  { s with boot := { s.boot with flash := mwrites s.boot.flash identityAt (cert.take (imageAt - identityAt)) } }

/-- The ROM halts with a code (R296). -/
def State.halt (s : State) (code : Nat) : State :=
  { s with boot := { s.boot with code := BitVec.ofNat 8 code, phase := 3 } }

/-- An image that passes R294 is started (R294 steps 3, 6 and 7, R297). -/
def State.startImage (s : State) (im : List Byte) : State :=
  let flash := s.boot.flash
  let len := bfield im 8 4
  let entry := bfield im 16 4
  let seed := sha3_512 Config.puf
  let l := attLogOf flash (sha3_512 (im.take (64 + len)))
  let att := sha3_512 (seed ++ l)
  let r := configRecord flash
  let s := { s with
    polders := tput s.polders 0 polderZero
    boot := { s.boot with
      code := 0, phase := 2, sram := mwrites [] 0 ((im.drop 64).take len), bodyLen := len, entry := entry
      minsvn := BitVec.ofNat 32 (bfield r 4 4), jtag := byteAt r 60 = 1, p0resv := (r.drop 64).take 32, attLog := l, attSeed := att
      attCert := Config.mldsaSign seed (Config.mldsaPublic att) } }
  let s := (List.range 32).foldl (fun s c => s.startReeve c entry) s.initBoard
  (List.range 8).foldl (fun s f => s.startFront f entry) s

/-- Port 0 as a recovery brings it up, alone (R296, R302). -/
def State.portZeroUp (s : State) : State :=
  { s with ports := tput s.ports 0 { tget Port.reset s.ports 0 with enable := true, state := 2, lanesUp := 0xFF } }

/-- What one RMA read of RECLEN bytes from the record's recovery target brings, or nothing (R295, R296). -/
def recoveryImage (record : List Byte) : Option (List Byte) :=
  let n := bfield record 56 4
  (Config.recoveryFetch record).map fun bs => padTo n (bs.take n)

/-- An image written to the image slot, which holds at most 16 MiB (R292, R296). -/
def slotWrite (flash : Memory) (im : List Byte) : Memory := mwrites flash imageAt (im.take bootSlotSize)

/-- RECOVERY (R296): port 0 is brought up, the image of the record's target is fetched and verified, then the writing of the slot
begins. -/
def State.recover (s : State) : State :=
  let s := s.portZeroUp
  match recoveryImage (configRecord s.boot.flash) with
  | none => s.halt 5
  | some im =>
    let k := imageCode s.boot.flash im
    if k ≠ 0 then s.halt k else { s with boot := { s.boot with phase := 1, writing := some im } }

/-- The ROM from step 1 (R294, R296).
(DEDUCED: log entry 14.) -/
def State.rom (s : State) : State :=
  let im := mreads s.boot.flash imageAt bootSlotSize
  if !recordGood s.boot.flash then s.halt 4
  else if imageCode s.boot.flash im = 0 then s.startImage im
  else s.recover

/-- The flash after an interruption: an image slot that was being written fails verification (R296). -/
def Boot.tornFlash (b : Boot) : Memory :=
  match b.writing with
  | some im => mwrites (slotWrite b.flash im) imageAt (List.replicate 4 0xFF)
  | none => b.flash

/-- What a module reset leaves: flash and the contents of main memory, with the model's own counters (log entry 14). -/
def State.afterReset (s : State) : State :=
  { State.reset with
    agenda := s.agenda, choices := s.choices, next := s.next, mem := s.mem, flaws := s.flaws, poison := s.poison
    boot := { Boot.reset with flash := s.boot.tornFlash } }

/-- A recovery has written the image slot, and the ROM restarts at step 1 (R296). -/
def State.recovered (s : State) : State :=
  match s.boot.writing with
  | some im =>
    State.rom { s with boot := { s.boot with flash := slotWrite s.boot.flash im, writing := none, phase := 0 } }
  | none => s

/-- MODULE_RESET (R294, R296): reset is released and the ROM runs. -/
def execModuleReset (s : State) : Out := .next (s.afterReset).rom

/-- POWER_LOSS (R296): all volatile state is lost. -/
def execPowerLoss (s : State) : Out :=
  .next <|
    let flash := s.boot.tornFlash
    { State.reset with
      agenda := s.agenda, choices := s.choices, next := s.next, powered := false, boot := { Boot.reset with flash := flash } }

end Sys2Proof.Machine
end

