-- ==== Sys2Proof/Machine/Mx.lean ====
section
/-! DEFINITION. The matrix instructions of class MX (R110 to R122) and the matrix path to shared memory (R119). -/

namespace Sys2Proof.Machine

/-- A matrix instruction needs 32 occupied lanes (R35, R315). -/
def mxFull (g : Group) : Check :=
  if lanes32.all g.occ then .ok
  else .fault { code := 2, cause := 1, lanes := ~~~g.occMask, aux := g.occMask }

/-- The matrix unit of the sub-core is busy for some clocks (R114). -/
def State.busyMx (s : State) (c sl n : Nat) : State :=
  s.onSub c sl fun x => { x with mxFree := s.coreClk c + n }

/-- The matrix unit of a slot's sub-core is busy (R114). -/
def State.mxBusy (s : State) (c sl : Nat) : Bool := decide (s.coreClk c < ((s.core c).sub (subOf sl)).mxFree)

/-- What a matrix instruction requires: 32 occupied lanes, then what its own check finds; it waits while the sub-core's matrix unit
is busy (R35, R61, R114). -/
def mxPre (own : Nat → Group → State → Check) (c sl : Nat) (g : Group) (s : State) : Check :=
  match mxFull g with
  | .ok =>
    match own c g s with
    | .ok => if s.mxBusy c sl then .stall else .ok
    | x => x
  | x => x

/-- Byte q of a unit that starts at register x of a lane (R110). -/
def unitByte (rd : Nat → Word) (x q : Nat) : Nat := (rd (x + q / 4)).toNat / 256 ^ (q % 4) % 256

/-- A[m][k] from the registers of lane m (R110). -/
def aElem (af : AFmt) (rd : Nat → Word) (a k : Nat) : FVal :=
  match af with
  | .e4m3 => e4m3.dec (unitByte rd a k)
  | .e5m2 => e5m2.dec (unitByte rd a k)
  | .bf16 => bf16.dec ((rd (a + k / 2)).toNat / 65536 ^ (k % 2) % 65536)

/-- The format of an FP8 weight. -/
def w8 : W8Fmt → FFmt
  | .e4m3 => e4m3
  | .e5m2 => e5m2

/-- An FP8 weight W[k][n] (R110). -/
def wElem (wf : W8Fmt) (rd : Nat → Word) (w k : Nat) : FVal := (w8 wf).dec (unitByte rd w k)

/-- The narrow code of element e of a 12-byte unit (R71, R110). -/
def narrowCode (wf : WFmt) (rd : Nat → Word) (x e : Nat) : Nat :=
  match wf with
  | .i3g =>
    let b (q : Nat) : Nat := unitByte rd x (3 * (e / 8) + q)
    (b 0 + 256 * b 1 + 65536 * b 2) / 2 ^ (3 * (e % 8)) % 8
  | _ => unitByte rd x (e / 2) / 16 ^ (e % 2) % 16

/-- A weight of `mmaw` at K-position k, with its scale (R72, R73, R118). -/
def wScaled (wf : WFmt) (rd : Nat → Word) (w sc bsel k : Nat) : FVal :=
  let scale := gs8 (unitByte rd sc (bsel + k / 24))
  match wf with
  | .e4m3 => scaled (e4m3.dec (unitByte rd w k)) scale
  | .e5m2 => scaled (e5m2.dec (unitByte rd w k)) scale
  | .i4g => narrow 4 (narrowCode wf rd (w + 3 * (k / 24)) (k % 24)) scale
  | .i3g => narrow 3 (narrowCode wf rd (w + 3 * (k / 24)) (k % 24)) scale

/-- Number of one bits of the low n bits. -/
def onesBelow (m : Nat) (n : Nat) : Nat := ((List.range n).filter fun i => m.testBit i).length

/-- A kept weight of `mmasp` at K-position k; none where the mask leaves the position out (R120). -/
def wSparse (wf : W8Fmt) (rd : Nat → Word) (w c n k : Nat) : Option FVal :=
  let m := (rd (c + k / 24)).toNat
  let e := k % 24
  if m.testBit e then some ((w8 wf).dec (unitByte rd (w + (k / 24) * ((n + 3) / 4)) (onesBelow m e))) else none

/-- One step of R81 on one element. -/
def mxStep (acc : Word × Flags) (terms : List FVal) : Word × Flags :=
  let r := (terms.foldl Acc.add (Acc.empty.add (fpv acc.1))).round
  (BitVec.ofNat 32 r.1, acc.2 ||| r.2)

/-- D[m][n] after s steps in ascending K (R117). -/
def mxElem (a : Nat → FVal) (w : Nat → Option FVal) (steps : Nat) (c : Word) : Word × Flags :=
  (List.range steps).foldl (init := (c, 0)) fun acc j =>
    mxStep acc ((List.range 24).filterMap fun e =>
      (w (24 * j + e)).map fun x => (mulV (a (24 * j + e)) x).1)

/-- The results of an accumulating instruction in its active lanes (R113, R117). -/
def mxResults (g : Group) (gd : Guard) (d : Reg) (z : Bool) (steps : Nat) (a : Nat → Nat → FVal)
    (w : Nat → Nat → Option FVal) : List LWrite :=
  (lanes32.filter (g.active gd)).flatMap fun n => lanes32.map fun m =>
    let r := mxElem (a m) (w n) steps (if z then 0 else g.reg n (d.toNat + m))
    { lane := n, loc := .reg (d.toNat + m), val := r.1, flags := r.2 }

/-- Clocks of an accumulating instruction (R114). -/
def mxClocks (af : AFmt) (steps : Nat) : Nat := if af = .bf16 then 2 * steps else steps

/-- An accumulating instruction with weights in registers. -/
def mxIssue (i : Instr) (own : Nat → Group → State → Check) (gd : Guard) (d a : Reg) (af : AFmt) (z : Bool) (steps clocks la : Nat)
    (w : Group → Nat → Nat → Option FVal) (s : State) : Out :=
  issueWith (issueOf i) (mxPre own)
    (fun c sl g s => (s.busyMx c sl clocks).defer c sl la
      (mxResults g gd d z steps (fun m => aElem af (g.reg m) a.toNat) (w g))) s

/-- `mma` (R115 to R117). -/
def execMma (d : Reg) (a w : Src) (af : AFmt) (wf : W8Fmt) (z : Bool) (st : BitVec 2) (la : BitVec 4) (g : Guard)
    (s : State) : Out :=
  mxIssue (.mma d a w af wf z st la g) (fun _ _ _ => .ok) g d a.reg af z (st.toNat + 1) (mxClocks af (st.toNat + 1)) la.toNat
    (fun x n k => some (wElem wf (x.reg n) w.reg.toNat k)) s

/-- `mmaw` (R118). -/
def execMmaw (d : Reg) (a w sc : Src) (af : AFmt) (wf : WFmt) (bsel : BitVec 2) (z : Bool) (st : BitVec 2)
    (la : BitVec 4) (g : Guard) (s : State) : Out :=
  mxIssue (.mmaw d a w sc af wf bsel z st la g) (fun _ _ _ => .ok) g d a.reg af z (st.toNat + 1) (mxClocks af (st.toNat + 1))
    la.toNat (fun x n k => some (wScaled wf (x.reg n) w.reg.toNat sc.reg.toNat bsel.toNat k)) s

/-- The sparsity operand fault of `mmasp` (R120, R308). -/
def sparseCheck (g : Group) (gd : Guard) (c n steps : Nat) : Check :=
  let tooMany (i j : Nat) : Bool := onesBelow (g.reg i (c + j)).toNat 24 > n
  let act := lanes32.filter (g.active gd)
  let bad (i : Nat) : Bool := g.active gd i && (List.range steps).any (tooMany i)
  match (List.range steps).find? fun j => act.any fun i => tooMany i j with
  | some j => .fault { code := 3, lanes := maskOf bad, aux := BitVec.ofNat 32 (c + j) }
  | none => .ok

/-- The own check of an `mmasp`. -/
def sparsePre (c : Src) (n : BitVec 4) (st : BitVec 2) (gd : Guard) (_c : Nat) (x : Group) (_s : State) : Check :=
  sparseCheck x gd c.reg.toNat (n.toNat + 1) (st.toNat + 1)

/-- `mmasp` (R120). -/
def execMmasp (d : Reg) (a w c : Src) (af : AFmt) (wf : W8Fmt) (n : BitVec 4) (z : Bool) (st : BitVec 2)
    (la : BitVec 4) (g : Guard) (s : State) : Out :=
  let steps := st.toNat + 1
  let kept := n.toNat + 1
  let k := (steps * max kept 8 + 23) / 24
  mxIssue (.mmasp d a w c af wf n z st la g) (sparsePre c n st g) g d a.reg af z steps
    (if af = .bf16 then 2 * k else k) la.toNat
    (fun x l e => wSparse wf (x.reg l) w.reg.toNat c.reg.toNat kept e) s

/-! ### The matrix path (R119) -/

/-- A word read through the matrix path: the value in shared memory, or an earlier one that no `fence.mx` or `bar.mx`
has ordered (R119; log entry 2). `a` is an address in the core's shared memory.
(DEDUCED: log entry 26.) -/
def State.mxRead (s : State) (c a : Nat) : Word × State :=
  let k := s.core c
  match tget [] k.mxHist a with
  | [] => (mget32 k.sh a, s)
  | old =>
    let (f, s) := s.fresh
    ((mget32 k.sh a :: old).getD (f.toNat % (old.length + 1)) 0, s)

/-- The words of a fragment image of `n` registers at core address `a`, register-major (R111). -/
def State.mxImage (s : State) (c a n : Nat) : List Word × State :=
  (List.range (32 * n)).foldl (init := ([], s)) fun (ws, s) i =>
    let (w, s) := s.mxRead c (a + 4 * i)
    (ws ++ [w], s)

/-- Alignment and window of a fragment image at block address `b` (R119, R315).
(DEDUCED: an instruction active in no lane, log entry 58.) -/
def imageCheck (g : Group) (s : State) (c b n : Nat) : Check :=
  let size := match s.block c g.bslot with | some x => x.shSize | none => 0
  if b % 128 ≠ 0 then .fault { code := 4, cause := 3, lanes := 1, addr := BitVec.ofNat 64 b, aux := s.ir }
  else if b + 128 * n > size then .fault { code := 5, cause := 3, lanes := 1, addr := BitVec.ofNat 64 b, aux := s.ir }
  else .ok

/-- The own check of an `mmas` and of an `ldfrag`: the address that lane 0 gives. -/
def imagePre (a : Src) (off n : Nat) (c : Nat) (x : Group) (s : State) : Check :=
  imageCheck x s c ((x.reg 0 a.reg.toNat).toNat + off) n

/-- `mmas` (R119). -/
def execMmas (d : Reg) (a b : Src) (af : AFmt) (wf : W8Fmt) (z : Bool) (st : BitVec 2) (la : BitVec 4) (g : Guard)
    (s : State) : Out :=
  let steps := st.toNat + 1
  issueWith (issueOf (.mmas d a b af wf z st la g)) (mxPre (imagePre b 0 (6 * steps)))
    (fun c sl x s =>
      let (ws, s) := s.mxImage c (s.shBaseOf c x + (x.reg 0 b.reg.toNat).toNat) (6 * steps)
      (s.busyMx c sl (mxClocks af steps)).defer c sl la.toNat
        (mxResults x g d z steps (fun m => aElem af (x.reg m) a.reg.toNat)
          (fun n k => some (wElem wf (fun r => ws.getD (32 * r + n) 0) 0 k)))) s

/-- `ldfrag` (R121). -/
def execLdfrag (d : Reg) (a : Src) (cnt : BitVec 5) (off : BitVec 20) (la : BitVec 4) (g : Guard) (s : State) : Out :=
  let n := cnt.toNat + 1
  issueWith (issueOf (.ldfrag d a cnt off la g)) (mxPre (imagePre a off.toNat n))
    (fun c sl x s =>
      let (ws, s) := s.mxImage c (s.shBaseOf c x + (x.reg 0 a.reg.toNat).toNat + off.toNat) n
      (s.busyMx c sl ((n + 7) / 8)).defer c sl la.toNat
        ((lanes32.filter (x.active g)).flatMap fun l => (List.range n).map fun i =>
          { lane := l, loc := .reg (d.toNat + i), val := ws.getD (32 * i + l) 0, flags := 0 })) s

/-- The format of a converting `fxpose`; none for `.b32`. -/
def xposeFmt : XFmt → Option Fmt
  | .b32 => none
  | .e4m3 => some .e4m3
  | .e5m2 => some .e5m2
  | .bf16 => some .bf16

/-- Row `l` of the transposed matrix: registers, each with the flags of its conversions (R122). -/
def xposeRow (f : XFmt) (sat : Bool) (rm : RM) (x : Nat → Word) : List (Word × Flags) :=
  match xposeFmt f with
  | none => lanes32.map fun n => (x n, 0)
  | some t =>
    let per := 32 / fmtWidth t
    (List.range (32 / per)).map fun r =>
      let cs := (List.range per).map fun i => convert t .f32 rm sat (x (r * per + i)).toNat
      (BitVec.ofNat 32 (total ((List.range per).map fun i => (cs.getD i (0, 0)).1 * 2 ^ (fmtWidth t * i))),
        cs.foldl (fun b c => b ||| c.2) 0)

/-- `fxpose` (R122). -/
def execFxpose (d : Reg) (a : Src) (f : XFmt) (sat : Bool) (rm : RM) (la : BitVec 4) (g : Guard) (s : State) : Out :=
  issueWith (issueOf (.fxpose d a f sat rm la g)) (mxPre fun _ _ _ => .ok)
    (fun c sl x s => (s.busyMx c sl 2).defer c sl la.toNat
      ((lanes32.filter (x.active g)).flatMap fun l =>
        let r := xposeRow f sat rm fun n => x.reg n (a.reg.toNat + l)
        (List.range r.length).map fun i =>
          let w := r.getD i (0, 0)
          { lane := l, loc := .reg (d.toNat + i), val := w.1, flags := w.2 })) s

end Sys2Proof.Machine
end

