-- ==== Sys2Proof/Machine/Ready.lean ====
section
/-! DEFINITION. What holds an instruction back at its issue, over all instructions: a group whose next instruction must wait takes
no part in arbitration (R61, R255). -/

namespace Sys2Proof.Machine

/-- The check that the issue of an instruction makes first; one that no rule holds back passes. -/
def preOf (i : Instr) : Nat → Nat → Group → State → Check :=
  match i with
  | .bra n off gd => braPre n off gd
  | .brx n t gd => brxPre n t gd
  | .call _ _ => callPre
  | .callx n t => callxPre n t
  | .ret n => retPre n
  | .exit gd => exitPre gd
  | .yield => yieldPre
  | .trap code gd => trapPre code gd
  | .brk code => brkPre code
  | .spawn _ _ _ _ _ _ => spawnPre
  | .reord _ _ k _ gd => reordPre k gd
  | .wflush => wflushPre
  | .bar => barPre .blk
  | .barMx => barPre .blk
  | .gsync => barPre .die
  | .batch c gd => batchPre c gd
  | .ldsh _ a _ w off _ _ gd => ldshPre a w off gd
  | .stsh a _ _ w off _ gd => stshPre a w off gd
  | .atsh _ a _ _ _ sem w64 sc _ gd => atshPre a sem w64 sc gd
  | .ldsp _ a _ w off _ _ gd => ldspPre a w off gd
  | .stsp a _ _ w off _ gd => stspPre a w off gd
  | .atsp _ a _ _ _ sem w64 sc _ gd => atspPre a sem w64 sc gd
  | .ldc _ a w off _ gd => ldcPre a w off gd
  | .sreg _ r _ _ => sregPre (decide (r = .fstat))
  | .sregClr _ _ _ => sregPre true
  | .mma _ _ _ _ _ _ _ _ _ => mxPre fun _ _ _ => .ok
  | .mmaw _ _ _ _ _ _ _ _ _ _ _ => mxPre fun _ _ _ => .ok
  | .mmasp _ _ _ c _ _ n _ st _ g => mxPre (sparsePre c n st g)
  | .mmas _ _ b _ _ _ st _ _ => mxPre (imagePre b 0 (6 * (st.toNat + 1)))
  | .ldfrag _ a cnt off _ _ => mxPre (imagePre a off.toNat (cnt.toNat + 1))
  | .fxpose _ _ _ _ _ _ _ => mxPre fun _ _ _ => .ok
  | .cpy a v o _ _ sp gd => cpyPre a v o sp gd
  | .sealRec _ a r gd => sealPre a r gd
  | .gat n r x o isp rsp gd => gatherPre n r x o isp rsp gd
  | .sct n r x o isp rsp _ _ gd => sctPre n r x o isp rsp gd
  | .matom _ _ _ _ _ _ _ => lanePre
  | .mred _ _ _ _ _ => lanePre
  | .bkrun a gd => bkrunPre a gd
  | .pred r x o gd => predPre r x o gd
  | .pchk r x o gd => predPre r x o gd
  | _ => fun _ _ _ _ => .ok

/-- What `fence.sys` waits for holds back a SYS instruction that acts (R183). -/
def sysHeld (v : Issue) (g : Group) (s : State) : Bool := v.cls = 7 && (g.opLane v.guard).isSome && !s.fenceOk g .sys

/-- A check that only makes its group wait. -/
def Check.waits : Check → Bool
  | .stall => true
  | .room _ => true
  | _ => false

/-- A group's next instruction would only wait: no other cause stops it first (R61, R310). -/
def State.heldBack (s : State) (c sl : Nat) (g : Group) (cl : Clause) (i : Instr) : Bool :=
  let v := issueOf i
  (illegalCause v s c sl g cl).isNone && (sysHeld v g s || (preOf i c sl g s).waits)

/-- The two words at a group's PC inside its clause. -/
def Clause.at' (cl : Clause) (pc : Word) : Word × Word :=
  let i := ((pc - cl.hdrPc).toNat / 4) - 1
  (cl.words.getD i 0, cl.words.getD (i + 1) 0)

/-- The sizes of the records for which a group's next instruction finds no room (R36). -/
def State.roomNeed (s : State) (c sl : Nat) (g : Group) : Option (List Nat) :=
  match g.clause with
  | some cl =>
    match decodeVilesk (cl.at' g.pc).1 (cl.at' g.pc).2 with
    | some i =>
      match illegalCause (issueOf i) s c sl g cl, preOf i c sl g s with
      | none, .room sizes => some sizes
      | _, _ => none
    | none => none
  | none => none

/-- The groups of a sub-core whose next instruction finds no room for its records begin to wait for it, in the order of their
slots and without a port (R36, R61). -/
def State.roomWaits (s : State) (c sub : Nat) : State :=
  (List.range 16).foldl (init := s) fun s i =>
    match s.group c (16 * sub + i) with
    | some g =>
      if g.stalled || g.occs = [] then s
      else match s.roomNeed c (16 * sub + i) g with
        | some sizes => s.awaitRoom c (16 * sub + i) g sizes
        | none => s
    | none => s

/-- A group waits for room that is there: it arbitrates again (R36, R61). -/
def Group.roomFree (g : Group) : Bool :=
  match g.waiting with
  | .room _ _ free => free && !g.parked
  | _ => false

/-- A group whose room was free takes its turn: its wait is over where its records still fit; else it keeps its place in the order
(R36). -/
def State.roomTurn (s : State) (c sl : Nat) : State :=
  match s.group c sl with
  | some g =>
    match g.waiting with
    | .room n sizes true =>
      let w : Wait := if s.fits c (s.launchOf c g).polder sizes then .none else .room n sizes false
      s.setGroup c sl { g with waiting := w }
    | _ => s
  | none => s

end Sys2Proof.Machine
end

