-- ==== Sys2Proof/Machine/Steps.lean ====
section
/-! DEFINITION. Fetching and decoding an agent's next instruction (R48 to R52, R314), clause headers (R50), the issue
cycle (R255, R256) and the arrival of long-latency results (R60, R222). -/

namespace Sys2Proof.Machine

/-! ### Clauses (R50, R340) -/

/-- Code words of a clause after its header (R50). -/
def codeWords (h : Header) : Nat :=
  h.count.toNat + ((List.range h.count.toNat).filter fun i => h.width.getLsbD i).length

/-- What a fetch of a clause's words finds. -/
inductive ClauseFetch where
  | words (ws : List Word)
  | wait
  | fail (f : FaultAt)
deriving DecidableEq, Repr

/-- Fetches code words from a PC upward. -/
def State.fetchWords (s : State) (c sl : Nat) (g : Group) (pc : Word) : Nat → ClauseFetch × State
  | 0 => (.words [], s)
  | n + 1 =>
    match s.fetchWord c sl g pc with
    | (.wait, s) => (.wait, s)
    | (.fail f, s) => (.fail f, s)
    | (.word w, s) =>
      match State.fetchWords s c sl g (pc + 4) n with
      | (.words ws, s) => (.words (w :: ws), s)
      | r => r

/-- Classes of a header's wait (R50). -/
def headerWaits (h : Header) : List Cls :=
  match wclsOf h.wclass with
  | some k => classesOf k
  | none => []

/-- The group enters its clause.
(DEDUCED: log entry 54.) -/
def State.enterClause (s : State) (c sl : Nat) (h : Header) (pc : Word) (ws : List Word) : State :=
  s.onGroup c sl fun g => { g with clause := some { hdr := h, hdrPc := pc, done := 0, words := ws }, pc := pc + 4 }

/-- A clause with a wait starts a run (R58). -/
def State.startRun (s : State) (c sl : Nat) (h : Header) : State :=
  match s.group c sl with
  | some g => if h.wclass ≠ 0 && g.run ≠ 0 then s.endRun c sl else s
  | none => s

/-- The header's wait is performed (R50, R146): the group goes on into its clause where the wait is satisfied. -/
def State.headerWait (s : State) (c sl : Nat) (h : Header) (pc : Word) (ws : List Word) : State :=
  if headerWaits h = [] then s.enterClause c sl h pc ws
  else
    let s := (s.onGroup c sl fun g => { g with waiting := .header (headerWaits h) h.wthresh.toNat }).settleBatches c sl
    match s.group c sl with
    | some g => if g.waiting = .none && !g.parked && g.pc = pc then s.enterClause c sl h pc ws else s
    | none => s

/-- CLAUSE_HEADER (R50, R58, R314, R340): the length of the run first, then the fetch of the clause, then its wait. A
group of a block that is being pre-empted stops at a run boundary (R253).
(DEDUCED: ADDR of its faults, log entry 47.) -/
def execClauseHeader (h : Header) (s : State) : Out :=
  .next <|
    match s.cur with
    | .group c sl =>
      match s.group c sl with
      | some g0 =>
        if g0.stalled || g0.clause.isSome || g0.occs = [] then s
        else
          let s := s.startRun c sl h
          let g := (s.group c sl).getD g0
          if g.run = 0 && s.stopping c g then s
          else if g.run + h.count.toNat > 24 then
            s.takeFault c sl { code := 1, cause := 2, lanes := g.occMask, addr := g.pc.setWidth 64, aux := s.ir } noPc
          else
            match s.fetchWords c sl g (g.pc + 4) (codeWords h) with
            | (.words ws, s) => s.headerWait c sl h g.pc ws
            | (.wait, s) => s
            | (.fail f, s) => s.parkAt c sl f g.pc
      | none => s
    | _ => s

/-! ### An agent's next instruction -/

/-- What an agent is about to do: an instruction, or no instruction in a state that its fetch has led to. -/
inductive Turn where
  | run (i : Instr) (s : State)
  | stop (s : State)

/-- A register field of a word pair: DST, SRC0, SRC1 or SRC2 (R53, R54). -/
structure RegField where
  second : Bool
  pos    : Nat
deriving DecidableEq, Repr

/-- What a register field holds. -/
def RegField.get (f : RegField) (a b : Word) : Nat := ((if f.second then b else a).extractLsb' f.pos 8).toNat

/-- A word pair with another number in a register field. -/
def RegField.set (f : RegField) (r : Nat) (w : Word × Word) : Word × Word :=
  let put (x : Word) : Word := (x &&& ~~~((0xFF : Word) <<< f.pos)) ||| (BitVec.ofNat 32 r <<< f.pos)
  if f.second then (w.1, put w.2) else (put w.1, w.2)

/-- The register fields of a format. -/
def formFields (f : Form) : List RegField :=
  let first : List RegField := [{ second := false, pos := 16 }, { second := false, pos := 8 }]
  match f with
  | .reg => first ++ [{ second := true, pos := 24 }, { second := true, pos := 14 }]
  | _ => first

/-- The register ranges of a decodable pair. -/
def pairRanges (w : Word × Word) : List (Nat × Nat) :=
  match decodeVilesk w.1 w.2 with
  | some i => (issueOf i).named ++ (issueOf i).strict
  | none => []

/-- The registers that an instruction takes from a field, the other high fields being 0: those of a range whose base the field
gives; none where the field holds a predicate, a format or a selector. -/
def RegField.len (f : RegField) (w : Word × Word) : Nat :=
  let moved := ((pairRanges (f.set 4 w)).zip (pairRanges (f.set 8 w))).filter fun r => r.1.1 = 4 && r.2.1 = 8
  (moved.map (·.1.2)).foldl max 0

/-- The register fields of an undecodable pair whose registers pass v254 or the allocation (R314); a field that holds no register
is none. -/
def passing (f : Form) (top : Nat) (a b : Word) : List RegField :=
  let high := (formFields f).filter fun x => x.get a b + 3 ≥ top
  let low := high.foldl (fun w x => x.set 0 w) (a, b)
  high.filter fun x => x.len low ≠ 0 && decide (x.get a b + x.len low > top)

/-- The cause of an instruction that no encoding gives, after those that come before FIELD: where registers that pass v254 or the
allocation are all that is wrong, REGRANGE, or CLAUSEEND before it; else FIELD (R314).
(DEDUCED: log entry 28.) -/
def fieldCause (f : Form) (top : Nat) (cl : Clause) (a b : Word) : Nat :=
  let w := (passing f top a b).foldl (fun w x => x.set 0 w) (a, b)
  match decodeVilesk w.1 w.2 with
  | some i => if (issueOf i).ends && !cl.isLast then 9 else 10
  | none => 8

/-- The class of an undecodable instruction's place in R314's order: the first cause that applies.
(DEDUCED: log entry 28.) -/
def badCause (s : State) (c sl : Nat) (g : Group) (cl : Clause) (a b : Word) : Nat :=
  let m := (fMajor a).toNat
  let ack (k : Nat) : Bool := (tget 0 (s.polder (s.launchOf c g).polder).featack 0).getLsbD k
  match majorForm m with
  | none => 5
  | some f =>
    if majorClass m ≠ cl.hdr.cls.toNat then 3
    else if cl.hdr.width.getLsbD cl.done ≠ decide (f ≠ .one) then 4
    else if c ≥ 32 && (majorClass m = 4 || [0x0C, 0x0D, 0xA2, 0xA3, 0xA6, 0xA7, 0xA8].contains m) then 5
    else if majorClass m = 7 && !sysPlace c sl then 6
    else if (m = 0x0C && !ack 10) || (m = 0x0D && !ack 9) || (m = 0xA6 && !ack 1) || ((m = 0xA7 || m = 0xA8) && !ack 2)
        || (m = 0x73 && !ack 3)
        || (m = 0x71 && (wfmt (b.extractLsb' 2 2) = .i4g || wfmt (b.extractLsb' 2 2) = .i3g) && !ack 4) then 7
    else fieldCause f (min (allocOf (s.launchOf c g)) 255) cl a b

/-- A group's next instruction: its clause header, or the words of its clause. -/
def State.groupTurn (s : State) (c sl : Nat) : Turn :=
  let s := s.roomTurn c sl
  match s.group c sl with
  | some g =>
    if g.stalled || g.occs = [] then .stop s
    else
      match g.clause with
      | some cl =>
        let (a, b) := cl.at' g.pc
        let s := { s with ir := a }
        match decodeVilesk a b with
        | some i => .run i s
        | none =>
          .stop (s.takeFault c sl { code := 1, cause := badCause s c sl g cl a b, lanes := g.occMask, aux := a } (resumeOf g))
      | none =>
        if (g.run = 0 && s.stopping c g) || s.evictsNow c g then .stop s
        else
          match s.fetchWord c sl g g.pc with
          | (.wait, s) => .stop s
          | (.fail f, s) => .stop (s.parkAt c sl f g.pc)
          | (.word w, s) =>
            let s := { s with ir := w }
            match decodeHeader w with
            | some h => .run (.clauseHeader h) s
            | none =>
              .stop (s.takeFault c sl { code := 1, cause := 1, lanes := g.occMask, addr := g.pc.setWidth 64, aux := w } noPc)
  | none => .stop s

/-- A walker's next instruction (R268, R274): a PC past the routine's last word, or a reserved word, is WILLEGAL. -/
def State.walkerTurn (s : State) (d w : Nat) : Turn :=
  match s.walkNow with
  | some (_, _, x, fr) =>
    if x.cycles ≥ walkLimit s x.polder then .stop (s.walkFail d w x 3)
    else if fr.pc > 1023 then .stop (s.walkFail d w { x with cycles := x.cycles + 1 } 7)
    else
      let v := mget32 x.routine (4 * fr.pc)
      let s := { s with ir := v }
      match decodeWalker v with
      | some i => .run i s
      | none => .stop (s.walkFail d w { x with cycles := x.cycles + 1 } 7)
  | none => .stop s

/-- A bank item's next instruction; a program with a reserved word never starts (R209). -/
def State.itemTurn (s : State) (run pc i : Nat) : Turn :=
  match tfind s.runs run with
  | some r =>
    match tfind r.items (itemKey pc i) with
    | some x =>
      if x.ended then .stop s
      else
        let w := ((r.load x.stack).map (·.prog)).getD [] |>.getD x.pc 0
        match decodeBank w with
        | some j => .run j { s with ir := w }
        | none => .stop s
    | none => .stop s
  | none => .stop s

/-- The next instruction of the current agent. -/
def State.turn (s : State) : Turn :=
  match s.cur with
  | .group c sl => s.groupTurn c sl
  | .walker d w => s.walkerTurn d w
  | .item r pc i => s.itemTurn r pc i
  | .none => .stop s

/-! ### The issue cycle (R255, R256) -/

/-- A group that may take a port or go on: it holds a thread, nothing makes it or its next instruction wait, and it is not held at a run
boundary, by a pre-emption or, in a re-execution, for an eviction (R61, R253, R261). -/
def State.groupReady (s : State) (c sl : Nat) : Bool :=
  match s.group c sl with
  | some g => (!g.stalled || g.roomFree) && g.occs ≠ [] && !(g.run = 0 && g.clause = none && s.stopping c g) && !s.evictsNow c g && match g.clause with
      | some cl => match decodeVilesk (cl.at' g.pc).1 (cl.at' g.pc).2 with
        | some i => !s.heldBack c sl g cl i
        | none => true
      | none => true
  | none => false

/-- What a group's next instruction needs, where it stands inside a clause. -/
def State.nextIssue (s : State) (c sl : Nat) : Option (Issue × List Nat) :=
  match s.group c sl with
  | some g =>
    match g.clause with
    | some cl => (decodeVilesk (cl.at' g.pc).1 (cl.at' g.pc).2).map fun i => (issueOf i, g.cache)
    | none => none
  | none => none

/-- Two instructions conflict (R255 step 3). -/
def conflict (x y : Option (Issue × List Nat)) : Bool :=
  match x, y with
  | some (u, p), some (v, q) =>
    ((List.range 4).any fun b => bankReads u p b + bankReads v q b > 2) || (u.cls = 4 && v.cls = 4)
      || (u.cls = 6 && v.cls = 6)
  | _, _ => false

/-- A group's next instruction is of class ENG. -/
def State.wantsEng (s : State) (c sl : Nat) : Bool :=
  match s.nextIssue c sl with
  | some e => e.1.cls = 6
  | none => false

/-- A sub-core may issue an ENG instruction now: none has issued in this cycle, and no sub-core before it in the rotation
has one at a port (R255). -/
def State.engTurn (s : State) (c sub : Nat) : Bool :=
  let k := s.core c
  let dist (j : Nat) : Nat := (j + 3 - k.lastEng) % 4
  let wants (j : Nat) : Bool := ((k.sub j).portA.toList ++ (k.sub j).portB.toList).any fun sl =>
    s.groupReady c sl && s.wantsEng c sl
  decide (k.engAt ≤ s.coreClk c) && (List.range 4).all fun j => dist j ≥ dist sub || !wants j

/-- The ports after free ones have taken groups (R255 steps 1 and 2). -/
def State.takePorts (s : State) (c sub : Nat) : SubCore :=
  let x := (s.core c).sub sub
  let live (p : Option Nat) : Option Nat := match p with
    | some sl => if s.groupReady c sl then some sl else none
    | none => none
  let a0 := live x.portA
  let b0 := if c ≥ 32 then none else live x.portB
  let a := match a0 with
    | some sl => some sl
    | none => x.order.find? fun sl => s.groupReady c sl && b0 ≠ some sl
  let b := match b0 with
    | some sl => some sl
    | none => if c ≥ 32 then none else x.order.find? fun sl =>
        s.groupReady c sl && a ≠ some sl && !conflict (a.bind (s.nextIssue c)) (s.nextIssue c sl)
  { x with portA := a, portB := b }

/-- A port's instruction takes two cycles of it (R255). -/
def twoCycles (x : Option (Issue × List Nat)) : Bool :=
  match x with
  | some e => portCycles e.1 e.2 = 2
  | none => false

/-- The groups that issue in a cycle through the ports, with the ports after it. -/
def State.portTurns (s : State) (c sub : Nat) : List Nat × SubCore :=
  let x := s.takePorts c sub
  let na := x.portA.bind (s.nextIssue c)
  let nb := x.portB.bind (s.nextIssue c)
  let eng (p : Option Nat) : Bool := match p with
    | some sl => !s.wantsEng c sl || s.engTurn c sub
    | none => true
  let a := !x.holdA && x.portA.isSome && eng x.portA
  let b := !x.holdB && x.portB.isSome && eng x.portB && !(a && conflict na nb)
  ((if a then x.portA.toList else []) ++ if b then x.portB.toList else [],
    { x with holdA := a && twoCycles na, holdB := b && twoCycles nb })

/-- A sub-core may begin an issue cycle: it has had none in this core clock, and no sub-core above it has (R109, R255). -/
def State.mayIssue (s : State) (core sub : Nat) : Bool :=
  decide (sub < 4) && decide (core < 40) && (decide (core < 32) || sub = 0)
    && (List.range 4).all fun j => j < sub || decide (((s.core core).sub j).issued ≤ s.coreClk core)

/-- ISSUE_CYCLE (R255, R256): in barrel mode the slot that owns the core clock issues, else the groups at the ports. Groups
that issue in one cycle act in the order of their slots (R38). -/
def execIssueCycle (core sub : Nat) (s : State) : Out :=
  .next <|
    if !s.mayIssue core sub then s
    else
      let s := s.roomWaits core sub
      let k := s.core core
      let clk := s.coreClk core
      let r := if k.barrel && core < 32 then
          let sl := 16 * sub + clk % 16
          (if s.groupReady core sl && (!s.wantsEng core sl || s.engTurn core sub) then [sl] else [],
            { k.sub sub with portA := none, portB := none })
        else s.portTurns core sub
      let eng := r.1.any (s.wantsEng core)
      if r.1.any fun sl => !k.inOrder s.clock sl then s
      else
      let s := s.setCore core { k with
        subs := tput k.subs sub { r.2 with issued := clk + 1 }
        engAt := if eng then clk + 1 else k.engAt, lastEng := if eng then sub else k.lastEng }
      { s with turns := s.turns ++ (sortBy id r.1).map (.group core) }

/-! ### Results arrive (R60, R222) -/

/-- LONG_LATENCY_RESULT (R60): the results of one instruction are written, once all of them are there (R220). -/
def execLongLatencyResult (core slot id : Nat) (s : State) : Out :=
  .next <|
    match s.group core slot with
    | some g =>
      match g.inflight.find? fun f => f.id = id && !f.reply && f.todo = [] with
      | some f => s.setGroup core slot (g.land f)
      | none => s
    | none => s

/-- ATSP_REPLY (R222): once every lane has been applied at its home die, the old values arrive, and the core's read cache takes the
atomic's own results. -/
def execAtspReply (core slot id : Nat) (s : State) : Out :=
  .next <|
    match s.flight core slot id with
    | some f => if f.reply && f.todo = [] then s.replyLand core slot id else s
    | none => s

end Sys2Proof.Machine
end

