-- ==== Sys2Proof/Machine/Dispatch.lean ====
section
/-! DEFINITION. The meaning of every step: one arm per constructor. -/

namespace Sys2Proof.Machine

open Sys2Proof

def exec (i : Instr) (s : State) : Host.Outcome State Fault Refusal :=
  match i with
  | .nop => Sys2Proof.Machine.execNop s
  | .bra n off g => Sys2Proof.Machine.execBra n off g s
  | .brx n t g => Sys2Proof.Machine.execBrx n t g s
  | .call n off => Sys2Proof.Machine.execCall n off s
  | .callx n t => Sys2Proof.Machine.execCallx n t s
  | .ret n => Sys2Proof.Machine.execRet n s
  | .join timeout off => Sys2Proof.Machine.execJoin timeout off s
  | .exit g => Sys2Proof.Machine.execExit g s
  | .yield => Sys2Proof.Machine.execYield s
  | .sleep cycles g => Sys2Proof.Machine.execSleep cycles g s
  | .trap code g => Sys2Proof.Machine.execTrap code g s
  | .brk code => Sys2Proof.Machine.execBrk code s
  | .spawn blk other v k off g => Sys2Proof.Machine.execSpawn blk other v k off g s
  | .reord key v k off g => Sys2Proof.Machine.execReord key v k off g s
  | .wflush => Sys2Proof.Machine.execWflush s
  | .tile w => Sys2Proof.Machine.execTile w s
  | .iadd d a b ty sat g => Sys2Proof.Machine.execIadd d a b ty sat g s
  | .iaddImm d a ty sat imm => Sys2Proof.Machine.execIaddImm d a ty sat imm s
  | .isub d a b ty sat g => Sys2Proof.Machine.execIsub d a b ty sat g s
  | .imul d a b ty sat g => Sys2Proof.Machine.execImul d a b ty sat g s
  | .imulImm d a ty sat imm => Sys2Proof.Machine.execImulImm d a ty sat imm s
  | .imulhi d a b ty g => Sys2Proof.Machine.execImulhi d a b ty g s
  | .imad d a b c ty sat g => Sys2Proof.Machine.execImad d a b c ty sat g s
  | .iabs d a ty sat g => Sys2Proof.Machine.execIabs d a ty sat g s
  | .imin d a b ty g => Sys2Proof.Machine.execImin d a b ty g s
  | .imax d a b ty g => Sys2Proof.Machine.execImax d a b ty g s
  | .and d a b g => Sys2Proof.Machine.execAnd d a b g s
  | .andImm d a imm => Sys2Proof.Machine.execAndImm d a imm s
  | .or d a b g => Sys2Proof.Machine.execOr d a b g s
  | .orImm d a imm => Sys2Proof.Machine.execOrImm d a imm s
  | .xor d a b g => Sys2Proof.Machine.execXor d a b g s
  | .xorImm d a imm => Sys2Proof.Machine.execXorImm d a imm s
  | .not d a g => Sys2Proof.Machine.execNot d a g s
  | .shl d a b g => Sys2Proof.Machine.execShl d a b g s
  | .shr d a b g => Sys2Proof.Machine.execShr d a b g s
  | .sar d a b g => Sys2Proof.Machine.execSar d a b g s
  | .popc d a g => Sys2Proof.Machine.execPopc d a g s
  | .clz d a g => Sys2Proof.Machine.execClz d a g s
  | .brev d a g => Sys2Proof.Machine.execBrev d a g s
  | .bfx d a b ty g => Sys2Proof.Machine.execBfx d a b ty g s
  | .bfi d a b c g => Sys2Proof.Machine.execBfi d a b c g s
  | .sel d a b q qneg g => Sys2Proof.Machine.execSel d a b q qneg g s
  | .cmp pd a b ty c g => Sys2Proof.Machine.execCmp pd a b ty c g s
  | .idp4 d a b c na nb sat g => Sys2Proof.Machine.execIdp4 d a b c na nb sat g s
  | .addc d a b pout sub cin g => Sys2Proof.Machine.execAddc d a b pout sub cin g s
  | .lea d a b sh sgn g => Sys2Proof.Machine.execLea d a b sh sgn g s
  | .mov d a g => Sys2Proof.Machine.execMov d a g s
  | .movP2r d g => Sys2Proof.Machine.execMovP2r d g s
  | .movR2p a g => Sys2Proof.Machine.execMovR2p a g s
  | .movi d imm => Sys2Proof.Machine.execMovi d imm s
  | .fadd d a b rm g => Sys2Proof.Machine.execFadd d a b rm g s
  | .faddImm d a imm => Sys2Proof.Machine.execFaddImm d a imm s
  | .fsub d a b rm g => Sys2Proof.Machine.execFsub d a b rm g s
  | .fmul d a b rm g => Sys2Proof.Machine.execFmul d a b rm g s
  | .fmulImm d a imm => Sys2Proof.Machine.execFmulImm d a imm s
  | .ffma d a b c rm g => Sys2Proof.Machine.execFfma d a b c rm g s
  | .fmin d a b g => Sys2Proof.Machine.execFmin d a b g s
  | .fmax d a b g => Sys2Proof.Machine.execFmax d a b g s
  | .fcmp pd a b c g => Sys2Proof.Machine.execFcmp pd a b c g s
  | .frnd d a rm g => Sys2Proof.Machine.execFrnd d a rm g s
  | .cvt d a c df sf dsel ssel sat rm g => Sys2Proof.Machine.execCvt d a c df sf dsel ssel sat rm g s
  | .hadd2 d a b f rm g => Sys2Proof.Machine.execHadd2 d a b f rm g s
  | .hmul2 d a b f rm g => Sys2Proof.Machine.execHmul2 d a b f rm g s
  | .hfma2 d a b c f rm g => Sys2Proof.Machine.execHfma2 d a b c f rm g s
  | .frcp d a rm la g => Sys2Proof.Machine.execFrcp d a rm la g s
  | .frsq d a rm la g => Sys2Proof.Machine.execFrsq d a rm la g s
  | .fsqrt d a rm la g => Sys2Proof.Machine.execFsqrt d a rm la g s
  | .fexp2 d a rm la g => Sys2Proof.Machine.execFexp2 d a rm la g s
  | .flog2 d a rm la g => Sys2Proof.Machine.execFlog2 d a rm la g s
  | .fsin d a rm la g => Sys2Proof.Machine.execFsin d a rm la g s
  | .fcos d a rm la g => Sys2Proof.Machine.execFcos d a rm la g s
  | .ftanh d a rm la g => Sys2Proof.Machine.execFtanh d a rm la g s
  | .qswap d a m la g => Sys2Proof.Machine.execQswap d a m la g s
  | .qbcast d a k la g => Sys2Proof.Machine.execQbcast d a k la g s
  | .shfl d a b m la g => Sys2Proof.Machine.execShfl d a b m la g s
  | .vote d q m occ la g => Sys2Proof.Machine.execVote d q m occ la g s
  | .redadd d a ty occ sat la g => Sys2Proof.Machine.execRedadd d a ty occ sat la g s
  | .redmax d a ty occ la g => Sys2Proof.Machine.execRedmax d a ty occ la g s
  | .redmin d a ty occ la g => Sys2Proof.Machine.execRedmin d a ty occ la g s
  | .scan d a op ty occ sat excl la g => Sys2Proof.Machine.execScan d a op ty occ sat excl la g s
  | .mma d a w af wf z steps la g => Sys2Proof.Machine.execMma d a w af wf z steps la g s
  | .mmaw d a w sc af wf bsel z steps la g => Sys2Proof.Machine.execMmaw d a w sc af wf bsel z steps la g s
  | .mmas d a b af wf z steps la g => Sys2Proof.Machine.execMmas d a b af wf z steps la g s
  | .mmasp d a w c af wf n z steps la g => Sys2Proof.Machine.execMmasp d a w c af wf n z steps la g s
  | .ldfrag d a cnt off la g => Sys2Proof.Machine.execLdfrag d a cnt off la g s
  | .fxpose d a f sat rm la g => Sys2Proof.Machine.execFxpose d a f sat rm la g s
  | .ldsh d a sem w off sc la g => Sys2Proof.Machine.execLdsh d a sem w off sc la g s
  | .stsh a v sem w off sc g => Sys2Proof.Machine.execStsh a v sem w off sc g s
  | .atsh d a b c op sem w64 sc la g => Sys2Proof.Machine.execAtsh d a b c op sem w64 sc la g s
  | .ldsp d a sem w off sc la g => Sys2Proof.Machine.execLdsp d a sem w off sc la g s
  | .stsp a v sem w off sc g => Sys2Proof.Machine.execStsp a v sem w off sc g s
  | .atsp d a b c op sem w64 sc la g => Sys2Proof.Machine.execAtsp d a b c op sem w64 sc la g s
  | .ldc d a w off la g => Sys2Proof.Machine.execLdc d a w off la g s
  | .sreg d r la g => Sys2Proof.Machine.execSreg d r la g s
  | .sregClr d la g => Sys2Proof.Machine.execSregClr d la g s
  | .cpy a v o st solo sp g => Sys2Proof.Machine.execCpy a v o st solo sp g s
  | .sealRec d a rec128 g => Sys2Proof.Machine.execSealRec d a rec128 g s
  | .gat n r ix o isp rsp g => Sys2Proof.Machine.execGat n r ix o isp rsp g s
  | .sct n r ix o isp rsp comb f g => Sys2Proof.Machine.execSct n r ix o isp rsp comb f g s
  | .matom d a b c op w64 g => Sys2Proof.Machine.execMatom d a b c op w64 g s
  | .mred a b op f g => Sys2Proof.Machine.execMred a b op f g s
  | .bkrun a g => Sys2Proof.Machine.execBkrun a g s
  | .pred r x o g => Sys2Proof.Machine.execPred r x o g s
  | .pchk r x o g => Sys2Proof.Machine.execPchk r x o g s
  | .batch c g => Sys2Proof.Machine.execBatch c g s
  | .wait d c n g => Sys2Proof.Machine.execWait d c n g s
  | .fence sc g => Sys2Proof.Machine.execFence sc g s
  | .bar => Sys2Proof.Machine.execBar s
  | .barMx => Sys2Proof.Machine.execBarMx s
  | .gsync => Sys2Proof.Machine.execGsync s
  | .sregw a r g => Sys2Proof.Machine.execSregw a r g s
  | .sregwRd d r g => Sys2Proof.Machine.execSregwRd d r g s
  | .qmap d a b g => Sys2Proof.Machine.execQmap d a b g s
  | .qunmap d a g => Sys2Proof.Machine.execQunmap d a g s
  | .place d a g => Sys2Proof.Machine.execPlace d a g s
  | .ctxsave d a b g => Sys2Proof.Machine.execCtxsave d a b g s
  | .ctxrest d a b g => Sys2Proof.Machine.execCtxrest d a b g s
  | .tbinv k a b g => Sys2Proof.Machine.execTbinv k a b g s
  | .cinvSprd g => Sys2Proof.Machine.execCinvSprd g s
  | .cinvRec b g => Sys2Proof.Machine.execCinvRec b g s
  | .wkload d a b c die g => Sys2Proof.Machine.execWkload d a b c die g s
  | .clauseHeader h => Sys2Proof.Machine.execClauseHeader h s
  | .issueCycle core sub => Sys2Proof.Machine.execIssueCycle core sub s
  | .longLatencyResult core slot id => Sys2Proof.Machine.execLongLatencyResult core slot id s
  | .storePerform src => Sys2Proof.Machine.execStorePerform src s
  | .atspReply core slot id => Sys2Proof.Machine.execAtspReply core slot id s
  | .collectiveStart core bslot => Sys2Proof.Machine.execCollectiveStart core bslot s
  | .cpyComplete cmd => Sys2Proof.Machine.execCpyComplete cmd s
  | .sealComplete cmd => Sys2Proof.Machine.execSealComplete cmd s
  | .gatComplete cmd => Sys2Proof.Machine.execGatComplete cmd s
  | .sctComplete cmd => Sys2Proof.Machine.execSctComplete cmd s
  | .matomReply cmd lane => Sys2Proof.Machine.execMatomReply cmd lane s
  | .mredAccept cmd => Sys2Proof.Machine.execMredAccept cmd s
  | .predComplete cmd => Sys2Proof.Machine.execPredComplete cmd s
  | .spawnComplete cmd => Sys2Proof.Machine.execSpawnComplete cmd s
  | .fenceComplete core slot => Sys2Proof.Machine.execFenceComplete core slot s
  | .spillRoomFreed core => Sys2Proof.Machine.execSpillRoomFreed core s
  | .setDue core age => Sys2Proof.Machine.execSetDue core age s
  | .groupEvict core slot => Sys2Proof.Machine.execGroupEvict core slot s
  | .weaverFormGroup core => Sys2Proof.Machine.execWeaverFormGroup core s
  | .joinMerge core slot => Sys2Proof.Machine.execJoinMerge core slot s
  | .joinTimeout core slot => Sys2Proof.Machine.execJoinTimeout core slot s
  | .sleepExpire core slot => Sys2Proof.Machine.execSleepExpire core slot s
  | .barrierComplete core bslot => Sys2Proof.Machine.execBarrierComplete core bslot s
  | .gangBarrierComplete core bslot => Sys2Proof.Machine.execGangBarrierComplete core bslot s
  | .blockRetire core bslot => Sys2Proof.Machine.execBlockRetire core bslot s
  | .weirChunk cmd => Sys2Proof.Machine.execWeirChunk cmd s
  | .weirRefill => Sys2Proof.Machine.execWeirRefill s
  | .watchdogExpire core bslot => Sys2Proof.Machine.execWatchdogExpire core bslot s
  | .walkStart die walker => Sys2Proof.Machine.execWalkStart die walker s
  | .wldDataReturn die walker waited => Sys2Proof.Machine.execWldDataReturn die walker waited s
  | .walkTimelimit die walker => Sys2Proof.Machine.execWalkTimelimit die walker s
  | .wadd d a b => Sys2Proof.Machine.execWadd d a b s
  | .wsub d a b => Sys2Proof.Machine.execWsub d a b s
  | .wand d a b => Sys2Proof.Machine.execWand d a b s
  | .wor d a b => Sys2Proof.Machine.execWor d a b s
  | .wxor d a b => Sys2Proof.Machine.execWxor d a b s
  | .wshl d a b => Sys2Proof.Machine.execWshl d a b s
  | .wshr d a b => Sys2Proof.Machine.execWshr d a b s
  | .wmul d a b => Sys2Proof.Machine.execWmul d a b s
  | .wmulhu d a b => Sys2Proof.Machine.execWmulhu d a b s
  | .wsltu d a b => Sys2Proof.Machine.execWsltu d a b s
  | .wslt d a b => Sys2Proof.Machine.execWslt d a b s
  | .whash d a b => Sys2Proof.Machine.execWhash d a b s
  | .waddi d a imm => Sys2Proof.Machine.execWaddi d a imm s
  | .wandi d a imm => Sys2Proof.Machine.execWandi d a imm s
  | .wori d a imm => Sys2Proof.Machine.execWori d a imm s
  | .wxori d a imm => Sys2Proof.Machine.execWxori d a imm s
  | .wshli d a n => Sys2Proof.Machine.execWshli d a n s
  | .wshri d a n => Sys2Proof.Machine.execWshri d a n s
  | .wins d imm => Sys2Proof.Machine.execWins d imm s
  | .wbfx d a pos len => Sys2Proof.Machine.execWbfx d a pos len s
  | .wld d a imm => Sys2Proof.Machine.execWld d a imm s
  | .wldw d a imm => Sys2Proof.Machine.execWldw d a imm s
  | .wlds d a imm => Sys2Proof.Machine.execWlds d a imm s
  | .wsts d a imm => Sys2Proof.Machine.execWsts d a imm s
  | .wbeq a b off => Sys2Proof.Machine.execWbeq a b off s
  | .wbne a b off => Sys2Proof.Machine.execWbne a b off s
  | .wbltu a b off => Sys2Proof.Machine.execWbltu a b off s
  | .wbgeu a b off => Sys2Proof.Machine.execWbgeu a b off s
  | .wblt a b off => Sys2Proof.Machine.execWblt a b off s
  | .wbge a b off => Sys2Proof.Machine.execWbge a b off s
  | .wmap a b perm size => Sys2Proof.Machine.execWmap a b perm size s
  | .wnone => Sys2Proof.Machine.execWnone s
  | .readPacket acc => Sys2Proof.Machine.execReadPacket acc s
  | .writePacket acc => Sys2Proof.Machine.execWritePacket acc s
  | .atomicPacket acc => Sys2Proof.Machine.execAtomicPacket acc s
  | .reducePacket acc => Sys2Proof.Machine.execReducePacket acc s
  | .queueApply u => Sys2Proof.Machine.execQueueApply u s
  | .bankRunPacket run stack => Sys2Proof.Machine.execBankRunPacket run stack s
  | .bankItemStart run pc item => Sys2Proof.Machine.execBankItemStart run pc item s
  | .bankRunComplete run => Sys2Proof.Machine.execBankRunComplete run s
  | .bnop => Sys2Proof.Machine.execBnop s
  | .bend => Sys2Proof.Machine.execBend s
  | .bldi k imm => Sys2Proof.Machine.execBldi k imm s
  | .baddi k j imm => Sys2Proof.Machine.execBaddi k j imm s
  | .bloop k off => Sys2Proof.Machine.execBloop k off s
  | .bbeq k j off => Sys2Proof.Machine.execBbeq k j off s
  | .bmac k j n f ij ic => Sys2Proof.Machine.execBmac k j n f ij ic s
  | .bmacs k n f ic => Sys2Proof.Machine.execBmacs k n f ic s
  | .bzero n => Sys2Proof.Machine.execBzero n s
  | .bmov n m => Sys2Proof.Machine.execBmov n m s
  | .baddv n m => Sys2Proof.Machine.execBaddv n m s
  | .bmaxv n m => Sys2Proof.Machine.execBmaxv n m s
  | .bred n => Sys2Proof.Machine.execBred n s
  | .bscl n => Sys2Proof.Machine.execBscl n s
  | .brelu n => Sys2Proof.Machine.execBrelu n s
  | .bemit k n m ic => Sys2Proof.Machine.execBemit k n m ic s
  | .hotAssert stack => Sys2Proof.Machine.execHotAssert stack s
  | .hotClear stack => Sys2Proof.Machine.execHotClear stack s
  | .stackIsolate stack => Sys2Proof.Machine.execStackIsolate stack s
  | .launch slot core => Sys2Proof.Machine.execLaunch slot core s
  | .resume slot core => Sys2Proof.Machine.execResume slot core s
  | .predicate slot core => Sys2Proof.Machine.execPredicate slot core s
  | .waitPacket slot core => Sys2Proof.Machine.execWaitPacket slot core s
  | .waitPacketTimeout slot => Sys2Proof.Machine.execWaitPacketTimeout slot s
  | .signal slot core => Sys2Proof.Machine.execSignal slot core s
  | .copy slot core => Sys2Proof.Machine.execCopy slot core s
  | .nopPacket slot core => Sys2Proof.Machine.execNopPacket slot core s
  | .notifyWrite polder q => Sys2Proof.Machine.execNotifyWrite polder q s
  | .featackWrite polder n val => Sys2Proof.Machine.execFeatackWrite polder n val s
  | .registerWrite r val => Sys2Proof.Machine.execRegisterWrite r val s
  | .railseqEnable => Sys2Proof.Machine.execRailseqEnable s
  | .stackStart stack => Sys2Proof.Machine.execStackStart stack s
  | .trainingComplete stack fail => Sys2Proof.Machine.execTrainingComplete stack fail s
  | .stackIsolateSet stack => Sys2Proof.Machine.execStackIsolateSet stack s
  | .portEnable port => Sys2Proof.Machine.execPortEnable port s
  | .moduleReset => Sys2Proof.Machine.execModuleReset s
  | .openReq o => Sys2Proof.Machine.execOpenReq o s
  | .queueReq polder q slots maxprio desc ring => Sys2Proof.Machine.execQueueReq polder q slots maxprio desc ring s
  | .loadReq polder imgs => Sys2Proof.Machine.execLoadReq polder imgs s
  | .walkReq polder image root => Sys2Proof.Machine.execWalkReq polder image root s
  | .mapReq polder k r => Sys2Proof.Machine.execMapReq polder k r s
  | .watchReq polder word peer q => Sys2Proof.Machine.execWatchReq polder word peer q s
  | .unwatchReq polder handle => Sys2Proof.Machine.execUnwatchReq polder handle s
  | .quoteReq polder nonce => Sys2Proof.Machine.execQuoteReq polder nonce s
  | .closeReq polder grace => Sys2Proof.Machine.execCloseReq polder grace s
  | .closeGraceExpire polder => Sys2Proof.Machine.execCloseGraceExpire polder s
  | .invalReq polder page => Sys2Proof.Machine.execInvalReq polder page s
  | .rmaRead polder r addr len => Sys2Proof.Machine.execRmaRead polder r addr len s
  | .rmaWrite polder r addr bytes => Sys2Proof.Machine.execRmaWrite polder r addr bytes s
  | .rmaAtomic polder r addr op w64 b c => Sys2Proof.Machine.execRmaAtomic polder r addr op w64 b c s
  | .railStepTimeout => Sys2Proof.Machine.execRailStepTimeout s
  | .portTrainTimeout port => Sys2Proof.Machine.execPortTrainTimeout port s
  | .seepageHalving => Sys2Proof.Machine.execSeepageHalving s
  | .selfTestEnd core pass => Sys2Proof.Machine.execSelfTestEnd core pass s
  | .quarantineRelease core => Sys2Proof.Machine.execQuarantineRelease core s
  | .dieLinkRetrainEnd link ok => Sys2Proof.Machine.execDieLinkRetrainEnd link ok s
  | .cxlLinkDown port => Sys2Proof.Machine.execCxlLinkDown port s
  | .watchReportArrival polder q val => Sys2Proof.Machine.execWatchReportArrival polder q val s
  | .powerLoss => Sys2Proof.Machine.execPowerLoss s
  | .uudDrop => Sys2Proof.Machine.execUudDrop s
  | .unadmittedJobDrop => Sys2Proof.Machine.execUnadmittedJobDrop s
  | .auditOutcome polder aid => Sys2Proof.Machine.execAuditOutcome polder aid s
  | .portLinkUp port lanes => Sys2Proof.Machine.execPortLinkUp port lanes s
  | .railPowerGood => Sys2Proof.Machine.execRailPowerGood s
  | .precharge stack pc bank row => Sys2Proof.Machine.execPrecharge stack pc bank row s
  | .neighbourRefresh stack pc bank row => Sys2Proof.Machine.execNeighbourRefresh stack pc bank row s
  | .flitCrcError link => Sys2Proof.Machine.execFlitCrcError link s
  | .thermalThrottle die down => Sys2Proof.Machine.execThermalThrottle die down s
  | .thermalTrip die => Sys2Proof.Machine.execThermalTrip die s
  | .stackIsolateClear stack => Sys2Proof.Machine.execStackIsolateClear stack s
  | .stackerrClear stack => Sys2Proof.Machine.execStackerrClear stack s
  | .portDisable port => Sys2Proof.Machine.execPortDisable port s
  | .railseqDisable => Sys2Proof.Machine.execRailseqDisable s
  | .remoteWriteAck seq => Sys2Proof.Machine.execRemoteWriteAck seq s

end Sys2Proof.Machine
end

