-- ==== Sys2Proof/Machine/Firmware.lean ====
section
/-! DEFINITION. What the device, the reeve firmware, the Sougar service and the outside world do without a row of their own in the
opcode table (log entry 62). -/

namespace Sys2Proof.Machine

/-! ### Aborts and releases (R36, R313) -/

/-- Resident blocks of a polder's launches with some ids. -/
def State.launchBlocks (s : State) (p : Nat) (ids : List Nat) : List (Nat × Nat × Block) :=
  (s.blocksOf p).filter fun e => ids.contains e.2.2.launch.id

/-- The queue of a launch: of its LAUNCH, or of the image of one of its blocks. -/
def State.queueOf (s : State) (p id : Nat) : Nat :=
  match (s.slots.find? fun e => e.2.polder = p && e.2.launch.any fun l => decide (l.id = id)),
      (s.polder p).saved.find? fun y => y.block.launch.id = id with
  | some e, _ => e.2.queue
  | none, some y => y.block.launch.queue
  | none, none => 0

/-- Launches are aborted: no block of theirs is placed or restored any more, and every resident one goes through steps 1 to 3 of
R253; one of which nothing is resident ends at once. While one of the blocks is between steps 1 and 5 of a pre-emption, the abort
waits (R313, R321). -/
def State.abortLaunches (s : State) (p : Nat) (ids : List Nat) : State :=
  let bs := s.launchBlocks p ids
  if bs.any fun e => e.2.2.saving then s
  else
    let s := ids.foldl (fun s i => s.doom p i) s
    let s := bs.foldl (fun s e => s.abortBlock e.1 e.2.1) s
    ids.foldl (fun s i => s.endAborted serviceCore { (default : Launch) with polder := p, id := i, queue := s.queueOf p i }) s

/-- The service aborts the launch of a parked group (R313). -/
def State.abortParked (s : State) (c sl : Nat) : State :=
  match s.group c sl with
  | some g =>
    let l := s.launchOf c g
    if g.parked && !l.sram && !s.inRerun c g.bslot then s.abortLaunches l.polder [l.id] else s
  | none => s

/-- Launches whose records were lost are aborted, also those that lie in images alone (R36). -/
def State.abortDoomed (s : State) (p : Nat) : State := s.abortLaunches p (s.polder p).doomed

/-- The service unmaps a queue whose descriptor failed, under a ticket (R342, R345). -/
def State.unmapDead (s : State) (sl : Nat) : State :=
  match tfind s.slots sl with
  | some h => if h.dead && s.ticketFree then ((s.endWait h).unmapSlot sl { h with deadline := none } false).tick else s
  | none => s

/-- The service releases a group parked by SWTRAP or BREAK to RESUMEPC (R313). -/
def State.releaseParked (s : State) (c sl : Nat) : State :=
  match s.group c sl with
  | some g =>
    if g.parked && (g.frec.code = 8 || g.frec.code = 9) && g.frec.resume ≠ noPc then
      s.setGroup c sl { g with parked := false, pc := g.frec.resume, clause := none, run := 0 }
    else s
  | none => s

/-! ### The private stack in memory (R135) -/

/-- Where the stack of a thread begins: the threads of the grid one after another from STACKADDR.
(DESIGN CHOICE: log entry 31.) -/
def stackBase (l : Launch) (blk : Nat) (ln : Lane) : Nat :=
  l.stackAddr + l.stackSz * (blk * (l.x * l.y * l.z) + 32 * ln.homeGroup + ln.homeLane)

/-- The translation of a stack word is asked for, once: no group waits for the access itself (R262, R264).
(DESIGN CHOICE: log entry 31.) -/
def State.askStack (s : State) (c sl p va : Nat) (op : AccOp) : State :=
  if s.accs.any fun e => e.2.cmd = 0 && decide (e.2.core = c) && decide (e.2.polder = p) && decide (e.2.op = op) && decide (e.2.va = va)
  then s
  else
    (s.newAcc { polder := p, core := c, cmd := 0, lane := sl, src := 5, op := op, va := va, len := 4, off := 0
                st := .ready, data := [], bad := [], aux := 0 }).2

/-- Where a word of a thread's stack lies in main memory, with a permission of R263. -/
def State.stackPa (s : State) (c p va perm : Nat) : Option Nat :=
  match s.xlat c p va with
  | some e => if e.perm.getLsbD perm then some (e.frame + (va - e.base)) else none
  | none => none

/-- The oldest return address of a lane that its group's spill-stack cache holds goes to the thread's stack in main memory, the first lowest
(R135, R171): it is translated, and charged to no weir. One whose place cannot be reached stays in the cache, and nothing of a
re-execution leaves its core (R261).
(DESIGN CHOICE: log entry 31.) -/
def State.stackWrite (s : State) (c sl lane : Nat) : State :=
  match s.group c sl with
  | some g =>
    match s.block c g.bslot, (g.lane lane).mstk.getLast? with
    | some x, some v =>
      let ln := g.lane lane
      let p := x.launch.polder
      let va := stackBase x.launch x.idx ln + 4 * ln.deep
      match x.rerun, s.xlat c p va, s.stackPa c p va 1 with
      | some _, _, _ => s
      | none, none, _ => s.askStack c sl p va (.write [])
      | none, _, none => s
      | none, _, some pa =>
        if s.takes (dieOf c) pa 4 = .yes then
          let s := s.acceptOpen .none 0 0 0 pa (.write (toLe 4 v.toNat))
          s.onGroup c sl fun g => { g with lanes := tput g.lanes lane { ln with mstk := ln.mstk.dropLast, deep := ln.deep + 1 } }
        else s
    | _, _ => s
  | none => s

/-- The last return address of a lane that has left the cache comes back from the thread's stack in main memory, as it stands there
(R135, R171): a free value where its block is uncorrectable. A full cache takes none.
(DESIGN CHOICE: log entry 31.) -/
def State.stackRead (s : State) (c sl lane : Nat) : State :=
  match s.group c sl with
  | some g =>
    match s.block c g.bslot with
    | some x =>
      let ln := g.lane lane
      let p := x.launch.polder
      let va := stackBase x.launch x.idx ln + 4 * (ln.deep - 1)
      if ln.deep = 0 || total (g.occs.map fun i => (g.lane i).mstk.length) ≥ stackCache then s
      else
        match s.xlat c p va, s.stackPa c p va 0 with
        | none, _ => s.askStack c sl p va .read
        | _, none => s
        | _, some pa =>
          if s.avail (dieOf c) pa ≠ .yes then s
          else
            let (bytes, bad, s) := s.readPa pa 4
            let (f, s) := if bad = [] then (0, s) else s.fresh
            let v := if bad = [] then BitVec.ofNat 32 (ofLe bytes) else f
            s.onGroup c sl fun g => { g with lanes := tput g.lanes lane { ln with mstk := ln.mstk ++ [v], deep := ln.deep - 1 } }
    | none => s
  | none => s

/-! ### Memory, links and ports (R302, R323, R329, R330) -/

/-- A symbol of a DRAM block comes to differ by `x` from what was written (R323). -/
def State.bitError (s : State) (block symbol : Nat) (x : Byte) : State :=
  let e : Table Byte := tget [] s.flaws block
  if symbol < rsLen then { s with flaws := tset [] s.flaws block (tset 0 e symbol (tget 0 e symbol ^^^ x)) } else s

/-- A flit passes: its replays are over (R329). -/
def State.goodFlit (s : State) (link : Nat) : State :=
  { s with links := tput s.links link { tget Link.reset s.links link with replays := 0 } }

/-- An access to remote memory that the transport gives up, or the remote module refuses, completes with UNAVAIL (R330). -/
def State.remoteFail (s : State) (acc : Nat) : State :=
  match tfind s.accs acc with
  | some a =>
    match a.st with
    | .sent pa _ => if placeOf s pa = .remote then s.failAccess acc 0x13 0 (unavailAux s pa) else s
    | _ => s
  | none => s

/-- So does the access of a walk whose `wld` reads remote memory (R271, R330). -/
def State.remoteWalkFail (s : State) (d w : Nat) : State :=
  match tfind (s.die d).walks w with
  | some x =>
    match x.read with
    | some r => if placeOf s r.pa = .remote then s.walkError d w x 0x13 (unavailAux s r.pa) else s
    | none => s
  | none => s

/-- So does a group's fetch of a header, or of a word of the clause that follows, from remote memory: it parks (R330, R340). -/
def State.remoteFetchFail (s : State) (c sl word : Nat) : State :=
  match s.group c sl with
  | some g =>
    let l := s.launchOf c g
    let va := l.codeBase + (g.pc + BitVec.ofNat 32 (4 * word)).toNat
    if g.stalled || g.clause.isSome || g.occs = [] || l.sram || word > 48 then s
    else
      match s.xlat c l.polder va with
      | some e =>
        let pa := e.frame + (va - e.base)
        if e.perm.getLsbD 2 && placeOf s pa = .remote then
          s.parkAt c sl { code := 0x13, lanes := g.occMask, addr := BitVec.ofNat 64 va, aux := unavailAux s pa } g.pc
        else s
      | none => s
  | none => s

/-- Codewords that a port has corrected; the count saturates (R302). -/
def State.fecCorrected (s : State) (p n : Nat) : State :=
  let x := s.port p
  if p < 16 && x.enable then s.setPort p { x with fecCor := BitVec.ofNat 16 (min 0xFFFF (x.fecCor.toNat + n)) } else s

/-- The device behind a tier port reports its size (R286). -/
def State.tierSize (s : State) (p size : Nat) : State :=
  if p < 8 && size ≤ 10 ^ 12 then { s with tiers := tput s.tiers p { tget Tier.reset s.tiers p with size := size } } else s

/-! ### The service's own polder, and hosts (R14, R289, R290) -/

/-- The service sets a range of polder 0's frame allowance (R14, R280). -/
def State.ownRange (s : State) (k : Nat) (r : AllowRange) : State :=
  let x := s.polder 0
  if x.alive && k < 32 && rangeFits r && rangeGranted (tget 0 x.featack 0) r && s.rangeMapped 0 r then s.setPolder 0 { x with ranges := tput x.ranges k r } else s

/-- The service sets polder 0's seal key, audit nonce and shared-memory window (R14). -/
def State.ownKeys (s : State) (sealKey nonce : List Byte) (shSize : Nat) : State :=
  let x := s.polder 0
  if x.alive && sealKey.length = 32 && nonce.length = 32 && shSize ≤ sharedMem then
    s.setPolder 0 { x with sealKey := sealKey, nonce := nonce, shSize := shSize }
  else s

/-- The polder of an operation of a session: an RMA operation, or a request to the service, which is a tagged send (R287, R290). -/
def sessionOf : Instr → Option Nat
  | .rmaRead p _ _ _ => some p
  | .rmaWrite p _ _ _ => some p
  | .rmaAtomic p _ _ _ _ _ _ => some p
  | .queueReq p _ _ _ _ _ => some p
  | .loadReq p _ => some p
  | .walkReq p _ _ => some p
  | .mapReq p _ _ => some p
  | .watchReq p _ _ _ => some p
  | .unwatchReq p _ => some p
  | .quoteReq p _ => some p
  | .closeReq p _ => some p
  | .invalReq p _ => some p
  | _ => none

/-- A host sends an operation of its session over ROD (R289). -/
def State.sendRod (s : State) (p : Nat) (op : Instr) : State :=
  if s.session p && sessionOf op = some p then s.setPolder p { s.polder p with rod := (s.polder p).rod ++ [op] } else s

/-- A request whose code R290 does not name is malformed. -/
def State.badRequest (s : State) (p code : Nat) : State :=
  if !s.session p then s.dropJob else if 1 ≤ code && code ≤ 10 then s else s.reply p code stMalformed []

/-- A send without a tag: no rule names what it carries, and it changes nothing of the module (R287, R290).
(DESIGN CHOICE: log entry 63.) -/
def State.plainSend (s : State) (p : Nat) : State := if s.session p then s else s.dropJob

/-- A packet of a session comes under a key set: under another than the session's it is of no admitted job (R287, R288).
(DESIGN CHOICE: log entry 63.) -/
def State.keyed (s : State) (p : Nat) (keys : List Byte) : State :=
  if s.session p && (s.polder p).keySet = keys then s else s.dropJob

/-! ### Procedures -/

/-- One procedure (log entry 62). -/
def runProc (p : Proc) (s : State) : State :=
  match p with
  | .unit core va => s.unitStep core va
  | .rescue core => s.rescue core
  | .mapReady core slot va => s.mapReady core slot va
  | .waitDue polder q => s.waitExpired polder q
  | .resize r => s.resize r
  | .vacate core => s.vacate core
  | .judge => s.judge
  | .auditRun core aid target => s.auditRun core aid target
  | .replay cmd => s.replay cmd
  | .defect core bslot grp => s.defect core bslot grp
  | .abort core slot => s.abortParked core slot
  | .release core slot => s.releaseParked core slot
  | .abortDoomed polder => s.abortDoomed polder
  | .unmapDead slot => s.unmapDead slot
  | .stackWrite core slot lane => s.stackWrite core slot lane
  | .stackRead core slot lane => s.stackRead core slot lane
  | .bitError block symbol x => s.bitError block symbol x
  | .goodFlit link => s.goodFlit link
  | .strayReply stack => { s with notices := s.notices ++ [.strayReply stack] }
  | .remoteFail acc => s.remoteFail acc
  | .remoteWalkFail die walker => s.remoteWalkFail die walker
  | .remoteFetchFail core slot word => s.remoteFetchFail core slot word
  | .fecCorrected port n => s.fecCorrected port n
  | .tierSize port size => s.tierSize port size
  | .ownRange k r => s.ownRange k r
  | .ownKeys sealKey nonce shSize => s.ownKeys sealKey nonce shSize
  | .sendRod polder op => s.sendRod polder op
  | .badRequest polder code => s.badRequest polder code
  | .plainSend polder => s.plainSend polder
  | .keyed polder keys => s.keyed polder keys
  | .ownerKey slot sig => s.installOwner slot sig
  | .identityCert cert => s.installCert cert
  | .recovered => s.recovered

end Sys2Proof.Machine
end

