-- ==== Sys2Proof/Machine/Schedule.lean ====
section
/-! DEFINITION. What comes next (log entry 1), and where the next instruction's words are put for a load from outside
(log entry 16). -/

namespace Sys2Proof.Machine

/-- The next move of the schedule with the reference cycles before it: the agenda's, or a free one (log entry 1). -/
def State.nextMove (s : State) : Nat × Act × State :=
  match s.agenda with
  | e :: r => (e.1, e.2, { s with agenda := r })
  | [] => (Config.elapsed s.choices, Config.nextAct s.choices, { s with choices := s.choices + 1 })

/-! ### A word as the next instruction (log entry 16) -/

/-- The launch of the block that holds the loaded instruction. -/
def loadLaunch (p regs : Nat) (sram : Bool) : Launch :=
  { polder := p, queue := 0, id := 1, bound := false, audit := false, noprom := true, cls := 0, gangSz := 1, bw := 0
    entry := 0, codeBase := 0, x := 32, y := 1, z := 1, fairInt := 0, nblkX := 1, nblkY := 1, nblkZ := 1
    regs := regs, shared := 65536, trapVec := noPc, stackSz := 1024, stackAddr := 0, arg := [], raw := [], sram := sram }

/-- The clause that holds the loaded words as its only instruction. -/
def loadClause (cls : Nat) (twoWords : Bool) (a b : Word) : Clause :=
  { hdr := { count := 1, cls := BitVec.ofNat 3 cls, runend := false, wclass := 0, wthresh := 0
             width := if twoWords then 1 else 0 }
    hdrPc := 0, done := 0, words := [a, b] }

/-- A group that stands at its loaded instruction. -/
def loadGroup (bslot n : Nat) (cl : Clause) : Group :=
  { Group.reset with
    bslot := bslot, lanes := (List.range n).map fun i => (i, { Lane.reset with st := .occupied, homeLane := i })
    pc := 4, clause := some cl, uid := 1 }

/-- The words of a Vilesk instruction, in the clause of a resident group of core 0: slot 63 for class SYS, which a reeve
runs under polder 0 (R52), else slot 0 under polder 1 with every feature accepted. -/
def State.withVileskWord (s : State) (a b : Word) : State :=
  let m := (fMajor a).toNat
  let cl := loadClause (majorClass m) (decide (majorForm m ≠ some .one)) a b
  let sys := majorClass m = 7
  let p := if sys then 0 else 1
  let b := if sys then firmSlot else 0
  let sl := if sys then 63 else 0
  let l := loadLaunch p (if sys then 64 else 255) sys
  let s := s.setPolder p { s.polder p with alive := true, featack := [(0, 0x7FF)] }
  let s := s.setBlock 0 b (launchBlock l 0 b 0 [sl] s.clock)
  let s := s.setGroup 0 sl (loadGroup b (if sys then 1 else 32) cl)
  { s with turns := [.group 0 sl] }

/-- A walker word, at the start of the routine of a walk that has just begun on walker 0 of die 0. -/
def State.withWalkerWord (s : State) (a : Word) : State :=
  let w : Walk :=
    { polder := 1, acc := 0, w2 := 0, routine := mset32 [] 0 a, root := 0, frames := [newFrame 0 0 0 0], cycles := 0
      stale := false, read := none }
  { s.setDie 0 { s.die 0 with walks := tput (s.die 0).walks 0 w } with turns := [.walker 0 0] }

/-- A bank word, at the start of the program of a run whose item 0 has just started; a `bnop` follows it. -/
def State.withItemWord (s : State) (a : Word) : State :=
  let r : BankRun :=
    { cmd := 0, polder := 1, vbase := 0, pcmask := 1, slabs := [0], vecAddr := 0, half := false, scalAddr := noAddr, vslice := 0
      itemOut := 0, sumOut := 0, oslots := 1, entry := 0, plen := 2, progAddr := 0, accs := []
      loads := [(0, { vec := [], scal := [], prog := [a, 0], bad := none })], items := [] }
  let r := { r with items := tput r.items (itemKey 0 0) (freshItem r [] 0 0 0) }
  { s with runs := tput s.runs 1 r, turns := [.item 1 0 0] }

/-- The instruction whose bits are `w`, stored where `step` fetches its next instruction. -/
def State.withTableWord (s : State) (nbits w : Nat) : State :=
  let bs := tableBytes (w % 2 ^ nbits)
  let a := wordOfBytes (bs.take 4)
  let b := wordOfBytes ((bs.drop 4).take 4)
  match tableVilesk nbits a b, decodeWalker a, decodeBank a with
  | some _, _, _ => s.withVileskWord a b
  | none, some _, _ => s.withWalkerWord a
  | none, none, some _ => s.withItemWord a
  | none, none, none => s.withVileskWord a b

end Sys2Proof.Machine
end

