-- ==== Sys2Proof/Machine/Step.lean ====
section
/-! DEFINITION. One step of the module: the next instruction of an agent that issues now, or the next move of the
schedule (log entry 1). -/

namespace Sys2Proof.Machine

/-- An agent executes its next instruction. -/
def runAgent (a : Agent) (s : State) : Out :=
  match State.turn { s with cur := a } with
  | .run i t => exec i t
  | .stop t => .next t

/-- A move of the schedule. An instruction of the three instruction sets is no event: without an agent it does
nothing. -/
def runAct (a : Act) (s : State) : Out :=
  match a with
  | .ev i => exec i { s with cur := .none }
  | .walker d w => runAgent (.walker d w) s
  | .item r pc i => runAgent (.item r pc i) s
  | .part c sl id => .next (State.performPart { s with cur := .none } c sl id)
  | .proc p => .next (runProc p { s with cur := .none })

/-- ONE STEP: agents that issue in this cycle come first; else the clock goes on to the next move. A module without
power only takes a reset. -/
def step (s : State) : Out :=
  match s.turns with
  | a :: r => runAgent a { s with turns := r }
  | [] =>
    let m := s.nextMove
    let t := { m.2.2 with clock := m.2.2.clock + m.1 }
    if t.powered || m.2.1 = .ev .moduleReset then runAct m.2.1 t else .next t

/-- The state with an instruction's bits stored where `step` fetches its next instruction (log entry 16). -/
def State.withFetchWord (s : State) (nbits w : Nat) : State := s.withTableWord nbits w

end Sys2Proof.Machine
end

