-- ==== Sys2Proof/Safety.lean ====
section
/-! DEFINITION. What counts as a safe step, the invariant of the module's memories, and the terms in which claims speak of
one instruction: when it issues, what it leaves unchanged, and what it writes. -/

namespace Sys2Proof.Machine

/-- The memories of the module keep their canonical form: addresses strictly rising, no listed zero. -/
def State.memWf (s : State) : Prop := s.mem.wf = true ∧ s.sp.wf = true ∧ s.boot.flash.wf = true ∧ s.boot.sram.wf = true

/-- Commands are listed by rising numbers from 1 up. -/
def State.numbered (s : State) : Prop := tsortedFrom 1 s.cmds = true

/-- THE INVARIANT that every step keeps. -/
def State.Inv (s : State) : Prop := s.memWf ∧ s.numbered

/-- A step ends in a next state: neither a fault nor a refusal. -/
def Safe (s : State) : Prop := ∃ t, step s = .next t

/-! ### When an instruction issues -/

/-- The group in slot `sl` of core `c` stands inside a clause, nothing holds it back (R60, R61, R311), and no cause of R314
applies to its instruction `i`: the instruction issues now. -/
structure Issues (i : Instr) (s : State) (c sl : Nat) (g : Group) (cl : Clause) : Prop where
  agent  : s.cur = .group c sl
  group  : s.group c sl = some g
  clause : g.clause = some cl
  ready  : g.stalled = false
  legal  : illegalCause (issueOf i) s c sl g cl = none

/-! ### What stays -/

/-- A byte of main memory as a coherent read finds it (R194, R232). -/
def State.coherent (s : State) (pa : Nat) : Byte := (s.view (pa / 64)).1.getD (pa % 64) 0

/-- Every byte of main memory reads as before; a read that meets a block with errors may correct the array (R324). -/
def SameReads (s t : State) : Prop := ∀ a, t.coherent a = s.coherent a

/-- A register of a lane as it is stored, whatever a read of it would find. -/
def Group.raw (g : Group) (l r : Nat) : Word := tget 0 (g.lane l).regs r

/-- A predicate of a lane as it is stored. -/
def Group.rawPred (g : Group) (l p : Nat) : Bool := (g.lane l).preds.getLsbD p

/-- A lane without its registers, their marks and its predicates. -/
def Lane.rest (ln : Lane) : Lane := { ln with regs := [], dead := [], pend := [], preds := 0 }

/-- A group without its lanes and without what every instruction moves: PC, clause position, run, FSTAT, windows, operand
cache and issue count. -/
def Group.rest (g : Group) : Group :=
  { g with lanes := [], pc := 0, clause := none, run := 0, fstat := 0, inflight := [], cache := [], issued := 0 }

/-- A block without its sticky poison flag (R318) and its progress marks (R349). -/
def Block.rest (b : Block) : Block := { b with poisoned := false, progress := 0, idle := 0 }

/-- A core without its groups, its blocks and its issue ports. -/
def Core.rest (k : Core) : Core := { k with groups := [], blocks := [], subs := [] }

/-- A state without its cores and without the model's own counters of numbers and free choices. -/
def State.rest (s : State) : State := { s with cores := [], next := 0, choices := 0 }

/-- THE FRAME of an instruction that acts on its own group alone: every byte of every memory, every other group, every
block but for its poison flag and progress marks, and everything else of the module are unchanged. -/
structure OwnGroup (s t : State) (c sl : Nat) : Prop where
  memory  : ∀ a, mget t.mem a = mget s.mem a
  scratch : ∀ a, mget t.sp a = mget s.sp a
  shared  : ∀ d a, mget (t.core d).sh a = mget (s.core d).sh a
  groups  : ∀ d i, ¬(d = c ∧ i = sl) → t.group d i = s.group d i
  blocks  : ∀ d b, (t.block d b).map Block.rest = (s.block d b).map Block.rest
  cores   : ∀ d, (t.core d).rest = (s.core d).rest
  others  : t.rest = s.rest

/-- The Vilesk instructions of two words (R53 to R55); a clause header, the one-word instructions of CTL, a walker or bank instruction
and a device step are none. -/
def twoWords : Instr → Bool
  | .bra .. | .brx .. | .call .. | .callx .. | .ret .. | .join .. | .exit .. | .sleep .. | .trap .. | .spawn .. | .reord ..
    | .iadd .. | .iaddImm .. | .isub .. | .imul .. | .imulImm .. | .imulhi .. | .imad .. | .iabs .. | .imin .. | .imax ..
    | .and .. | .andImm .. | .or .. | .orImm .. | .xor .. | .xorImm .. | .not .. | .shl .. | .shr .. | .sar .. | .popc ..
    | .clz .. | .brev .. | .bfx .. | .bfi .. | .sel .. | .cmp .. | .addc .. | .lea .. | .mov .. | .movP2r .. | .movR2p ..
    | .movi .. | .fadd .. | .faddImm .. | .fsub .. | .fmul .. | .fmulImm .. | .ffma .. | .fmin .. | .fmax .. | .fcmp ..
    | .frnd .. | .hadd2 .. | .hmul2 .. | .hfma2 .. | .frcp .. | .frsq .. | .fsqrt .. | .fexp2 .. | .flog2 .. | .fsin ..
    | .fcos .. | .ftanh .. | .qswap .. | .qbcast .. | .shfl .. | .redmax .. | .redmin .. | .mma .. | .mmas .. | .mmasp ..
    | .ldfrag .. | .ldc .. | .sreg .. | .sregClr .. | .sealRec .. | .gat .. | .matom .. | .mred .. | .bkrun .. | .pred ..
    | .pchk .. | .batch .. | .wait .. | .fence .. | .bar | .barMx | .gsync | .sregw .. | .sregwRd .. | .qmap .. | .qunmap ..
    | .place .. | .ctxsave .. | .ctxrest .. | .tbinv .. | .cinvSprd .. | .cinvRec .. | .wkload .. => true
  | .nop | .yield | .brk .. | .wflush | .tile .. | .idp4 .. | .cvt .. | .vote .. | .redadd .. | .scan .. | .mmaw ..
    | .fxpose .. | .ldsh .. | .stsh .. | .atsh .. | .ldsp .. | .stsp .. | .atsp .. | .cpy .. | .sct .. | .clauseHeader ..
    | .issueCycle .. | .longLatencyResult .. | .storePerform .. | .atspReply .. | .collectiveStart .. | .cpyComplete ..
    | .sealComplete .. | .gatComplete .. | .sctComplete .. | .matomReply .. | .mredAccept .. | .predComplete ..
    | .spawnComplete .. | .fenceComplete .. | .spillRoomFreed .. | .setDue .. | .groupEvict .. | .weaverFormGroup ..
    | .joinMerge .. | .joinTimeout .. | .sleepExpire .. | .barrierComplete .. | .gangBarrierComplete .. | .blockRetire ..
    | .weirChunk .. | .weirRefill | .watchdogExpire .. | .walkStart .. | .wldDataReturn .. | .walkTimelimit .. | .wadd ..
    | .wsub .. | .wand .. | .wor .. | .wxor .. | .wshl .. | .wshr .. | .wmul .. | .wmulhu .. | .wsltu .. | .wslt ..
    | .whash .. | .waddi .. | .wandi .. | .wori .. | .wxori .. | .wshli .. | .wshri .. | .wins .. | .wbfx .. | .wld ..
    | .wldw .. | .wlds .. | .wsts .. | .wbeq .. | .wbne .. | .wbltu .. | .wbgeu .. | .wblt .. | .wbge .. | .wmap .. | .wnone
    | .readPacket .. | .writePacket .. | .atomicPacket .. | .reducePacket .. | .queueApply .. | .bankRunPacket ..
    | .bankItemStart .. | .bankRunComplete .. | .bnop | .bend | .bldi .. | .baddi .. | .bloop .. | .bbeq .. | .bmac ..
    | .bmacs .. | .bzero .. | .bmov .. | .baddv .. | .bmaxv .. | .bred .. | .bscl .. | .brelu .. | .bemit .. | .hotAssert ..
    | .hotClear .. | .stackIsolate .. | .launch .. | .resume .. | .predicate .. | .waitPacket .. | .waitPacketTimeout ..
    | .signal .. | .copy .. | .nopPacket .. | .notifyWrite .. | .featackWrite .. | .registerWrite .. | .railseqEnable
    | .stackStart .. | .trainingComplete .. | .stackIsolateSet .. | .portEnable .. | .moduleReset | .openReq ..
    | .queueReq .. | .loadReq .. | .walkReq .. | .mapReq .. | .watchReq .. | .unwatchReq .. | .quoteReq .. | .closeReq ..
    | .closeGraceExpire .. | .invalReq .. | .rmaRead .. | .rmaWrite .. | .rmaAtomic .. | .railStepTimeout
    | .portTrainTimeout .. | .seepageHalving | .selfTestEnd .. | .quarantineRelease .. | .dieLinkRetrainEnd ..
    | .cxlLinkDown .. | .watchReportArrival .. | .powerLoss | .uudDrop | .unadmittedJobDrop | .auditOutcome ..
    | .portLinkUp .. | .railPowerGood | .precharge .. | .neighbourRefresh .. | .flitCrcError .. | .thermalThrottle ..
    | .thermalTrip .. | .stackIsolateClear .. | .stackerrClear .. | .portDisable .. | .railseqDisable | .remoteWriteAck .. => false

/-! ### What an instruction writes -/

/-- FSTAT after the marks of an instruction: POISONRD is added where it made a poison read (R77). -/
def markedFstat (i : Instr) (g : Group) : BitVec 6 := if badRead (issueOf i) g then g.fstat ||| 0x20 else g.fstat

/-- What an instruction leaves of its own group besides registers, predicates and FSTAT: the PC has moved past its words,
and the rest of the group and of every lane is as before. -/
structure Passed (i : Instr) (g h : Group) : Prop where
  pc    : h.pc = g.pc + BitVec.ofNat 32 (4 * (issueOf i).words)
  rest  : h.rest = g.rest
  lanes : ∀ l < 32, (h.lane l).rest = (g.lane l).rest

/-- THE EFFECT of an instruction that writes at once (R84): in every active lane each location of `out` reads as it was
written and no other register or predicate changes; inactive lanes change nothing; FSTAT takes the flags of the active lanes
that are no helper lanes (R77, R78). -/
structure Wrote (i : Instr) (gd : Guard) (s t : State) (c sl : Nat) (g : Group) (out : Nat → List (Loc × Word))
    (flags : Nat → Flags) : Prop where
  frame : OwnGroup s t c sl
  group : ∃ h, t.group c sl = some h ∧ Passed i g h
    ∧ (∀ l < 32, g.active gd l → ∀ r < 255, ∀ w, (Loc.reg r, w) ∈ out l → h.reg l r = w)
    ∧ (∀ l < 32, g.active gd l → ∀ p < 7, ∀ w, (Loc.pred p, w) ∈ out l → h.pred l p = decide (w ≠ 0))
    ∧ (∀ l < 32, ∀ r, (g.active gd l = false ∨ Loc.reg r ∉ (out l).map Prod.fst) → h.raw l r = g.raw l r)
    ∧ (∀ l < 32, ∀ p, (g.active gd l = false ∨ Loc.pred p ∉ (out l).map Prod.fst) → h.rawPred l p = g.rawPred l p)
    ∧ h.fstat = (lanes32.filter fun l => g.active gd l && g.occ l).foldl (fun b l => b ||| fstatOf (flags l))
        (markedFstat i g)

/-- THE EFFECT of a long-latency instruction (R60): its results `ws` are entered with its lookahead as their window; no
register or predicate has changed yet. -/
structure Later (i : Instr) (s t : State) (c sl : Nat) (g : Group) (ws : List LWrite) : Prop where
  frame : OwnGroup s t c sl
  group : ∃ h, t.group c sl = some h ∧ Passed i g h
    ∧ (∀ l < 32, ∀ r, h.raw l r = g.raw l r)
    ∧ (∀ l < 32, ∀ p, h.rawPred l p = g.rawPred l p)
    ∧ h.fstat = markedFstat i g
    ∧ (ws ≠ [] → ∃ f ∈ h.inflight, f.id = s.newId.1 ∧ f.window = (issueOf i).la.getD 0 ∧ f.writes = ws)

/-- An instruction answers a next state in which P holds. -/
def Completes (i : Instr) (s : State) (P : State → Prop) : Prop := ∃ t, exec i s = .next t ∧ P t

/-- Wherever `i` issues, it completes and writes at once, in its active lanes, the locations that `f` gives from the group
before it. -/
def WritesNow (i : Instr) (gd : Guard) (f : Group → Nat → List (Loc × Word) × Flags) : Prop :=
  ∀ s c sl g cl, Issues i s c sl g cl →
    Completes i s fun t => Wrote i gd s t c sl g (fun l => (f g l).1) (fun l => (f g l).2)

/-- A source operand of a lane as an instruction reads it. -/
def Group.src (g : Group) (l : Nat) (a : Src) : Word := g.reg l a.reg.toNat

/-- Wherever `i` issues, it completes and writes one register, computed from the lane's source operands. -/
def WritesReg (i : Instr) (gd : Guard) (d : Reg) (f : (Src → Word) → Word × Flags) : Prop :=
  WritesNow i gd fun g l => ([(.reg d.toNat, (f (g.src l)).1)], (f (g.src l)).2)

/-- Wherever `i` issues, it completes and writes one predicate. -/
def WritesPred (i : Instr) (gd : Guard) (pd : BitVec 3) (f : (Src → Word) → Bool × Flags) : Prop :=
  WritesNow i gd fun g l => ([(.pred pd.toNat, ofPred (f (g.src l)).1)], (f (g.src l)).2)

/-- The results of a long-latency instruction in its active lanes. -/
def laneResults (g : Group) (gd : Guard) (f : Nat → List (Loc × Word) × Flags) : List LWrite :=
  (lanes32.filter (g.active gd)).flatMap fun l =>
    (f l).1.map fun w => { lane := l, loc := w.1, val := w.2, flags := (f l).2 }

/-- Wherever `i` issues, it completes and enters, for its active lanes, the results that `f` gives from the group at
issue. -/
def ResultsLater (i : Instr) (gd : Guard) (f : Group → Nat → List (Loc × Word) × Flags) : Prop :=
  ∀ s c sl g cl, Issues i s c sl g cl → Completes i s fun t => Later i s t c sl g (laneResults g gd (f g))

/-- One result register, computed for a lane of the group. -/
def oneReg (d : Reg) (f : Group → Nat → Word × Flags) (g : Group) (l : Nat) : List (Loc × Word) × Flags :=
  ([(.reg d.toNat, (f g l).1)], (f g l).2)

/-- Wherever `i` issues in a group for which `ok` holds, it completes: PC has moved past its words, and every active lane has a result
on its way to each of the registers `regs`, under the lookahead window of `i`. -/
def Enters (i : Instr) (gd : Guard) (la : BitVec 4) (regs : List Nat) (ok : State → Nat → Nat → Group → Prop) : Prop :=
  ∀ s c sl g cl, Issues i s c sl g cl → ok s c sl g →
    Completes i s fun t => ∃ h, t.group c sl = some h ∧ h.pc = g.pc + BitVec.ofNat 32 (4 * (issueOf i).words)
      ∧ ∀ l < 32, g.active gd l = true → ∀ r ∈ regs, ∃ f ∈ h.inflight, f.window = la.toNat
        ∧ ∃ w ∈ f.writes, w.lane = l ∧ w.loc = .reg r

/-- THE EFFECT of a clause-ending instruction that writes no register: its group is now `k`, which gives its PC, its lanes
but for their marks, and the rest; FSTAT has the marks of the instruction, and the group stands at a clause header. -/
structure Became (i : Instr) (s t : State) (c sl : Nat) (k : Group) : Prop where
  frame : OwnGroup s t c sl
  group : ∃ h, t.group c sl = some h ∧ h.pc = k.pc ∧ h.clause = none ∧ h.rest = k.rest
    ∧ (∀ l < 32, (h.lane l).rest = (k.lane l).rest)
    ∧ (∀ l < 32, ∀ r, h.raw l r = k.raw l r)
    ∧ (∀ l < 32, ∀ p, h.rawPred l p = k.rawPred l p)
    ∧ h.fstat = markedFstat i k

/-- THE MARKS that an instruction leaves in its active lanes (R62, R63, R148): a register that a last-use bit names is dead from now on, a
register of `out`, which it writes, is live and awaits no command, and no other mark changes; where some lane is active, the operand
cache follows the sources in order. `uses` are the source registers with their last-use and keep bits. -/
structure Marked (gd : Guard) (g h : Group) (uses : List (Nat × Bool × Bool)) (out : List Nat) : Prop where
  dead  : ∀ l < 32, ∀ r, r ∈ (h.lane l).dead ↔ ¬(g.active gd l = true ∧ r ∈ out)
    ∧ (r ∈ (g.lane l).dead ∨ (g.active gd l = true ∧ r ≠ 255 ∧ ∃ keep, (r, true, keep) ∈ uses))
  pend  : ∀ l < 32, ∀ r, tfind (h.lane l).pend r = if g.active gd l = true ∧ r ∈ out then none else tfind (g.lane l).pend r
  cache : h.cache = if lanes32.any (g.active gd) then
      uses.foldl (init := g.cache) fun t u =>
        if u.1 = 255 then t
        else if u.2.1 then t.filter (· ≠ u.1)
        else if u.2.2 then (u.1 :: t.filter (· ≠ u.1)).take 8
        else t
    else g.cache

/-- A read of register r in lane l meets poison: the register is dead (R62), awaits a command (R148), or has a result on its way
(R60). -/
def Group.poisoned (g : Group) (l r : Nat) : Prop :=
  r ≠ 255 ∧ (g.lane l).st ≠ .empty ∧ (r ∈ (g.lane l).dead ∨ (tfind (g.lane l).pend r).isSome
    ∨ ∃ f ∈ g.inflight, ∃ w ∈ f.writes, w.lane = l ∧ w.loc = .reg r)

/-- What an ENG or SYS instruction leaves of its own group and of the memories: its group is `k` with PC and clause moved on,
no register or predicate has changed yet, FSTAT has the marks of the instruction; every byte of every memory and every other
group are unchanged. -/
structure Acted (i : Instr) (s t : State) (c sl : Nat) (k : Group) : Prop where
  memory  : ∀ a, mget t.mem a = mget s.mem a
  scratch : ∀ a, mget t.sp a = mget s.sp a
  shared  : ∀ d a, mget (t.core d).sh a = mget (s.core d).sh a
  groups  : ∀ d j, ¬(d = c ∧ j = sl) → t.group d j = s.group d j
  group   : ∃ h, t.group c sl = some h ∧ Passed i k h ∧ (∀ l < 32, ∀ r, h.raw l r = k.raw l r)
    ∧ (∀ l < 32, ∀ p, h.rawPred l p = k.rawPred l p) ∧ h.fstat = markedFstat i k

/-- What identifies a command: where it comes from, what it does, and its lanes. -/
def Cmd.face (x : Cmd) : Origin × CmdOp × BitVec 32 := (x.org, x.op, x.mask)

/-- THE ISSUE of an engine command (R143, R144, R148): the command `id` exists, with its operands and the store entries that
precede it, and joins the open batch of its class; the registers it will write are pending; other commands are what they
were. `k` is the group before the command joins. -/
structure Commanded (i : Instr) (s t : State) (c sl id : Nat) (k : Group) (cls : Cls) (op : CmdOp) (mask : BitVec 32)
    (regs : List Nat) (writes : Nat → Bool) : Prop where
  acted   : Acted i s t c sl (k.join cls id)
  cmd     : ∃ x, tfind t.cmds id = some x ∧ x.face = (s.originOf c sl k cls, op, mask) ∧ x.stores = s.storesOf k
  others  : ∀ n, n ≠ id → (tfind t.cmds n).map Cmd.face = (tfind s.cmds n).map Cmd.face
  pending : ∀ h, t.group c sl = some h → ∀ l < 32, writes l = true → ∀ r ∈ regs,
    tfind (h.lane l).pend r = some { cmd := id, cls := cls }

/-- A command has sent an access to main memory for a lane (R262). -/
def SentAccess (t : State) (id lane : Nat) (op : AccOp) (va len : Nat) : Prop :=
  ∃ x n a, tfind t.cmds id = some x ∧ n ∈ x.accs ∧ tfind t.accs n = some a ∧ a.cmd = id ∧ a.polder = x.org.polder
    ∧ a.lane = lane ∧ a.op = op ∧ a.va = va ∧ a.len = len

/-- A command has noted a completion fault of a lane (R333). -/
def NotedFault (t : State) (id lane code : Nat) (addr : DWord) : Prop :=
  ∃ x, tfind t.cmds id = some x ∧ ∃ cause aux, (lane, code, cause, addr, aux) ∈ x.faults

/-- The core's engines take a command of a group: fewer than 1,024 packets are out (R143), no atomic or scratchpad load of the
group is on its way (R222, R229), and its block is no re-execution, whose commands take their results from the log (R261). -/
def EngFree (s : State) (c : Nat) (g : Group) : Prop :=
  g.accessing = false ∧ s.packetsOut c < 1024 ∧ s.inRerun c g.bslot = false

/-- A group command of the core's engines may issue: `l` gives its operands. -/
def EngReady (s : State) (c : Nat) (g : Group) (gd : Guard) (l : Nat) : Prop := lowest (g.works gd) = some l ∧ EngFree s c g

/-- A SYS instruction may act (R183): what `fence.sys` waits for holds, and `l` is the lowest lane that works. -/
def SysReady (s : State) (g : Group) (gd : Guard) (l : Nat) : Prop :=
  lowest (g.works gd) = some l ∧ s.fenceOk g .sys = true

/-- A range of polder 0's addresses may be used by a SYS instruction now (R183): every page is a permitted hit, every stack or
port that it names can be reached, a write finds room in the banks' queues, and a read meets no uncorrectable block. -/
def Reachable (s : State) (c va len : Nat) (write : Bool) : Prop :=
  s.missing c va len write = none
  ∧ (∀ e ∈ s.piecesPa c va len, s.avail (dieOf c) e.1 = .yes ∧ (write = true → s.crowded e.1 e.2 = false))
  ∧ (write = false → ∀ e ∈ s.piecesPa c va len, ∀ b ∈ blocksOf e.1 e.2, (s.view b).2 = false)

/-- A SYS instruction has changed the module from `s` to `u` and gives the result `w` in every active lane. -/
def SysDone (i : Instr) (gd : Guard) (u t : State) (c sl : Nat) (g : Group) (d : Reg) (w : Word) : Prop :=
  Wrote i gd u t c sl g (fun _ => [(.reg d.toNat, w)]) (fun _ => 0)

/-- A group whose clause begins at PC `at'` has entered it with its words; nothing else of the group or of its lanes has
changed, but for its run and the marks of registers that engines have written (R50, R58, R148). -/
structure Entered (s t : State) (c sl : Nat) (g : Group) (h : Header) (ws : List Word) : Prop where
  frame : OwnGroup s t c sl
  group : ∃ k, t.group c sl = some k ∧ k.pc = g.pc + 4
    ∧ k.clause = some { hdr := h, hdrPc := g.pc, done := 0, words := ws } ∧ k.rest = g.rest ∧ k.fstat = g.fstat
    ∧ (∀ l < 32, (k.lane l).rest = (g.lane l).rest)
    ∧ (∀ l < 32, ∀ r, k.raw l r = g.raw l r) ∧ (∀ l < 32, ∀ p, k.rawPred l p = g.rawPred l p)

/-- A code word of a group's kernel in main memory can be fetched at once: the word that memory holds, and those that it has held while
a block of the launch was resident, which a fetch may still find (R48, R49, R262, R263, R286). -/
def CodeAt (s : State) (c : Nat) (g : Group) (pc w : Word) (olds : List Word) : Prop :=
  let l := s.launchOf c g
  let va := l.codeBase + pc.toNat
  va < 2 ^ 57 ∧ ∃ e, (s.core c).tb.find? (fun x => x.covers l.polder va) = some e ∧ e.perm &&& 4 = 4
    ∧ s.avail (dieOf c) (e.frame + (va - e.base)) = .yes
    ∧ (∃ u, s.readPa (e.frame + (va - e.base)) 4 = (toLe 4 w.toNat, [], u))
    ∧ olds = s.oldWords l (e.frame + (va - e.base))

/-- No part of a scratchpad load or atomic is still to be performed (R220, R222). -/
def NoParts (s : State) : Prop := ∀ c sl g, s.group c sl = some g → ∀ f ∈ g.inflight, f.todo = []

/-- Records lie in blocks of main memory that a read finds without error (R36, R324). -/
def SoundRecords (s : State) (p : Nat) (rs : List Record) : Prop :=
  ∀ r ∈ rs, ∀ i ∈ r.place, tget [] s.flaws (s.placePa p i / 64) = [] ∧ s.placePa p i / 64 ∉ s.poison

/-- No byte of any memory has changed. -/
structure SameMemory (s t : State) : Prop where
  memory  : t.mem = s.mem
  scratch : t.sp = s.sp
  shared  : ∀ d, (t.core d).sh = (s.core d).sh

/-- No byte of a local memory has changed. -/
structure SameLocal (s t : State) : Prop where
  scratch : t.sp = s.sp
  shared  : ∀ d, (t.core d).sh = (s.core d).sh

/-- No byte of any memory has changed as a read finds it. -/
def SameBytes (s t : State) : Prop := SameReads s t ∧ SameLocal s t

/-- No byte has changed outside the dispatch board, as a read finds it. -/
structure OffBoard (s t : State) : Prop where
  memory  : SameReads s t
  shared  : ∀ d, (t.core d).sh = (s.core d).sh
  scratch : ∀ a, ¬((s.polder 0).spBase ≤ a ∧ a < (s.polder 0).spBase + 0x3010) → mget t.sp a = mget s.sp a

/-- Results of one instruction written to their lanes (R60, R78). -/
structure Landed (g h : Group) (f : InFlight) : Prop where
  gone  : h.inflight = g.inflight.filter (·.id ≠ f.id)
  regs  : ∀ w ∈ f.writes, ∀ r, w.loc = .reg r → r ≠ 255 → (g.lane w.lane).st ≠ .empty → h.raw w.lane r = w.val
  preds : ∀ w ∈ f.writes, ∀ p, w.loc = .pred p → p < 7 → (g.lane w.lane).st ≠ .empty → h.rawPred w.lane p = decide (w.val ≠ 0)
  raw   : ∀ l r, (∀ w ∈ f.writes, ¬(w.lane = l ∧ w.loc = .reg r)) → h.raw l r = g.raw l r
  rawP  : ∀ l p, (∀ w ∈ f.writes, ¬(w.lane = l ∧ w.loc = .pred p)) → h.rawPred l p = g.rawPred l p
  fstat : h.fstat = f.writes.foldl (fun b w => if g.occ w.lane then b ||| fstatOf w.flags else b) g.fstat
  rest  : { h with inflight := [], lanes := [], fstat := 0 } = { g with inflight := [], lanes := [], fstat := 0 }

/-- A group whose long-latency results have all been written (R61). -/
def Group.landed (g : Group) : Group := g.inflight.foldl Group.land g

/-- No part of a scratchpad access is still to be performed, and no reply of an atomic is on its way that would change lines of the
read cache (R220, R222). -/
def Group.quietLines (g : Group) : Prop := ∀ f ∈ g.inflight, f.lines = [] ∧ f.todo = []

/-- The results of a load of n registers from d. -/
def loaded (g : Group) (gd : Guard) (d : Reg) (n : Nat) (v : Nat → Nat → Word) : List LWrite :=
  laneResults g gd fun l => ((List.range n).map fun i => (Loc.reg (d.toNat + i), v l i), 0)

/-- Every access of a lane that works is aligned and lies in a space of `size` bytes (R142). -/
def Fits (g : Group) (gd : Guard) (addr : Nat → Int) (w size : Nat) : Prop :=
  ∀ l < 32, g.works gd l = true → addr l % w = 0 ∧ 0 ≤ addr l ∧ addr l + w ≤ size

/-- The group's block is not audited, and is no re-execution (R257, R261). -/
def Unaudited (s : State) (c : Nat) (g : Group) : Prop := ∀ x, s.block c g.bslot = some x → x.audit = none ∧ x.rerun = none

/-- No word that the die of a core has sent is on a die link (R228). -/
def NoWords (s : State) (c : Nat) : Prop := ∀ x ∈ s.linkQ, dieOf x.core ≠ dieOf c

/-- Every home die that a group's scratchpad accesses name can be reached (R329). -/
def Linked (s : State) (c : Nat) (g : Group) (gd : Guard) (addr : Nat → Int) : Prop :=
  ∀ l < 32, g.works gd l = true →
    s.linkAvail (dieOf c) (homeDie (s.spBase (s.launchOf c g).polder + (addr l).toNat)) = .yes

/-- A group with one more entry in its store queue, where the entry writes anything; every word of it is still to be
performed (R218). -/
def Group.queued (g : Group) (n : Nat) (org : Origin) (sp : LSpace) (p : Nat) (rel : Option Scope) (ws : List StWrite) : Group :=
  if ws = [] then g
  else { g with stq := g.stq ++
    [{ id := n, owner := g.uid, org := org, after := g.mreds ++ g.finished, space := sp, polder := p, rel := rel, writes := ws
       left := ws }] }

/-! ### The end of a command -/

/-- A register of a lane still awaits the result of a command (R148). -/
def State.awaits (s : State) (x : Cmd) (id l r : Nat) : Bool :=
  match s.cmdGroup x.org with
  | some g => match tfind (g.lane l).pend r with
    | some e => e.cmd = id
    | none => false
  | none => false

/-- A command has completed (R145): it is done, its accesses are gone, and main memory and every other group are as they were.
Of its own group, where that holds threads and waits for nothing, only the registers that `out` names, its batches with
STATUS, and its fault record have changed. -/
structure Finished (s t : State) (id : Nat) (x : Cmd) (out : Nat → Nat → Option Word) : Prop where
  done   : t.cmdDone id = true
  accs   : ∀ n ∈ x.accs, n ≤ s.next → tfind t.accs n = none
  memory : t.mem = s.mem
  groups : ∀ d j, ¬(d = x.org.core ∧ j = x.org.slot) → t.group d j = s.group d j
  group  : ∀ g, s.cmdGroup x.org = some g → g.waiting = .none → g.occs ≠ [] → ∃ h, t.group x.org.core x.org.slot = some h
    ∧ h.pc = g.pc ∧ h.clause = g.clause ∧ h.waiting = .none ∧ h.stq = g.stq
    ∧ ∀ l < 32, (h.lane l).rest = (g.lane l).rest ∧ h.rawPred l = g.rawPred l
      ∧ ∀ r, h.raw l r = (out l r).getD (g.raw l r)

/-- A byte of a local space: a core's shared memory, or the scratchpad. -/
def State.localByte (s : State) (c : Nat) (sp : LSpace) (a : Nat) : Byte :=
  match sp with
  | .sh => mget (s.core c).sh a
  | .sp => mget s.sp a

/-- Shared memory of every core but one is as it was. -/
def OtherShared (s t : State) (c : Nat) : Prop := ∀ d, d ≠ c → (t.core d).sh = (s.core d).sh

/-! ### Records and threads -/

/-- A byte of main memory in which a spill area holds none of some records (R36). -/
def OutsideRecords (s : State) (p : Nat) (rs : List Record) (a : Nat) : Prop :=
  ∀ r ∈ rs, ∀ i ∈ r.place, ¬(s.placePa p i ≤ a ∧ a < s.placePa p i + spillUnit)

/-- A record as it was made, wherever it lies and whatever the log of its block calls it. -/
def Record.bare (r : Record) : Record := { r with spilled := false, place := [], mark := default }

/-- THE DIVISION of a group (R33, R34, R37): the lanes of `out` leave, each for its PC, and become empty. Each leaving thread becomes a spill
record of v0 to v(n − 1), a dead register as the poison value (R62), with its stacks, predicates and home, as `k` holds them; `k` is the
group with its marks, its stacks and its results as the instruction leaves them. Every other lane is that of `k`, at PC `stay`. No
memory changes but for the records in the spill area, and no other group. -/
structure Divided (s t : State) (c sl n : Nat) (k : Group) (out : List (Nat × Word)) (stay : Word) : Prop where
  records : ∃ rs : List Record, (t.core c).records = (s.core c).records ++ rs
    ∧ (∀ a, OutsideRecords s (s.launchOf c k).polder rs a → t.coherent a = s.coherent a)
    ∧ rs.map Record.bare = out.zipIdx.map fun e =>
      let ln := k.lane e.1.1
      { kind := .spill, bslot := k.bslot, pc := e.1.2, nlive := n
        regs := (List.range n).map fun r => if ln.dead.contains r then poison else tget 0 ln.regs r
        rstk := ln.rstk, mstk := ln.mstk, deep := ln.deep, preds := ln.preds, homeLane := ln.homeLane, homeGrp := ln.homeGroup
        key := BitVec.ofNat 32 (ln.homeGroup % 2 ^ 26), age := (s.core c).ageCtr + e.2, born := s.clock, orig := k.uid, slot := sl
        stores := s.storesOf k, due := false, spilled := false, place := [], held := .free, mark := default }
  group   : ∃ h, t.group c sl = some h ∧ h.pc = stay ∧ h.clause = none ∧ h.rest = k.rest ∧ h.fstat = k.fstat
    ∧ ∀ l < 32, h.lane l = if l ∈ out.map Prod.fst then Lane.reset else k.lane l
  memory  : t.mem = s.mem ∧ t.sp = s.sp ∧ ∀ d, (t.core d).sh = (s.core d).sh
  others  : ∀ d j, ¬(d = c ∧ j = sl) → t.group d j = s.group d j

/-- A block of 64 bytes holds no error and takes packets (R286, R301, R324). -/
def State.takes64 (s : State) (pa : Nat) : Prop :=
  pa % 64 = 0 ∧ (∀ b ∈ Sys2Proof.Machine.blocksOf pa 64, (s.view b).2 = false) ∧ ∀ k < 64, s.reach (pa + k) ≠ .no

/-- A lane holds the thread of a record (R38): v0 to v(NLIVE − 1) from the record, the rest of the allocation poison. -/
structure Holds (ln : Lane) (r : Record) (alloc homeGroup homeLane : Nat) : Prop where
  st    : ln.st = .occupied
  home  : ln.homeGroup = homeGroup ∧ ln.homeLane = homeLane
  preds : ln.preds = r.preds
  stack : ln.rstk = r.rstk ∧ ln.mstk = r.mstk ∧ ln.deep = r.deep
  live  : ∀ j < r.regs.length, tget 0 ln.regs j = r.regs.getD j 0 ∧ j ∉ ln.dead
  dead  : ∀ j, r.regs.length ≤ j → j < min alloc 255 → j ∈ ln.dead

/-! ### Walkers and bank items -/

/-- Walker w of a die runs the instruction of a walk's innermost depth, below its time limit (R266, R277). -/
structure Walks (s : State) (d w : Nat) (x : Walk) (fr : Frame) : Prop where
  agent : s.cur = .walker d w
  walk  : tfind (s.die d).walks w = some x
  depth : x.frames.head? = some fr
  idle  : x.read = none
  time  : x.cycles < walkLimit s x.polder

/-- The walk after one instruction, with its innermost depth replaced. -/
def Walk.stepped (x : Walk) (fr : Frame) : Walk := { x with cycles := x.cycles + 1, frames := fr :: x.frames.tail }

/-- Wherever a walker instruction runs, it takes one cycle, goes on at the next word and writes one register; w0 reads 0. -/
def WalkWrites (i : Instr) (d : BitVec 5) (f : Frame → DWord) : Prop :=
  ∀ s k w x fr, Walks s k w x fr → ∃ fr' : Frame, exec i s = .next (s.setWalk k w (x.stepped fr'))
    ∧ fr'.pc = fr.pc + 1 ∧ fr'.va = fr.va ∧ fr'.depth = fr.depth ∧ fr'.scratch = fr.scratch
    ∧ fr'.reg d = (if d = 0 then 0 else f fr) ∧ ∀ r, r ≠ d → fr'.reg r = fr.reg r

/-- Wherever a walker branch runs, it takes one cycle and goes to PC + OFF where its condition holds, else to the next word; a
target outside the routine ends the walk with WILLEGAL. -/
def WalkBranches (i : Instr) (off : BitVec 16) (c : Frame → Bool) : Prop :=
  ∀ s k w x fr, Walks s k w x fr →
    let t : Int := if c fr then fr.pc + off.toInt else fr.pc + 1
    (c fr = false ∨ (0 ≤ t ∧ t ≤ 1023) → exec i s = .next (s.setWalk k w (x.stepped { fr with pc := t.toNat })))
    ∧ (c fr = true → (t < 0 ∨ 1023 < t) → exec i s = .next (s.walkFail k w { x with cycles := x.cycles + 1 } 7))

/-- An item of a bank run executes an instruction: it has not ended, its PC lies in its program, and it is below its limit of
16,384 instructions (R201). -/
structure ItemRuns (s : State) (run pc n : Nat) (r : BankRun) (x : BankItem) : Prop where
  agent : s.cur = .item run pc n
  run   : tfind s.runs run = some r
  item  : tfind r.items (itemKey pc n) = some x
  live  : x.ended = false
  place : x.pc < r.plen
  count : x.count < 16384

/-- The item has moved on to `target`: past the program's end or at the limit it ends with a program fault (R201). -/
def BankItem.wentTo (x y : BankItem) (plen : Nat) (target : Int) : Prop :=
  y.count = x.count + 1 ∧ y.rowPa = x.rowPa
  ∧ (0 ≤ target → target < plen → y.pc = target.toNat ∧
      if x.count + 1 = 16384 then y.ended = true ∧ y.fault = 0x14 else y.ended = false ∧ y.fault = x.fault)
  ∧ (target < 0 ∨ (plen : Int) ≤ target → y.ended = true ∧ y.fault = 0x14)

/-- Wherever a bank instruction runs, it changes its item alone: bK as `regs` says, accumulator lanes as `acc` says, and the PC
to `target`. -/
def ItemDoes (i : Instr) (regs : BankItem → BitVec 3 → Word) (acc : BankItem → BitVec 2 → Nat → Word)
    (target : BankItem → Int) : Prop :=
  ∀ s run pc n r x, ItemRuns s run pc n r x → ∃ y : BankItem,
    exec i s = .next { s with runs := tput s.runs run { r with items := tput r.items (itemKey pc n) y } }
    ∧ x.wentTo y r.plen (target x) ∧ y.emits = x.emits
    ∧ (∀ k, y.b k = regs x k) ∧ ∀ a, ∀ l < 16, y.lane a l = acc x a l

/-! ### Packets and queues -/

/-- A packet of an engine command has reached its coherence point: it was sent, its turn has come at its port, and its address
can be reached (R194, R195). -/
def Arrives (s : State) (n : Nat) (a : Access) (pa : Nat) : Prop :=
  tfind s.accs n = some a ∧ a.cmd ≠ 0 ∧ (∃ ord, a.st = .sent pa ord) ∧ s.inTurn a = true ∧ s.avail (dieOf a.core) pa = .yes

/-- No block of a range is uncorrectable. -/
def State.sound (s : State) (pa len : Nat) : Prop :=
  ∀ b ∈ Sys2Proof.Machine.blocksOf pa len, (s.view b).2 = false

/-- A coherent write has been accepted: its bytes are what a read finds from now on, and every other byte is as it was. -/
def Accepted (s t : State) (pa : Nat) (data : List Byte) : Prop :=
  (∀ k < data.length, t.coherent (pa + k) = data.getD k 0)
  ∧ ∀ a, (a < pa ∨ pa + data.length ≤ a) → t.coherent a = s.coherent a

/-- The same of a packet's write: a byte of a TAIL that takes no write any more stays as it was (R290). -/
def AcceptedOpen (s t : State) (pa : Nat) (data : List Byte) : Prop :=
  (∀ k < data.length, t.coherent (pa + k) = if s.shutByte (pa + k) then s.coherent (pa + k) else data.getD k 0)
  ∧ ∀ a, (a < pa ∨ pa + data.length ≤ a) → t.coherent a = s.coherent a

/-- An access has been served with some bytes. -/
def Served (t : State) (n : Nat) (a : Access) (data : List Byte) (bad : List Nat) : Prop :=
  tfind t.accs n = some { a with st := .served, data := data, bad := bad }

/-- A range of polder 0's addresses is read and, where asked, written by a reeve at once (R342): translated, reachable, and free
of errors that a check would still have to correct. -/
def Ready (s : State) (c va len : Nat) (write : Bool) : Prop :=
  Reachable s c va len write ∧ ∀ e ∈ s.piecesPa c va len, ∀ b ∈ blocksOf e.1 e.2, tget [] s.flaws b = [] ∧ b ∉ s.poison

/-- A reeve may take a step of slot `sl`, in state `st` of the slot (R247, R249, R251): no ticket is out, no doorbell is set, HEADQ
names no slot that has lost its place, board and descriptor `desc` can be reached, and a READY slot is the one that the ticket
selects. -/
structure AtSlot (s : State) (sl c : Nat) (st : Word) (h : HwSlot) (desc : List Byte) : Prop where
  core   : c < 32
  free   : (s.core c).quar = false
  board  : s.boardReach c = .yes
  ticket : s.board 0 = s.board 4
  bells  : s.bells = []
  headq  : s.board 0x18 = 0xFFFFFFFF ∨ s.firstPlacer = some (s.board 0x18).toNat
  slot   : tfind s.slots sl = some h
  number : sl < 256
  live   : h.dead = false
  state  : s.sstate sl = st
  chosen : st = qActive ∨ (st = qReady ∧ s.chosen = some sl)
  reads  : Ready s c h.descVa 64 true ∧ Ready s c h.descVa 64 false ∧ desc = s.peek c h.descVa 64

/-- The packet `r` at the head of such a slot can be reached too, and a READY slot has a posted packet and no more than its ring
holds (R238). -/
structure AtHead (s : State) (sl c : Nat) (st : Word) (h : HwSlot) (desc r : List Byte) : Prop extends AtSlot s sl c st h desc where
  posted : st = qReady → 0 < dPosted desc (dHead desc) ∧ dPosted desc (dHead desc) ≤ dLen desc
  head   : let va := bfield desc 0 8 + 64 * (dHead desc % max 1 (dLen desc))
    Ready s c va 64 false ∧ r = s.peek c va 64

/-- The packet at the head has completed, and no other is posted (R238, R246, R249): HEAD has gone on to `next`, the slot is IDLE,
and the ticket has been served. `u` is the state with the packet's own effect. -/
structure HeadGone (s u t : State) (sl c : Nat) (h : HwSlot) (next : Nat) : Prop where
  idle   : t.sstate sl = qIdle
  ticket : t.board 0 = s.board 0 + 1 ∧ t.board 4 = s.board 4 + 1
  head   : ∀ pa, s.descPaOf c h = some pa → s.takes64 pa → ∀ k < 4,
    t.coherent (pa + 12 + k) = (toLe 4 next).getD k 0
  slot   : ∃ h', tfind t.slots sl = some h' ∧ h'.launch = none ∧ h'.copyCmd = none ∧ h'.deadline = none
  window : ∀ a, ¬((s.polder 0).spBase ≤ a ∧ a < (s.polder 0).spBase + 0x3010) → mget t.sp a = mget u.sp a
  cores  : t.cores = u.cores

/-- Every access to main memory is an engine command's, listed once, and no walk is under way. -/
def OnlyCommands (s : State) : Prop :=
  (s.accs.map Prod.fst).Nodup ∧ (∀ e ∈ s.accs, e.2.cmd ≠ 0) ∧ ∀ d ∈ s.dies, d.2.walks = []

end Sys2Proof.Machine
end

