-- ==== Sys2Proof/Certificates/Slice0/Obligations.lean ====
section
/-! DEFINITION. Statements for the provers. -/

open Sys2Proof Sys2Proof.Machine

/-! ### Instructions that write at once: class VEC -/

/-- R85, R87: integer arithmetic in the type of the instruction. The result is the exact one brought into the type, wrapped
or saturated, and extended; the frame is that of `Wrote` (R84). -/
def Claims.IntegerArithmetic : Prop :=
  ∀ (d : Reg) (a b e : Src) (ty : IType) (wt : WideType) (at' : AbsType) (sat : Bool) (imm : Word) (gd : Guard),
    WritesReg (.iadd d a b ty sat gd) gd d
      (fun r => noFlag (writeT (ityp ty) sat (readT (ityp ty) (r a) + readT (ityp ty) (r b))))
    ∧ WritesReg (.iaddImm d a ty sat imm) noGuard d
      (fun r => noFlag (writeT (ityp ty) sat (readT (ityp ty) (r a) + readT (ityp ty) imm)))
    ∧ WritesReg (.isub d a b ty sat gd) gd d
      (fun r => noFlag (writeT (ityp ty) sat (readT (ityp ty) (r a) - readT (ityp ty) (r b))))
    ∧ WritesReg (.imul d a b ty sat gd) gd d
      (fun r => noFlag (writeT (ityp ty) sat (readT (ityp ty) (r a) * readT (ityp ty) (r b))))
    ∧ WritesReg (.imulImm d a ty sat imm) noGuard d
      (fun r => noFlag (writeT (ityp ty) sat (readT (ityp ty) (r a) * readT (ityp ty) imm)))
    ∧ WritesReg (.imulhi d a b wt gd) gd d
      (fun r => noFlag (writeT (wtyp wt) false (readT (wtyp wt) (r a) * readT (wtyp wt) (r b) / 2 ^ 32)))
    ∧ WritesReg (.imad d a b e ty sat gd) gd d
      (fun r => noFlag (writeT (ityp ty) sat (readT (ityp ty) (r a) * readT (ityp ty) (r b) + readT (ityp ty) (r e))))
    ∧ WritesReg (.iabs d a at' sat gd) gd d (fun r => noFlag (writeT (atyp at') sat (readT (atyp at') (r a)).natAbs))
    ∧ WritesReg (.imin d a b ty gd) gd d
      (fun r => noFlag (writeT (ityp ty) false (min (readT (ityp ty) (r a)) (readT (ityp ty) (r b)))))
    ∧ WritesReg (.imax d a b ty gd) gd d
      (fun r => noFlag (writeT (ityp ty) false (max (readT (ityp ty) (r a)) (readT (ityp ty) (r b)))))

/-- R85: at 32 bits without saturation, the sum, difference and product of two registers are those of 32-bit words, in the
signed and in the unsigned type; a saturated unsigned sum stays at the largest word. -/
def Claims.WordArithmetic : Prop :=
  ∀ (x y : Word) (sgn : Bool),
    writeT (32, sgn) false (readT (32, sgn) x + readT (32, sgn) y) = x + y
    ∧ writeT (32, sgn) false (readT (32, sgn) x - readT (32, sgn) y) = x - y
    ∧ writeT (32, sgn) false (readT (32, sgn) x * readT (32, sgn) y) = x * y
    ∧ (2 ^ 32 ≤ x.toNat + y.toNat → writeT (32, false) true (readT (32, false) x + readT (32, false) y) = 0xFFFFFFFF)

/-- R85, R87: integer arithmetic, and what it is at 32 bits. -/
def Obligations.IntegerArithmetic : Prop := Claims.IntegerArithmetic ∧ Claims.WordArithmetic

/-- R88: the bitwise and shift instructions, count and reverse; a shift by 32 or more gives 0, and `sar` fills with the
sign. Their words carry the major opcodes of the table, and their MINOR is ignored. -/
def Obligations.Bitwise : Prop :=
  ∀ (d : Reg) (a b : Src) (imm : Word) (gd : Guard),
    (WritesReg (.and d a b gd) gd d (fun r => noFlag (r a &&& r b))
    ∧ WritesReg (.andImm d a imm) noGuard d (fun r => noFlag (r a &&& imm))
    ∧ WritesReg (.or d a b gd) gd d (fun r => noFlag (r a ||| r b))
    ∧ WritesReg (.orImm d a imm) noGuard d (fun r => noFlag (r a ||| imm))
    ∧ WritesReg (.xor d a b gd) gd d (fun r => noFlag (r a ^^^ r b))
    ∧ WritesReg (.xorImm d a imm) noGuard d (fun r => noFlag (r a ^^^ imm))
    ∧ WritesReg (.not d a gd) gd d (fun r => noFlag (~~~(r a)))
    ∧ WritesReg (.shl d a b gd) gd d (fun r => noFlag (if (r b).toNat < 32 then r a <<< (r b).toNat else 0))
    ∧ WritesReg (.shr d a b gd) gd d (fun r => noFlag (if (r b).toNat < 32 then r a >>> (r b).toNat else 0))
    ∧ WritesReg (.sar d a b gd) gd d (fun r => noFlag ((r a).sshiftRight (min (r b).toNat 31)))
    ∧ WritesReg (.popc d a gd) gd d (fun r => noFlag (BitVec.ofNat 32 (popcount (r a))))
    ∧ WritesReg (.clz d a gd) gd d (fun r => noFlag (BitVec.ofNat 32 (leadingZeros (r a))))
    ∧ WritesReg (.brev d a gd) gd d (fun r => noFlag (r a).reverse))
    ∧ (let major (i : Instr) (n : Nat) : Prop := ((encode i).headD 0).toNat / 2 ^ 24 = n
      major (.and d a b gd) 0x1A ∧ major (.andImm d a imm) 0x1B ∧ major (.or d a b gd) 0x1C ∧ major (.orImm d a imm) 0x1D
      ∧ major (.xor d a b gd) 0x1E ∧ major (.xorImm d a imm) 0x1F ∧ major (.not d a gd) 0x20 ∧ major (.shl d a b gd) 0x21
      ∧ major (.shr d a b gd) 0x22 ∧ major (.sar d a b gd) 0x23 ∧ major (.popc d a gd) 0x24 ∧ major (.clz d a gd) 0x25
      ∧ major (.brev d a gd) 0x26)
    ∧ ∀ x y minor : Word, 0x1A ≤ x.toNat / 2 ^ 24 → x.toNat / 2 ^ 24 ≤ 0x26 → minor.toNat < 64 →
      decodeVilesk (x &&& 0xFFFFFFC0 ||| minor) y = decodeVilesk x y

/-- R89, R90, R92 to R95: fields, selection, carries, addresses, dot product and moves. -/
def Claims.FieldsAndMoves : Prop :=
  ∀ (d : Reg) (a b e : Src) (wt : WideType) (q pout : BitVec 3) (qneg sub na nb sat sgn : Bool) (cin : Option (BitVec 3))
      (sh : BitVec 3) (imm : Word) (gd : Guard),
    WritesReg (.bfx d a b wt gd) gd d (fun r => noFlag (bfxWord (wtyp wt) (r a) (r b)))
    ∧ WritesReg (.bfi d a b e gd) gd d (fun r => noFlag (bfiWord (r a) (r b) (r e)))
    ∧ WritesNow (.sel d a b q qneg gd) gd
      (oneReg d fun g l => noFlag (if g.pred l q.toNat != qneg then g.src l a else g.src l b))
    ∧ WritesReg (.idp4 d a b e na nb sat gd) gd d (fun r => noFlag (writeT (32, true) sat (dot4 na nb (r a) (r b) (r e))))
    ∧ WritesNow (.addc d a b pout sub cin gd) gd (fun g l =>
      let ci := match cin with | some p => if g.pred l p.toNat then 1 else 0 | none => 0
      let x := (g.src l a).toNat
      let y := (g.src l b).toNat
      if sub then
        ([(.reg d.toNat, g.src l a - g.src l b - BitVec.ofNat 32 ci), (.pred pout.toNat, ofPred (x < y + ci))], 0)
      else
        ([(.reg d.toNat, g.src l a + g.src l b + BitVec.ofNat 32 ci), (.pred pout.toNat, ofPred (x + y + ci ≥ 2 ^ 32))], 0))
    ∧ WritesNow (.lea d a b sh sgn gd) gd (fun g l =>
      let r := leaAddr (g.pair l a.reg.toNat) (g.src l b) sh.toNat sgn
      ([(.reg d.toNat, r.extractLsb' 0 32), (.reg (d.toNat + 1), r.extractLsb' 32 32)], 0))
    ∧ WritesReg (.mov d a gd) gd d (fun r => noFlag (r a))
    ∧ WritesNow (.movP2r d gd) gd (oneReg d fun g l => noFlag
      (BitVec.ofNat 32 (0x80 + total ((List.range 7).map fun p => if g.pred l p then 2 ^ p else 0))))
    ∧ WritesNow (.movR2p a gd) gd (fun g l =>
      ((List.range 7).map fun p => (.pred p, ofPred ((g.src l a).getLsbD p)), 0))
    ∧ WritesReg (.movi d imm) noGuard d (fun _ => noFlag imm)

/-- R91, R98: `cmp` and `fcmp` write one predicate, p7 none; `fcmp` raises INV as its comparison says. -/
def Claims.Compares : Prop :=
  ∀ (pd : BitVec 3) (a b : Src) (ty : IType) (c : Cond) (fc : FCond) (gd : Guard),
    WritesPred (.cmp pd a b ty c gd) gd pd
      (fun r => (compareInt c (readT (ityp ty) (r a)) (readT (ityp ty) (r b)), 0))
    ∧ WritesPred (.fcmp pd a b fc gd) gd pd (fun r => fcompare fc (fpv (r a)) (fpv (r b)))

/-- R89 to R95, R98: bit fields, moves, carries, addresses and compares. (The flags of a result that v255 or p7 discards: log entry
29.) -/
def Obligations.FieldsAndCompares : Prop := Claims.FieldsAndMoves ∧ Claims.Compares

/-- R74, R76, R96, R97: FP32 arithmetic with its rounding mode; the immediate forms round to nearest even. The flags of
every active lane that is no helper lane are added to FSTAT. -/
def Claims.FloatArithmetic : Prop :=
  ∀ (d : Reg) (a b e : Src) (rm : RM) (imm : Word) (gd : Guard),
    WritesReg (.fadd d a b rm gd) gd d (fun r => asWord (fp32.addV rm (fpv (r a)) (fpv (r b))))
    ∧ WritesReg (.faddImm d a imm) noGuard d (fun r => asWord (fp32.addV .rne (fpv (r a)) (fpv imm)))
    ∧ WritesReg (.fsub d a b rm gd) gd d (fun r => asWord (fp32.addV rm (fpv (r a)) (fpv (r b)).neg))
    ∧ WritesReg (.fmul d a b rm gd) gd d (fun r => asWord (fp32.mul rm (fpv (r a)) (fpv (r b))))
    ∧ WritesReg (.fmulImm d a imm) noGuard d (fun r => asWord (fp32.mul .rne (fpv (r a)) (fpv imm)))
    ∧ WritesReg (.ffma d a b e rm gd) gd d (fun r => asWord (fp32.fma rm (fpv (r a)) (fpv (r b)) (fpv (r e))))
    ∧ WritesReg (.fmin d a b gd) gd d (fun r => asWord (fp32.minmax false (r a).toNat (r b).toNat))
    ∧ WritesReg (.fmax d a b gd) gd d (fun r => asWord (fp32.minmax true (r a).toNat (r b).toNat))
    ∧ WritesReg (.frnd d a rm gd) gd d (fun r => asWord (frndCode rm (r a).toNat))

/-- R99, R100: conversions, whose narrow results are merged into the third operand, and packed half arithmetic, each half
on its own with the flags of both. -/
def Claims.Conversions : Prop :=
  ∀ (d : Reg) (a b e : Src) (df sf : Fmt) (dsel ssel : BitVec 2) (sat : Bool) (f : HFmt) (rm : RM) (gd : Guard),
    WritesReg (.cvt d a e df sf dsel ssel sat rm gd) gd d (fun r =>
      let x := convert df sf rm sat (partOf sf ssel (r a))
      (mergePart df dsel (r e) x.1, x.2))
    ∧ (let half (w : Word) (h : Nat) : FVal := (halfFmt f).dec (w.toNat / 65536 ^ h % 65536)
       let join (x y : Nat × Flags) : Word × Flags := (BitVec.ofNat 32 (y.1 * 65536 + x.1), x.2 ||| y.2)
       WritesReg (.hadd2 d a b f rm gd) gd d (fun r =>
          join ((halfFmt f).addV rm (half (r a) 0) (half (r b) 0)) ((halfFmt f).addV rm (half (r a) 1) (half (r b) 1)))
       ∧ WritesReg (.hmul2 d a b f rm gd) gd d (fun r =>
          join ((halfFmt f).mul rm (half (r a) 0) (half (r b) 0)) ((halfFmt f).mul rm (half (r a) 1) (half (r b) 1)))
       ∧ WritesReg (.hfma2 d a b e f rm gd) gd d (fun r =>
          join ((halfFmt f).fma rm (half (r a) 0) (half (r b) 0) (half (r e) 0))
            ((halfFmt f).fma rm (half (r a) 1) (half (r b) 1) (half (r e) 1))))

/-- R74, R76, R96, R97, R99, R100: FP32 and packed arithmetic, and conversions. (The flags of a result that v255 discards: log entry
29.) -/
def Obligations.FloatArithmetic : Prop := Claims.FloatArithmetic ∧ Claims.Conversions

/-! ### Long-latency instructions: classes SFU, XL and MX -/

/-- R60, R101: a special function is computed at issue, and its result and flags arrive later; the results are those of the model's
`special`, whose correct rounding is presumed (log entry 4). -/
def Claims.SpecialFunctions : Prop :=
  ∀ (d : Reg) (a : Src) (rm : RM) (la : BitVec 4) (gd : Guard),
    let f (k : Nat) := oneReg d fun g l => asWord (special k rm (g.src l a).toNat)
    ResultsLater (.frcp d a rm la gd) gd (f 0) ∧ ResultsLater (.frsq d a rm la gd) gd (f 1)
    ∧ ResultsLater (.fsqrt d a rm la gd) gd (f 2) ∧ ResultsLater (.fexp2 d a rm la gd) gd (f 3)
    ∧ ResultsLater (.flog2 d a rm la gd) gd (f 4) ∧ ResultsLater (.fsin d a rm la gd) gd (f 5)
    ∧ ResultsLater (.fcos d a rm la gd) gd (f 6) ∧ ResultsLater (.ftanh d a rm la gd) gd (f 7)

/-- R82, R83, R103 to R107: the cross-lane instructions. A source of another lane is read whatever the guard of that lane,
an empty lane gives zero, and `.occ` replaces lanes without a thread by the identity. -/
def Claims.CrossLane : Prop :=
  ∀ (d : Reg) (a b : Src) (m : QMode) (k : BitVec 2) (sm : ShMode) (q : BitVec 3) (vm : VMode) (op : ROp) (ty : RType)
      (occ sat excl : Bool) (la : BitVec 4) (gd : Guard),
    ResultsLater (.qswap d a m la gd) gd (oneReg d fun g l => noFlag (g.src (partner m l) a))
    ∧ ResultsLater (.qbcast d a k la gd) gd (oneReg d fun g l => noFlag (g.src (4 * (l / 4) + k.toNat) a))
    ∧ ResultsLater (.shfl d a b sm la gd) gd (oneReg d fun g l =>
      let w := tileWidth g.tilew
      noFlag (match shflFrom sm w (l % w) (g.src l b).toNat with
        | some j => g.src (l - l % w + j) a
        | none => g.src l a))
    ∧ ResultsLater (.vote d q vm occ la gd) gd (fun g l =>
      let bs := voteBits g q.toNat vm occ l
      match vm with
      | .any => ([(.pred (d.toNat % 8), ofPred (bs.any id))], 0)
      | .all => ([(.pred (d.toNat % 8), ofPred (bs.all id))], 0)
      | .ballot => ([(.reg d.toNat,
          BitVec.ofNat 32 (total ((List.range bs.length).map fun k => if bs.getD k false then 2 ^ k else 0)))], 0))
    ∧ (let tile (op : ROp) (sat : Bool) := oneReg d fun g l =>
         treeNode (redOp op ty sat) 5 (tileVals g a occ (redId op ty) l)
       ResultsLater (.redadd d a ty occ sat la gd) gd (tile .add sat)
       ∧ ResultsLater (.redmax d a ty occ la gd) gd (tile .max false)
       ∧ ResultsLater (.redmin d a ty occ la gd) gd (tile .min false))
    ∧ ResultsLater (.scan d a op ty occ sat excl la gd) gd (oneReg d fun g l =>
      let xs := tileVals g a occ (redId op ty) l
      let k := l % tileWidth g.tilew
      if excl then (if k = 0 then (redId op ty, 0) else scanTo (redOp op ty sat) xs (k - 1))
      else scanTo (redOp op ty sat) xs k)

/-- R35, R60, R113, R114, R119 to R122: a matrix instruction completes in a group of 32 threads whose sub-core's matrix unit is free:
`mmasp` where no mask has more ones than it admits, `mmas` and `ldfrag` where their fragment image is aligned and lies in the
block's shared memory. -/
def Claims.MatrixCompletes : Prop :=
  ∀ (d : Reg) (a w e : Src) (af : AFmt) (wf : W8Fmt) (nf : WFmt) (xf : XFmt) (z sat : Bool) (st bsel : BitVec 2)
      (n : BitVec 4) (cnt : BitVec 5) (off : BitVec 20) (rm : RM) (la : BitVec 4) (gd : Guard),
    let span (n : Nat) : List Nat := (List.range n).map (d.toNat + ·)
    let free (s : State) (c sl : Nat) (g : Group) : Prop := (∀ l < 32, g.occ l = true) ∧ s.mxBusy c sl = false
    let image (b : Group → Nat) (n : Nat) (s : State) (c sl : Nat) (g : Group) : Prop := free s c sl g ∧ b g % 128 = 0
      ∧ ∃ x, s.block c g.bslot = some x ∧ b g + 128 * n ≤ x.shSize
    Enters (.mma d a w af wf z st la gd) gd la (span 32) free
    ∧ Enters (.mmaw d a w e af nf bsel z st la gd) gd la (span 32) free
    ∧ Enters (.mmasp d a w e af wf n z st la gd) gd la (span 32) (fun s c sl g => free s c sl g
      ∧ ∀ l < 32, g.active gd l = true → ∀ j ≤ st.toNat, onesBelow (g.reg l (e.reg.toNat + j)).toNat 24 ≤ n.toNat + 1)
    ∧ Enters (.mmas d a w af wf z st la gd) gd la (span 32) (image (fun g => (g.reg 0 w.reg.toNat).toNat) (6 * (st.toNat + 1)))
    ∧ Enters (.ldfrag d a cnt off la gd) gd la (span (cnt.toNat + 1))
      (image (fun g => (g.reg 0 a.reg.toNat).toNat + off.toNat) (cnt.toNat + 1))
    ∧ Enters (.fxpose d a xf sat rm la gd) gd la
      (span (match xf with | .b32 => 32 | .bf16 => 16 | .e4m3 => 8 | .e5m2 => 8)) free

/-- R35, R60, R82, R83, R101, R103 to R107, R113, R114, R119 to R122: the classes SFU and XL, and where matrix instructions complete. -/
def Obligations.SpecialAndCrossLane : Prop := Claims.SpecialFunctions ∧ Claims.CrossLane ∧ Claims.MatrixCompletes

/-- R110 to R122: the matrix instructions of a group with 32 threads. `mma`, `mmaw`, `mmas` and `mmasp` accumulate, for
every active lane n and every m, the steps of R117 into register d + m; `mmas` and `ldfrag` read shared memory along the
matrix path, where each word is the current one or an earlier one that no ordering instruction has fixed (R119; which earlier words
those are is log entry 26). -/
def Claims.Matrix : Prop :=
  ∀ (d : Reg) (a w e : Src) (af : AFmt) (wf : W8Fmt) (nf : WFmt) (xf : XFmt) (z sat : Bool) (st bsel : BitVec 2)
      (n : BitVec 4) (cnt : BitVec 5) (off : BitVec 20) (rm : RM) (la : BitVec 4) (gd : Guard) (s : State) (c sl : Nat)
      (g : Group) (cl : Clause),
    (∀ l < 32, g.occ l = true) → s.mxBusy c sl = false →
    let steps := st.toNat + 1
    let A (m : Nat) : Nat → FVal := aElem af (g.reg m) a.reg.toNat
    let image (b words : Nat) (P : List Word → Prop) : Prop :=
      ∃ ws : List Word, P ws ∧ ws.length = words ∧ ∀ i < words, ∃ v ∈ mget32 (s.core c).sh (b + 4 * i)
        :: tget [] (s.core c).mxHist (b + 4 * i), ws[i]? = some v
    (Issues (.mma d a w af wf z st la gd) s c sl g cl → Completes (.mma d a w af wf z st la gd) s fun t =>
      Later (.mma d a w af wf z st la gd) s t c sl g
        (mxResults g gd d z steps A fun l k => some (wElem wf (g.reg l) w.reg.toNat k)))
    ∧ (Issues (.mmaw d a w e af nf bsel z st la gd) s c sl g cl → Completes (.mmaw d a w e af nf bsel z st la gd) s fun t =>
      Later (.mmaw d a w e af nf bsel z st la gd) s t c sl g
        (mxResults g gd d z steps A fun l k => some (wScaled nf (g.reg l) w.reg.toNat e.reg.toNat bsel.toNat k)))
    ∧ (Issues (.mmasp d a w e af wf n z st la gd) s c sl g cl →
      (∀ l < 32, g.active gd l = true → ∀ j < steps, onesBelow (g.reg l (e.reg.toNat + j)).toNat 24 ≤ n.toNat + 1) →
      Completes (.mmasp d a w e af wf n z st la gd) s fun t =>
        Later (.mmasp d a w e af wf n z st la gd) s t c sl g
          (mxResults g gd d z steps A fun l k => wSparse wf (g.reg l) w.reg.toNat e.reg.toNat (n.toNat + 1) k))
    ∧ (∀ x, s.block c g.bslot = some x →
      let b := (g.reg 0 w.reg.toNat).toNat
      Issues (.mmas d a w af wf z st la gd) s c sl g cl → b % 128 = 0 → b + 128 * (6 * steps) ≤ x.shSize →
      Completes (.mmas d a w af wf z st la gd) s fun t => image (x.shBase + b) (32 * (6 * steps)) fun ws =>
        Later (.mmas d a w af wf z st la gd) s t c sl g
          (mxResults g gd d z steps A fun l k => some (wElem wf (fun r => ws.getD (32 * r + l) 0) 0 k)))
    ∧ (∀ x, s.block c g.bslot = some x →
      let b := (g.reg 0 a.reg.toNat).toNat + off.toNat
      Issues (.ldfrag d a cnt off la gd) s c sl g cl → b % 128 = 0 → b + 128 * (cnt.toNat + 1) ≤ x.shSize →
      Completes (.ldfrag d a cnt off la gd) s fun t => image (x.shBase + b) (32 * (cnt.toNat + 1)) fun ws =>
        Later (.ldfrag d a cnt off la gd) s t c sl g ((lanes32.filter (g.active gd)).flatMap fun l =>
          (List.range (cnt.toNat + 1)).map fun i =>
            { lane := l, loc := .reg (d.toNat + i), val := ws.getD (32 * i + l) 0, flags := 0 }))
    ∧ (Issues (.fxpose d a xf sat rm la gd) s c sl g cl → Completes (.fxpose d a xf sat rm la gd) s fun t =>
      Later (.fxpose d a xf sat rm la gd) s t c sl g ((lanes32.filter (g.active gd)).flatMap fun l =>
        let r := xposeRow xf sat rm fun k => g.reg k (a.reg.toNat + l)
        (List.range r.length).map fun i =>
          { lane := l, loc := .reg (d.toNat + i), val := (r.getD i (0, 0)).1, flags := (r.getD i (0, 0)).2 }))

/-- R35, R110 to R122, R315: every matrix instruction of a group with an empty or helper lane takes CONVERGE, cause 1, for those lanes. -/
def Claims.MatrixNeedsThreads : Prop :=
  ∀ (d : Reg) (a w e : Src) (af : AFmt) (wf : W8Fmt) (nf : WFmt) (xf : XFmt) (z sat : Bool) (st bsel : BitVec 2)
      (n : BitVec 4) (cnt : BitVec 5) (off : BitVec 20) (rm : RM) (la : BitVec 4) (gd : Guard) (s : State) (c sl : Nat)
      (g : Group) (cl : Clause) (i : Instr),
    i ∈ [.mma d a w af wf z st la gd, .mmaw d a w e af nf bsel z st la gd, .mmas d a w af wf z st la gd,
        .mmasp d a w e af wf n z st la gd, .ldfrag d a cnt off la gd, .fxpose d a xf sat rm la gd] →
    Issues i s c sl g cl → (∃ l < 32, g.occ l = false) →
    exec i s = .next (s.takeFault c sl { code := 2, cause := 1, lanes := ~~~g.occMask, aux := g.occMask } (resumeOf g))

/-- R35, R110 to R122, R315: the class MX, and its need of every lane. -/
def Obligations.Matrix : Prop := Claims.Matrix ∧ Claims.MatrixNeedsThreads

/-! ### Thread memory and special registers: class MEM -/

/-- R136, R137, R140, R142, R220: loads of shared memory and of the argument block. Each active lane's words are read at issue, which is
the model's choice among the moments before the result (log entry 23); a store of its group that is not yet performed comes first; a
helper lane whose access would fault gets zeros. -/
def Claims.SharedLoads : Prop :=
  ∀ (d : Reg) (a : Src) (sem : LdSem) (w : Wid) (off : BitVec 20) (sc : Scope) (la : BitVec 4) (gd : Guard) (s : State)
      (c sl : Nat) (g : Group) (cl : Clause),
    let addr (l : Nat) : Int := (g.reg l a.reg.toNat).toNat + off.toInt
    (∀ i, i = Instr.ldsh d a sem w off sc la gd → Issues i s c sl g cl → g.accessing = false →
      Fits g gd addr (widBytes w) (s.shSizeOf c g) → Completes i s fun t =>
        Later i s t c sl g (loaded g gd d (widRegs w) fun l k =>
          if suppressed g (widBytes w) (s.shSizeOf c g) addr l then 0
          else
            let b := s.shBaseOf c g + (addr l).toNat + 4 * k
            (forward g.stq .sh b).getD (mget32 (s.core c).sh b)))
    ∧ (∀ i, i = Instr.ldc d a w off la gd → Issues i s c sl g cl →
      Fits g gd addr (widBytes w) 4096 → Completes i s fun t =>
        Later i s t c sl g (loaded g gd d (widRegs w) fun l k =>
          if suppressed g (widBytes w) 4096 addr l then 0
          else BitVec.ofNat 32 (bfield (argBytes s (s.launchOf c g)) ((addr l).toNat + 4 * k) 4)))

/-- R133, R136, R142, R220: a load of the scratchpad enters its words, lane after lane, as parts that are still to be read; an
acquire at `die` or wider, and a front core, read no line of the cache. A helper lane whose access would fault gets zeros and
reads nothing. The block is not audited (R259), and every home die can be reached (R329). -/
def Claims.ScratchpadLoads : Prop :=
  ∀ (d : Reg) (a : Src) (sem : LdSem) (w : Wid) (off : BitVec 20) (sc : Scope) (la : BitVec 4) (gd : Guard) (s : State)
      (c sl : Nat) (g : Group) (cl : Clause),
    let i := Instr.ldsp d a sem w off sc la gd
    let addr (l : Nat) : Int := (g.reg l a.reg.toNat).toNat + off.toInt
    let p := (s.launchOf c g).polder
    let acq := decide (sem = .acq) && wideScope sc
    let parts : List SpTodo :=
      (lanes32.filter fun l => g.active gd l && !spSuppressed s c p (widBytes w) g addr l).flatMap fun l =>
        (List.range (widRegs w)).map fun k =>
          { lane := l, addr := s.spBase p + (addr l).toNat + 4 * k, acq := acq, op := .load (d.toNat + k) (!acq && decide (c < 32)) }
    let ws := loaded g gd d (widRegs w) fun _ _ => 0
    Issues i s c sl g cl → g.accessing = false → Unaudited s c g →
    Fits g gd addr (widBytes w) (s.polder p).spSize → Linked s c g gd addr →
    Completes i s fun t => Later i s t c sl g ws
      ∧ (ws ≠ [] → ∃ h, t.group c sl = some h ∧ ∃ f ∈ h.inflight, f.id = s.newId.1 ∧ f.writes = ws ∧ f.todo = parts)

/-- R220, R229 to R231: the next word of a scratchpad load comes from the youngest queued store of its group, or from a line of the
read cache that may serve it (R231), or from its home die, behind every store that the cores of its die have sent there (of another
core's, that is the model's choice: log entry 23). -/
def Claims.ScratchpadWords : Prop :=
  ∀ (s : State) (c sl id r : Nat) (g : Group) (f : InFlight) (t : SpTodo) (cached : Bool) (rest : List SpTodo),
    let home := (s.linkQ.filter fun x => dieOf x.core = dieOf c && decide (homeDie x.word.addr = homeDie t.addr)).foldl
      (fun m x => mset32 m x.word.addr x.word.val) s.sp
    s.group c sl = some g → s.flight c sl id = some f → f.todo = t :: rest → (∀ u ∈ rest, u.lane ≠ t.lane) →
    t.op = .load r cached → s.linkAvail (dieOf c) (homeDie t.addr) = .yes → s.lwatches = [] →
    (∀ e ∈ (s.core c).groups, ∀ x ∈ e.2.inflight, x.reply = false) →
    ∃ v f', (s.performPart c sl id).flight c sl id = some f' ∧ f'.todo = rest ∧ (s.performPart c sl id).mem = s.mem
      ∧ f'.writes = f.writes.map (fun w => if w.lane = t.lane ∧ w.loc = .reg r then { w with val := v } else w)
      ∧ (∀ x, forward g.stq .sp t.addr = some x → v = x)
      ∧ (forward g.stq .sp t.addr = none → v = mget32 home t.addr
        ∨ (cached = true ∧ ∃ ln, tfind (s.core c).rcache (t.addr / 64) = some ln ∧ ln.polder = (s.launchOf c g).polder
          ∧ s.clock - ln.filled ≤ 65536 ∧ v = BitVec.ofNat 32 (bfield ln.bytes (t.addr % 64) 4)))

/-- R133, R136, R137, R140, R142, R220, R229 to R231: loads from shared memory, the argument block and the scratchpad. -/
def Obligations.LocalLoads : Prop := Claims.SharedLoads ∧ Claims.ScratchpadLoads ∧ Claims.ScratchpadWords

/-- R136, R137, R218: a store enters one entry into its group's store queue, with the words of the lanes that work; no
memory has changed yet. -/
def Claims.Stores : Prop :=
  ∀ (a v : Src) (sem : StSem) (w : Wid) (off : BitVec 10) (sc : Scope) (gd : Guard) (s : State) (c sl : Nat) (g : Group)
      (cl : Clause),
    let addr (l : Nat) : Int := (g.reg l a.reg.toNat).toNat + 4 * off.toInt
    let p := (s.launchOf c g).polder
    let rel := if sem = .rel then some sc else none
    let words (base : Nat) : List StWrite := (lanes32.filter (g.works gd)).flatMap fun l =>
      (List.range (widRegs w)).map fun k =>
        { lane := l, addr := base + (addr l).toNat + 4 * k, val := g.reg l (v.reg.toNat + k) }
    g.accessing = false → g.stq.length < 32 →
    (∀ i, i = Instr.stsh a v sem w off sc gd → Issues i s c sl g cl → Fits g gd addr (widBytes w) (s.shSizeOf c g) →
      Completes i s fun t =>
        Wrote i gd s t c sl (g.queued s.newId.1 (s.originOf c sl g .cpy) .sh p rel (words (s.shBaseOf c g))) (fun _ => []) (fun _ => 0))
    ∧ (∀ i, i = Instr.stsp a v sem w off sc gd → Issues i s c sl g cl → Unaudited s c g →
      Fits g gd addr (widBytes w) (s.polder p).spSize → Linked s c g gd addr →
      Completes i s fun t =>
        Wrote i gd s t c sl (g.queued s.newId.1 (s.originOf c sl g .cpy) .sp p rel (words (s.spBase p))) (fun _ => []) (fun _ => 0))

/-- R218, R219, R228 to R230: the head of a store queue is performed once its release allows: an entry of shared memory in one step,
a scratchpad entry word by word, lane after lane. A word of the core's own die is written there, another is sent on a die link,
and written at its home die behind those sent before it. No other byte changes. (No queue's WAIT watches a word here, and no
atomic of the core is on its way.) -/
def Claims.StoresPerform : Prop :=
  ∀ (s : State) (c sl id : Nat) (e : StEntry) (r : List StEntry) (g : Group) (w : StWrite) (left : List StWrite) (x : Sent)
      (y : List Sent),
    let may := ∀ sc, e.rel = some sc → s.relReady e.owner e.after sc = true
    let calm (k : Nat) : Prop := ∀ z ∈ (s.core k).groups, ∀ f ∈ z.2.inflight, f.reply = false
    s.lwatches = [] →
    (sl < 64 → s.group c sl = some g → g.stq = e :: r → may → e.space = .sh →
      Completes (.storePerform (.queue c sl)) s fun t =>
        t.mem = s.mem ∧ t.sp = s.sp ∧ t.group c sl = some { g with stq := r }
        ∧ (∀ d j, ¬(d = c ∧ j = sl) → t.group d j = s.group d j) ∧ (∀ d, d ≠ c → (t.core d).sh = (s.core d).sh)
        ∧ ∀ a, mget (t.core c).sh a = mget (e.writes.foldl (fun m w => mset32 m w.addr w.val) (s.core c).sh) a)
    ∧ (sl < 64 → s.group c sl = some g → g.stq = e :: r → may → e.space = .sp → e.left = w :: left → (∀ v ∈ left, v.lane ≠ w.lane) →
      s.linkAvail (dieOf c) (homeDie w.addr) ≠ .no → calm c →
      Completes (.storePerform (.queue c sl)) s fun t =>
        t.mem = s.mem ∧ (t.core c).sh = (s.core c).sh
        ∧ t.group c sl = some { g with stq := if left = [] then r else { e with left := left } :: r }
        ∧ (homeDie w.addr = dieOf c → t.linkQ = s.linkQ ∧ ∀ a, mget t.sp a = mget (mset32 s.sp w.addr w.val) a)
        ∧ (homeDie w.addr ≠ dieOf c → t.sp = s.sp
          ∧ t.linkQ = s.linkQ ++ [{ id := s.newId.1, core := c, entry := e, word := w }]))
    ∧ (sl < 64 → s.group c sl = some g → g.stq = e :: r → ¬may → exec (.storePerform (.queue c sl)) s = .next s)
    ∧ (s.linkQ = x :: y → (∀ z ∈ y, z.id ≠ x.id) → calm x.core → x.id = id →
      s.linkAvail (dieOf x.core) (homeDie x.word.addr) = .yes →
      Completes (.storePerform (.link id)) s fun t => t.mem = s.mem ∧ t.linkQ = y ∧ t.cores = s.cores
        ∧ ∀ a, mget t.sp a = mget (mset32 s.sp x.word.addr x.word.val) a)

/-- R136, R137, R218, R228 to R230: stores enter their queue, and are performed from it in order. -/
def Obligations.Stores : Prop := Claims.Stores ∧ Claims.StoresPerform

/-- R138, R139, R222: an atomic of shared memory acts in the lanes that work, in ascending order, each on what the lanes before it
have left; the old values come later; no other byte of memory changes. -/
def Claims.SharedAtomics : Prop :=
  ∀ (d : Reg) (a b e : Src) (op : AOp) (sem : Sem) (w64 : Bool) (sc : Scope) (la : BitVec 4) (gd : Guard) (s : State)
      (c sl : Nat) (g : Group) (cl : Clause),
    let n := wideN w64
    let addr (l : Nat) : Int := (g.reg l a.reg.toNat).toNat
    let base := s.shBaseOf c g
    let act (m : Memory) (l : Nat) : Nat :=
      atomVal op (32 * n) (ofLe (mreads m (base + (addr l).toNat) (4 * n))) (operand g w64 l b.reg.toNat)
        (operand g w64 l e.reg.toNat)
    let after (m : Memory) (ls : List Nat) : Memory := ls.foldl (init := m) fun m l =>
      mwrites m (base + (addr l).toNat) (toLe (4 * n) (act m l))
    let works := lanes32.filter (g.works gd)
    let olds (m : Memory) : List LWrite := works.flatMap fun l =>
      oldResults l d w64 (ofLe (mreads (after m (works.filter (· < l))) (base + (addr l).toNat) (4 * n)))
    let i := Instr.atsh d a b e op sem w64 sc la gd
    g.accessing = false → g.stq = [] → (semRel sem = true → s.relReady g.uid (g.mreds ++ g.finished) sc = true) →
    Issues i s c sl g cl → Fits g gd addr (atomBytes w64) (s.shSizeOf c g) →
    Completes i s fun t => ∃ hist m, (∀ x, mget m x = mget (after (s.core c).sh works) x)
      ∧ Later i (s.setCore c { s.core c with sh := m, mxHist := hist }) t c sl g (olds (s.core c).sh)

/-- R138, R222, R229: an atomic of the scratchpad enters one operation for each lane that works, to be applied at its home die; the old
values come with the reply. -/
def Claims.ScratchpadAtomics : Prop :=
  ∀ (d : Reg) (a b e : Src) (op : AOp) (sem : Sem) (w64 : Bool) (sc : Scope) (la : BitVec 4) (gd : Guard) (s : State)
      (c sl : Nat) (g : Group) (cl : Clause),
    let addr (l : Nat) : Int := (g.reg l a.reg.toNat).toNat
    let p := (s.launchOf c g).polder
    let works := lanes32.filter (g.works gd)
    let regs := if d = 255 then [] else (List.range (wideN w64)).map (d.toNat + ·)
    let parts : List SpTodo := works.map fun l =>
      { lane := l, addr := s.spBase p + (addr l).toNat, acq := semAcq sem && wideScope sc
        op := .atom op w64 regs (operand g w64 l b.reg.toNat) (operand g w64 l e.reg.toNat)
          (if semRel sem then some sc else none) (g.mreds ++ g.finished) }
    let ws : List LWrite := works.flatMap fun l => regs.map fun r => { lane := l, loc := .reg r, val := 0, flags := 0 }
    let i := Instr.atsp d a b e op sem w64 sc la gd
    g.accessing = false → g.stq = [] → (semRel sem = true → s.relReady g.uid (g.mreds ++ g.finished) sc = true) →
    Issues i s c sl g cl → Unaudited s c g → Fits g gd addr (atomBytes w64) (s.polder p).spSize → Linked s c g gd addr →
    Completes i s fun t => Later i s t c sl g ws
      ∧ (parts ≠ [] → ∃ h, t.group c sl = some h ∧ ∃ f ∈ h.inflight, f.id = s.newId.1 ∧ f.reply = true ∧ f.writes = ws
        ∧ f.todo = parts)

/-- R138, R139, R219, R222, R230: one lane of a scratchpad atomic is applied whole at its home die, behind every store that the cores of
its die have sent there (of another core's, that is the model's choice: log entry 23); its registers take the old value, and the lines that its reply will update the new one. No other byte changes. -/
def Claims.AtomicParts : Prop :=
  ∀ (s : State) (c sl id : Nat) (g : Group) (f : InFlight) (t : SpTodo) (rest : List SpTodo) (op : AOp) (w64 : Bool)
      (regs : List Nat) (b v : Nat) (rel : Option Scope) (after : List Nat),
    let n := if w64 then 2 else 1
    let home := (s.linkQ.filter fun x => dieOf x.core = dieOf c && decide (homeDie x.word.addr = homeDie t.addr)).foldl
      (fun m x => mset32 m x.word.addr x.word.val) s.sp
    let old := ofLe (mreads home t.addr (4 * n))
    let new := atomVal op (32 * n) old b v
    s.group c sl = some g → s.flight c sl id = some f → f.todo = t :: rest → (∀ u ∈ rest, u.lane ≠ t.lane) →
    t.op = .atom op w64 regs b v rel after → s.linkAvail (dieOf c) (homeDie t.addr) = .yes → s.lwatches = [] →
    (∀ e ∈ (s.core c).groups, ∀ x ∈ e.2.inflight, x.reply = true → x.id = id) →
    let u := s.performPart c sl id
    u.mem = s.mem ∧ (∀ a, mget u.sp a = mget (mwrites home t.addr (toLe (4 * n) new)) a)
    ∧ ∃ f', u.flight c sl id = some f' ∧ f'.todo = rest
      ∧ f'.writes = (f.fill t.lane (regs.zipIdx.map fun r => (r.1, BitVec.ofNat 32 (old / 2 ^ (32 * r.2))))).writes
      ∧ f'.lines = f.lines ++ (List.range n).map fun k => (t.addr + 4 * k, BitVec.ofNat 32 (new / 2 ^ (32 * k)))

/-- R138, R139, R219, R222, R229, R230: atomics of shared memory and of the scratchpad. -/
def Obligations.Atomics : Prop := Claims.SharedAtomics ∧ Claims.ScratchpadAtomics ∧ Claims.AtomicParts

/-- R24, R79, R108, R109, R141: a special register, read in every active lane of a block that is not audited; a read of CLOCK.LO latches
the high half in the lanes that read; `sreg.clr` reads FSTAT and clears it. Both wait for FSTAT until no result is on its way. GRP
reads the group number of R29, which is the model's reading of R24 (log entry 8). -/
def Claims.SpecialRegisters : Prop :=
  ∀ (d : Reg) (r : SReg) (la : BitVec 4) (gd : Guard) (s : State) (c sl : Nat) (g : Group) (cl : Clause) (x : Block),
    s.block c g.bslot = some x → x.audit = none → x.rerun = none →
    let l := x.launch
    let value (i : Nat) : Nat := match r with
      | .lane => i
      | .quad => i / 4
      | .grp => g.gnum
      | .ngrp => (l.x * l.y * l.z + 31) / 32
      | .blkX => x.idx % l.nblkX
      | .blkY => x.idx / l.nblkX % l.nblkY
      | .blkZ => x.idx / l.nblkX / l.nblkY
      | .nblkX => l.nblkX
      | .nblkY => l.nblkY
      | .nblkZ => l.nblkZ
      | .gang => x.idx / l.gangSz
      | .core => x.homeCore
      | .die => if x.homeCore < 32 then x.homeCore / 8 else 4
      | .polder => l.polder
      | .clockLo => s.clock % 2 ^ 32
      | .clockHi => match (g.lane i).clkHi with | some h => h.toNat | none => s.clock / 2 ^ 32 % 2 ^ 32
      | .tilew => tileWidth g.tilew
      | .fstat => g.fstat.toNat
      | .slim => 32 * ((l.regs + 31) / 32)
    (∀ i, i = Instr.sreg d r la gd → Issues i s c sl g cl → (r = .fstat → g.inflight = []) → Completes i s fun t =>
      Later i s t c sl
        (if r = .clockLo then g.mapLanes fun k ln =>
          if g.active gd k then { ln with clkHi := some (BitVec.ofNat 32 (s.clock / 2 ^ 32)) } else ln
         else g)
        (loaded g gd d 1 fun k _ => BitVec.ofNat 32 (value k)))
    ∧ (∀ i, i = Instr.sregClr d la gd → Issues i s c sl g cl → g.inflight = [] → Completes i s fun t =>
      Later i s t c sl (if lanes32.any (g.active gd) then { g with fstat := 0 } else g)
        (loaded g gd d 1 fun _ _ => g.fstat.setWidth 32))

/-- R60, R136, R137, R142, R220, R222, R329: a load completes where every lane that works reads an aligned address inside its space,
no atomic or scratchpad load of the group is on its way, and for `ldsp` its home dies are reached. -/
def Claims.LoadsComplete : Prop :=
  ∀ (d : Reg) (a : Src) (sem : LdSem) (w : Wid) (off : BitVec 20) (sc : Scope) (la : BitVec 4) (gd : Guard),
    let span : List Nat := (List.range (widRegs w)).map (d.toNat + ·)
    let addr (g : Group) (l : Nat) : Int := (g.reg l a.reg.toNat).toNat + off.toInt
    Enters (.ldsh d a sem w off sc la gd) gd la span (fun s c _ g => g.accessing = false
      ∧ Fits g gd (addr g) (widBytes w) (s.shSizeOf c g))
    ∧ Enters (.ldsp d a sem w off sc la gd) gd la span (fun s c _ g => g.accessing = false
      ∧ Fits g gd (addr g) (widBytes w) (s.polder (s.launchOf c g).polder).spSize ∧ Linked s c g gd (addr g))
    ∧ Enters (.ldc d a w off la gd) gd la span (fun _ _ _ g => Fits g gd (addr g) (widBytes w) 4096)

/-- R24, R60, R79, R108, R109, R136, R137, R141, R142, R220, R222, R329: special registers, and where loads complete. -/
def Obligations.SpecialRegisters : Prop := Claims.SpecialRegisters ∧ Claims.LoadsComplete

/-- R142, R308, R310: where some lane that works would access an address that is not a multiple of its width, the
instruction takes MISALIGN for those lanes, with the lowest lane's address; where none is misaligned but one lies outside its
space, BOUNDS. CAUSE is the space; AUX is instruction word 0. -/
def Claims.AccessFaults : Prop :=
  ∀ (d : Reg) (a v b e : Src) (op : AOp) (sem : Sem) (lsem : LdSem) (ssem : StSem) (w : Wid) (w64 : Bool) (off : BitVec 20)
      (soff : BitVec 10) (sc : Scope) (la : BitVec 4) (gd : Guard) (s : State) (c sl : Nat) (g : Group) (cl : Clause),
    let ends (i : Instr) (space size w : Nat) (off : Int) : Prop := Issues i s c sl g cl →
      let addr (l : Nat) : Int := (g.reg l a.reg.toNat).toNat + off
      let odd (l : Nat) : Bool := g.works gd l && decide (addr l % w ≠ 0)
      let out (l : Nat) : Bool := g.works gd l && decide (addr l < 0 ∨ size < addr l + w)
      let fault (code : Nat) (bad : Nat → Bool) (l : Nat) : Host.Outcome State Fault Refusal :=
        .next (s.takeFault c sl { code := code, cause := space, lanes := maskOf bad, addr := (BitVec.ofInt 32 (addr l)).setWidth 64, aux := s.ir }
          (resumeOf g))
      (∀ l, lowest odd = some l → exec i s = fault 4 odd l)
      ∧ (∀ l, lowest odd = none → lowest out = some l → exec i s = fault 5 out l)
    let p := (s.launchOf c g).polder
    ends (.ldsh d a lsem w off sc la gd) 0 (s.shSizeOf c g) (4 * widRegs w) off.toInt
    ∧ ends (.stsh a v ssem w soff sc gd) 0 (s.shSizeOf c g) (4 * widRegs w) (4 * soff.toInt)
    ∧ ends (.atsh d a b e op sem w64 sc la gd) 0 (s.shSizeOf c g) (if w64 then 8 else 4) 0
    ∧ ends (.ldsp d a lsem w off sc la gd) 1 (s.polder p).spSize (4 * widRegs w) off.toInt
    ∧ ends (.stsp a v ssem w soff sc gd) 1 (s.polder p).spSize (4 * widRegs w) (4 * soff.toInt)
    ∧ ends (.atsp d a b e op sem w64 sc la gd) 1 (s.polder p).spSize (if w64 then 8 else 4) 0
    ∧ ends (.ldc d a w off la gd) 2 4096 (4 * widRegs w) off.toInt

/-! ### Control: class CTL -/

/-- R167, R169 to R173: branches, calls and returns whose occupied lanes all go to one place. `bra` and `brx` go to the target
or to the fall-through; calls push the fall-through in every occupied lane, where the group's spill-stack cache has room (R135), `ret`
pops; nothing else changes. -/
def Claims.UniformBranches : Prop :=
  ∀ (n : BitVec 8) (off : BitVec 20) (t : Src) (gd : Guard) (s : State) (c sl : Nat) (g : Group) (cl : Clause) (dest : Word),
    (∃ l < 32, g.occ l = true) →
    let next := g.pc + 8
    let far := g.pc + (off.signExtend 32 <<< 2)
    let aim (l : Nat) : Word := g.reg l t.reg.toNat &&& 0xFFFFFFFC
    let every (P : Nat → Prop) : Prop := ∀ l < 32, g.occ l = true → P l
    let room := every fun l => (g.lane l).canPush (s.launchOf c g).stackSz = true
    let goes (i : Instr) (k : Group) : Prop :=
      Issues i s c sl g cl → Completes i s fun u => Became i s u c sl k
    let lanes (f : Lane → Lane) : Group := g.mapLanes fun _ ln => if ln.st = .occupied then f ln else ln
    (every (fun l => g.guard gd l = true) → goes (.bra n off gd) { g with pc := far })
    ∧ (every (fun l => g.guard gd l = false) → goes (.bra n off gd) { g with pc := next })
    ∧ (every (fun l => dest = if g.guard gd l = true then aim l else next) → goes (.brx n t gd) { g with pc := dest })
    ∧ (room → g.stackRoom = true → goes (.call n off) { lanes (fun ln => ln.push next) with pc := far })
    ∧ (room → g.stackRoom = true → every (fun l => aim l = dest) → goes (.callx n t) { lanes (fun ln => ln.push next) with pc := dest })
    ∧ (every (fun l => ∃ v, (g.lane l).top = some v ∧ v &&& 0xFFFFFFFC = dest) →
        goes (.ret n) { lanes Lane.pop with pc := dest })

/-- R135, R171: the return stack is eight entries deep and goes on in the group's spill-stack cache and in the thread's stack in memory:
a pop after a push gives the value pushed and the stack before it, at every depth; a push has room while fewer than eight entries
or less than STACKSZ bytes are in use. -/
def Claims.ReturnStack : Prop :=
  ∀ (ln : Lane) (v : Word) (sz : Nat), (ln.rstk.length ≤ 8) →
    (ln.push v).top = some v
    ∧ ((ln.push v).pop.rstk ++ (ln.push v).pop.mstk = ln.rstk ++ ln.mstk) ∧ (ln.push v).pop.deep = ln.deep
    ∧ (ln.push v).rstk.length ≤ 8
    ∧ (ln.canPush sz = true ↔ ln.rstk.length < 8 ∨ 4 * (ln.mstk.length + ln.deep + 1) ≤ sz)

/-- R167, R169 to R173: branches, calls and returns on which every lane agrees, and the depth of the return stack. -/
def Obligations.UniformBranches : Prop := Claims.UniformBranches ∧ Claims.ReturnStack

/-- R33, R34, R37, R169, R170, R172, R173: branches on which the lanes of a loose group disagree. At a `bra` the side with fewer
occupied lanes leaves, on a tie the taken side; at `brx`, `callx` and `ret` the largest set of lanes with one target stays, on a tie
the one with the lowest lane. A call has pushed, and a `ret` has popped, before the lanes leave. The group's outstanding results are
written first (R61; log entry 24), no engine result is awaited by a lane that leaves (R148), and the records find room (R36); a
newcomer may pass those that wait for room (log entry 60). -/
def Claims.Divergence : Prop :=
  ∀ (n : BitVec 8) (off : BitVec 20) (t : Src) (gd : Guard) (s : State) (c sl : Nat) (g : Group) (cl : Clause) (stay : Word),
    let next := g.pc + 8
    let far := g.pc + (off.signExtend 32 <<< 2)
    let aim (l : Nat) : Word := g.reg l t.reg.toNat &&& 0xFFFFFFFC
    let back (l : Nat) : Word := ((g.lane l).top.getD 0) &&& 0xFFFFFFFC
    let T := g.occs.filter (g.guard gd)
    let F := g.occs.filter fun l => !g.guard gd l
    let most (dest : Nat → Word) : Prop :=
      let size (w : Word) : Nat := (g.occs.filter fun l => dest l = w).length
      ∃ l ∈ g.occs, dest l = stay ∧ ∀ m ∈ g.occs, size (dest m) < size stay ∨ (size (dest m) = size stay ∧ l ≤ m)
    let after (i : Instr) (f : Lane → Lane) : Group :=
      ((g.marked (issueOf i)).mapLanes fun _ ln => if ln.st = .occupied then f ln else ln).landed
    let divides (i : Instr) (f : Lane → Lane) (out : List (Nat × Word)) (to' : Word) : Prop :=
      Issues i s c sl g cl → g.bound = false → g.quietLines → out ≠ [] →
      (∀ e ∈ out, s.pendBusy (g.lane e.1) = false) →
      s.fits c (s.launchOf c g).polder (out.map fun e => recSize (f (g.lane e.1)).rstk.length n.toNat) = true →
      (s.core c).ageCtr + 32 < 2 ^ 32 →
      Completes i s fun u => Divided s u c sl n.toNat (after i f) out to'
    let leaving (dest : Nat → Word) : List (Nat × Word) := (g.occs.filter fun l => dest l ≠ stay).map fun l => (l, dest l)
    (T ≠ [] → F ≠ [] → T.length ≤ F.length → divides (.bra n off gd) id (T.map fun l => (l, far)) next)
    ∧ (F.length < T.length → divides (.bra n off gd) id (F.map fun l => (l, next)) far)
    ∧ (let dest (l : Nat) : Word := if g.guard gd l = true then aim l else next
       most dest → divides (.brx n t gd) id (leaving dest) stay)
    ∧ (most aim → g.stackRoom = true → (∀ l ∈ g.occs, (g.lane l).canPush (s.launchOf c g).stackSz = true) →
        divides (.callx n t) (fun ln => ln.push next) (leaving aim) stay)
    ∧ (most back → (∀ l ∈ g.occs, (g.lane l).top ≠ none) → divides (.ret n) Lane.pop (leaving back) stay)

/-- R35, R173, R192, R310, R316: in a bound group a divergent `bra`, `brx` or `callx` takes CONVERGE, cause 2, and a divergent `ret` cause
3, for the lanes that would have left; it comes before the fault of a full or an empty return stack. -/
def Claims.BoundDivergence : Prop :=
  ∀ (n : BitVec 8) (off : BitVec 20) (t : Src) (gd : Guard) (s : State) (c sl : Nat) (g : Group) (cl : Clause) (stay : Word),
    let next := g.pc + 8
    let aim (l : Nat) : Word := g.reg l t.reg.toNat &&& 0xFFFFFFFC
    let T := g.occs.filter (g.guard gd)
    let F := g.occs.filter fun l => !g.guard gd l
    let most (ls : List Nat) (dest : Nat → Word) : Prop :=
      let size (w : Word) : Nat := (ls.filter fun l => dest l = w).length
      ∃ l ∈ ls, dest l = stay ∧ ∀ m ∈ ls, size (dest m) < size stay ∨ (size (dest m) = size stay ∧ l ≤ m)
    let faults (i : Instr) (cause : Nat) (out : List Nat) : Prop :=
      Issues i s c sl g cl → g.bound = true → out ≠ [] →
      exec i s = .next (s.takeFault c sl
        { code := 2, cause := cause, lanes := maskOf fun l => decide (l ∈ out), aux := g.occMask } (resumeOf g))
    (T ≠ [] → F ≠ [] → faults (.bra n off gd) 2 (if T.length ≤ F.length then T else F))
    ∧ (let dest (l : Nat) : Word := if g.guard gd l = true then aim l else next
       most g.occs dest → faults (.brx n t gd) 2 (g.occs.filter fun l => dest l ≠ stay))
    ∧ (most g.occs aim → faults (.callx n t) 2 (g.occs.filter fun l => aim l ≠ stay))
    ∧ (let full := g.occs.filter fun l => (g.lane l).top.isSome
       let back (l : Nat) : Word := ((g.lane l).top.getD 0) &&& 0xFFFFFFFC
       (∀ l ∈ g.occs, (g.lane l).topDeep = false) → most full back → faults (.ret n) 3 (full.filter fun l => back l ≠ stay))

/-- R171, R192, R308: a `call` or `callx` that finds the return stack of some thread full takes STACKOVF for the lanes in which it is,
with STACKSZ as AUX; a `ret` that finds one empty takes RSUNDER for the lanes in which it is. Where the group is bound, its lanes agree
on the target. -/
def Claims.StackFaults : Prop :=
  ∀ (n : BitVec 8) (off : BitVec 20) (t : Src) (s : State) (c sl : Nat) (g : Group) (cl : Clause),
    let sz := (s.launchOf c g).stackSz
    let full (l : Nat) : Bool := g.occ l && !(g.lane l).canPush sz
    let short (l : Nat) : Bool := g.occ l && (g.lane l).top.isNone
    let aim (l : Nat) : Word := g.reg l t.reg.toNat &&& 0xFFFFFFFC
    let agree (dest : Nat → Option Word) : Prop := g.bound = true →
      ∀ l ∈ g.occs, ∀ m ∈ g.occs, dest l ≠ none → dest m ≠ none → dest l = dest m
    let over' : Host.Outcome State Fault Refusal :=
      .next (s.takeFault c sl { code := 6, lanes := maskOf full, aux := BitVec.ofNat 32 sz } (resumeOf g))
    ((∃ l < 32, full l = true) → Issues (.call n off) s c sl g cl → exec (.call n off) s = over')
    ∧ ((∃ l < 32, full l = true) → agree (fun l => some (aim l)) → Issues (.callx n t) s c sl g cl → exec (.callx n t) s = over')
    ∧ ((∃ l < 32, short l = true) → (∀ l ∈ g.occs, (g.lane l).topDeep = false) →
        agree (fun l => (g.lane l).top.map (· &&& 0xFFFFFFFC)) → Issues (.ret n) s c sl g cl →
        exec (.ret n) s = .next (s.takeFault c sl { code := 7, lanes := maskOf short, aux := g.occMask } (resumeOf g)))

/-- R33 to R37, R169 to R173, R192, R316: branches on which lanes disagree, in loose and in bound groups, and the faults of the return
stack. -/
def Obligations.DivergentBranches : Prop := Claims.Divergence ∧ Claims.BoundDivergence ∧ Claims.StackFaults

/-- R30, R43, R174, R175, R178: the other control instructions. `nop`, `wflush` and `tile` go on in their clause; `join` makes a
loose group wait for its target and a bound group go there; `exit` empties the lanes in which it acts, and a group that keeps
no thread gives up its slot; `yield` goes on where no set is due; `sleep` waits. `wflush` needs every result to have arrived;
`join` and `exit` write them where they stop or divide their group (log entry 24). -/
def Obligations.ControlInstructions : Prop :=
  ∀ (timeout : BitVec 16) (off : BitVec 20) (cycles : BitVec 20) (w : TileW) (gd : Guard) (s : State) (c sl : Nat)
      (g : Group) (cl : Clause),
    let goes (i : Instr) (k : Group) : Prop :=
      Issues i s c sl g cl → Completes i s fun u => Became i s u c sl k
    let far := g.pc + (off.signExtend 32 <<< 2)
    let acts := lanes32.any (g.active gd)
    let out (l : Nat) : Bool := g.works gd l
    let k := g.landed
    (Issues .nop s c sl g cl → Completes .nop s fun t => Wrote .nop noGuard s t c sl g (fun _ => []) (fun _ => 0))
    ∧ (Issues .wflush s c sl g cl → g.inflight = [] → Completes .wflush s fun t =>
      Wrote .wflush noGuard s t c sl g (fun _ => []) (fun _ => 0))
    ∧ (Issues (.tile w) s c sl g cl → Completes (.tile w) s fun t =>
      Wrote (.tile w) noGuard s t c sl { g with tilew := w } (fun _ => []) (fun _ => 0))
    ∧ (g.quietLines → g.bound = true → goes (.join timeout off) { k with pc := far })
    ∧ (g.quietLines → g.bound = false → goes (.join timeout off)
      { k with pc := g.pc + 8, joined := true, waiting := .join far s.clock (s.clock + timeout.toNat) })
    ∧ ((s.launchOf c g).noprom = true ∨ s.hasDue c g.bslot = false ∨ (s.freeSlot c g.bslot).isSome = true ∨ g.bound = true
        ∨ s.inRerun c g.bslot = true → goes .yield { g with pc := g.pc + 4 })
    ∧ (acts = true → goes (.sleep cycles gd) { g with pc := g.pc + 8, waiting := .sleep (s.clock + 1 + cycles.toNat) })
    ∧ (acts = false → goes (.sleep cycles gd) { g with pc := g.pc + 8 })
    ∧ ((∀ l < 32, out l = false) → goes (.exit gd) { g with pc := g.pc + 8 })
    ∧ (g.quietLines → (∃ l < 32, out l = true) → (∃ l < 32, g.occ l = true ∧ out l = false) →
        (∀ l < 32, out l = true → s.pendBusy (g.lane l) = false) →
        goes (.exit gd) { k.mapLanes (fun l ln => if out l then Lane.reset else ln) with
          pc := g.pc + 8, fstat := if badRead (issueOf (.exit gd)) g then k.fstat ||| 0x20 else k.fstat })
    ∧ (Issues (.exit gd) s c sl g cl → g.quietLines → (∃ l < 32, out l = true) →
        (∀ l < 32, g.occ l = true → out l = true ∧ s.pendBusy (g.lane l) = false) → g.openB = [] → g.closedB = [] →
        g.stq = [] → Completes (.exit gd) s fun t => OwnGroup s t c sl ∧ t.group c sl = none)

/-- R305, R307, R309, R311: TAKING A FAULT. Pending results are written and the run ends; the record holds code, cause, lanes,
address, AUX, the PC of the instruction and RESUMEPC. PARK stops the group; CONTINUE goes on at RESUMEPC; DELIVER pushes
RESUMEPC in every occupied lane, writes the record into the eight highest registers and goes on at TRAPVEC, and parks with
DLVFAIL where a lane has no room, or without a handler. One entry is written into the polder's fault log; that of a re-execution goes
to the service alone (R349). The entry names the group by its group number (log entry 8), and the results that are written first are
those of log entry 24. No byte of any memory and no other group changes. -/
def Claims.TakingAFault : Prop :=
  ∀ (s : State) (c sl : Nat) (g : Group) (f : FaultAt) (resume : Word),
    s.group c sl = some g → g.quietLines →
    let l := s.launchOf c g
    let x := s.polder l.polder
    let k := { g.landed with run := 0, clause := none }
    let r : FRec := { dlvFail := false, eng := false, cause := BitVec.ofNat 8 f.cause, code := BitVec.ofNat 16 f.code
                      pc := g.pc, laneMask := f.lanes, addr := f.addr, aux := f.aux, resume := resume, bclass := 0 }
    let top := min (allocOf l) 255
    let t := s.takeFault c sl f resume
    let handler := l.trapVec ≠ 0xFFFFFFFF ∧ resume ≠ 0xFFFFFFFF
    let room := ∀ i < 32, g.occ i = true → (g.lane i).canPush l.stackSz = true
    (x.policy f.code = .park ∨ x.policy f.code = .replay ∨ (x.policy f.code = .deliver ∧ ¬handler) →
      t.group c sl = some { k with frec := r, parked := true })
    ∧ (x.policy f.code = .cont → t.group c sl = some { k with frec := r, pc := resume })
    ∧ (x.policy f.code = .deliver → handler → ¬room →
      t.group c sl = some { k with frec := { r with dlvFail := true }, parked := true })
    ∧ (x.policy f.code = .deliver → handler → room → 8 ≤ allocOf l → ∃ h, t.group c sl = some h
      ∧ h.pc = l.trapVec ∧ h.frec = r ∧ h.cache = [] ∧ h.clause = none ∧ h.parked = g.parked ∧ h.tilew = g.tilew
      ∧ h.fstat = k.fstat
      ∧ ∀ i < 32, g.occ i = true → (h.lane i).top = some resume ∧ h.rawPred i = k.rawPred i
        ∧ (∀ j < 8, h.raw i (top - 8 + j) = r.words.getD j 0 ∧ top - 8 + j ∉ (h.lane i).dead)
        ∧ ∀ q, (q < top - 8 ∨ top ≤ q) → h.raw i q = k.raw i q)
    ∧ (∃ h, t.group c sl = some h ∧
      let entry := entryBytes h.frec.words l.id (match s.block c g.bslot with | some b => b.idx | none => 0) c sl g.gnum s.clock
      if s.inRerun c g.bslot then .runEntry c entry ∈ t.notices ∧ (t.polder l.polder).fltCount = x.fltCount
      else (t.polder l.polder).fltCount = x.fltCount + 1
        ∧ tfind (t.polder l.polder).flog (x.fltCount.toNat % 31) = some entry)
    ∧ t.mem = s.mem ∧ t.sp = s.sp ∧ (∀ d, (t.core d).sh = (s.core d).sh)
    ∧ (∀ d j, ¬(d = c ∧ j = sl) → t.group d j = s.group d j)

/-- R179: `trap` in a group with an active lane and `brk` in every group take their fault, with the lanes and the code that
the instruction gives; a `trap` without an active lane goes on. -/
def Claims.SoftwareTraps : Prop :=
  ∀ (code : BitVec 16) (b : BitVec 6) (gd : Guard) (s : State) (c sl : Nat) (g : Group) (cl : Clause),
    (Issues (.trap code gd) s c sl g cl → (∃ l < 32, g.active gd l = true) → exec (.trap code gd) s = .next (s.takeFault c sl
      { code := 8, cause := 0, lanes := maskOf (g.active gd), addr := 0, aux := code.setWidth 32 } (clauseEnd cl.hdr cl.hdrPc)))
    ∧ (Issues (.trap code gd) s c sl g cl → (∀ l < 32, g.active gd l = false) → Completes (.trap code gd) s fun t =>
      Became (.trap code gd) s t c sl { g with pc := g.pc + 8 })
    ∧ (Issues (.brk b) s c sl g cl → exec (.brk b) s = .next (s.takeFault c sl
      { code := 9, cause := 0, lanes := g.occMask, addr := 0, aux := b.setWidth 32 } (clauseEnd cl.hdr cl.hdrPc)))

/-- R308, R311: a policy that the table of codes does not allow acts as PARK: REPLAY for XLATE alone, CONTINUE for SWTRAP, BREAK
and the completion faults of engines, DELIVER for every code but STACKOVF. -/
def Claims.AllowedPolicies : Prop :=
  ∀ (x : Polder) (code : Nat), code < 32 →
    (x.policy code = .replay → code = 0x10)
    ∧ (x.policy code = .cont → code = 8 ∨ code = 9 ∨ (0x10 ≤ code ∧ code ≤ 0x16))
    ∧ (x.policy code = .deliver → code ≠ 6)
    ∧ (Polder.reset.policy code = if code = 8 then .deliver else if code = 0x10 then .replay
        else if 0x11 ≤ code ∧ code ≤ 0x16 then .cont else .park)

/-- R142, R179, R305 to R311: taking a fault under each policy, the software traps, the policies that a code allows, and the faults of a
local access. -/
def Obligations.Faults : Prop := Claims.TakingAFault ∧ Claims.SoftwareTraps ∧ Claims.AllowedPolicies ∧ Claims.AccessFaults

/-- R37, R177: `reord` makes of each thread in which it acts a reorder record with its target, its key register and a payload of
k registers, and the thread leaves its group; a group that keeps no thread and no batch gives up its slot. -/
def Claims.Relaunch : Prop :=
  ∀ (key : Reg) (v : Src) (k : BitVec 4) (off : BitVec 20) (gd : Guard) (s : State) (c sl : Nat) (g : Group) (cl : Clause),
    let i := Instr.reord key v k off gd
    let out := lanes32.filter (g.works gd)
    let p := (s.launchOf c g).polder
    Issues i s c sl g cl → out ≠ [] → g.quietLines → (∀ l ∈ out, s.pendBusy (g.lane l) = false) →
    s.fits c p (out.map fun _ => recSize 0 k.toNat) = true → (s.core c).ageCtr + 32 < 2 ^ 32 →
    g.openB = [] → g.closedB = [] →
    Completes i s fun t =>
      (∃ rs : List Record, (t.core c).records = (s.core c).records ++ rs
        ∧ (∀ a, OutsideRecords s p rs a → t.coherent a = s.coherent a)
        ∧ rs.map Record.bare = out.zipIdx.map fun e =>
          { kind := .reorder, bslot := g.bslot, pc := g.pc + (off.signExtend 32 <<< 2), nlive := k.toNat
            regs := (List.range k.toNat).map fun j => g.reg e.1 (v.reg.toNat + j), rstk := [], mstk := [], deep := 0
            preds := 0, homeLane := 0, homeGrp := (g.lane e.1).homeGroup, key := g.reg e.1 key.toNat
            age := (s.core c).ageCtr + e.2, born := s.clock, orig := g.uid, slot := sl, stores := s.storesOf g, due := false
            spilled := false, place := [], held := .free, mark := default })
      ∧ ((∃ l < 32, g.occ l = true ∧ l ∉ out) → ∃ h, t.group c sl = some h ∧ h.pc = g.pc + 8 ∧ h.clause = none
        ∧ h.rest = g.rest ∧ ∀ l < 32, (h.lane l).rest = if l ∈ out then Lane.reset.rest else (g.lane l).rest)
      ∧ ((∀ l < 32, g.occ l = true → l ∈ out) → t.group c sl = none)
      ∧ t.mem = s.mem ∧ t.sp = s.sp ∧ (t.core c).sh = (s.core c).sh
      ∧ ∀ d j, ¬(d = c ∧ j = sl) → t.group d j = s.group d j

/-- R37, R166, R176: `spawn` is a command of class spn with one child record for each active lane that is no helper lane, whose
payload is k registers from v; with a block operand the child belongs to that block of the launch, and a lane that
names none takes ENGRANGE. -/
def Claims.SpawnCommand : Prop :=
  ∀ (blk : Reg) (other : Bool) (v : Src) (k : BitVec 4) (off : BitVec 20) (gd : Guard) (s : State) (c sl : Nat) (g : Group)
      (cl : Clause),
    let i := Instr.spawn blk other v k off gd
    let works := lanes32.filter (g.works gd)
    let x := s.launchOf c g
    let home (l : Nat) : Option Nat :=
      if other then ((s.core c).blocks.find? fun b => b.2.launch.id = x.id && b.2.launch.polder = x.polder
        && b.2.tenant && decide (b.2.idx = (g.reg l blk.toNat).toNat)).map (·.1)
      else some g.bslot
    let child (l b : Nat) : Record :=
      { kind := .spawn, bslot := b, pc := g.pc + (off.signExtend 32 <<< 2), nlive := k.toNat
        regs := (List.range k.toNat).map fun j => g.reg l (v.reg.toNat + j), rstk := [], mstk := [], deep := 0, preds := 0
        homeLane := 0, homeGrp := (g.lane l).homeGroup, key := BitVec.ofNat 32 ((g.lane l).homeGroup % 2 ^ 26)
        age := 0, born := 0, orig := g.uid, slot := 0, stores := [], due := false, spilled := false, place := [], held := .free
        mark := { kind := .spawn, grp := g.gnum, issued := g.issued, lane := l } }
    Issues i s c sl g cl → (∃ l < 32, g.works gd l = true) → g.accessing = false → s.inRerun c g.bslot = false →
    Completes i s fun t =>
      Commanded i s t c sl s.newId.1 g .spn
        (.spawn (s.polder x.polder).roomCtr (works.filterMap fun l => (home l).map fun b => (b, child l b)))
        (maskOf (g.works gd)) [] (fun _ => false)
      ∧ ∀ l ∈ works, home l = none → NotedFault t s.newId.1 l 0x16 0

/-- R37, R166, R176, R177: `reord` and `spawn`. (A newcomer may pass those that wait for room: log entry 60.) -/
def Obligations.RelaunchAndSpawn : Prop := Claims.Relaunch ∧ Claims.SpawnCommand

/-! ### Engine commands, batches, fences and barriers: class ENG -/

/-- R143, R155: an engine command in a group without an active lane that is no helper lane issues nothing; a `cpy` without `.solo` then
supplies an empty slice: it opens a collective of the block's groups that hold threads, joins the open one, or waits for the next. -/
def Claims.CommandsWithoutLanes : Prop :=
  ∀ (d n : Reg) (a b e : Src) (op : AOp) (rop : ROp) (st solo rec128 w64 other : Bool) (sp sq : LSpace) (cb : Comb) (f : EFmt)
      (k : BitVec 4) (off : BitVec 20) (gd : Guard) (s : State) (c sl : Nat) (g : Group) (cl : Clause) (i : Instr),
    i ∈ [.cpy a b e st solo sp gd, .sealRec d a rec128 gd, .gat n a b e sp sq gd, .sct n a b e sp sq cb f gd,
        .matom d a b e op w64 gd, .mred a b rop f gd, .bkrun a gd, .pred a b e gd, .pchk a b e gd, .spawn d other a k off gd] →
    Issues i s c sl g cl → (∀ l < 32, g.works gd l = false) → EngFree s c g →
    let empty : Slice := { uid := g.uid, cmd := none }
    Completes i s fun t => Acted i s t c sl g ∧ t.cmds = s.cmds ∧ t.accs = s.accs
      ∧ ∀ x, s.block c g.bslot = some x → ∃ y, t.block c g.bslot = some y ∧
        if i = .cpy a b e st false sp gd then
          match x.coll with
          | none => y.collNext = x.collNext ∧ ∃ k, y.coll = some k ∧ k.slices = [empty]
            ∧ ∀ u, u ∈ k.parts ↔ u ∈ s.liveUids c g.bslot
          | some k =>
            if g.uid ∈ k.parts ∧ ∀ z ∈ k.slices, z.uid ≠ g.uid then
              y.coll = some { k with slices := k.slices ++ [empty] } ∧ y.collNext = x.collNext
            else y.coll = x.coll ∧ y.collNext = x.collNext ++ [empty]
        else y.coll = x.coll ∧ y.collNext = x.collNext

/-- R183: a SYS instruction without an active lane that is no helper lane changes nothing. -/
def Claims.SystemWithoutLanes : Prop :=
  ∀ (d : Reg) (a b e : Src) (r : SysReg) (k : TbKind) (die : BitVec 2) (gd : Guard) (s : State) (c sl : Nat) (g : Group)
      (cl : Clause) (i : Instr),
    i ∈ [.sregw a r gd, .sregwRd d r gd, .qmap d a b gd, .qunmap d a gd, .place d a gd, .ctxsave d a b gd, .ctxrest d a b gd,
        .tbinv k a b gd, .cinvSprd gd, .cinvRec b gd, .wkload d a b e die gd] →
    Issues i s c sl g cl → (∀ l < 32, g.works gd l = false) →
    Completes i s fun t => Wrote i gd s t c sl g (fun _ => []) (fun _ => 0)

/-- R143, R183: ENG and SYS instructions with no lane to act for only pass. -/
def Obligations.WithoutLanes : Prop := Claims.CommandsWithoutLanes ∧ Claims.SystemWithoutLanes

/-- R154 to R156, R166: `cpy` takes its operands from the lowest lane that works, joins its group's cpy batch and reads its
64-byte layout record; no data has moved yet. -/
def Claims.CopyCommands : Prop :=
  ∀ (a v o : Src) (st solo : Bool) (sp : LSpace) (gd : Guard) (s : State) (c sl : Nat) (g : Group) (cl : Clause) (l : Nat),
    let i := Instr.cpy a v o st solo sp gd
    let recVa := (g.pair l a.reg.toNat).toNat
    let first := (g.reg l v.reg.toNat).toNat
    let n := (g.reg l (v.reg.toNat + 1)).toNat
    let loc := (g.reg l o.reg.toNat).toNat
    Issues i s c sl g cl → EngReady s c g gd l → recVa % 64 = 0 → loc % 16 = 0 → (n ≠ 0 → loc < s.localSize c g sp) →
    Completes i s fun t =>
      Commanded i s t c sl s.newId.1 g .cpy (.cpy st sp recVa first n loc) (BitVec.twoPow 32 l) [] (fun _ => false)
      ∧ SentAccess t s.newId.1 l .read recVa 64

/-- R153: `seal` names a record of 64 or 128 bytes in shared memory; the register d of every active lane is pending for it. -/
def Claims.SealCommand : Prop :=
  ∀ (d : Reg) (a : Src) (rec128 : Bool) (gd : Guard) (s : State) (c sl : Nat) (g : Group) (cl : Clause) (l : Nat),
    let i := Instr.sealRec d a rec128 gd
    let loc := (g.reg l a.reg.toNat).toNat
    let len := if rec128 then 124 else 60
    Issues i s c sl g cl → EngReady s c g gd l → loc % 16 = 0 → loc + len + 4 ≤ s.shSizeOf c g →
    Completes i s fun t => Commanded i s t c sl s.newId.1 g .cpy (.sealRec len loc d.toNat) (maskOf (g.active gd))
      (if d = 255 then [] else [d.toNat]) (g.active gd)

/-- R153 to R156, R166: `cpy` and `seal` issue. (An empty slice completes wherever its local base lies: log entry 35.) -/
def Obligations.CopyCommands : Prop := Claims.CopyCommands ∧ Claims.SealCommand

/-- R160 to R162, R166: `gat` fetches each distinct index that is neither the sentinel nor out of bounds once, row by row;
`sct` combines the rows of each such index in ascending position and sends the combined row as writes, cut at row
boundaries (R194). Scratchpad operands can be reached (R329), behind no word that the core's die has on a link (log entry 23). -/
def Claims.GatherCommands : Prop :=
  ∀ (nr : Reg) (r ix o : Src) (isp rsp : LSpace) (cb : Comb) (f : EFmt) (gd : Guard) (s : State) (c sl : Nat) (g : Group)
      (cl : Clause) (l : Nat),
    let n := (g.reg l nr.toNat).toNat
    let ra := (g.reg l r.reg.toNat).toNat
    let ia := (g.reg l ix.reg.toNat).toNat
    let area := (g.reg l o.reg.toNat).toNat
    let org := s.originOf c sl g .gat
    let bytes := mreads (s.core c).sh (s.shBaseOf c g + ra) 28
    let tbase := bfield bytes 0 8
    let rowb := bfield bytes 8 4
    let stride := bfield bytes 12 4
    let bound := bfield bytes 16 4
    let sent := bfield bytes 20 4
    let idx := s.indices org isp ia n
    let rows := (idx.filter fun x => x.toNat ≠ sent && decide (x.toNat < bound)).eraseDups
    let fits := ra % 16 = 0 ∧ ra + 32 ≤ s.shSizeOf c g ∧ n ≤ 65536 ∧ s.storesOf g = []
      ∧ ia % 4 = 0 ∧ ia + 4 * n ≤ s.localSize c g isp ∧ area % 16 = 0 ∧ area + n * rowb ≤ s.localSize c g rsp
      ∧ 16 ≤ rowb ∧ rowb ≤ 16384 ∧ rowb % 16 = 0 ∧ stride % 16 = 0 ∧ rowb ≤ stride
    let apart := (rsp = isp → area + n * rowb ≤ ia ∨ ia + 4 * n ≤ area) ∧ (rsp = .sh → area + n * rowb ≤ ra ∨ ra + 32 ≤ area)
    EngReady s c g gd l → fits → apart → NoWords s c → s.localAvail org isp ia (4 * n) = .yes →
    (∀ i, i = Instr.gat nr r ix o isp rsp gd → Issues i s c sl g cl → Completes i s fun t =>
      Commanded i s t c sl s.newId.1 g .gat
        (.gat ra rsp area rowb (BitVec.ofNat 32 (bfield bytes 24 4)) bound sent idx) (BitVec.twoPow 32 l) [] (fun _ => false)
      ∧ ∀ e ∈ rows.zipIdx, ∀ p ∈ cut (tbase + e.1.toNat * stride) rowb (e.2 * rowb),
          SentAccess t s.newId.1 l .read p.va p.len)
    ∧ (∀ i, i = Instr.sct nr r ix o isp rsp cb f gd → Issues i s c sl g cl → s.localAvail org rsp area (n * rowb) = .yes → Completes i s fun t =>
      Commanded i s t c sl s.newId.1 g .gat
        (.sct ra (idx.filter fun x => x.toNat ≠ sent && decide (bound ≤ x.toNat)).length) (BitVec.twoPow 32 l) []
        (fun _ => false)
      ∧ ∀ x ∈ rows, ∀ p ∈ cut (tbase + x.toNat * stride) rowb 0,
          let row := scatterRow cb f (rowsFor idx (s.localRead org rsp area (n * rowb)) rowb x)
          SentAccess t s.newId.1 l (.write ((row.drop p.off).take p.len)) p.va p.len)

/-- R161: the row that a scatter writes for one index: the row of the highest position for `.last`; else the element-wise
combination in ascending position. -/
def Claims.ScatterRows : Prop :=
  ∀ (f : EFmt) (r : List Byte) (rs : List (List Byte)),
    scatterRow .last f (rs ++ [r]) = r
    ∧ scatterRow .add f (r :: rs) = rs.foldl (combineRows .add f) r
    ∧ scatterRow .max f (r :: rs) = rs.foldl (combineRows .max f) r
    ∧ scatterRow .min f (r :: rs) = rs.foldl (combineRows .min f) r

/-- R160 to R162, R166: `gat` and `sct` issue. -/
def Obligations.GatherCommands : Prop := Claims.GatherCommands ∧ Claims.ScatterRows

/-- R163, R164, R166: `matom` and `mred` send one operation for each active lane that is no helper lane; a misaligned lane takes
ENGRANGE instead. The destinations of `matom` are pending; an `mred` counts among those that a fence waits for (R149). -/
def Claims.BaseDieCommands : Prop :=
  ∀ (d : Reg) (a b e : Src) (op : AOp) (rop : ROp) (w64 : Bool) (f : EFmt) (gd : Guard) (s : State) (c sl : Nat) (g : Group)
      (cl : Clause),
    let va (l : Nat) : Nat := (g.pair l a.reg.toNat).toNat
    let width := if w64 then 8 else 4
    let size := if f = .bf16 then 2 else 4
    let value (l : Nat) (x : Src) : DWord :=
      if w64 then g.pair l x.reg.toNat else (g.reg l x.reg.toNat).setWidth 64
    (∃ l < 32, g.works gd l = true) → EngFree s c g →
    (∀ i, i = Instr.matom d a b e op w64 gd → Issues i s c sl g cl → Completes i s fun t =>
      Commanded i s t c sl s.newId.1 g .mem (.matom d.toNat w64) (maskOf (g.works gd))
        (if d = 255 then [] else if w64 then [d.toNat, d.toNat + 1] else [d.toNat]) (g.works gd)
      ∧ ∀ l < 32, g.works gd l = true →
        if va l % width = 0 then
          SentAccess t s.newId.1 l (.atomic op w64 (value l b) (if op = .cas then value l e else 0)) (va l) width
        else NotedFault t s.newId.1 l 0x16 (BitVec.ofNat 64 (va l)))
    ∧ (∀ i, i = Instr.mred a b rop f gd → Issues i s c sl g cl → Completes i s fun t =>
      Commanded i s t c sl s.newId.1 { g with mreds := g.mreds ++ [s.newId.1] } .mem .mred (maskOf (g.works gd)) [] (fun _ => false)
      ∧ ∀ l < 32, g.works gd l = true →
        if va l % size = 0 then SentAccess t s.newId.1 l (.reduce rop f (g.reg l b.reg.toNat)) (va l) size
        else NotedFault t s.newId.1 l 0x16 (BitVec.ofNat 64 (va l)))

/-- R165, R196, R197: `bkrun` reads its descriptor, count and list at issue, once the group's earlier stores are performed, and makes a
run of one slab for each item, which has started on no stack; every slab is looked up. -/
def Claims.BankRunCommand : Prop :=
  ∀ (a : Src) (gd : Guard) (s : State) (c sl : Nat) (g : Group) (cl : Clause) (l : Nat),
    let i := Instr.bkrun a gd
    let da := (g.reg l a.reg.toNat).toNat
    let shs := s.shSizeOf c g
    let p := (s.launchOf c g).polder
    let sps := (s.polder p).spSize
    let sh (x n : Nat) : List Byte := mreads (s.core c).sh (s.shBaseOf c g + x) n
    let x := bDesc (sh da 64)
    let n := ofLe (sh x.cntAddr 4)
    let slab (k : Nat) : Nat := if x.listAddr = noAddr then (x.first + k) % 2 ^ 32 else ofLe (sh (x.listAddr + 4 * k) 4)
    Issues i s c sl g cl → EngReady s c g gd l → s.storesOf g = [] → da % 64 = 0 → da + 64 ≤ shs → bDescBad (sh da 64) = false →
    x.vbase % 65536 = 0 → x.cntAddr % 4 = 0 → x.cntAddr + 4 ≤ shs → n ≤ 65536 →
    (x.listAddr = noAddr ∨ (x.listAddr % 4 = 0 ∧ x.listAddr + 4 * n ≤ shs)) → x.progAddr % 4 = 0 →
    x.progAddr + 4 * x.plen ≤ sps → x.itemOut % 64 = 0 → x.sumOut % 64 = 0 → x.vecAddr % 16 = 0 →
    x.vecAddr + vecCount x * vecBytes x ≤ sps →
    (x.scalAddr = noAddr ∨ (x.scalAddr % 4 = 0 ∧ x.scalAddr + 4 * n ≤ sps)) →
    Completes i s fun t =>
      Commanded i s t c sl (s.newId.1 + 1) g .bnk (.bkrun s.newId.1) (BitVec.twoPow 32 l) [] (fun _ => false)
      ∧ ∃ run, tfind t.runs s.newId.1 = some run ∧ run.cmd = s.newId.1 + 1 ∧ run.polder = p ∧ run.pcmask = x.pcmask
        ∧ run.vbase = x.vbase ∧ run.vecAddr = x.vecAddr ∧ run.half = x.half ∧ run.scalAddr = x.scalAddr ∧ run.vslice = x.vslice
        ∧ run.itemOut = x.itemOut ∧ run.sumOut = x.sumOut ∧ run.oslots = x.oslots ∧ run.entry = x.entry ∧ run.plen = x.plen
        ∧ run.progAddr = x.progAddr ∧ run.loads = [] ∧ run.items = []
        ∧ run.slabs = (if pcsOf x.pcmask = [] then [] else (List.range n).map slab)
        ∧ ∀ y ∈ run.slabs, SentAccess t (s.newId.1 + 1) l .slab ((x.vbase + 65536 * y) % 2 ^ 64) 65536

/-- R163 to R166, R196 to R198, R209: `matom`, `mred` and `bkrun` issue. -/
def Obligations.BaseDieCommands : Prop := Claims.BaseDieCommands ∧ Claims.BankRunCommand

/-- R124, R126 to R129: `pred` and `pchk` name a predictor record, an x range and an area; the core's predictor engine
takes its commands one after another. -/
def Claims.PredictorCommands : Prop :=
  ∀ (r x o : Src) (gd : Guard) (s : State) (c sl : Nat) (g : Group) (cl : Clause) (l : Nat),
    let ra := (g.pair l r.reg.toNat).toNat
    let xa := (g.reg l x.reg.toNat).toNat
    let oa := (g.reg l o.reg.toNat).toNat
    EngReady s c g gd l → ra % 128 = 0 → xa % 16 = 0 → xa < s.shSizeOf c g → oa % 16 = 0 → oa < s.shSizeOf c g →
    (∀ i op, (i = Instr.pred r x o gd ∧ op = CmdOp.pred ra xa oa) ∨ (i = Instr.pchk r x o gd ∧ op = CmdOp.pchk ra xa oa) →
      Issues i s c sl g cl → Completes i s fun t =>
        Commanded i s t c sl s.newId.1 g .prd op (BitVec.twoPow 32 l) [] (fun _ => false)
        ∧ ((∀ e ∈ s.cmds, ¬(e.2.op.isPred = true ∧ e.2.org.core = c)) → SentAccess t s.newId.1 l .read ra 128))

/-- R125, R127 to R130: `pred` writes the eight words, the active list and the check list of its area; `pchk` appends the
replayed rows and writes their number, SKIPMASS and FLAGS. Rows are judged by scores and magnitudes that are exact
sums rounded once. Both count rows in the polder's registers. (Numbers of commands rise and start at 1: `State.numbered`.) -/
def Claims.PredictorResults : Prop :=
  ∀ (s : State) (id : Nat) (x : Cmd), tfind s.cmds id = some x → s.numbered → x.phase = .data → x.plan = [] →
    x.faults = [] → s.accsOver x = true → s.storesDone x.org x.stores = true →
    let c := x.org.core
    let r := x.recB
    let sh := (s.core c).sh
    let n := pN r
    let bytes := (s.accsOf x).flatMap (·.data)
    let base := s.localBase x.org .sh
    let vec (xa : Nat) := pX r (mreads sh (base + xa) (pXlen r))
    let words (ns : List Nat) : List Byte := ns.flatMap (toLe 4)
    let count (t : Table Word) (k : Nat) : Word := tget 0 t c + BitVec.ofNat 32 k
    (∀ ra xa oa, x.op = .pred ra xa oa →
      let np := 2 * (pD r * pR r)
      let sc := pS r (pT r (vec xa) (bytes.take np)) (bytes.drop np)
      let kind (k : Nat) : RowKind := rowKind (pF r 16) (pF r 20) (fp32.dec k)
      let rows (w : RowKind) : List Nat := (sc.zipIdx.filter fun e => kind e.1 = w).map Prod.snd
      let low := sumRne ((sc.filter fun k => kind k = .skipped).map fun k => fp32.dec (fabs k))
      let flags := 1 + if sc.any fun k => (fp32.dec k).isNan then 8 else 0
      let head := [(rows .active).length, (rows .check).length, 0, low, flags, low, 0, 0]
      Completes (.predComplete id) s fun t => Finished s t id x (fun _ _ => none) ∧ OtherShared s t c ∧ t.sp = s.sp
        ∧ (∀ a, mget (t.core c).sh a = mget (mwrites (mwrites (mwrites sh (base + (oa + 0)) (words head))
            (base + (oa + 32)) (words (rows .active))) (base + (oa + (32 + 4 * n))) (words (rows .check))) a)
        ∧ tget 0 (t.polder x.org.polder).prdRows c = count (s.polder x.org.polder).prdRows (rows .active).length)
    ∧ (∀ ra xa oa, x.op = .pchk ra xa oa →
      let area := x.recB2
      let w := pRow r + 1
      let ms := (checkList n area).zipIdx.map fun e =>
        (e.1, pM (vec xa) ((bytes.drop (e.2 * w)).take (pRow r)) (bfield bytes (e.2 * w + pRow r) 1))
      let rep := pchkRows (bfield area 20 4) (pF r 24) (pF r 28) ms
      let nact := bfield area 0 4
      let met := (fcompare .le (fp32.dec rep.2) (pF r 28)).1
      let flags := ((bfield area 16 4 ||| 2) &&& 0xFFFFFFFB) ||| if met then 4 else 0
      nact + rep.1.length ≤ n →
      Completes (.predComplete id) s fun t => Finished s t id x (fun _ _ => none) ∧ OtherShared s t c ∧ t.sp = s.sp
        ∧ (∀ a, mget (t.core c).sh a = mget (mwrites (mwrites (mwrites sh (base + (oa + 0)) (words [nact + rep.1.length]))
            (base + (oa + 8)) (words [rep.1.length, rep.2, flags])) (base + (oa + (32 + 4 * nact))) (words rep.1)) a)
        ∧ tget 0 (t.polder x.org.polder).chkRows c = count (s.polder x.org.polder).chkRows (bfield area 4 4)
        ∧ tget 0 (t.polder x.org.polder).rplRows c = count (s.polder x.org.polder).rplRows rep.1.length)

/-- R124 to R130: `pred` and `pchk` issue, and what they find. (What the records and lists that the rules do not fix give: log entry
37.) -/
def Obligations.Predictor : Prop := Claims.PredictorCommands ∧ Claims.PredictorResults

/-- R144, R146, R178: `batch` closes the open batch of its class where fewer than 15 are outstanding; `wait` with nothing
outstanding gives STATUS in every active lane and clears it, the OR over the six classes for `all`. Neither has an effect
without an active lane. -/
def Claims.Batches : Prop :=
  ∀ (b : Cls) (d : Reg) (w : WCls) (n : BitVec 4) (gd : Guard) (s : State) (c sl : Nat) (g : Group) (cl : Clause),
    let cs : List Cls := match w with | .one x => [x] | .all => [.cpy, .gat, .mem, .bnk, .prd, .spn]
    let sum : Word := cs.foldl (fun v x => v ||| (tget 0 g.status (clsNum x)).setWidth 32) 0
    (∃ l < 32, g.occ l = true) →
    (∀ i, i = Instr.batch b gd → Issues i s c sl g cl → (∃ l < 32, g.active gd l = true) →
      tget [] g.openB (clsNum b) ≠ [] → (tget [] g.closedB (clsNum b)).length < 15 →
      (∀ k x r, tget [] (g.closeBatch b).closedB (clsNum k) = x :: r → ∃ m ∈ x, s.cmdDone m = false) →
      Completes i s fun t => Wrote i gd s t c sl
        { g with openB := tdel g.openB (clsNum b)
                 closedB := tput g.closedB (clsNum b) (tget [] g.closedB (clsNum b) ++ [tget [] g.openB (clsNum b)]) }
        (fun _ => []) (fun _ => 0))
    ∧ (∀ i, i = Instr.wait d w n gd → Issues i s c sl g cl → (∃ l < 32, g.active gd l = true) → Unaudited s c g →
      g.openB = [] → g.closedB = [] → g.pendF = [] → s.stopping c g = false →
      Completes i s fun t => Wrote i gd s t c sl { g with status := cs.foldl (fun t x => tdel t (clsNum x)) g.status }
        (fun _ => [(.reg d.toNat, sum)]) (fun _ => 0))
    ∧ (∀ i, (i = Instr.batch b gd ∨ i = Instr.wait d w n gd) → Issues i s c sl g cl → (∀ l < 32, g.active gd l = false) →
      Completes i s fun t => Wrote i gd s t c sl g (fun _ => []) (fun _ => 0))

/-- R149, R180, R181: a `fence` makes its group wait for the scope's condition; `bar`, `bar.mx` and `gsync` make it arrive once the
fence of R181 holds, and a front core goes on at once (R184). -/
def Claims.FencesAndBarriers : Prop :=
  ∀ (sc : FScope) (gd : Guard) (s : State) (c sl : Nat) (g : Group) (cl : Clause),
    let arrives (i : Instr) (f : FScope) (w : Wait) : Prop :=
      Issues i s c sl g cl → s.fenceOk g f = true → Completes i s fun t =>
        Became i s t c sl { g with pc := g.pc + 8, waiting := if 32 ≤ c then g.waiting else w }
    (∀ i, i = Instr.fence sc gd → Issues i s c sl g cl → Completes i s fun t => Wrote i gd s t c sl
      (if lanes32.any (g.active gd) then { g with waiting := .fence sc } else g) (fun _ => []) (fun _ => 0))
    ∧ arrives .bar .blk (.bar false) ∧ arrives .barMx .blk (.bar true) ∧ arrives .gsync .die .gsync

/-- R144, R146, R149, R178, R180, R181: batches, waits, fences and arrivals at barriers. -/
def Obligations.Synchronisation : Prop := Claims.Batches ∧ Claims.FencesAndBarriers

/-! ### System instructions: class SYS -/

/-- R52, R183, R184, R314: a SYS instruction outside slot 63 of a core and outside a front core is an illegal instruction with
cause PRIV, where no earlier cause of R314 applies. -/
def Obligations.Privilege : Prop :=
  ∀ (i : Instr) (s : State) (c sl : Nat) (g : Group) (cl : Clause), (issueOf i).cls = 7 →
    s.cur = .group c sl → s.group c sl = some g → g.clause = some cl → g.stalled = false → cl.hdr.cls = 7 →
    cl.hdr.width.getLsbD cl.done = true → (issueOf i).words = 2 → sl ≠ 63 → c < 32 →
    exec i s = .next (s.takeFault c sl { code := 1, cause := 6, lanes := g.occMask, addr := 0, aux := s.ir }
      (clauseEnd cl.hdr cl.hdrPc))

/-- R186: `sregw` writes PLACEOK and BARREL of CORECTL, or WDOGINT; the read-only registers ignore it; `sregw.rd` reads any of
the four. -/
def Claims.SystemRegisters : Prop :=
  ∀ (d : Reg) (a : Src) (r : SysReg) (gd : Guard) (s : State) (c sl : Nat) (g : Group) (cl : Clause) (l : Nat),
    let k := s.core c
    let v := g.reg l a.reg.toNat
    SysReady s g gd l →
    (∀ i, i = Instr.sregw a r gd → Issues i s c sl g cl → Completes i s fun t => Wrote i gd
      (s.setCore c (match r with
        | .corectl => { k with placeok := v.getLsbD 1, barrel := v.getLsbD 0 }
        | .wdogint => { k with wdogint := v }
        | .seepage => k
        | .coreq => k)) t c sl g (fun _ => []) (fun _ => 0))
    ∧ (∀ i, i = Instr.sregwRd d r gd → Issues i s c sl g cl → Completes i s fun t => SysDone i gd s t c sl g d
      (match r with
        | .corectl => (if k.placeok then 2 else 0) + if k.barrel then 1 else 0
        | .wdogint => k.wdogint
        | .seepage => k.seepage
        | .coreq => if k.quar then 1 else 0))

/-- R190, R191, R275: `tbinv` removes the entries that it names from its die's buffer and its cores' and marks the walks of the
polders it names stale, and waits until none is left; `cinv.sprd` empties the core's read cache, `cinv.rec` its cached
records of a polder; `wkload` gives a polder its routine and root value on one die. -/
def Claims.Invalidations : Prop :=
  ∀ (d : Reg) (a b e : Src) (k : TbKind) (die : BitVec 2) (gd : Guard) (s : State) (c sl : Nat) (g : Group) (cl : Clause)
      (l : Nat),
    let va := (g.pair l a.reg.toNat).toNat
    let p := (g.reg l b.reg.toNat).toNat
    let dies := if c < 32 then [c / 8] else [0, 1, 2, 3]
    let hit (x : TEntry) : Bool := match k with
      | .pol => decide (x.polder = p)
      | .page => decide (x.polder = p ∧ x.base ≤ va ∧ va < x.base + x.size)
      | .all => true
    SysReady s g gd l →
    (∀ i, i = Instr.tbinv k a b gd → Issues i s c sl g cl → Completes i s fun t => ∃ u,
      (∀ n ∈ dies, (u.die n).tb = (s.die n).tb.filter fun x => !hit x)
      ∧ (∀ n, (u.core n).tb = if walkDie n ∈ dies then (s.core n).tb.filter (fun x => !hit x) else (s.core n).tb)
      ∧ (∀ n ∈ dies, (u.die n).walks = (s.die n).walks.map fun w =>
          (w.1, { w.2 with stale := w.2.stale || decide (k = .all ∨ w.2.polder = p) }))
      ∧ (∀ n, n ∉ dies → u.die n = s.die n) ∧ u.mem = s.mem ∧ u.sp = s.sp ∧ u.polders = s.polders
      ∧ Wrote i gd u t c sl
        (if ∃ n ∈ dies, ∃ w ∈ (u.die n).walks, w.2.stale = true then { g with waiting := .tbinv dies } else g)
        (fun _ => []) (fun _ => 0))
    ∧ (∀ i, i = Instr.cinvSprd gd → Issues i s c sl g cl → Completes i s fun t =>
      Wrote i gd (s.setCore c { s.core c with rcache := [] }) t c sl g (fun _ => []) (fun _ => 0))
    ∧ (∀ i, i = Instr.cinvRec b gd → Issues i s c sl g cl → Completes i s fun t =>
      Wrote i gd (s.setCore c { s.core c with layouts := (s.core c).layouts.filter fun x => x.1 ≠ p
                                              preds := (s.core c).preds.filter fun x => x.1 ≠ p })
        t c sl g (fun _ => []) (fun _ => 0))
    ∧ (∀ i, i = Instr.wkload d a b e die gd → Issues i s c sl g cl → Reachable s c va 4096 false → Completes i s fun t =>
      ∃ u, SysDone i gd u t c sl g d 0 ∧ u.cores = s.cores ∧ SameReads s u ∧ u.sp = s.sp
        ∧ let n := if c < 32 then c / 8 else die.toNat
          (∃ m, tfind (u.die n).routines p = some (m, g.pair l e.reg.toNat)
            ∧ ∀ x < 4096, mget m x = (s.peek c va 4096).getD x 0)
        ∧ ∀ m, m ≠ n → u.die m = s.die m)

/-- R186, R190, R191, R275: `sregw`, and what `tbinv`, `cinv` and `wkload` do. -/
def Obligations.SystemRegisters : Prop := Claims.SystemRegisters ∧ Claims.Invalidations

/-- R187, R246, R247: `qmap` gives 1 for a slot in use and 2 for a bad ring; else the slot takes the queue, IDLE on the
dispatch board, with the queue's class and a rung doorbell. `qunmap` gives 0xFFFF_FFFF for a READY or ACTIVE slot; else
it frees the slot and gives the queue's NOTE.PENDING. For a slot number above 255, and of a slot that holds no queue, the result
is free (log entry 2). The dispatch board can be reached over the die links (R329); that 1 comes before 2 is log entry 48. -/
def Claims.QueueSlots : Prop :=
  ∀ (d : Reg) (a b : Src) (gd : Guard) (s : State) (c sl : Nat) (g : Group) (cl : Clause) (l : Nat),
    let va := (g.pair l a.reg.toNat).toNat
    let q := (g.reg l b.reg.toNat).toNat
    let x := (g.reg l a.reg.toNat).toNat
    let desc := s.peek c va 64
    let word (u : State) (q i : Nat) : Word := mget32 u.sp ((s.polder 0).spBase + 0x1000 + 16 * q + 4 * i)
    SysReady s g gd l → s.lwatches = [] → s.boardReach c = .yes →
    (∀ i, i = Instr.qmap d a b gd → Issues i s c sl g cl → q ≤ 255 → Reachable s c va 64 false → Completes i s fun t =>
      ∃ u w, SysDone i gd u t c sl g d w ∧ u.cores = s.cores ∧ SameReads s u
        ∧ ((tfind s.slots q).isSome → w = 1 ∧ u.slots = s.slots ∧ u.sp = s.sp)
        ∧ (tfind s.slots q = none → ringOk desc = false → w = 2 ∧ u.slots = s.slots ∧ u.sp = s.sp)
        ∧ (tfind s.slots q = none → ringOk desc = true → w = 0
          ∧ (∃ h, tfind u.slots q = some h ∧ h.descVa = va ∧ h.launch = none)
          ∧ word u q 0 = 1 ∧ word u q 1 = BitVec.ofNat 32 (bfield desc 28 1) ∧ word u q 3 = 0
          ∧ (mget32 u.sp ((s.polder 0).spBase + 0xC0 + 4 * (q / 32))).getLsbD (q % 32) = true))
    ∧ (∀ i, i = Instr.qunmap d a gd → Issues i s c sl g cl → Completes i s fun t => ∀ h,
      x ≤ 255 → tfind s.slots x = some h →
      let state := word s x 0
      let note := bfield (s.peek c h.descVa 64) 20 4 % 2
      (state = 2 ∨ state = 3 → SysDone i gd s t c sl g d 0xFFFFFFFF)
      ∧ (state ≠ 2 → state ≠ 3 → Reachable s c h.descVa 64 false → ∃ u, SysDone i gd u t c sl g d (BitVec.ofNat 32 note)
        ∧ u.cores = s.cores ∧ SameReads s u ∧ tfind u.slots x = none ∧ word u x 0 = 0
        ∧ (h.polder, h.queue) ∈ if note = 1 then u.ready else u.idle))
    ∧ (∀ i, (i = Instr.qmap d a b gd ∧ 255 < q) ∨ (i = Instr.qunmap d a gd ∧ (255 < x ∨ tfind s.slots x = none)) →
      Issues i s c sl g cl → Completes i s fun t => ∃ u w, SysDone i gd u t c sl g d w ∧ { u with choices := s.choices } = s)

/-- R249 to R251, R284: a ticket without work only advances; where the slot that it selects offers a placement, its unit begins. The
unit takes the RESV words of the listed cores one by one, and rolls them back where one is taken; a unit that has placed its
blocks frees them and writes DONE := t + 1; a placed head that HEADQ names clears HEADQ and HGAGE, and back-fill raises HGAGE of
its region. (How the units are cut into steps: log entry 61; a core that the board's die links do not reach takes none, R329.) -/
def Claims.DispatchUnits : Prop :=
  ∀ (s : State) (c va : Nat), s.lwatches = [] → s.reeveRuns c = true → c < 32 → s.boardReach c = .yes →
    let t := runProc (.unit c va) s
    let resv (k : Nat) : Word := s.board (0x20 + 4 * k)
    (s.unit = none → (s.core c).quar = false → s.board 0 = s.board 4 → s.bells = [] →
      (s.board 0x18 = 0xFFFFFFFF ∨ s.firstPlacer = some (s.board 0x18).toNat) →
      (s.chosen = none → t.board 0 = s.board 0 + 1 ∧ t.board 4 = s.board 4 + 1 ∧ t.unit = none ∧ t.mem = s.mem ∧ t.cores = s.cores)
      ∧ (∀ sl h, s.chosen = some sl → tfind s.slots sl = some h → s.places sl h = true → t.board 0 = s.board 0 + 1
        ∧ t.board 4 = s.board 4 ∧ t.mem = s.mem ∧ t.cores = s.cores
        ∧ ∃ u, t.unit = some u ∧ u.core = c ∧ u.ticket = s.board 0 ∧ u.slot = sl ∧ u.goal = .head ∧ u.stage = .list
          ∧ u.taken = [] ∧ u.placed = []))
    ∧ (∀ u k, s.unit = some u → u.core = c → u.goal = .head → u.stage = .cas → (∀ j ∈ u.listed, j < 32) → (∀ j ∈ u.taken, j < 32) →
      u.listed[u.taken.length]? = some k →
      (resv k = 0 → t.board (0x20 + 4 * k) = 0x100 + BitVec.ofNat 32 (u.ticket.toNat % 2 ^ 24)
        ∧ (∀ j < 32, j ≠ k → t.board (0x20 + 4 * j) = resv j) ∧ t.unit = some { u with taken := u.taken ++ [k] })
      ∧ (resv k ≠ 0 → (∀ j ∈ u.taken, t.board (0x20 + 4 * j) = 0) ∧ (∀ j < 32, j ∉ u.taken → t.board (0x20 + 4 * j) = resv j)
        ∧ t.unit = some { u with region := u.region + 1, stage := .list, listed := [], taken := [] }))
    ∧ (∀ u h, s.unit = some u → u.core = c → u.stage = .place → tfind s.slots u.slot = some h → u.listed.length ≤ u.placed.length →
      (∀ j ∈ u.taken, j < 32) → t.unit = none ∧ t.board 4 = u.ticket + 1 ∧ (∀ j ∈ u.taken, t.board (0x20 + 4 * j) = 0)
      ∧ t.mem = s.mem ∧ t.cores = s.cores
      ∧ (u.goal = .head → s.board 0x18 = BitVec.ofNat 32 u.slot → t.board 0x18 = 0xFFFFFFFF ∧ ∀ d < 4, t.board (8 + 4 * d) = 0)
      ∧ (∀ k, u.goal = .fill k → u.region < 4 → t.board (8 + 4 * u.region) = s.board (8 + 4 * u.region) + 1))

/-- R246, R313, R345 to R347: the service frees the RESV words of a parked holder's ticket and begins to pre-empt what it has placed; it
maps the queue of the ready list that comes next onto a free slot, under a ticket of its own; a WAIT timeout of an unmapped queue
moves it to the ready list; a group parked by SWTRAP or BREAK is released to RESUMEPC. That the service takes and counts its ticket in
one step is log entry 44; these moves are procedures of log entry 62. -/
def Claims.ServiceMoves : Prop :=
  ∀ s : State, s.lwatches = [] →
    (∀ c, c < 32 → s.reeveRuns c = false → s.board 0 ≠ s.board 4 → (∀ u, s.unit = some u → u.core = c) →
      (∀ k ∈ s.cores, k.2.parkedA = []) →
      let t := runProc (.rescue c) s
      let tag : Word := 0x100 + BitVec.ofNat 32 ((s.board 4).toNat % 2 ^ 24)
      (∀ k < 32, t.board (0x20 + 4 * k) = if s.board (0x20 + 4 * k) = tag then 0 else s.board (0x20 + 4 * k))
      ∧ t.board 4 = s.board 4 ∧ .parkedReeve c ∈ t.notices ∧ t.mem = s.mem
      ∧ (∃ u, t.unit = some u ∧ u.ticket = s.board 4 ∧ u.goal = .rescue ∧ u.stage = .preempt)
      ∧ ∀ k b x, s.block k b = some x → b ≠ 63 → x.tenant = true → x.ticket = s.board 4 → ∃ y, t.block k b = some y ∧ y.stopping = true)
    ∧ (∀ c sl va e, s.nextReady = some e → s.board 0 = s.board 4 → s.unit = none → s.boardReach serviceCore = .yes → 32 ≤ c → c < 40 → sl < 256 →
      tfind s.slots sl = none → Ready s c va 64 false → ringOk (s.peek c va 64) = true →
      (∀ pa, (s.xlat c 0 va).map (fun t => t.frame + (va - t.base)) = some pa → s.queueAt pa = some e
        ∧ (tfind (s.polder e.1).queues e.2).map Queue.descPa = some pa) →
      (s.xlat c 0 va).isSome = true →
      let t := runProc (.mapReady c sl va) s
      t.sstate sl = qIdle ∧ t.bell sl = true ∧ e ∉ t.ready ∧ t.board 0 = s.board 0 + 1 ∧ t.board 4 = s.board 4 + 1
        ∧ ∃ h, tfind t.slots sl = some h ∧ (h.polder, h.queue) = e ∧ h.descVa = va)
    ∧ (∀ p q d x, tfind (s.polder p).queues q = some x → x.waitDue = some d → d ≤ s.clock → (p, q) ∈ s.idle →
      let t := runProc (.waitDue p q) s
      (p, q) ∈ t.ready ∧ (p, q) ∉ t.idle)
    ∧ ∀ c sl g, s.group c sl = some g → g.parked = true → (g.frec.code = 8 ∨ g.frec.code = 9) → g.frec.resume ≠ 0xFFFFFFFF →
      ∃ h, (runProc (.release c sl) s).group c sl = some h ∧ h.parked = false ∧ h.pc = g.frec.resume ∧ h.clause = none
        ∧ h.lanes = g.lanes

/-- R187, R246, R247, R249 to R251, R284, R313, R345 to R347: queue slots, dispatch units, and what the service does for them. -/
def Obligations.QueueSlots : Prop := Claims.QueueSlots ∧ Claims.DispatchUnits ∧ Claims.ServiceMoves

/-- R188: `place` reads its 16-byte descriptor in polder 0's window: 0x8000_0003 where the slot's head is no LAUNCH, 0x8000_0002
for a core outside the polder, quarantined or closed to placement, 0x8000_0001 without room, else the BSLOT on which the
block now stands. A misaligned descriptor takes MISALIGN, one outside the window BOUNDS, both with CAUSE 1 (the model's choice: log entry
66). Which cause comes first, and the lowest free BSLOT, are log entry 19. -/
def Claims.PlaceResults : Prop :=
  ∀ (d : Reg) (a : Src) (gd : Guard) (s : State) (c sl : Nat) (g : Group) (cl : Clause) (l : Nat),
    let i := Instr.place d a gd
    let x := (g.reg l a.reg.toNat).toNat
    let at' := (s.polder 0).spBase + x
    let word (off len : Nat) : Nat := ofLe (mreads s.sp (at' + off) len)
    let b := word 4 8
    let core := word 12 1
    let fault (code : Nat) : Host.Outcome State Fault Refusal := .next (s.takeFault c sl
      { code := code, cause := 1, lanes := BitVec.twoPow 32 l, addr := BitVec.ofNat 64 x, aux := s.ir } (resumeOf g))
    Issues i s c sl g cl → SysReady s g gd l →
    (x % 16 ≠ 0 → exec i s = fault 4)
    ∧ (x % 16 = 0 → (s.polder 0).spSize < x + 16 → exec i s = fault 5)
    ∧ (x % 16 = 0 → x + 16 ≤ (s.polder 0).spSize → s.linkAvail (dieOf c) (homeDie at') = .yes → Completes i s fun t =>
      ∃ u w, SysDone i gd u t c sl g d w
        ∧ match (tfind s.slots (word 0 4)).bind (·.launch) with
          | none => w = 0x80000003 ∧ u = s
          | some p =>
            let k := s.core core
            if 32 ≤ core ∨ (s.polder p.polder).cores.getLsbD core = false ∨ k.quar = true ∨ k.placeok = false then
              w = 0x80000002 ∧ u = s
            else match k.room (s.polder p.polder).shSize p with
              | none => w = 0x80000001 ∧ u = s
              | some r => w = BitVec.ofNat 32 r.1 ∧ u = s.placeBlock core r.1 b p r.2)

/-- R23, R25, R29 to R31, R132, R188: a placed block stands on its BSLOT with its index; its groups take the first slots in order, each
with its number, its threads in home lanes from 0 up, every register and predicate 0, PC at ENTRY, tile width 32, FSTAT 0
and no batches; its shared memory reads zero, and no other group changes. (Zero registers, predicates and shared memory: log entry
19.) -/
def Claims.Placing : Prop :=
  ∀ (s : State) (core bslot b : Nat) (l : Launch) (slots : List Nat), slots.Nodup → ngrpOf l ≤ slots.length →
    let t := s.placeBlock core bslot b l slots
    (∃ x, t.block core bslot = some x ∧ x.launch = l ∧ x.idx = b ∧ x.slots = slots ∧ x.nextG = ngrpOf l
      ∧ x.homeCore = core ∧ x.shSize = (l.shared + 127) / 128 * 128)
    ∧ (∀ k sl, k < ngrpOf l → slots[k]? = some sl → ∃ g, t.group core sl = some g ∧ g.gnum = k ∧ g.bslot = bslot
      ∧ g.bound = l.bound ∧ g.pc = l.entry ∧ g.clause = none ∧ g.tilew = .w32 ∧ g.fstat = 0 ∧ g.openB = []
      ∧ g.closedB = [] ∧ g.stalled = false
      ∧ ∀ j < 32, (g.lane j).st = (if 32 * k + j < l.x * l.y * l.z then .occupied else .empty)
        ∧ (g.occ j = true → (g.lane j).homeGroup = k ∧ (g.lane j).homeLane = j)
        ∧ (∀ r, g.reg j r = 0) ∧ ∀ p < 7, g.pred j p = false)
    ∧ (∀ a, shBaseFor bslot ≤ a → a < shBaseFor bslot + 2 ^ 20 → mget (t.core core).sh a = 0)
    ∧ (∀ a, (a < shBaseFor bslot ∨ shBaseFor bslot + 2 ^ 20 ≤ a) → mget (t.core core).sh a = mget (s.core core).sh a)
    ∧ (∀ c sl, ¬(c = core ∧ sl ∈ slots.take (ngrpOf l)) → t.group c sl = s.group c sl)
    ∧ t.mem = s.mem ∧ t.sp = s.sp

/-- R189, R253, R341, R344: `ctxsave` of a resident block saves and frees it where its groups stand at run boundaries with empty store
queues, no command, store or orphan of it is on its way, no access of its core is held, and the destination is translated and
reached; `ctxrest` of an image that passes puts its block onto a core that has room. Each passes on with its result in the active
lanes. (The bounds of an image's length, and the polder of its request: log entry 49.) -/
def Claims.ImagesComplete : Prop :=
  ∀ (d : Reg) (a b : Src) (gd : Guard) (s : State) (c sl : Nat) (g : Group) (cl : Clause) (l : Nat),
    let va := (g.pair l a.reg.toNat).toNat
    let w := (g.reg l b.reg.toNat).toNat
    let passed (t : State) (v : Word) : Prop := ∃ h, t.group c sl = some h ∧ h.pc = g.pc + 8
      ∧ (d ≠ 255 → ∀ l < 32, g.active gd l = true → h.raw l d.toNat = v)
    SysReady s g gd l →
    (let core := w / 256 % 32
      let bs := w % 64
      ∀ x, Issues (.ctxsave d a b gd) s c sl g cl → bs ≠ 63 → s.block core bs = some x → s.inRerun core bs = false → x.stopping = false →
      (c = core → g.bslot ≠ bs ∧ sl ∉ x.slots) →
      (∀ e ∈ (s.core core).groups, e.2.bslot = bs → e.2.atBoundary = true ∧ e.2.stq = []) →
      (∀ e ∈ (s.core core).orphans, e.ofBlock core bs = false) → (∀ e ∈ s.linkQ, e.entry.ofBlock core bs = false) →
      (∀ e ∈ s.cmds, e.2.touches core bs = false) → (s.core core).parkedA = [] → Reachable s c va (s.imageLen core bs x) true →
      Completes (.ctxsave d a b gd) s fun t => t.block core bs = none ∧ ∃ v, passed t v)
    ∧ (let core := w % 32
      let n := bfield (s.peek c va 128) 36 4
      let im := s.peek c va n
      let k := s.imageLaunch im
      let sizes := (readRecs (bfield im 60 4) (im.drop (192 + nslotOf k * sectionLen k + shSizeFor k))).map fun e => e.1.size
      ∀ r, Issues (.ctxrest d a b gd) s c sl g cl → 192 ≤ n → n ≤ 2 ^ 26 → Ready s c va 128 false → Ready s c va n false →
      s.badImage (s.askedBy va im) im = false → (s.core core).room (s.polder k.polder).shSize k = some r →
      s.fits core k.polder sizes = true →
      Completes (.ctxrest d a b gd) s fun t => (t.block core r.1).isSome = true ∧ passed t (BitVec.ofNat 32 r.1))

/-- R23, R25, R29 to R31, R132, R188, R189, R253, R344: `place` answers and places a block, and where checkpoint images are written
and restored. -/
def Obligations.Placing : Prop := Claims.PlaceResults ∧ Claims.Placing ∧ Claims.ImagesComplete

/-- R189, R252, R253, R344: `ctxsave` of a slot without a resident block of a queue gives 0xFFFF_FFFF; of a block that has come to rest
it frees the block and keeps its image, and gives the image's length. `ctxrest` gives 0x8000_0002 for an image that its checks
reject, 0x8000_0001 without room, else the BSLOT on which the block now stands. (Lengths below 192 or above 2^26, and the polder of the
request: log entry 49; what the service keeps of an image: log entry 12.) -/
def Obligations.CheckpointImages : Prop :=
  ∀ (d : Reg) (a b : Src) (gd : Guard) (s : State) (c sl : Nat) (g : Group) (cl : Clause) (l : Nat),
    let va := (g.pair l a.reg.toNat).toNat
    let w := (g.reg l b.reg.toNat).toNat
    let core := w / 256 % 32
    let bs := w % 64
    let im := s.peek c va (bfield (s.peek c va 128) 36 4)
    let p := s.askedBy va im
    let good := im.take 32 = sha3_256 ((s.polder p).sealKey ++ im.drop 32) ∧ bfield im 56 2 = p ∧ bfield im 32 4 = 1
    SysReady s g gd l →
    (∀ i, i = Instr.ctxsave d a b gd → Issues i s c sl g cl → (bs = 63 ∨ s.block core bs = none ∨ s.inRerun core bs = true) →
      Completes i s fun t => SysDone i gd s t c sl g d 0xFFFFFFFF)
    ∧ (∀ i x, i = Instr.ctxsave d a b gd → Issues i s c sl g cl → bs ≠ 63 → s.block core bs = some x → s.inRerun core bs = false →
      (c = core → g.bslot ≠ bs ∧ sl ∉ x.slots) → Reachable s c va (s.imageLen core bs x) true → (s.beginStop core bs).quiet core bs = true →
      (∀ e ∈ (s.beginStop core bs).piecesPa c va ((s.beginStop core bs).imageLen core bs x),
        (s.beginStop core bs).avail (dieOf c) e.1 = .yes) →
      Completes i s fun t => ∃ u body q, SysDone i gd u t c sl g d (BitVec.ofNat 32 (32 + body.length : Nat))
        ∧ (body : List Byte).take 4 = [1, 0, 0, 0] ∧ u.block core bs = none
        ∧ ∃ y ∈ (u.polder q).saved, y.va = va ∧ y.block.launch.polder = q)
    ∧ (∀ i n, i = Instr.ctxrest d a b gd → Issues i s c sl g cl → n = bfield (s.peek c va 128) 36 4 →
      Reachable s c va 128 false → Completes i s fun t =>
      (n < 192 ∨ 2 ^ 26 < n → ∃ u, SysDone i gd u t c sl g d 0x80000002 ∧ u.cores = s.cores)
      ∧ (192 ≤ n → n ≤ 2 ^ 26 → Reachable (s.touch c va 128) c va n false → ∃ u v, SysDone i gd u t c sl g d v
        ∧ (¬good → v = 0x80000002 ∧ u.cores = s.cores)
        ∧ (good → match (s.core (w % 32)).room (s.polder (s.imageLaunch im).polder).shSize (s.imageLaunch im) with
          | none => v = 0x80000001 ∧ u.cores = s.cores
          | some r => (v = 0x80000001 ∧ u.cores = s.cores) ∨ (v = BitVec.ofNat 32 r.1 ∧ (u.block (w % 32) r.1).isSome = true))))

/-! ### Steps, fetch and issue -/

/-- R48, R50, R268: A STEP RUNS THE DECODED INSTRUCTION. A group inside a clause runs the instruction that the clause's words
at its PC decode to; a group at a header runs the header at its PC; a walker runs the word of its routine, and a bank item
the word of its program, at their PCs. An agent that issues in this cycle comes before the next move of the schedule, whose
event runs after the clock has gone on (the model's schedule: log entry 1). A clause runs the words that were fetched with its header,
and a fetch finds the word that memory holds or one that it has held while a block of the launch was resident (log entry 54). A
re-execution's group that its log evicts here runs nothing first (R261). -/
def Obligations.StepRunsDecoded : Prop :=
  ∀ (s : State) (rest : List Agent),
    (∀ c sl g cl i, s.turns = .group c sl :: rest → s.group c sl = some g → g.stalled = false → g.occs ≠ [] →
      g.clause = some cl →
      let k := (g.pc - cl.hdrPc).toNat / 4 - 1
      decodeVilesk (cl.words.getD k 0) (cl.words.getD (k + 1) 0) = some i →
      step s = exec i { s with turns := rest, cur := .group c sl, ir := cl.words.getD k 0 })
    ∧ (∀ c sl g h, s.turns = .group c sl :: rest → s.group c sl = some g → g.stalled = false → g.occs ≠ [] →
      g.clause = none → s.stopping c g = false → s.evictsNow c g = false → (s.launchOf c g).sram = true →
      let w := mget32 s.boot.sram ((s.launchOf c g).codeBase + g.pc.toNat)
      decodeHeader w = some h → step s = exec (.clauseHeader h) { s with turns := rest, cur := .group c sl, ir := w })
    ∧ (∀ c sl g w olds, s.turns = .group c sl :: rest → s.group c sl = some g → g.stalled = false → g.occs ≠ [] →
      g.clause = none → s.stopping c g = false → s.evictsNow c g = false → (s.launchOf c g).sram = false →
      CodeAt s c g g.pc w olds → ∃ v, (v = w ∨ v ∈ olds) ∧ ∀ h, decodeHeader v = some h → ∃ t : State,
        step s = exec (.clauseHeader h) { t with turns := rest, cur := .group c sl, ir := v }
        ∧ t.cores = s.cores ∧ SameReads s t ∧ t.sp = s.sp ∧ t.polders = s.polders)
    ∧ (∀ d w x fr i, s.turns = .walker d w :: rest → (tfind (s.die d).walks w) = some x → x.frames.head? = some fr →
      x.read = none → x.cycles < walkLimit s x.polder → fr.pc ≤ 1023 →
      decodeWalker (mget32 x.routine (4 * fr.pc)) = some i →
      step s = exec i { s with turns := rest, cur := .walker d w, ir := mget32 x.routine (4 * fr.pc) })
    ∧ (∀ r pc n run x i, s.turns = .item r pc n :: rest → tfind s.runs r = some run →
      tfind run.items (itemKey pc n) = some x → x.ended = false → ∀ ld, tfind run.loads x.stack = some ld →
      decodeBank (ld.prog.getD x.pc 0) = some i →
      step s = exec i { s with turns := rest, cur := .item r pc n, ir := ld.prog.getD x.pc 0 })
    ∧ (∀ dt i moves, s.turns = [] → s.agenda = (dt, .ev i) :: moves → (s.powered = true ∨ i = .moduleReset) →
      step s = exec i { s with agenda := moves, clock := s.clock + dt, cur := .none })
    ∧ (∀ dt c sl id moves, s.turns = [] → s.agenda = (dt, .part c sl id) :: moves → s.powered = true →
      step s = .next (State.performPart { s with agenda := moves, clock := s.clock + dt, cur := .none } c sl id))
    ∧ (∀ dt p moves, s.turns = [] → s.agenda = (dt, .proc p) :: moves → s.powered = true →
      step s = .next (runProc p { s with agenda := moves, clock := s.clock + dt, cur := .none }))

/-- R50, R58, R340: a clause header brings its group into its clause with the clause's words, fetched from its kernel's code,
where its COUNT keeps the run within 24 instructions and its wait is satisfied; past 24 it is an illegal instruction with cause
RUNLEN. A header with a wait starts a run. The words are fetched with the header and kept, and are those of memory or earlier ones of the
launch (log entry 54); a clause outside boot SRAM is covered where it has one word. -/
def Claims.ClauseHeaders : Prop :=
  ∀ (h : Header) (s : State) (c sl : Nat) (g : Group) (ws : List Word),
    let run := if h.wclass = 0 then g.run else 0
    let l := s.launchOf c g
    s.cur = .group c sl → s.group c sl = some g → g.stalled = false → g.clause = none → g.occs ≠ [] → s.stopping c g = false →
    (24 < run + h.count.toNat → h.wclass = 0 → exec (.clauseHeader h) s = .next (s.takeFault c sl
      { code := 1, cause := 2, lanes := g.occMask, addr := g.pc.setWidth 64, aux := s.ir } 0xFFFFFFFF))
    ∧ (run + h.count.toNat ≤ 24 → (h.wclass = 0 ∨ (g.openB = [] ∧ g.closedB = [] ∧ g.pendF = [])) →
      l.sram = true → ws = (List.range (codeWords h)).map (fun k =>
        mget32 s.boot.sram (l.codeBase + (g.pc + BitVec.ofNat 32 (4 * (k + 1))).toNat)) →
      Completes (.clauseHeader h) s fun t => Entered s t c sl g h ws)
    ∧ (run + h.count.toNat ≤ 24 → h.wclass = 0 → h.count = 1 → h.width.getLsbD 0 = false → l.sram = false →
      ∀ w olds, CodeAt s c g (g.pc + 4) w olds → Completes (.clauseHeader h) s fun t => ∃ (u : State) (v : Word),
        (v = w ∨ v ∈ olds) ∧ u.cores = s.cores ∧ SameReads s u ∧ u.sp = s.sp ∧ Entered u t c sl g h [v])

/-- R36, R60, R61, R222, R255: a sub-core that may begin an issue cycle completes it, where no record was created in this cycle (R38) and no
group lacks room for its records; one that lacks it begins to wait in its polder's order and takes no port. The results of a
long-latency instruction or of a scratchpad atomic whose parts have all been performed arrive. -/
def Claims.EventsComplete : Prop :=
  (∀ core sub (s : State), s.mayIssue core sub = true → (∀ r ∈ (s.core core).records, r.born ≠ s.clock) →
    (∀ sl g, s.group core sl = some g → s.roomNeed core sl g = none) → Completes (.issueCycle core sub) s fun t =>
    ((t.core core).sub sub).issued = s.coreClk core + 1 ∧ ∀ c sl, t.group c sl = s.group c sl)
  ∧ (∀ core sub sl (s : State) (g : Group) (sizes : List Nat), s.mayIssue core sub = true → sl / 16 = sub → s.group core sl = some g →
    g.stalled = false → g.occs ≠ [] → s.roomNeed core sl g = some sizes →
    (∀ j h, 16 * sub ≤ j → j < sl → s.group core j = some h → s.roomNeed core j h = none) →
    Completes (.issueCycle core sub) s fun t =>
      t.group core sl = some { g with waiting := .room (s.polder (s.launchOf core g).polder).roomCtr sizes false }
      ∧ ∃ new, t.turns = s.turns ++ new ∧ .group core sl ∉ new)
  ∧ ∀ core slot (s : State) (g : Group) (f : InFlight) (i : Instr), s.group core slot = some g →
    g.inflight.find? (fun x => decide (x.id = f.id)) = some f → f.todo = [] →
    i = (if f.reply then .atspReply core slot f.id else .longLatencyResult core slot f.id) →
    Completes i s fun t => ∃ h, t.group core slot = some h ∧ h.inflight = g.inflight.filter (·.id ≠ f.id)
      ∧ ((f.writes.map fun w => (w.lane, w.loc)).Nodup → ∀ w ∈ f.writes, ∀ r, w.loc = .reg r → r ≠ 255 →
        g.occ w.lane = true → h.raw w.lane r = w.val)

/-- R36, R50, R58, R60, R61, R222, R255, R340: clause headers, issue cycles and the arrival of results. -/
def Obligations.ClauseHeaders : Prop := Claims.ClauseHeaders ∧ Claims.EventsComplete

/-- R109, R255, R256: a sub-core that has had no issue cycle in this core clock has one: in barrel mode the slot that owns the core
clock issues where its group is ready, and nothing else issues; else a free port A takes the oldest ready group of its sub-core,
which issues. Ports apart, nothing changes. (No record was created in this cycle, and no group lacks room for its records: R36, R38.) -/
def Claims.IssueCycles : Prop :=
  ∀ (core sub : Nat) (s : State), core < 32 → sub < 4 → (∀ j, j < sub ∨ 4 ≤ j ∨ ((s.core core).sub j).issued ≤ s.coreClk core) →
    (∀ r ∈ (s.core core).records, r.born ≠ s.clock) → (∀ sl g, s.group core sl = some g → s.roomNeed core sl g = none) →
    let k := s.core core
    let clk := s.coreClk core
    let own := 16 * sub + clk % 16
    let x := k.sub sub
    Completes (.issueCycle core sub) s fun t =>
      ((t.core core).sub sub).issued = clk + 1 ∧ t.cur = s.cur ∧ (∀ c sl, t.group c sl = s.group c sl) ∧ SameMemory s t
      ∧ (k.barrel = true → s.wantsEng core own = false →
          t.turns = s.turns ++ if s.groupReady core own then [.group core own] else [])
      ∧ (k.barrel = false → x.portA = none → x.portB = none → x.holdA = false → ∀ sl,
          x.order.find? (fun y => s.groupReady core y) = some sl → s.wantsEng core sl = false →
          ((t.core core).sub sub).portA = some sl
          ∧ ∃ new, t.turns = s.turns ++ new ∧ .group core sl ∈ new ∧ new.length ≤ 2)

/-- R60, R78, R220, R222: once no part of one long-latency instruction is still to be performed, its results are written together,
each with its flags where its lane is no helper lane, and its window ends; before, nothing happens. The reply of a scratchpad
atomic also brings its own results into the lines of the core's read cache that hold their words. -/
def Claims.ResultsArrive : Prop :=
  ∀ (core slot : Nat) (s : State) (g : Group) (f : InFlight), s.group core slot = some g →
    g.inflight.find? (fun x => decide (x.id = f.id)) = some f → (f.writes.map fun w => (w.lane, w.loc)).Nodup →
    (f.reply = false → f.todo = [] → ∃ h, Landed g h f
      ∧ exec (.longLatencyResult core slot f.id) s = .next (s.setGroup core slot h))
    ∧ (f.reply = true → f.todo = [] → ∃ h lines, Landed g h f
      ∧ exec (.atspReply core slot f.id) s
        = .next ((s.setCore core { s.core core with rcache := lines }).setGroup core slot h)
      ∧ (∀ k, (tfind lines k).isSome = (tfind (s.core core).rcache k).isSome)
      ∧ ((f.lines.map Prod.fst).Nodup → (∀ e ∈ f.lines, e.1 % 4 = 0) → ∀ e ∈ f.lines, ∀ ln,
        tfind (s.core core).rcache (e.1 / 64) = some ln → ln.bytes.length = 64 →
        ∃ ln', tfind lines (e.1 / 64) = some ln' ∧ bfield ln'.bytes (e.1 % 64) 4 = e.2.toNat))
    ∧ ((∀ x ∈ g.inflight, x.id = f.id → x = f) → f.todo ≠ [] →
      exec (.longLatencyResult core slot f.id) s = .next s ∧ exec (.atspReply core slot f.id) s = .next s)

/-- R60, R62, R63, R148, R318: the marks of an instruction, of one shape each: three sources, a pair as source and destination, a result
that arrives later, and a store's several registers. In its active lanes a last-use source is dead from now on, a destination is live
and awaits no command; the operand cache follows the keep and last-use bits. A read that meets poison gives 0x7FD0_0000 and sets
POISONRD and its block's flag; every other read gives the register. -/
def Claims.Marks : Prop :=
  ∀ (d : Reg) (a b e : Src) (ty : IType) (sat sgn : Bool) (sh : BitVec 3) (rm : RM) (la : BitVec 4) (sem : StSem) (w : Wid)
      (off : BitVec 10) (sc : Scope) (gd : Guard) (s : State) (c sl : Nat) (g : Group) (cl : Clause),
    let use (x : Src) (k : Nat) : Nat × Bool × Bool := (x.reg.toNat + k, x.last, x.keep)
    let dst (n : Nat) : List Nat := if d = 255 then [] else (List.range n).map fun k => d.toNat + k
    let marks (i : Instr) (uses : List (Nat × Bool × Bool)) (out : List Nat) : Prop := Issues i s c sl g cl →
      Completes i s fun t => ∃ h, t.group c sl = some h ∧ Marked gd g h uses out
    marks (.imad d a b e ty sat gd) [use a 0, use b 0, use e 0] (dst 1)
    ∧ marks (.lea d a b sh sgn gd) [use a 0, use a 1, use b 0] (dst 2)
    ∧ marks (.frcp d a rm la gd) [use a 0] (dst 1)
    ∧ (g.accessing = false → g.stq.length < 32 →
      Fits g gd (fun l => (g.reg l a.reg.toNat).toNat + 4 * off.toInt) (widBytes w) (s.shSizeOf c g) →
      marks (.stsh a b sem w off sc gd) (use a 0 :: (List.range (widRegs w)).map (use b)) [])
    ∧ (∀ l r, g.poisoned l r → g.reg l r = 0x7FD00000)
    ∧ (∀ l r, ¬g.poisoned l r → r ≠ 255 → (g.lane l).st ≠ .empty → g.reg l r = g.raw l r)
    ∧ (∀ l < 32, g.active gd l = true → (g.poisoned l a.reg.toNat ∨ g.poisoned l b.reg.toNat ∨ g.poisoned l e.reg.toNat) →
      Issues (.imad d a b e ty sat gd) s c sl g cl → Completes (.imad d a b e ty sat gd) s fun t =>
        (∃ h, t.group c sl = some h ∧ h.fstat.getLsbD 5 = true)
        ∧ ∀ x, s.block c g.bslot = some x → ∃ y, t.block c g.bslot = some y ∧ y.poisoned = true)

/-- R60, R62, R63, R78, R148, R222, R255, R256, R318: what issues in a cycle, what marks it leaves, and how results arrive. The flags of
a result that v255 or p7 discards: log entry 29. -/
def Obligations.IssueAndResults : Prop := Claims.IssueCycles ∧ Claims.Marks ∧ Claims.ResultsArrive

/-! ### Commands complete -/

/-- R145, R153, R155, R156, R235: a copy-in's bytes reach local space as it completes and a copy-out changes no local byte;
`seal` writes the seal behind the bytes it hashed and returns it in the lanes whose register still awaits it; a collective
starts once every participant has supplied its slice or ended (log entry 36). (No queue's WAIT watches a word written here, and no word
of the core's die is on a link: the engine comes behind those, log entry 23.) -/
def Claims.CopiesComplete : Prop :=
  ∀ (s : State) (id : Nat) (x : Cmd), s.lwatches = [] → NoWords s x.org.core →
    let c := x.org.core
    (∀ st sp va first n loc, tfind s.cmds id = some x → x.op = .cpy st sp va first n loc → x.phase = .data → x.plan = [] →
      s.accsOver x = true → s.storesDone x.org x.stores = true → s.localAvail x.org sp loc x.span = .yes →
      let got := (s.accsOf x).flatMap Access.good
      let base := s.localBase x.org sp + loc
      (got.map Prod.fst).Nodup →
      Completes (.cpyComplete id) s fun t => Finished s t id x (fun _ _ => none) ∧ OtherShared s t c
        ∧ (st = false → ∀ e ∈ got, t.localByte c sp (base + e.1) = e.2)
        ∧ ∀ sq a, (st = true ∨ sq ≠ sp ∨ ∀ e ∈ got, a ≠ base + e.1) → t.localByte c sq a = s.localByte c sq a)
    ∧ (∀ len loc d, tfind s.cmds id = some x → x.op = .sealRec len loc d → x.phase = .data →
      s.storesDone x.org x.stores = true →
      let base := s.localBase x.org .sh + loc
      let h := sealOf (s.polder x.org.polder).sealKey (mreads (s.core c).sh base len)
      Completes (.sealComplete id) s fun t =>
        Finished s t id x (fun l r => if r = d ∧ x.mask.getLsbD l ∧ s.awaits x id l d then some h else none)
        ∧ OtherShared s t c ∧ t.sp = s.sp ∧ mget32 (t.core c).sh (base + len) = h
        ∧ ∀ a, (a < base + len ∨ base + len + 4 ≤ a) → mget (t.core c).sh a = mget (s.core c).sh a)
    ∧ (∀ k b y w, s.block k b = some y → y.coll = some w → s.collReady k b w = true → y.collNext = [] →
      exec (.collectiveStart k b) s = .next (s.setBlock k b { y with coll := none })
      ∧ ∀ e ∈ w.slices, ∀ n z, e.cmd = some n → z.org.core = k → z.org.bslot = b →
        (s.setBlock k b { y with coll := none }).started n z = true)

/-- R145, R147, R161, R162, R235: a gather writes each position's row: the fetched row of its index, the fill pattern for an
index out of bounds, nothing for the sentinel or a row that could not be read whole. It then writes the number of
misses at byte 28 of its record, as a scatter does, and STATUS notes a miss. -/
def Claims.GathersComplete : Prop :=
  ∀ (s : State) (id : Nat) (x : Cmd), tfind s.cmds id = some x → s.lwatches = [] → NoWords s x.org.core → s.accsOver x = true →
    let c := x.org.core
    let sh := (s.core c).sh
    let counted (m : Memory) (recA miss : Nat) : Memory := mwrites m (s.localBase x.org .sh + (recA + 28)) (toLe 4 miss)
    let ended (t : State) (miss : Nat) : Prop := Finished s t id x (fun _ _ => none) ∧ OtherShared s t c
      ∧ ∀ y, tfind t.cmds id = some y → y.status = x.status ||| if miss = 0 then 0 else 4
    (∀ recA rsp area rowb fill bound sent idx, x.op = .gat recA rsp area rowb fill bound sent idx →
      s.localAvail x.org rsp area (idx.length * rowb) = .yes →
      let rows := (idx.filter fun i => decide (i.toNat ≠ sent) && decide (i.toNat < bound)).eraseDups
      let miss := (idx.filter fun i => decide (i.toNat ≠ sent) && decide (bound ≤ i.toNat)).length
      let content (i : Word) : Option (List Byte) :=
        if i.toNat = sent then none
        else if bound ≤ i.toNat then some ((List.replicate (rowb / 4) (toLe 4 fill.toNat)).flatten)
        else bytesAt (s.accsOf x) (rows.idxOf i * rowb) rowb
      let put (m : Memory) : Memory := idx.zipIdx.foldl (init := m) fun m e => match content e.1 with
        | some b => mwrites m (s.localBase x.org rsp + (area + e.2 * rowb)) b
        | none => m
      Completes (.gatComplete id) s fun t => ended t miss
        ∧ (∀ a, mget (t.core c).sh a = mget (counted (if rsp = .sh then put sh else sh) recA miss) a)
        ∧ ∀ a, mget t.sp a = mget (if rsp = .sp then put s.sp else s.sp) a)
    ∧ (∀ recA miss, x.op = .sct recA miss → Completes (.sctComplete id) s fun t => ended t miss
      ∧ (∀ a, mget (t.core c).sh a = mget (counted sh recA miss) a) ∧ t.sp = s.sp)

/-- R145, R147, R153, R155, R156, R161, R162, R235: copies, seals, gathers and scatters complete. -/
def Obligations.EngineResults : Prop := Claims.CopiesComplete ∧ Claims.GathersComplete

/-- R145, R149, R163, R164, R176: a lane's `matom` gets its old value, 0 where its operation was not applied, and the command
completes with its last lane; an `mred` completes once every reduction is accepted; a `spawn` deposits its children's
records in order once they fit, nothing has waited for room longer, and no higher slot has created one in this cycle (R38); a fence
ends when its condition holds. -/
def Obligations.CommandReplies : Prop :=
  ∀ (s : State) (id : Nat) (x : Cmd), tfind s.cmds id = some x →
    let c := x.org.core
    (∀ d w64 l, x.op = .matom d w64 → d < 256 → x.phase = .data → l < 32 → x.mask.getLsbD l = true →
      (∀ a ∈ s.accsOf x, a.lane = l → a.st.over = true) →
      let old := match (s.accsOf x).find? (fun a => decide (a.lane = l)) with
        | some a => if a.st = .served ∧ a.bad = [] then ofLe a.data else 0
        | none => 0
      let regs : List Nat := if d = 255 then [] else if w64 then [d, d + 1] else [d]
      let out (k r : Nat) : Option Word :=
        if k = l ∧ r ∈ regs ∧ s.awaits x id l r then some (BitVec.ofNat 32 (old / 2 ^ (32 * (r - d)))) else none
      Completes (.matomReply id l) s fun t => SameMemory s t
        ∧ (x.mask = BitVec.twoPow 32 l → Finished s t id x out)
        ∧ (x.mask ≠ BitVec.twoPow 32 l → (∃ y, tfind t.cmds id = some y ∧ y.mask = x.mask &&& ~~~(BitVec.twoPow 32 l))
          ∧ ∀ g, s.cmdGroup x.org = some g → ∃ h, t.group c x.org.slot = some h
            ∧ ∀ k < 32, ∀ r, h.raw k r = (out k r).getD (g.raw k r)))
    ∧ (x.op = .mred → s.accsOver x = true →
      Completes (.mredAccept id) s fun t => SameMemory s t ∧ Finished s t id x (fun _ _ => none))
    ∧ (∀ n ch, x.op = .spawn n ch → x.phase = .waiting → (∀ w ∈ s.waiters x.org.polder, n ≤ w.order) →
      s.fits c x.org.polder (ch.map fun e => e.2.size) = true → (s.core c).ageCtr + ch.length < 2 ^ 32 →
      (s.core c).inOrder s.clock x.org.slot = true → Completes (.spawnComplete id) s fun t => SameMemory s t ∧ Finished s t id x (fun _ _ => none)
        ∧ ∃ rs, (t.core c).records = (s.core c).records ++ rs
          ∧ (∀ a, OutsideRecords s x.org.polder rs a → t.coherent a = s.coherent a) ∧ rs.map Record.bare = ch.zipIdx.map fun e =>
          { e.1.2 with bslot := e.1.1, born := s.clock, age := (s.core c).ageCtr + e.2, slot := x.org.slot, spilled := false
                       place := [], mark := default })
    ∧ (∀ k sl g sc, s.group k sl = some g → g.waiting = .fence sc →
      let ids := g.mreds ++ g.finished
      let queue := g.stq = [] ∧ ∀ f ∈ g.inflight, f.reply = false ∧ f.todo = []
      let holds : Prop := match sc with
        | .grp | .blk => queue
        | .die => queue ∧ s.drained ids = true
        | .pkg => queue ∧ s.drained ids = true ∧ ∀ e ∈ s.linkQ, e.entry.owner ≠ g.uid
        | .sys => queue ∧ s.drained ids = true ∧ (∀ e ∈ s.linkQ, e.entry.owner ≠ g.uid)
            ∧ ∀ q ∈ s.queue, q.unit = .remote → q.cmd ∉ ids
        | .bank => s.drained ids = true
        | .mx => g.stq = []
      (holds → Completes (.fenceComplete k sl) s fun t => SameMemory s t ∧ t.group k sl = some { g with waiting := .none }
        ∧ (sc = .mx → (t.core k).mxHist = []) ∧ (sc ≠ .mx → (t.core k).mxHist = (s.core k).mxHist)
        ∧ ∀ d j, ¬(d = k ∧ j = sl) → t.group d j = s.group d j)
      ∧ (¬holds → exec (.fenceComplete k sl) s = .next s))

/-- R157, R158: the oldest chunk of a polder takes its bytes from the bucket, or borrows, and its pieces are sent; otherwise it
waits. A refill repays the debt, fills every live polder's bucket up to its depth, and the excess goes to the pool. (A copy-out's
local bytes can be reached, behind no word of its core's die on a link: R329, log entry 23.) -/
def Obligations.Weir : Prop :=
  ∀ (s : State),
    (∀ id x, tfind s.cmds id = some x → 0 < id → s.refillDue = false → s.hasChunk id x = true →
      s.olderChunk x.org.polder id = false → x.op.isReplayed = false → NoWords s x.org.core →
      (∀ q ∈ x.chunk.1, ∀ sp va f n loc, x.op = .cpy true sp va f n loc → s.localAvail x.org sp (loc + q.off) q.len = .yes) →
      let p := s.polder x.org.polder
      let ps := x.chunk.1
      let n := total (ps.map (·.len))
      let short := n - p.weirLevel
      let borrows := p.borrow = true ∧ p.weirDebt + short ≤ p.weirDebtLim ∧ short ≤ s.pool
      let sent (q : Piece) : AccOp := match x.op with
        | .cpy true sp _ _ _ loc => .write (s.localRead x.org sp (loc + q.off) q.len)
        | _ => .read
      (n ≤ p.weirLevel ∨ borrows → Completes (.weirChunk id) s fun t => SameMemory s t
        ∧ (∃ y, tfind t.cmds id = some y ∧ y.plan = x.chunk.2) ∧ (∀ q ∈ ps, SentAccess t id x.lane (sent q) q.va q.len)
        ∧ (t.polder x.org.polder).weirLevel = p.weirLevel - n
        ∧ (n ≤ p.weirLevel → (t.polder x.org.polder).weirDebt = p.weirDebt ∧ t.pool = s.pool)
        ∧ (p.weirLevel < n → (t.polder x.org.polder).weirDebt = p.weirDebt + short ∧ t.pool = s.pool - short))
      ∧ (¬(n ≤ p.weirLevel ∨ borrows) → exec (.weirChunk id) s = .next s))
    ∧ (s.refillDue = true → Completes .weirRefill s fun t => SameMemory s t ∧ t.cores = s.cores ∧ t.cmds = s.cmds
      ∧ (∀ k x, k < 64 → tfind s.polders k = some x → (x.alive = true ∨ k = 0) →
        let repay := min x.weirDebt (x.weirRate / 2)
        t.polder k = { x with
          weirDebt := x.weirDebt - repay, weirLevel := min (x.weirLevel + (x.weirRate - repay)) x.weirDepth
          borrow := decide (x.weirDebt = repay) })
      ∧ (s.pool ≤ 2 ^ 26 → t.pool = min (2 ^ 26) (s.pool + total ((List.range 64).map fun k => match tfind s.polders k with
          | some x => if x.alive = true ∨ k = 0 then
              let repay := min x.weirDebt (x.weirRate / 2)
              repay + (x.weirLevel + (x.weirRate - repay) - x.weirDepth)
            else 0
          | none => 0))))
    ∧ (s.refillDue = false → exec .weirRefill s = .next s)

/-! ### The weaver, joins, barriers and the end of blocks -/

/-- R29, R30, R38 to R42, R217: the weaver forms a group, in a free slot of the block, from the set whose oldest record is oldest
among those that may form: spill sets by quads in the order of their oldest members, spawn sets by AGE, reorder sets by KEY,
at most 32 lanes; the records left over stay. A core forms at most one group in a cycle (R40), and the groups of a re-execution follow
its log instead (R261). -/
def Claims.FormingGroups : Prop :=
  ∀ (s : State) (c sl : Nat) (r : Record) (rs : List Record) (b : Block),
    (s.coreClk c < (s.core c).formed → exec (.weaverFormGroup c) s = .next s)
    ∧ ((s.core c).formed ≤ s.coreClk c → b.rerun = none →
    ((s.core c).records.map (·.age)).Nodup → r ∈ (s.core c).records → s.setOf c r = r :: rs → s.mayForm c (r :: rs) = true →
    s.block c r.bslot = some b → s.freeSlot c r.bslot = some sl → SoundRecords s b.launch.polder (r :: rs) →
    (∀ x ∈ (s.core c).records, ∀ y ys, s.setOf c x = y :: ys → s.mayForm c (y :: ys) = true →
      (s.freeSlot c y.bslot).isSome = true → r.age ≤ y.age) →
    let alloc := allocOf b.launch
    let ordered := if r.kind = .reorder then sortBy (fun x => x.key.toNat) (r :: rs) else r :: rs
    let quads := (quadsOf (r :: rs)).take 8
    let left (x : Record) : Prop := if r.kind = .spill then ∀ q ∈ quads, ∀ e ∈ q.at', e.2.age ≠ x.age
      else ∀ y ∈ ordered.take 32, y.age ≠ x.age
    Completes (.weaverFormGroup c) s fun t => SameMemory s t ∧ (t.core c).formed = s.coreClk c + 1 ∧ (∃ g, t.group c sl = some g ∧ g.bslot = r.bslot
        ∧ g.gnum = b.nextG ∧ g.pc = r.pc ∧ g.bound = false ∧ g.clause = none ∧ g.run = 0 ∧ g.waiting = .none ∧ g.tilew = .w32
        ∧ g.fstat = 0 ∧ g.uid = s.newId.1
        ∧ (r.kind ≠ .spill → (∀ l < 32, ∀ x, ordered[l]? = some x → Holds (g.lane l) x alloc b.nextG l)
          ∧ ∀ l, ordered.length ≤ l → g.lane l = Lane.reset)
        ∧ (r.kind = .spill → (∀ k < 8, ∀ q, quads[k]? = some q → ∀ i < 4, match tfind q.at' i with
            | some x => Holds (g.lane (4 * k + i)) x alloc x.homeGrp x.homeLane
            | none => (g.lane (4 * k + i)).st = .helper)
          ∧ ∀ l, 4 * quads.length ≤ l → g.lane l = Lane.reset))
      ∧ (∀ d j, ¬(d = c ∧ j = sl) → t.group d j = s.group d j)
      ∧ ∀ x, x ∈ (t.core c).records ↔ x ∈ (s.core c).records ∧ left x)

/-- R36, R39, R45: a set becomes due after the fairness interval of its oldest record; a due set without a free slot evicts the
group that R45 chooses, whose occupied lanes become spill records at their next PCs, where no higher slot has created one in this
cycle (R38); room in spawn memory or the spill area lets the oldest waiter arbitrate again, and it goes on where its records then
still fit. A newcomer may pass older waiters (log entry 60). -/
def Claims.WaitingRecords : Prop :=
  ∀ (s : State) (c sl : Nat) (g : Group),
    (∀ r, (s.core c).records.find? (fun x => decide (x.age = r.age)) = some r →
      (r.born + fairOf (s.blockLaunch c r.bslot) ≤ s.clock → exec (.setDue c r.age) s = .next (s.setCore c { s.core c with
        records := (s.core c).records.map fun x => if x.age = r.age then { x with due := true } else x }))
      ∧ (s.clock < r.born + fairOf (s.blockLaunch c r.bslot) → exec (.setDue c r.age) s = .next s))
    ∧ (let l := s.launchOf c g
      let n := min (allocOf l) 255
      s.group c sl = some g → l.noprom = false → s.hasDue c g.bslot = true → s.freeSlot c g.bslot = none →
      s.evictee c g.bslot = some sl → g.atRunEnd = true → s.inRerun c g.bslot = false →
      (s.core c).inOrder s.clock sl = true → g.occs ≠ [] → g.inflight = [] → g.openB = [] → g.closedB = [] →
      (∀ i ∈ g.occs, s.pendBusy (g.lane i) = false) → (s.core c).ageCtr + 32 < 2 ^ 32 →
      s.fits c l.polder (g.occs.map fun i => recSize (g.lane i).rstk.length n) = true →
      Completes (.groupEvict c sl) s fun t => SameMemory s t ∧ t.group c sl = none
        ∧ (∀ d j, ¬(d = c ∧ j = sl) → t.group d j = s.group d j)
        ∧ ∃ rs, (t.core c).records = (s.core c).records ++ rs
          ∧ (∀ a, OutsideRecords s l.polder rs a → t.coherent a = s.coherent a) ∧ rs.map Record.bare = g.occs.zipIdx.map fun e =>
          { kind := .spill, bslot := g.bslot, pc := g.pc, nlive := n, regs := (List.range n).map (g.lane e.1).saved
            rstk := (g.lane e.1).rstk, mstk := (g.lane e.1).mstk, deep := (g.lane e.1).deep, preds := (g.lane e.1).preds
            homeLane := (g.lane e.1).homeLane, homeGrp := (g.lane e.1).homeGroup
            key := BitVec.ofNat 32 ((g.lane e.1).homeGroup % 2 ^ 26), age := (s.core c).ageCtr + e.2, born := s.clock
            orig := g.uid, slot := sl, stores := s.storesOf g, due := false, spilled := false, place := [], held := g.holdOf
            mark := default })
    ∧ (∀ n sizes free, s.group c sl = some g → g.waiting = .room n sizes free →
      let p := (s.launchOf c g).polder
      let w : Waiter := { order := n, core := c, slot := some sl, from' := sl, cmd := 0, sizes := sizes }
      let stays (q : Nat) : Prop := ∀ v ∈ s.waiters q, (∀ u ∈ s.waiters q, v.order ≤ u.order) →
        v.core ≠ c ∨ s.fits c q v.sizes = false
      p ∈ s.poldersOn c → (∀ v ∈ s.waiters p, v = w ∨ n < v.order) → (∀ q ∈ s.poldersOn c, q ≠ p → stays q) →
      (s.fits c p sizes = true → exec (.spillRoomFreed c) s = .next (s.setGroup c sl { g with waiting := .room n sizes true }))
      ∧ (s.fits c p sizes = false → exec (.spillRoomFreed c) s = .next s))
    ∧ (∀ n sizes, s.group c sl = some g → g.waiting = .room n sizes true → s.roomTurn c sl = s.setGroup c sl { g with
        waiting := if s.fits c (s.launchOf c g).polder sizes then .none else .room n sizes false })

/-- R29, R30, R36, R38 to R42, R45, R217: the weaver forms groups, ages records and evicts. -/
def Obligations.Weaver : Prop := Claims.FormingGroups ∧ Claims.WaitingRecords

/-- R43, R178, R180, R181, R319: a waiting group merges the spill records of its block at the join PC and goes on when it is
full, alone, or timed out; a sleep ends in time; a block barrier completes once every group with a thread has arrived at
a `bar`, a gang barrier once every group of the gang has arrived at `gsync`: the gang's words on the die links, and what came before
them on the same links, are then written (R181, R228; log entry 23). -/
def Obligations.JoinsAndBarriers : Prop :=
  ∀ (s : State) (c sl : Nat) (g : Group), s.group c sl = some g →
    (∀ pc since dl, g.waiting = .join pc since dl → Unaudited s c g →
      let k := s.core c
      let due := k.records.filter fun r => decide (r.kind = .spill) && decide (r.bslot = g.bslot) && decide (r.pc = pc) && s.eligible c r
      let full (h : Group) : Prop := ∀ i < 32, (h.lane i).st ≠ .empty
      (due = [] → (full g ∨ k.joinAlone g.bslot sl = true) →
        exec (.joinMerge c sl) s = .next (s.setGroup c sl { g with waiting := .none, pc := pc }))
      ∧ (due = [] → ¬(full g ∨ k.joinAlone g.bslot sl = true) → exec (.joinMerge c sl) s = .next s)
      ∧ (∀ r l, due = [r] → k.joinsFirst g.bslot pc since sl = true → g.mergeLane r.homeLane = some l →
        SoundRecords s (s.blockPolder c r.bslot) [r] →
        Completes (.joinMerge c sl) s fun t => SameMemory s t ∧ (t.core c).records = k.records.filter (fun x => decide (x.age ≠ r.age))
          ∧ (∀ d j, ¬(d = c ∧ j = sl) → t.group d j = s.group d j)
          ∧ ∃ h, t.group c sl = some h ∧ Holds (h.lane l) r (allocOf (s.launchOf c g)) r.homeGrp r.homeLane
            ∧ (∀ i, i ≠ l → h.lane i = g.lane i)
            ∧ ((full h ∨ (t.core c).joinAlone g.bslot sl = true) → h.waiting = .none ∧ h.pc = pc)
            ∧ (¬(full h ∨ (t.core c).joinAlone g.bslot sl = true) → h.waiting = g.waiting ∧ h.pc = g.pc))
      ∧ (dl ≤ s.clock → due = [] → exec (.joinTimeout c sl) s = .next (s.setGroup c sl { g with waiting := .none, pc := pc }))
      ∧ (s.clock < dl → exec (.joinTimeout c sl) s = .next s))
    ∧ (∀ till, g.waiting = .sleep till →
      exec (.sleepExpire c sl) s = .next (if till ≤ s.clock then s.setGroup c sl { g with waiting := .none } else s))
    ∧ (g.occs ≠ [] → (∀ e ∈ s.threads c g.bslot, e.2.atBar = true) →
      Completes (.barrierComplete c g.bslot) s fun t => SameMemory s t ∧ t.group c sl = some { g with waiting := .none }
        ∧ (∀ d j h, s.group d j = some h → ¬(d = c ∧ h.bslot = g.bslot ∧ h.occs ≠ []) → t.group d j = some h)
        ∧ (∀ r ∈ (t.core c).records, r.bslot = g.bslot → r.held ≠ .bar)
        ∧ ((∃ e ∈ s.threads c g.bslot, e.2.waiting = .bar true) → (t.core c).mxHist = [])
        ∧ ((∃ x, s.block c g.bslot = some x ∧ x.evictedMx = true) → (t.core c).mxHist = []))
    ∧ (g.occs ≠ [] → (∃ e ∈ s.threads c g.bslot, e.2.atBar = false) → exec (.barrierComplete c g.bslot) s = .next s)
    ∧ (let bs := s.gang c g.bslot
      let mine (x : Sent) : Bool := bs.any fun y => decide (y.1 = x.core)
      let before (x : Sent) : Bool := s.linkQ.any fun z =>
        mine z && decide (dieOf z.core = dieOf x.core) && decide (homeDie z.word.addr = homeDie x.word.addr)
      s.gangHere c g.bslot = true → (∀ y ∈ bs, ∀ e ∈ s.threads y.1 y.2, e.2.waiting = .gsync) → s.lwatches = [] →
      (∀ x ∈ s.linkQ, mine x = true → s.linkAvail (dieOf x.core) (homeDie x.word.addr) = .yes) →
      Completes (.gangBarrierComplete c g.bslot) s fun t => t.mem = s.mem ∧ (∀ d, (t.core d).sh = (s.core d).sh)
        ∧ (∀ d j h, s.group d j = some h → (d, h.bslot) ∈ bs → h.occs ≠ [] → t.group d j = some { h with waiting := .none })
        ∧ (∀ a, mget t.sp a = mget ((s.linkQ.filter before).foldl (fun m x => mset32 m x.word.addr x.word.val) s.sp) a)
        ∧ (∀ x ∈ t.linkQ, mine x = false) ∧ ∀ y ∈ bs, (t.core y.1).rcache = [])
    ∧ (s.gangHere c g.bslot = false → exec (.gangBarrierComplete c g.bslot) s = .next s)

/-- R47, R318, R349, R350: a block of which nothing is left returns its slots, and counts in POISONBLK where a thread of it made
a poison read; a block without progress for WDOGINT cycles is reported and its counter starts again; a re-execution's report goes to the
service alone. -/
def Obligations.BlocksEnd : Prop :=
  ∀ (s : State) (c b : Nat) (x : Block), s.block c b = some x →
    (x.launch.sram = false → x.rerun = none → s.rejecting c b = false → s.isDoomed x = false → s.drainedBlock c b x = true →
      s.lwatches = [] →
      let board := (s.polder 0).spBase
      let frees (a : Nat) : Prop := x.booked = true ∧ board + 0x100 + 64 * c ≤ a ∧ a < board + 0x100 + 64 * c + 20
      Completes (.blockRetire c b) s fun t => t.mem = s.mem ∧ (∀ d, (t.core d).sh = (s.core d).sh)
        ∧ (∀ a, ¬frees a → mget t.sp a = mget s.sp a)
        ∧ (x.booked = true → t.board (shFreeAt c) = s.board (shFreeAt c) + BitVec.ofNat 32 x.shSize
          ∧ ∀ j < 4, t.board (scFreeAt c j) = s.board (scFreeAt c j) + BitVec.ofNat 32 (x.scNeed j))
        ∧ t.block c b = none
        ∧ (∀ d j, ¬(d = c ∧ j ∈ x.slots) → t.group d j = s.group d j)
        ∧ (t.polder x.launch.polder).poisonBlk = (s.polder x.launch.polder).poisonBlk + (if x.poisoned then 1 else 0)
        ∧ ∀ e, s.launchSlot x.launch = some e → tfind s.slots e.1 = some e.2 →
          tfind t.slots e.1 = some { e.2 with retired := e.2.retired + 1 })
    ∧ (x.launch.sram = false → x.rerun = none → x.abort = false → s.drainedBlock c b x = false → exec (.blockRetire c b) s = .next s)
    ∧ (let w := (s.core c).wdogint.toNat
      (w ≠ 0 → x.progress + w ≤ s.clock → Completes (.watchdogExpire c b) s fun t => SameMemory s t
        ∧ t.block c b = some { x with progress := s.clock, idle := x.idle + 1 } ∧ (∀ d j, t.group d j = s.group d j)
        ∧ let entry := entryBytes (watchWords s c b x) x.launch.id x.idx c 0xFF 0xFFFF s.clock
          if x.rerun.isSome then t.polders = s.polders ∧ .runEntry c entry ∈ t.notices
          else (t.polder x.launch.polder).fltCount = (s.polder x.launch.polder).fltCount + 1
            ∧ tfind (t.polder x.launch.polder).flog ((s.polder x.launch.polder).fltCount.toNat % 31) = some entry)
      ∧ ((w = 0 ∨ s.clock < x.progress + w) → exec (.watchdogExpire c b) s = .next s))

/-! ### Walkers -/

/-- R270: `whash` is the walker's multiply–xor–shift hash. -/
def Obligations.WalkerHash : Prop :=
  ∀ d a b : BitVec 5, WalkWrites (.whash d a b) d fun fr =>
    let p := (fr.reg a ^^^ fr.reg b) * 0x8F3A5C27B14E9D6B
    let q := (p ^^^ (p >>> 29)) * 0x8F3A5C27B14E9D6B
    q ^^^ (q >>> 32)

/-- R266, R269, R277: the register instructions of a walker, in 64-bit arithmetic; shifts take their count modulo 64. -/
def Claims.WalkerArithmetic : Prop :=
  ∀ (d a b : BitVec 5) (imm : BitVec 16) (n pos len : BitVec 6),
    let rr (i : Instr) (f : DWord → DWord → DWord) : Prop := WalkWrites i d fun fr => f (fr.reg a) (fr.reg b)
    let ri (i : Instr) (f : DWord → DWord) : Prop := WalkWrites i d fun fr => f (fr.reg a)
    rr (.wadd d a b) (· + ·) ∧ rr (.wsub d a b) (· - ·) ∧ rr (.wand d a b) (· &&& ·) ∧ rr (.wor d a b) (· ||| ·)
    ∧ rr (.wxor d a b) (· ^^^ ·) ∧ rr (.wshl d a b) (fun x y => x <<< (y.toNat % 64))
    ∧ rr (.wshr d a b) (fun x y => x >>> (y.toNat % 64)) ∧ rr (.wmul d a b) (· * ·)
    ∧ rr (.wmulhu d a b) (fun x y => BitVec.ofNat 64 (x.toNat * y.toNat / 2 ^ 64))
    ∧ rr (.wsltu d a b) (fun x y => if x < y then 1 else 0) ∧ rr (.wslt d a b) (fun x y => if x.slt y then 1 else 0)
    ∧ ri (.waddi d a imm) (· + imm.signExtend 64) ∧ ri (.wandi d a imm) (· &&& imm.setWidth 64)
    ∧ ri (.wori d a imm) (· ||| imm.setWidth 64) ∧ ri (.wxori d a imm) (· ^^^ imm.setWidth 64)
    ∧ ri (.wshli d a n) (· <<< n.toNat) ∧ ri (.wshri d a n) (· >>> n.toNat)
    ∧ WalkWrites (.wins d imm) d (fun fr => (fr.reg d <<< 16) + imm.setWidth 64)
    ∧ ri (.wbfx d a pos len) (fun x => BitVec.ofNat 64 (x.toNat / 2 ^ pos.toNat % 2 ^ (len.toNat + 1)))

/-- R269, R274: the branches of a walker, whose offset counts from the branch itself, and its scratch accesses; a taken target
outside the routine ends the walk with WILLEGAL, an address that is misaligned or past the scratch with SCRATCH. -/
def Claims.WalkerBranches : Prop :=
  ∀ (d a b : BitVec 5) (off imm : BitVec 16),
    WalkBranches (.wbeq a b off) off (fun fr => decide (fr.reg a = fr.reg b))
    ∧ WalkBranches (.wbne a b off) off (fun fr => decide (fr.reg a ≠ fr.reg b))
    ∧ WalkBranches (.wbltu a b off) off (fun fr => (fr.reg a).ult (fr.reg b))
    ∧ WalkBranches (.wbgeu a b off) off (fun fr => !(fr.reg a).ult (fr.reg b))
    ∧ WalkBranches (.wblt a b off) off (fun fr => (fr.reg a).slt (fr.reg b))
    ∧ WalkBranches (.wbge a b off) off (fun fr => !(fr.reg a).slt (fr.reg b))
    ∧ ∀ s k w x fr, Walks s k w x fr →
      let p := (fr.reg a + imm.signExtend 64).toNat
      let fails (i : Instr) : Prop := exec i s = .next (s.walkFail k w { x with cycles := x.cycles + 1 } 8)
      (p % 8 = 0 → p ≤ 1016 → ∃ fr' : Frame, exec (.wlds d a imm) s = .next (s.setWalk k w (x.stepped fr'))
        ∧ fr'.pc = fr.pc + 1 ∧ fr'.scratch = fr.scratch ∧ fr'.reg d = (if d = 0 then 0 else mget64 fr.scratch p)
        ∧ ∀ r, r ≠ d → fr'.reg r = fr.reg r)
      ∧ (p % 8 = 0 → p ≤ 1016 → ∃ fr' : Frame, exec (.wsts d a imm) s = .next (s.setWalk k w (x.stepped fr'))
        ∧ fr'.pc = fr.pc + 1 ∧ fr'.regs = fr.regs ∧ mget64 fr'.scratch p = fr.reg d
        ∧ ∀ q, (q < p ∨ p + 8 ≤ q) → mget fr'.scratch q = mget fr.scratch q)
      ∧ (p % 8 ≠ 0 ∨ 1016 < p → fails (.wlds d a imm) ∧ fails (.wsts d a imm))

/-- R266, R269, R274, R277: the walker's instructions but for its hash, its reads and its ends. -/
def Obligations.WalkerCode : Prop := Claims.WalkerArithmetic ∧ Claims.WalkerBranches

/-- R271, R273, R274, R277: a walker's read of its tenant's memory: a hit is sent to its frame, a miss starts a nested walk
that costs no cycle, at most two deep; misalignment, an address past 2^57 and a page that may not be read end the walk. The
data come later and are written to the register; past the time limit the walk ends with TIMELIMIT. (That WALK_TIMELIMIT may end a
walk at any time, in the last clause: log entry 52.) -/
def Obligations.WalkerReads : Prop :=
  ∀ (d a : BitVec 5) (imm : BitVec 16) (s : State) (k w : Nat) (x : Walk) (fr : Frame),
    let va := (fr.reg a + imm.signExtend 64).toNat
    let y := { x with cycles := x.cycles + 1 }
    let hit := (s.die k).tb.find? (·.covers x.polder va)
    (∀ i len, (i = Instr.wld d a imm ∧ len = 8) ∨ (i = Instr.wldw d a imm ∧ len = 4) → Walks s k w x fr →
      (va % len ≠ 0 → exec i s = .next (s.walkFail k w y 9))
      ∧ (va % len = 0 → 2 ^ 57 ≤ va → exec i s = .next (s.walkFail k w y 11))
      ∧ (va % len = 0 → va < 2 ^ 57 →
        (∀ e, hit = some e → e.perm.getLsbD 0 = true → exec i s = .next (s.setWalk k w
          { y with read := some { d := d, len := len, pa := e.frame + (va - e.base) } }))
        ∧ (∀ e, hit = some e → e.perm.getLsbD 0 = false → exec i s = .next (s.walkFail k w y 2))
        ∧ (hit = none → 2 ≤ fr.depth → exec i s = .next (s.walkFail k w y 4))
        ∧ (hit = none → fr.depth < 2 → ∃ f : Frame,
          exec i s = .next (s.setWalk k w { x with frames := f :: x.frames }) ∧ f.pc = 0 ∧ f.va = va
          ∧ f.depth = fr.depth + 1 ∧ f.scratch = [] ∧ f.reg 1 = BitVec.ofNat 64 va
          ∧ f.reg 2 = BitVec.ofNat 64 (x.w2.toNat / 256 * 256 + 27) ∧ f.reg 3 = x.root ∧ f.reg 4 = BitVec.ofNat 64 f.depth
          ∧ ∀ r, r ∉ ([1, 2, 3, 4] : List (BitVec 5)) → f.reg r = 0)))
    ∧ (∀ rd waited, tfind (s.die k).walks w = some x → x.frames.head? = some fr → x.read = some rd →
      let limit := walkLimit s x.polder
      (x.cycles + waited < limit → s.avail k rd.pa = .yes → ∀ bs u, s.readPa rd.pa rd.len = (bs, [], u) →
        ∃ fr' : Frame, exec (.wldDataReturn k w waited) s = .next (u.setWalk k w
          { x with cycles := x.cycles + waited, read := none, frames := fr' :: x.frames.tail })
        ∧ fr'.pc = fr.pc + 1 ∧ fr'.reg rd.d = (if rd.d = 0 then 0 else BitVec.ofNat 64 (ofLe bs))
        ∧ ∀ r, r ≠ rd.d → fr'.reg r = fr.reg r)
      ∧ (limit ≤ x.cycles + waited → exec (.wldDataReturn k w waited) s = .next (s.walkFail k w { x with cycles := limit } 3))
      ∧ exec (.walkTimelimit k w) s = .next (s.walkFail k w
        { x with cycles := max x.cycles (walkLimit s x.polder), read := none } 3))

/-- R20, R263, R265 to R267, R272 to R275, R278, R338: `wmap` checks its page and frame, and installs the entry in the die's
buffer and, at depth 0, in the core's, ending the walk; a nested one goes on with the depth outside. `wnone` and every walk
that ends with a cause free the walker, count in WALKFLT, and fail the accesses that waited. A walk begins with
the head miss of the chosen polder's queue. -/
def Obligations.WalksEnd : Prop :=
  ∀ (a b : BitVec 5) (perm : BitVec 3) (size : BitVec 2) (s : State) (k w : Nat) (x : Walk) (fr : Frame), size ≠ 3 →
    let y := { x with cycles := x.cycles + 1 }
    let sz := if size = 0 then 2 ^ 16 else if size = 1 then 2 ^ 21 else 2 ^ 30
    let base := (fr.reg a).toNat
    let frame := (fr.reg b).toNat
    let inPage := base % sz = 0 ∧ frame % sz = 0 ∧ base ≤ fr.va ∧ fr.va < base + sz ∧ base + sz ≤ 2 ^ 57 ∧ frame + sz ≤ 2 ^ 52
    let ok := allowance (s.polder x.polder) frame sz perm
    let e : TEntry := { polder := x.polder, base := base, size := sz, frame := frame, perm := perm }
    (Walks s k w x fr →
      (¬inPage → exec (.wmap a b perm size) s = .next (s.walkFail k w y 6))
      ∧ (inPage → ok = false → exec (.wmap a b perm size) s = .next (s.walkFail k w y 5))
      ∧ (inPage → ok = true → x.stale = false → fr.depth = 0 → Completes (.wmap a b perm size) s fun t => t.mem = s.mem
        ∧ (NoParts s → t.sp = s.sp) ∧ e ∈ (t.die k).tb ∧ tfind (t.die k).walks w = none
        ∧ ∀ z, tfind s.accs x.acc = some z → e ∈ (t.core z.core).tb)
      ∧ (inPage → ok = true → x.stale = false → fr.depth ≠ 0 → Completes (.wmap a b perm size) s fun t => SameMemory s t
        ∧ e ∈ (t.die k).tb ∧ tfind (t.die k).walks w = some { y with frames := x.frames.tail })
      ∧ exec .wnone s = .next (s.walkFail k w y (if fr.depth = 0 then 1 else 10)))
    ∧ (∀ z cause, let t := s.walkFail k w z cause
      tfind (t.die k).walks w = none ∧ (t.polder z.polder).walkFlt = (s.polder z.polder).walkFlt + 1 ∧ t.mem = s.mem
      ∧ ∀ i ∈ s.waitersOf k z, ∀ c, tfind s.accs i = some c → c.cmd ≠ 0 → (s.polder c.polder).policy 0x10 ≠ .replay →
        ∃ c', tfind t.accs i = some c' ∧ c'.st = .failed 0x10 cause (z.w2.setWidth 32))
    ∧ (k < 4 → w < 16 → tfind (s.die k).walks w = none → (s.die k).waiting ≠ [] →
      let p := (drr (fun q => (s.polder q).walkWt.toNat) (s.die k).waiting drrFuel (s.die k).ptr (s.die k).deficit).1
      ∀ i r z rt, tget [] (s.die k).missQ p = i :: r → tfind s.accs i = some z →
        (s.die k).tb.find? (·.covers p z.va) = none → tfind (s.die k).routines p = some rt →
        Completes (.walkStart k w) s fun t => SameMemory s t ∧ tget [] (t.die k).missQ p = r ∧ (t.die k).ptr = p
          ∧ (t.polder p).walks = (s.polder p).walks + 1
          ∧ ∃ v f, tfind (t.die k).walks w = some v ∧ v.polder = p ∧ v.acc = i ∧ v.routine = rt.1 ∧ v.root = rt.2
            ∧ v.cycles = 0 ∧ v.stale = false ∧ v.read = none ∧ v.frames = [f] ∧ f.pc = 0 ∧ f.depth = 0 ∧ f.va = z.va
            ∧ f.scratch = [] ∧ f.reg 1 = BitVec.ofNat 64 z.va ∧ f.reg 2 = BitVec.ofNat 64 z.w2 ∧ f.reg 3 = rt.2 ∧ f.reg 4 = 0
            ∧ ∀ j, j ∉ ([1, 2, 3] : List (BitVec 5)) → f.reg j = 0)

/-! ### Bank runs -/

/-- R199, R201 to R205: the bank instructions that touch nothing but their item: constants, counts, branches, moves, lane
arithmetic with one rounding, and results emitted to a slot. -/
def Claims.BankInstructions : Prop :=
  ∀ (k j : BitVec 3) (imm off : BitVec 16) (n m : BitVec 2) (em : EMode) (ic : BitVec 8),
    let nextOf (x : BankItem) : Int := x.pc + 1
    let keep (x : BankItem) (q : BitVec 3) : Word := x.b q
    let same (x : BankItem) (q : BitVec 2) (l : Nat) : Word := x.lane q l
    let setB (f : BankItem → Word) (x : BankItem) (q : BitVec 3) : Word := if q = k then f x else x.b q
    let setL (f : BankItem → Nat → Word) (x : BankItem) (q : BitVec 2) (l : Nat) : Word := if q = n then f x l else x.lane q l
    let lanesOp (i : Instr) (f : BankItem → Nat → Word) : Prop := ItemDoes i keep (setL f) nextOf
    ItemDoes .bnop keep same nextOf
    ∧ ItemDoes (.bldi k imm) (setB fun _ => imm.setWidth 32) same nextOf
    ∧ ItemDoes (.baddi k j imm) (setB fun x => x.b j + imm.signExtend 32) same nextOf
    ∧ ItemDoes (.bloop k off) (setB fun x => x.b k - 1) same (fun x => if x.b k - 1 = 0 then x.pc + 1 else x.pc + off.toInt)
    ∧ ItemDoes (.bbeq k j off) keep same (fun x => if x.b k = x.b j then x.pc + off.toInt else x.pc + 1)
    ∧ lanesOp (.bzero n) (fun _ _ => 0) ∧ lanesOp (.bmov n m) (fun x l => x.lane m l)
    ∧ lanesOp (.baddv n m) (fun x l => (asWord (fp32.addV .rne (fpv (x.lane n l)) (fpv (x.lane m l)))).1)
    ∧ lanesOp (.bmaxv n m) (fun x l => (asWord (fp32.minmax true (x.lane n l).toNat (x.lane m l).toNat)).1)
    ∧ lanesOp (.bred n) (fun x l => if l = 0 then treeSum ((List.range 16).map (x.lane n)) else 0)
    ∧ lanesOp (.bscl n) (fun x l => (asWord (fp32.mul .rne (fpv (x.lane n l)) (fpv (x.b 7)))).1)
    ∧ lanesOp (.brelu n) (fun x l =>
      if (fpv (x.lane n l)).isNan then 0x7FC00000 else if (x.lane n l).msb then 0 else x.lane n l)
    ∧ ∀ s run pc i r x, ItemRuns s run pc i r x →
      let t (y : BankItem) : Host.Outcome State Fault Refusal :=
        .next { s with runs := tput s.runs run { r with items := tput r.items (itemKey pc i) y } }
      (exec .bend s = t { x with count := x.count + 1, ended := true })
      ∧ ((x.b k).toNat < r.oslots → ∃ y, exec (.bemit k n em ic) s = t y ∧ x.wentTo y r.plen (x.pc + 1)
        ∧ y.emits = x.emits ++ [((x.b k).toNat, em, (List.range 16).map (x.lane n))] ∧ y.acc = x.acc
        ∧ ∀ q, y.b q = if q = k then x.b k + ic.setWidth 32 else x.b q)
      ∧ (r.oslots ≤ (x.b k).toNat → exec (.bemit k n em ic) s = t { x with count := x.count + 1, ended := true, fault := 0x14 })

/-- R81, R195, R198, R204, R209: a MAC adds to each lane the exact product of its weight in the item row and its input, rounded
once, then moves its columns and indices on; a column or index out of range is a program fault, an uncorrectable block ends
the item with DATAERR. No byte that a coherent read finds changes. -/
def Claims.BankMacs : Prop :=
  ∀ (k j : BitVec 3) (n : BitVec 2) (f : BFmt) (ij ic : BitVec 8) (s : State) (run pc i : Nat) (r : BankRun) (x : BankItem),
    ItemRuns s run pc i r x → x.rowPa % 1024 = 0 →
    let col := (x.b k).toNat
    let colOk := if f = .bf16 then col % 2 = 0 ∧ col ≤ 62 else col ≤ 63
    let blk := x.rowPa / 64 + col / 4
    let bytes := s.arrayBytes blk
    let weight (l : Nat) : FVal := match f with
      | .bf16 => bf16.dec (bfield bytes (16 * (col % 4) + 2 * l) 2)
      | .e4m3 => e4m3.dec (bfield bytes (16 * (col % 4) + l) 1)
      | .e5m2 => e5m2.dec (bfield bytes (16 * (col % 4) + l) 1)
    let vec := ((r.load x.stack).map (·.vec)).getD []
    let input (l : Nat) : Word := if (x.b j).toNat + l < r.vslice then vec.getD (pc * r.vslice + ((x.b j).toNat + l)) 0 else 0
    let does (i' : Instr) (v : Nat → Word) (regs : BitVec 3 → Word) : Prop := Completes i' s fun t => SameReads s t
      ∧ t.sp = s.sp ∧ t.cores = s.cores ∧ ∃ y, t.runs = tput s.runs run { r with items := tput r.items (itemKey pc i) y }
        ∧ x.wentTo y r.plen (x.pc + 1) ∧ y.emits = x.emits ∧ (∀ q, y.b q = regs q)
        ∧ ∀ q, ∀ l < 16, y.lane q l = if q = n then macLane (x.lane n l) (weight l) (fpv (v l)) else x.lane q l
    let ends (i' : Instr) (code : Nat) : Prop := Completes i' s fun t => SameReads s t ∧ t.cores = s.cores
      ∧ t.runs = tput s.runs run { r with items := tput r.items (itemKey pc i) { x with
        count := x.count + 1, ended := true, fault := code } }
    let bk := x.b k + ic.setWidth 32
    (colOk → (x.b j).toNat + 15 ≤ 1023 → s.lost blk = false →
      does (.bmac k j n f ij ic) input fun q =>
        if q = j then (if j = k then bk + ij.setWidth 32 else x.b j + ij.setWidth 32) else if q = k then bk else x.b q)
    ∧ (colOk → s.lost blk = false → does (.bmacs k n f ic) (fun _ => x.b 7) fun q => if q = k then bk else x.b q)
    ∧ (¬(colOk ∧ (x.b j).toNat + 15 ≤ 1023) → ends (.bmac k j n f ij ic) 0x14)
    ∧ (¬colOk → ends (.bmacs k n f ic) 0x14)
    ∧ (colOk → s.lost blk = true → ends (.bmacs k n f ic) 0x12 ∧ ((x.b j).toNat + 15 ≤ 1023 → ends (.bmac k j n f ij ic) 0x12))

/-- R81, R195, R198, R199, R201 to R205, R209: the bank's instructions. (The end of an item whose block is lost: log entry 38.) -/
def Obligations.BankCode : Prop := Claims.BankInstructions ∧ Claims.BankMacs

/-- R145, R194, R195, R197 to R201, R205 to R207, R209: a run starts on a stack behind the earlier runs of its core, once no other run
holds its pseudo-channels there; it reads its program, vector and scalars from scratchpad then, and the program replaces the
stores of those pseudo-channels. (No word of the core's die is on a die link: R235, log entry 23.) An item starts with its index, slab, pseudo-channel and scalar in b0, b1, b2 and b7, and
activates its row; the run completes with its results written to the scratchpad, 64 bytes for each slot. (Faults of an item and what
its pseudo-channel still contributes: log entries 11 and 38.) -/
def Obligations.BankRuns : Prop :=
  ∀ (s : State) (run : Nat) (r : BankRun), tfind s.runs run = some r →
    (∀ st x, tfind s.cmds r.cmd = some x → s.slabsKnown r = true → r.load st = none → s.itemsOn r st ≠ [] →
      s.runBefore run st x.org.core = false → s.avail (s.runDie r) (st * 2 ^ 37) = .yes →
      (∀ e ∈ r.operands, s.localAvail x.org .sp e.1 e.2 = .yes) → NoWords s x.org.core →
      (∀ e ∈ s.runs, e.1 ≠ run → ∀ c, r.pcmask.getLsbD c = true → s.holdsPc e.2 st c = false) →
      let spad (a n : Nat) : List Byte := mreads s.sp (s.spBase x.org.polder + a) n
      let w := r.vslice * if r.half then 2 else 4
      Completes (.bankRunPacket run st) s fun t => SameMemory s t ∧ ∃ l : BankLoad,
        tfind t.runs run = some { r with loads := tput r.loads st l }
        ∧ l.prog = wordsOf (spad r.progAddr (4 * r.plen)) 
        ∧ (∀ c < 64, r.pcmask.getLsbD c = true → ∀ j < r.vslice,
          l.vec.getD (c * r.vslice + j) 0 = (vecWords r.half r.vslice (spad (r.vecAddr + c * w) w)).getD j 0)
        ∧ l.scal = (if r.scalAddr = noAddr then [] else wordsOf (spad r.scalAddr (4 * r.slabs.length)))
        ∧ l.bad = loadFault r (s.polder r.polder).spSize l.prog
        ∧ ∀ c < 64, tfind (t.hbm st).stores c = if r.pcmask.getLsbD c then some (r.polder, l.prog) else tfind (s.hbm st).stores c)
    ∧ (∀ pc i st o l, s.slabAt r i = some (st, o) → r.load st = some l → l.bad = none → r.pcmask.getLsbD pc = true →
      s.mayStart r st pc i = true → s.avail (stackDie st) (st * 2 ^ 37) = .yes →
      Completes (.bankItemStart run pc i) s fun t => SameMemory s t ∧ t.cores = s.cores
        ∧ rowKeyAt (o + 1024 * pc) ∈ (t.hbm st).active
        ∧ ∃ x, t.runs = tput s.runs run { r with items := tput r.items (itemKey pc i) x }
          ∧ x.pc = r.entry ∧ x.count = 0 ∧ x.acc = [] ∧ x.emits = [] ∧ x.ended = false ∧ x.fault = 0
          ∧ x.rowPa = st * 2 ^ 37 + o + 1024 * pc ∧ x.b 0 = BitVec.ofNat 32 i ∧ x.b 1 = BitVec.ofNat 32 (r.slabs.getD i 0)
          ∧ x.b 2 = BitVec.ofNat 32 pc ∧ x.b 7 = l.scal.getD i 0 ∧ ∀ q ∈ ([3, 4, 5, 6] : List (BitVec 3)), x.b q = 0)
    ∧ (∀ x, tfind s.cmds r.cmd = some x → s.runOver r = true → s.lwatches = [] → NoWords s x.org.core →
      (∀ e ∈ r.results, s.localAvail x.org .sp e.1 64 = .yes) →
      Completes (.bankRunComplete run) s fun t => Finished s t r.cmd x (fun _ _ => none) ∧ (∀ c, (t.core c).sh = (s.core c).sh)
        ∧ tfind t.runs run = none ∧ ∀ a, mget t.sp a = mget (r.results.foldl
          (fun m e => mwrites m (s.spBase x.org.polder + e.1) (bytesOf e.2)) s.sp) a)

/-! ### Packets at their coherence points -/

/-- R194, R195, R232, R323 to R325, R330, R332: a packet that arrives is served: a read brings the coherent bytes and notes DATAERR
at its first byte in an uncorrectable block; a write is accepted, once its queue has room, and its bytes are what every later read
finds, but for those of a TAIL that takes no write any more; a packet to a stack or port that cannot be reached fails with UNAVAIL; a record that a copy has read is checked and its lines planned. -/
def Obligations.ReadsAndWrites : Prop :=
  ∀ (s : State) (n : Nat) (a : Access) (pa : Nat),
    (a.op = .read → Arrives s n a pa → isRegs s pa = false → ∀ x, tfind s.cmds a.cmd = some x → x.phase = .data →
      (∀ sl v w f k, x.op ≠ .packet sl v w f k) → ∀ bs bad u, s.readPa pa a.len = (bs, bad, u) →
      Completes (.readPacket n) s fun t => SameBytes s t ∧ Served t n a bs bad
        ∧ (bad = [] → ∀ k < a.len, bs.getD k 0 = s.coherent (pa + k))
        ∧ ∀ k r, bad = k :: r → NotedFault t a.cmd a.lane 0x12 (BitVec.ofNat 64 (a.va + k)))
    ∧ (a.op = .read → Arrives s n a pa → isRegs s pa = false → ∀ x st sp va first cnt loc, tfind s.cmds a.cmd = some x →
      x.op = .cpy st sp va first cnt loc → x.phase = .record → ∀ bs u, s.readPa pa a.len = (bs, [], u) →
      sealGood (s.polder x.org.polder).sealKey bs = true → layoutBad bs = none → first + cnt ≤ lineCount bs → cnt = 0 ∨
        loc + cnt * lineLen bs ≤ (match sp with
          | .sh => if x.org.core ≥ 32 then 262144 else ((s.block x.org.core x.org.bslot).map (·.shSize)).getD 0
          | .sp => (s.polder x.org.polder).spSize) →
      Completes (.readPacket n) s fun t => SameBytes s t ∧ ∃ y, tfind t.cmds a.cmd = some y ∧ y.phase = .data ∧ y.recB = bs
        ∧ y.accs = [] ∧ y.faults = x.faults
        ∧ y.plan = (List.range cnt).flatMap fun j => cut (lineAddr bs (first + j)) (lineLen bs) (j * lineLen bs))
    ∧ (∀ data, a.op = .write data → Arrives s n a pa → isRegs s pa = false → s.sound pa data.length →
      (s.backPressed pa a.len false = false →
        Completes (.writePacket n) s fun t => SameMemory s t ∧ Served t n a [] [] ∧ AcceptedOpen s t pa data)
      ∧ (s.backPressed pa a.len false = true → exec (.writePacket n) s = .next s))
    ∧ (∀ i ord, (a.op = .read ∧ i = Instr.readPacket n) ∨ (∃ data, a.op = .write data ∧ i = .writePacket n) →
      tfind s.accs n = some a → a.cmd ≠ 0 → a.st = .sent pa ord → s.inTurn a = true → s.avail (dieOf a.core) pa = .no →
      Completes i s fun t => SameMemory s t
        ∧ ∃ y, tfind t.accs n = some y ∧ y.st = .failed 0x13 0 (unavailAux s pa))

/-- R163, R164, R194, R291, R325: a `matom` is applied whole at its coherence point and returns the old value, in an
uncorrectable block not at all; on a register it reads with `or` of 0 and writes with `exch`; a reduction combines
its element with what memory holds. -/
def Obligations.AtomicPackets : Prop :=
  ∀ (s : State) (n : Nat) (a : Access) (pa : Nat), Arrives s n a pa →
    (∀ op w64 b c, a.op = .atomic op w64 b c → isRegs s pa = false →
      let k := if w64 then 8 else 4
      let old := (List.range k).map fun i => s.coherent (pa + i)
      pa % k = 0 → s.backPressed pa 1 false = false →
      (s.sound pa k → Completes (.atomicPacket n) s fun t => SameLocal s t ∧ Served t n a old []
        ∧ AcceptedOpen s t pa (toLe k (atomVal op (8 * k) (ofLe old) b.toNat c.toNat)))
      ∧ ((s.view (pa / 64)).2 = true → Completes (.atomicPacket n) s fun t => SameMemory s t ∧ t.queue = s.queue
        ∧ NotedFault t a.cmd a.lane 0x12 (BitVec.ofNat 64 a.va)))
    ∧ (∀ b c off v, placeOf s pa = .ctl off → ctlRead s off = some v →
      (a.op = .atomic .or false 0 c → Completes (.atomicPacket n) s fun t => SameMemory s t
        ∧ t = { s with accs := t.accs } ∧ Served t n a (toLe 4 v.toNat) [])
      ∧ (a.op = .atomic .exch false b c → exec (.atomicPacket n) s
        = .next ((ctlWrite s off (b.setWidth 32)).serve n (toLe 4 v.toNat) [])))
    ∧ (∀ b c p off, placeOf s pa = .page p off → a.op = .atomic .exch false b c → exec (.atomicPacket n) s
      = .next ((pageWrite s p off (b.setWidth 32)).serve n (toLe 4 (pageRead s p off).toNat) []))
    ∧ (∀ op f v, a.op = .reduce op f v → isRegs s pa = false →
      let k := if f = .bf16 then 2 else 4
      pa % k = 0 → s.sound pa k → s.backPressed pa 1 true = false →
      Completes (.reducePacket n) s fun t => SameMemory s t ∧ Served t n a [] []
        ∧ if s.shutByte pa then SameReads s t
          else Accepted s t pa (toLe k (elemVal op f (ofLe ((List.range k).map fun i => s.coherent (pa + i)))
            (v.toNat % 256 ^ k))))

/-- R195, R232, R236: the head packet of a unit's queue is applied to the array, and a remote write is acknowledged, without any
change of what a coherent read finds. -/
def Claims.QueuesApply : Prop :=
  ∀ (s : State) (q : QPacket), (s.queue.map (·.seq)).Nodup → s.blockHead q = true →
    let applied (t : State) : Prop := t.sp = s.sp ∧ (∀ c, (t.core c).sh = (s.core c).sh)
      ∧ (t.queue.map (·.seq)) = ((s.queue.filter fun p => decide (p.seq ≠ q.seq)).map (·.seq)) ∧ (∀ b, t.view b = s.view b)
      ∧ ∀ b, b ≠ q.pa / 64 → ∀ i < 64, mget t.mem (64 * b + i) = mget s.mem (64 * b + i)
    (s.queue.find? (fun p => decide (p.unit = q.unit)) = some q → q.unit ≠ .remote →
      Completes (.queueApply q.unit) s applied)
    ∧ (q ∈ s.queue → q.unit = .remote → Completes (.remoteWriteAck q.seq) s applied)

/-- R207, R327, R328: a precharge of an active row on which no item works counts an activation of it, up to 2,047; from 1,024 on, or
with bad parity, the neighbours are to be refreshed, which resets the counter and counts a bad parity in ROWPAR. -/
def Claims.RowCounters : Prop :=
  ∀ (s : State) (st pc bank row : Nat), pc < 64 → bank < 48 →
    let x := s.hbm st
    let k := rowKey pc bank row
    let n := min 2047 (tget 0 x.rowCtr k + 1)
    (k ∈ x.active → s.rowInUse st k = false →
      Completes (.precharge st pc bank row) s fun t => SameMemory s t ∧ tget 0 (t.hbm st).rowCtr k = n ∧ k ∉ (t.hbm st).active
      ∧ (∀ j, j ≠ k → tget 0 (t.hbm st).rowCtr j = tget 0 x.rowCtr j)
      ∧ (k ∈ (t.hbm st).refresh ↔ k ∈ x.refresh ∨ 1024 ≤ n ∨ k ∈ x.badPar))
    ∧ (k ∉ x.active ∨ s.rowInUse st k = true → exec (.precharge st pc bank row) s = .next s)
    ∧ (k ∈ x.refresh → Completes (.neighbourRefresh st pc bank row) s fun t => SameMemory s t
      ∧ tget 0 (t.hbm st).rowCtr k = 0 ∧ k ∉ (t.hbm st).refresh ∧ k ∉ (t.hbm st).badPar
      ∧ (t.hbm st).rowpar = (if k ∈ x.badPar then min 0xFF (x.rowpar + 1) else x.rowpar))
    ∧ (k ∉ x.refresh → exec (.neighbourRefresh st pc bank row) s = .next s)
    ∧ ∀ pc' bank' row', pc' < 64 → bank' < 48 → rowKey pc' bank' row' = k → pc' = pc ∧ bank' = bank ∧ row' = row

/-- R195, R232, R236, R327, R328: accepted packets reach the array; rows are counted and their neighbours refreshed. -/
def Obligations.MemoryArray : Prop := Claims.QueuesApply ∧ Claims.RowCounters

/-! ### User queues -/

/-- R238, R246, R342: TAIL is read afresh as a packet is to begin: a READY slot whose TAIL has come back to HEAD has no posted packet and
becomes IDLE; one with more posted packets than RINGLEN stops, with QSTAT.FAILED, and the service is told.
(What a reeve does where TAIL has changed since the test: log entry 40.) -/
def Claims.TailMoved : Prop :=
  ∀ (s : State) (sl c : Nat) (h : HwSlot) (desc : List Byte), AtSlot s sl c qReady h desc → s.lwatches = [] →
    let n := dPosted desc (dHead desc)
    ∀ i, i ∈ ([.launch sl c, .resume sl c, .predicate sl c, .waitPacket sl c, .signal sl c, .copy sl c, .nopPacket sl c] :
        List Instr) →
      let idle (t : State) : Prop := t.cores = s.cores ∧ t.mem = s.mem ∧ t.sstate sl = qIdle ∧ t.board 0 = s.board 0 + 1
        ∧ t.board 4 = s.board 4 + 1
      (n = 0 → Completes i s fun t => idle t ∧ t.notices = s.notices ∧ SameReads s t)
      ∧ (dLen desc < n → Completes i s fun t => idle t ∧ .queueStopped h.polder h.queue ∈ t.notices
        ∧ ∀ pa, s.descPaOf c h = some pa → s.takes64 pa → (t.coherent (pa + 24)).getLsbD 1 = true)

/-- R239, R240, R242 to R246, R342: a NOP completes; a PREDICATE moves HEAD past the arm not taken; a SIGNAL writes its word, or adds
to it, once everything before it is performed at its scope; a packet of a reserved kind stops its queue: QSTAT.FAILED is
set and the service is told. (Where nothing more is posted, and the word lies outside the dispatch board. Which packets are bad, and
in what order a reeve makes its accesses: log entry 40.) -/
def Claims.PlainPackets : Prop :=
  ∀ (s : State) (sl c : Nat) (h : HwSlot) (desc r : List Byte), AtHead s sl c qReady h desc r → s.lwatches = [] →
    let kind := bfield r 0 1
    let head := dHead desc
    let next := (h.after head).1
    let w64 := (bfield r 4 1).testBit 0
    let zero (named : List (Nat × Nat)) : Prop := restZero r named = true
    (kind = 0 → zero [(0, 0)] → dPosted desc next = 0 → Completes (.nopPacket sl c) s fun t => HeadGone s s t sl c h next)
    ∧ (let yes := bfield r 2 1
      let no := bfield r 3 1
      kind = 3 → zero [(0, 4), (8, 11), (16, 23)] → bfield r 1 1 ≤ 5 → yes ≤ 63 → no ≤ 63 → bfield r 4 1 ≤ 1 →
      wordOk s h.polder r w64 = true → wordAvail s c h.polder r = .yes → yes + no + 1 ≤ dPosted desc head → h.skip = none →
      (∀ i < yes + no, let va := bfield desc 0 8 + 64 * ((head + 1 + i) % max 1 (dLen desc))
        Ready s c va 64 false ∧ armBad (s.peek c va 64) = false) →
      (wordHolds s h.polder r w64 = false → dPosted desc ((head + 1 + yes) % 2 ^ 32) = 0 →
        Completes (.predicate sl c) s fun t => HeadGone s s t sl c h ((head + 1 + yes) % 2 ^ 32))
      ∧ (wordHolds s h.polder r w64 = true → yes = 0 → dPosted desc ((head + 1 + no) % 2 ^ 32) = 0 →
        Completes (.predicate sl c) s fun t => HeadGone s s t sl c h ((head + 1 + no) % 2 ^ 32)))
    ∧ (let k := if (bfield r 1 1).testBit 1 then 8 else 4
      let a := s.spBase h.polder + bfield r 8 4
      let v := bfield r 16 8
      kind = 5 → zero [(0, 2), (8, 11), (16, 23)] → bfield r 1 1 ≤ 3 → 2 ≤ bfield r 2 1 → bfield r 2 1 ≤ 4 →
      wordOk s h.polder r ((bfield r 1 1).testBit 1) = true → s.relReady 0 (s.reeveCmds h.polder) (signalScope r) = true →
      wordAvail s c h.polder r = .yes → (a + k ≤ (s.polder 0).spBase ∨ (s.polder 0).spBase + 0x3000 ≤ a) → dPosted desc next = 0 →
      Completes (.signal sl c) s fun t => ∃ u : State, HeadGone s u t sl c h next ∧ u.cores = s.cores
        ∧ mreads t.sp a k = toLe k (if (bfield r 1 1).testBit 0 then ofLe (mreads s.sp a k) + v else v)
        ∧ ∀ b, (b < a ∨ a + k ≤ b) → mget u.sp b = mget s.sp b)
    ∧ (6 < kind → ∀ i, i ∈ ([.launch sl c, .resume sl c, .predicate sl c, .waitPacket sl c, .signal sl c, .copy sl c,
        .nopPacket sl c] : List Instr) →
      Completes i s fun t => t.cores = s.cores ∧ t.mem = s.mem ∧ t.sstate sl = qIdle ∧ t.board 4 = s.board 4 + 1
        ∧ .queueStopped h.polder h.queue ∈ t.notices
        ∧ ∀ pa, s.descPaOf c h = some pa → s.takes64 pa → (t.coherent (pa + 24)).getLsbD 1 = true)

/-- R238 to R240, R242 to R246, R342: the packets that a reeve carries out at once, and what a changed TAIL leaves of them. -/
def Obligations.QueuePackets : Prop := Claims.PlainPackets ∧ Claims.TailMoved

/-- R19, R228, R233, R239 to R247, R252, R284, R347: a LAUNCH is admitted, its slot ACTIVE with block index 0 and the features locked,
and completes when its grid has retired and its effects are performed; a RESUME takes its images as the slot's next unit; a COPY
issues its command and reads the source record; a WAIT completes where its compare holds, as an acquire of the polder's lines, else
its slot is WAITING and the word is watched; its timeout ends it with QSTAT.WAITTO. (Which packets are bad, and how a word that no link
reaches stops its queue: log entry 40.) -/
def Obligations.QueueWork : Prop :=
  ∀ (s : State) (sl c : Nat) (h : HwSlot) (desc r : List Byte), s.lwatches = [] →
    let kind := bfield r 0 1
    let x := s.polder h.polder
    let next := (h.after (dHead desc)).1
    let begun (t : State) : Prop := t.sstate sl = qActive ∧ t.board 0 = s.board 0 + 1 ∧ t.board 4 = s.board 4 + 1
      ∧ t.mem = s.mem
    let locked (t : State) : Prop := (t.polder h.polder).locked = true
    let away (a k : Nat) : Prop := a + k ≤ (s.polder 0).spBase ∨ (s.polder 0).spBase + 0x3000 ≤ a
    (let va := bfield r 32 8
      let n := bfield r 40 2
      let l (arg : List Byte) : Launch := launchOfPacket h.polder h.queue (x.launches + 1) (dMaxPrio desc) r arg
      AtHead s sl c qReady h desc r → kind = 1 → launchBad x (l []) r = false → Ready s c va n false →
      Completes (.launch sl c) s fun t => begun t ∧ locked t ∧ t.cores = s.cores ∧ (t.polder h.polder).launches = x.launches + 1
        ∧ t.board (slotWord sl 3) = 0
        ∧ ∃ h', tfind t.slots sl = some h' ∧ h'.launch = some (l (s.peek c va n)) ∧ h'.retired = 0 ∧ h'.images = h.images)
    ∧ (∀ l, AtHead s sl c qActive h desc r → kind = 1 → h.launch = some l → gridOf l ≤ h.retired → h.images = [] →
      s.effectsDone l.polder l.id = true → dPosted desc next = 0 → Completes (.launch sl c) s fun t => HeadGone s s t sl c h next)
    ∧ (let va := bfield r 8 8
      let n := bfield r 16 1
      let vas := (List.range n).map fun i => bfield (s.peek c va (8 * n)) (8 * i) 8
      AtHead s sl c qReady h desc r → kind = 2 → restZero r [(0, 0), (8, 16)] = true → 1 ≤ n → n ≤ 8 → Ready s c va (8 * n) false →
      (∀ v ∈ vas, Ready s c v 128 false ∧ (let m := bfield (s.peek c v 128) 36 4
        192 ≤ m ∧ m ≤ 2 ^ 26 ∧ Ready s c v m false ∧ s.badImage h.polder (s.peek c v m) = false)) →
      Completes (.resume sl c) s fun t => begun t ∧ locked t ∧ t.cores = s.cores ∧ ∃ h', tfind t.slots sl = some h'
        ∧ h'.images = [vas] ∧ h'.ids = vas.map fun v => bfield (s.peek c v (bfield (s.peek c v 128) 36 4)) 40 8)
    ∧ (AtHead s sl c qActive h desc r → kind = 2 → h.images = [] → s.noneResident h.polder h.queue = true →
      (∀ n ∈ h.ids, s.effectsDone h.polder n = true) → dPosted desc next = 0 →
      Completes (.resume sl c) s fun t => HeadGone s s t sl c h next)
    ∧ (AtHead s sl c qReady h desc r → kind = 6 → restZero r [(0, 0), (8, 31)] = true → bfield r 8 8 % 64 = 0 →
      bfield r 16 8 % 64 = 0 → Completes (.copy sl c) s fun t => begun t
        ∧ SentAccess t s.newId.1 0 .read (bfield r 8 8) 64
        ∧ (∃ y, tfind t.cmds s.newId.1 = some y ∧ y.org.polder = h.polder ∧ y.org.core = c
          ∧ y.op = .packet sl (bfield r 8 8) (bfield r 16 8) (bfield r 24 4) (bfield r 28 4) ∧ y.phase = .record)
        ∧ ∃ h', tfind t.slots sl = some h' ∧ h'.copyCmd = some s.newId.1)
    ∧ (let w64 := (bfield r 4 1).testBit 0
      let word := s.spBase h.polder + bfield r 8 4 / 4 * 4
      AtHead s sl c qReady h desc r → kind = 4 → waitBad s h.polder r = false → (bfield r 4 1).testBit 1 = false →
      wordAvail s c h.polder r = .yes → away word 8 → h.deadline = none →
      (wordHolds s h.polder r w64 = true → dPosted desc next = 0 → Completes (.waitPacket sl c) s fun t =>
        ∃ u : State, HeadGone s u t sl c h next ∧ u.cores = (s.acquireAll h.polder).cores ∧ u.sp = s.sp
        ∧ ∀ pa, s.descPaOf c h = some pa → s.takes64 pa → (t.coherent (pa + 24)).getLsbD 0 = false)
      ∧ (wordHolds s h.polder r w64 = false → Completes (.waitPacket sl c) s fun t => t.sstate sl = qWaiting
        ∧ t.board 4 = s.board 4 + 1 ∧ t.cores = s.cores ∧ t.mem = s.mem
        ∧ ({ polder := h.polder, queue := h.queue, addr := word } : LWatch) ∈ t.lwatches
        ∧ (w64 = true → ({ polder := h.polder, queue := h.queue, addr := word + 4 } : LWatch) ∈ t.lwatches)
        ∧ ∃ h', tfind t.slots sl = some h'
          ∧ h'.deadline = if bfield r 24 4 = 0 then none else some (s.clock + 1024 * bfield r 24 4)))
    ∧ (∀ q d, tfind s.slots sl = some h → sl < 256 → h.dead = false → h.deadline = some d → d ≤ s.clock → s.sstate sl = qWaiting →
      s.board 0 = s.board 4 → tfind x.queues h.queue = some q → dFailed desc = false → (∃ k < 32, (s.core k).quar = false) →
      (∀ k < 32, Ready s k h.descVa 64 true ∧ Ready s k h.descVa 64 false ∧ s.peek k h.descVa 64 = desc
        ∧ (let va := bfield desc 0 8 + 64 * (dHead desc % max 1 (dLen desc))
          Ready s k va 64 false ∧ s.peek k va 64 = r)) →
      waitHolds s h r = false → dPosted desc next = 0 →
      (bfield r 4 1).testBit 1 = true
        ∨ away (s.spBase h.polder + bfield r 8 4) 8 ∧ (∀ k < 32, wordAvail s k h.polder r = .yes) →
      Completes (.waitPacketTimeout sl) s fun t => t.sstate sl = qIdle ∧ t.cores = s.cores
        ∧ (s.takes64 q.descPa → (t.coherent (q.descPa + 24)).getLsbD 0 = true
          ∧ ∀ i < 4, t.coherent (q.descPa + 12 + i) = (toLe 4 next).getD i 0))

/-- R233, R239, R242, R247, R290, R342, R347: NOTIFY and the arrival of a watch report set NOTE.PENDING of a queue and ring the doorbell
of its slot; an unmapped queue joins the ready list; for a stopped queue NOTE is all that changes; the report is kept under its
watch's handle; a polder that closes ignores NOTIFY. (A descriptor that takes no packets keeps its NOTE.) -/
def Claims.Notifications : Prop :=
  ∀ (s : State) (p q k : Nat) (v : DWord) (x : Queue), tfind (s.polder p).queues q = some x →
    let rung (t : State) : Prop := t.mem = s.mem ∧ t.cores = s.cores
      ∧ (s.takes64 x.descPa → t.coherent (x.descPa + 20) = 1
        ∧ ∀ a, (a < x.descPa + 20 ∨ x.descPa + 24 ≤ a) → t.coherent a = s.coherent a)
      ∧ (s.queueFailed x = true → t.sp = s.sp ∧ t.ready = s.ready ∧ t.notices = s.notices)
      ∧ (s.queueFailed x = false → ∀ sl, s.slotOf p q = some sl → (t.board (0xC0 + 4 * (sl / 32))).getLsbD (sl % 32) = true
        ∧ ∀ a, ¬(let d := (s.polder 0).spBase + 0xC0 + 4 * (sl / 32); d ≤ a ∧ a < d + 4) → mget t.sp a = mget s.sp a)
      ∧ (s.queueFailed x = false → s.slotOf p q = none → t.sp = s.sp ∧ (p, q) ∈ t.ready ∧ (p, q) ∉ t.idle ∧ .doorbell p q ∈ t.notices)
    ((s.polder p).closing = none → Completes (.notifyWrite p q) s rung)
    ∧ (∀ d, (s.polder p).closing = some d → exec (.notifyWrite p q) s = .next s)
    ∧ Completes (.watchReportArrival p q ⟨k, v⟩) s fun t => rung t
      ∧ ∃ y, tfind (t.polder p).queues q = some y ∧ tfind y.reports k = some v ∧ y.descPa = x.descPa
        ∧ ∀ j, j ≠ k → tfind y.reports j = tfind x.reports j

/-- R233, R287, R288, R290, R298, R329: a watch takes the first free entry and reports its word once, with its handle, and waits for a
link that is held back; UNWATCH removes the entry of its handle;
QUOTE answers a signed report over the nonce; packets of jobs that are not admitted, and UUD packets, are counted and change
nothing else. (The layout of a report is the model's: log entry 13; so is status 2 of a WATCH whose word no link reaches: log
entry 42. Operations over ROD: RemoteAccess.) -/
def Claims.WatchesAndQuotes : Prop :=
  ∀ (s : State) (p : Nat),
    exec .unadmittedJobDrop s = .next { s with jobDrops := s.jobDrops + 1 }
    ∧ exec .uudDrop s = .next { s with uudDrops := s.uudDrops + 1 }
    ∧ (s.session p = false → ∀ q n m desc ring imgs image root k r word peer nonce g page reg addr len bytes op w64 b c,
      ∀ i ∈ ([.queueReq p q n m desc ring, .loadReq p imgs, .walkReq p image root, .mapReq p k r, .watchReq p word peer q,
          .unwatchReq p k, .quoteReq p nonce, .closeReq p g, .invalReq p page, .rmaRead p reg addr len, .rmaWrite p reg addr bytes,
          .rmaAtomic p reg addr op w64 b c] : List Instr), exec i s = .next { s with jobDrops := s.jobDrops + 1 })
    ∧ (s.session p = true → (s.polder p).rod = [] → ∀ word peer q, word % 4 = 0 → word + 4 ≤ (s.polder p).spSize →
      let link := s.linkAvail 4 (homeDie ((s.polder p).spBase + word))
      (link = .wait → exec (.watchReq p word peer q) s = .next s)
      ∧ (∀ k, link = .yes → k < 1024 → (∀ j < k, (tfind s.watches j).isSome) → tfind s.watches k = none →
        Completes (.watchReq p word peer q) s fun t => SameMemory s t ∧ t.cores = s.cores
          ∧ tfind t.watches k = some { polder := p, word := word, peer := peer, queue := q }
          ∧ (∀ j, j ≠ k → tfind t.watches j = tfind s.watches j)
          ∧ t.reports = s.reports
          ++ [({ peer := peer, queue := q, handle := k, val := mget32 s.sp ((s.polder p).spBase + word), after := [] } : Report)]
          ∧ t.replies = s.replies ++ [{ polder := p, code := 6, status := 0, data := toLe 4 k, after := [] }])
      ∧ (link = .no ∨ link = .yes ∧ (∀ j < 1024, (tfind s.watches j).isSome) →
        exec (.watchReq p word peer q) s = .next (s.reply p 6 2 [])))
    ∧ (s.session p = true → (s.polder p).rod = [] → ∀ word peer q, (word % 4 ≠ 0 ∨ (s.polder p).spSize < word + 4) →
      exec (.watchReq p word peer q) s = .next (s.reply p 6 3 []))
    ∧ (s.session p = true → (s.polder p).rod = [] → ∀ k w, tfind s.watches k = some w → w.polder = p → Completes (.unwatchReq p k) s fun t =>
      SameMemory s t ∧ t.cores = s.cores ∧ tfind t.watches k = none ∧ (∀ j, j ≠ k → tfind t.watches j = tfind s.watches j)
      ∧ t.replies = s.replies ++ [{ polder := p, code := 7, status := 0, data := [], after := [] }])
    ∧ (s.session p = true → (s.polder p).rod = [] → ∀ nonce : List Byte, nonce.length = 32 →
      let x := s.polder p
      let ranges := x.ranges.flatMap fun e => toLe 1 e.1 ++ toLe 8 e.2.base ++ toLe 8 e.2.limit ++ toLe 1 e.2.perm.toNat
      let m := s.boot.attLog ++ toLe 4 s.boot.minsvn.toNat ++ sha3_512 x.measured ++ ranges ++ nonce
      exec (.quoteReq p nonce) s = .next (s.reply p 8 0 (m ++ Config.mldsaSign s.boot.attSeed m)))

/-- R233, R239, R247, R287, R288, R290, R298, R347: notifications, watches, quotes and dropped packets. -/
def Obligations.NotesAndWatches : Prop := Claims.Notifications ∧ Claims.WatchesAndQuotes

/-! ### The Sougar service and hosts -/

/-- R14, R18 to R20, R159, R254, R279, R280, R286, R290, R306, R313, R321, R335: OPEN creates a polder with its registers at the values of
their tables; it is malformed, refused by policy where it asks for a range that is unmapped or that TIER2 or REMOTE covers, or finds
no resource where number, window, shared memory or frames are taken; without the service it is dropped. CLOSE unmaps the polder's queues that are IDLE or WAITING, waits for the rest,
and destroys the polder once it has come to rest; after its grace time every resident block is taken to its end. (Which status a
refused OPEN gets is log entry 43, the stages of CLOSE are log entry 41. Operations over ROD: RemoteAccess.) -/
def Obligations.PolderLife : Prop :=
  ∀ s : State, s.lwatches = [] →
    let said (t : State) (p k st : Nat) (data : List Byte) : Prop :=
      t.replies = s.replies ++ [{ polder := p, code := k, status := st, data := data, after := [] }]
    let gone (t : State) (p : Nat) : Prop := (t.polder p).alive = false ∧ t.mem = s.mem ∧ t.pool = s.pool
      ∧ said t p 9 0 (toLe 4 (s.polder p).aborted) ∧ (∀ c < 40, ∀ e ∈ (t.core c).tb, e.polder ≠ p)
      ∧ (∀ d < 4, tfind (t.die d).routines p = none ∧ ∀ e ∈ (t.die d).tb, e.polder ≠ p) ∧ ∀ e ∈ t.watches, e.2.polder ≠ p
    (∀ o : OpenSpec,
      let good := o.polder ≠ 0 ∧ o.polder < 64 ∧ openGood o = true
      let granted := ∀ r ∈ o.ranges, rangeGranted 1 r = true ∧ s.rangeMapped o.polder r = true
      let room := (s.polder o.polder).alive = false ∧ s.windowFree o.spBase o.spSize = true
        ∧ s.sharedFree o.polder o.cores o.shSize = true ∧ (∀ r ∈ o.ranges, s.rangeFree o.polder r = true)
        ∧ s.areaFree o.polder o.ranges o.spillPa o.spillSz = true
        ∧ s.areaFree o.polder o.ranges o.audRing o.audRingSz = true
      ((s.polder 0).alive = false → exec (.openReq o) s = .next { s with jobDrops := s.jobDrops + 1 })
      ∧ ((s.polder 0).alive = true → ¬good → exec (.openReq o) s = .next (s.reply o.polder 1 3 []))
      ∧ ((s.polder 0).alive = true → good → ¬granted → exec (.openReq o) s = .next (s.reply o.polder 1 1 []))
      ∧ ((s.polder 0).alive = true → good → granted → ¬room → exec (.openReq o) s = .next (s.reply o.polder 1 2 []))
      ∧ ((s.polder 0).alive = true → good → granted → room → Completes (.openReq o) s fun t =>
        let r (off : Nat) : Word := pageRead t o.polder off
        (t.polder o.polder).alive = true ∧ (t.polder o.polder).cores = o.cores ∧ t.mem = s.mem ∧ t.cores = s.cores
        ∧ r 0x10 = 1 ∧ r 0x14 = 0 ∧ r 0x18 = 0 ∧ r 0x1C = 0 ∧ r 0x20 = 0
        ∧ r 0x100 = BitVec.ofNat 32 o.weirRate ∧ r 0x104 = BitVec.ofNat 32 o.weirDepth
        ∧ r 0x108 = BitVec.ofNat 32 o.weirDebtLim ∧ r 0x10C = BitVec.ofNat 32 o.weirDepth ∧ r 0x110 = 0
        ∧ r 0x120 = BitVec.ofNat 32 o.spBase ∧ r 0x124 = BitVec.ofNat 32 o.spSize
        ∧ r 0x130 = o.ageLim.setWidth 32 ∧ r 0x134 = o.auditF.setWidth 32 ∧ r 0x138 = o.preempt.setWidth 32
        ∧ r 0x140 = 0 ∧ r 0x144 = 0 ∧ r 0x148 = 0 ∧ r 0x150 = o.walkLim.setWidth 32 ∧ r 0x154 = o.walkWt.setWidth 32
        ∧ r 0x158 = 0 ∧ r 0x15C = 0 ∧ r 0x160 = o.fltPol0 ∧ r 0x164 = o.fltPol1 ∧ r 0x168 = 0 ∧ r 0x800 = 0
        ∧ (∀ k x, o.ranges[k]? = some x → tfind (t.polder o.polder).ranges k = some x)
        ∧ (∀ c < 32, (t.board (0x100 + 64 * c + 24 + 4 * (o.polder / 32))).getLsbD (o.polder % 32)
            = (o.cores.getLsbD c || (s.board (0x100 + 64 * c + 24 + 4 * (o.polder / 32))).getLsbD (o.polder % 32)))
        ∧ (∀ q, q ≠ o.polder → t.polder q = s.polder q)
        ∧ ∃ d, said t o.polder 1 0 (toLe 1 o.polder ++ d)))
    ∧ (∀ p (g : BitVec 16), s.session p = true → (s.polder p).rod = [] →
      ((∀ e ∈ s.slots, e.2.polder ≠ p) → s.polderQuiet p = true → Completes (.closeReq p g) s fun t => gone t p)
      ∧ (s.polderQuiet p = false → (s.ticketFree = false
          ∨ (s.polder p).graceOver = false ∧ ∀ e ∈ s.slots, e.2.polder = p → s.sstate e.1 ≠ 1 ∧ s.sstate e.1 ≠ 4) →
        exec (.closeReq p g) s = .next (s.setPolder p { s.polder p with
          closing := some (if g = 0 then none else some (s.clock + 1600000 * g.toNat)) }))
      ∧ ((s.slots.map Prod.fst).Nodup → (∀ e ∈ s.slots, e.1 < 256) → s.ticketFree = true → (s.polder p).graceOver = false →
        Completes (.closeReq p g) s fun t => t.mem = s.mem
        ∧ ∀ e, e ∈ t.slots ↔ e ∈ s.slots ∧ ¬(e.2.polder = p ∧ (s.sstate e.1 = 1 ∨ s.sstate e.1 = 4))))
    ∧ (∀ p, (s.polder p).closing = none → exec (.closeGraceExpire p) s = .next s)
    ∧ (∀ p d, (s.polder p).closing = some (some d) → d ≤ s.clock → (∀ k ∈ s.cores, k.2.parkedA = []) →
      (∀ k ∈ s.cores, ∀ b ∈ k.2.blocks, b.2.launch.polder = p → b.2.saving = false) →
      Completes (.closeGraceExpire p) s fun t => t.mem = s.mem ∧ ∀ c b x, s.block c b = some x → x.launch.sram = false → x.rerun = none →
        x.launch.polder = p → ∃ y, t.block c b = some y ∧ y.stopping = true ∧ y.abort = true)
    ∧ ∀ p, (s.polder p).closing = some none → (∀ e ∈ s.slots, e.2.polder ≠ p) → s.polderQuiet p = true →
      Completes (.closeGraceExpire p) s fun t => gone t p

/-- R14, R20, R238, R276, R280, R282, R286, R290, R329, R343: QUEUE creates a queue with a fresh descriptor, or restarts a stopped one; MAP
grants a range that is mapped, free and allowed by FEATACK; LOAD writes its image and seals its marked record; WALK installs the routine and its root value on every
compute die; INVAL removes translation entries and leaves the others. (Which status a QUEUE or LOAD gets, and what waits, is log entry 42;
the statuses of MAP, which takes nothing away, are log entry 43. Operations over ROD: RemoteAccess.) -/
def Obligations.ServiceRequests : Prop :=
  ∀ (s : State) (p : Nat), s.session p = true → s.lwatches = [] → (s.polder p).rod = [] →
    let x := s.polder p
    let said (t : State) (k st : Nat) (data : List Byte) (after : List Nat) : Prop :=
      t.replies = s.replies ++ [{ polder := p, code := k, status := st, data := data, after := after }]
    (∀ q n m desc ring, q < 64 → tfind x.queues q = none → desc % 64 = 0 → ring % 64 = 0 → ring < 2 ^ 64 →
      (∃ k, 4 ≤ k ∧ k ≤ 16 ∧ n = 2 ^ k) → s.descFree p desc = true → s.descAvail desc = .yes →
      Completes (.queueReq p q n m desc ring) s fun t => SameMemory s t
        ∧ said t 2 0 (toLe 4 q ++ toLe 8 desc) [] ∧ (∃ y, tfind (t.polder p).queues q = some y ∧ y.descPa = desc)
        ∧ (p, q) ∈ t.idle
        ∧ Accepted s t desc (toLe 8 ring ++ toLe 4 n ++ List.replicate 16 0 ++ toLe 1 m.toNat ++ List.replicate 35 0))
    ∧ (∀ q n m desc ring y, q < 64 → tfind x.queues q = some y → y.descPa % 64 = 0 → s.sound y.descPa 64 →
      s.queueFailed y = true → s.descAvail y.descPa = .yes → Completes (.queueReq p q n m desc ring) s fun t => t.mem = s.mem
        ∧ t.cores = s.cores ∧ said t 2 0 (toLe 4 q ++ toLe 8 y.descPa) []
        ∧ (∀ k < 4, t.coherent (y.descPa + 12 + k) = s.coherent (y.descPa + 16 + k) ∧ t.coherent (y.descPa + 20 + k) = 0)
        ∧ t.coherent (y.descPa + 24) = s.coherent (y.descPa + 24) &&& 0xFD
        ∧ (∀ a, ¬(y.descPa + 12 ≤ a ∧ a < y.descPa + 16) → ¬(y.descPa + 20 ≤ a ∧ a < y.descPa + 25) → t.coherent a = s.coherent a)
        ∧ (∃ z, tfind (t.polder p).queues q = some z ∧ z.dead = false ∧ z.skip = none ∧ z.waitDue = none)
        ∧ (s.slotOf p q = none → (p, q) ∈ t.idle ∧ (p, q) ∉ t.ready)
        ∧ ∀ sl, s.slotOf p q = some sl → t.sstate sl = qIdle ∧ ∃ h, tfind t.slots sl = some h ∧ h.dead = false)
    ∧ (∀ q n m desc ring y, q < 64 → tfind x.queues q = some y →
      (s.queueFailed y = false → s.descAvail y.descPa = .yes → exec (.queueReq p q n m desc ring) s = .next (s.reply p 2 1 []))
      ∧ (s.descAvail y.descPa = .wait → exec (.queueReq p q n m desc ring) s = .next s)
      ∧ (s.descAvail y.descPa = .no → exec (.queueReq p q n m desc ring) s = .next (s.reply p 2 2 [])))
    ∧ (∀ k r, k < 32 → rangeFits r = true →
      let f := tget 0 x.featack 0
      let ok := ((0x180000000000 ≤ r.base ∨ r.limit ≤ 0x100000000000) ∨ f.getLsbD 6 = true) ∧ (r.limit ≤ 2 ^ 51 ∨ f.getLsbD 7 = true)
      let mapped := s.rangeMapped p r = true ∧ ∀ old, tfind x.ranges k = some old → old.limit ≤ old.base
        ∨ (r.base ≤ old.base ∧ old.limit ≤ r.limit ∧ old.perm &&& ~~~r.perm = 0)
      let free := s.rangeFree p r = true ∧ meets r.base (r.limit - r.base) x.spillPa x.spillSz = false
        ∧ meets r.base (r.limit - r.base) x.audRing x.audRingSz = false
      (ok → mapped → free → (∀ e ∈ s.cores, e.2.parkedA = []) → Completes (.mapReq p k r) s fun t => SameMemory s t ∧ t.cores = s.cores
        ∧ said t 5 0 [] [] ∧ tfind (t.polder p).ranges k = some r
        ∧ ∀ j, j ≠ k → tfind (t.polder p).ranges j = tfind x.ranges j)
      ∧ (ok → mapped → ¬free → exec (.mapReq p k r) s = .next (s.reply p 5 2 []))
      ∧ (¬(ok ∧ mapped) → exec (.mapReq p k r) s = .next (s.reply p 5 1 [])))
    ∧ (∀ i : Image, imageGood i = true →
      let bs := sealedBytes i x.sealKey
      bs.length = i.bytes.length
      ∧ (∀ o, i.layouts = [o] → i.predictors = [] → sealGood x.sealKey ((bs.drop o).take 64) = true
        ∧ ∀ k, ¬(o + 60 ≤ k ∧ k < o + 64) → bs.getD k 0 = i.bytes.getD k 0)
      ∧ (∀ o, i.layouts = [] → i.predictors = [o] → sealGood x.sealKey ((bs.drop o).take 128) = true
        ∧ ∀ k, ¬(o + 124 ≤ k ∧ k < o + 128) → bs.getD k 0 = i.bytes.getD k 0)
      ∧ (s.imageAvail x i = .wait → imageFits i x = true → exec (.loadReq p [i]) s = .next s)
      ∧ (s.imageAvail x i = .no → imageFits i x = true → exec (.loadReq p [i]) s = .next (s.reply p 3 2 []))
      ∧ (imageFits i x = false → exec (.loadReq p [i]) s = .next (s.reply p 3 1 []))
      ∧ (∀ pa, i.space = .mem → x.frameOf i.addr i.bytes.length = some pa → s.takes 4 pa i.bytes.length = .yes →
        s.sound pa i.bytes.length → Completes (.loadReq p [i]) s fun t => SameMemory s t ∧ said t 3 0 [] [] ∧ AcceptedOpen s t pa bs
          ∧ (t.polder p).measured = x.measured ++ i.bytes)
      ∧ (i.space = .sp → i.addr + i.bytes.length ≤ x.spSize → s.imageAvail x i = .yes → Completes (.loadReq p [i]) s fun t => t.mem = s.mem
          ∧ t.cores = s.cores ∧ said t 3 0 [] [] ∧ (t.polder p).measured = x.measured ++ i.bytes
          ∧ (∀ k < bs.length, mget t.sp (x.spBase + i.addr + k) = bs.getD k 0)
          ∧ ∀ a, (a < x.spBase + i.addr ∨ x.spBase + i.addr + bs.length ≤ a) → mget t.sp a = mget s.sp a))
    ∧ (∀ image root, image.length ≤ 4096 → Completes (.walkReq p image root) s fun t => SameMemory s t ∧ said t 4 0 [] []
        ∧ (t.polder p).measured = x.measured ++ image
        ∧ ∀ d < 4, ∃ m, tfind (t.die d).routines p = some (m, root) ∧ ∀ a < 4096, mget m a = image.getD a 0)
    ∧ (∀ page, (∀ a z, page = some (a, z) → z ≠ 3) →
      let hit (e : TEntry) : Prop := e.polder = p ∧ ∀ a z, page = some (a, z) →
        let n := pageBytes z.toNat
        e.base < a / n * n + n ∧ a / n * n < e.base + e.size
      Completes (.invalReq p page) s fun t => SameMemory s t
        ∧ (∀ c < 40, ∀ e, e ∈ (t.core c).tb ↔ e ∈ (s.core c).tb ∧ ¬hit e)
        ∧ (∀ d < 4, ∀ e, e ∈ (t.die d).tb ↔ e ∈ (s.die d).tb ∧ ¬hit e)
        ∧ (∀ d < 4, ∀ w ∈ (t.die d).walks, w.2.polder = p → w.2.stale = true)
        ∧ ∃ ds, said t 10 0 [] ds ∧ ∀ d, d ∈ ds ↔ d < 4 ∧ ∃ w ∈ (t.die d).walks, w.2.stale = true)

/-- R5, R16, R19, R163, R239, R288, R289, R290, R329: within a session a host reads control-page registers of 4 or 8 bytes, memory that
the service has exposed, and its window; it writes memory and window, and of the control page what is RW or WO; atomics act on exposed
memory alone; what a closed TAIL holds stays. Everything else, and what a link or stack does not reach, meets a transport error and
changes nothing; an operation waits for a link that retrains, and over ROD for those sent before it, RMA operations and requests
alike. (Transport errors are replies of 256 and the operation: log entry 13; what waits or is refused: log entry 42.) -/
def Obligations.RemoteAccess : Prop :=
  ∀ (s : State) (p : Nat), s.session p = true →
    let x := s.polder p
    let said (t : State) (k st : Nat) (data : List Byte) : Prop :=
      t.replies = s.replies ++ [{ polder := p, code := 256 + k, status := st, data := data, after := [] }]
    let refused (i : Instr) (k : Nat) : Prop := exec i s = .next { s with
      replies := s.replies ++ [{ polder := p, code := 256 + k, status := 1, data := [], after := [] }] }
    let written (t : State) (addr : Nat) (bytes : List Byte) : Prop := t.mem = s.mem ∧ t.cores = s.cores ∧ said t 1 0 []
      ∧ (∀ k < bytes.length, mget t.sp (x.spBase + addr + k) = bytes.getD k 0)
      ∧ ∀ a, (a < x.spBase + addr ∨ x.spBase + addr + bytes.length ≤ a) → mget t.sp a = mget s.sp a
    (∀ i, sessionOf i = some p →
      (i ∈ x.rod → x.rod.head? ≠ some i → exec i s = .next s)
      ∧ ∀ rest, x.rod = i :: rest → Completes i s fun t => t = s ∨ ((t.polder p).alive = true → (t.polder p).rod = rest))
    ∧ (∀ addr bytes rest, x.rod = .rmaWrite p .sp addr bytes :: rest → s.lwatches = [] → addr + bytes.length ≤ x.spSize →
      s.windowAvail x addr bytes.length = .yes → Completes (.rmaWrite p .sp addr bytes) s fun t => written t addr bytes
        ∧ (t.polder p).rod = rest)
    ∧ (x.rod = [] →
      (∀ addr len, ((len ≠ 4 ∧ len ≠ 8) ∨ addr % len ≠ 0 ∨ 4096 < addr + len) → refused (.rmaRead p .ctl addr len) 0)
      ∧ (∀ addr, addr % 4 = 0 → addr < 4096 → Completes (.rmaRead p .ctl addr 4) s fun t =>
        t = { s with replies := t.replies } ∧ said t 0 0 (toLe 4 (pageRead s p addr).toNat))
      ∧ (∀ addr, addr % 8 = 0 → addr < 4096 → Completes (.rmaRead p .ctl addr 8) s fun t =>
        t = { s with replies := t.replies }
        ∧ said t 0 0 (toLe 4 (pageRead s p addr).toNat ++ toLe 4 (pageRead s p (addr + 4)).toNat))
      ∧ (∀ addr len, addr + len ≤ x.spSize → s.windowAvail x addr len = .yes → Completes (.rmaRead p .sp addr len) s fun t =>
        t = { s with replies := t.replies } ∧ said t 0 0 (mreads s.sp (x.spBase + addr) len))
      ∧ (∀ addr len, (x.spSize < addr + len ∨ s.windowAvail x addr len = .no) → refused (.rmaRead p .sp addr len) 0)
      ∧ (∀ addr bytes, addr + bytes.length ≤ x.spSize → s.windowAvail x addr bytes.length = .wait →
        exec (.rmaRead p .sp addr bytes.length) s = .next s ∧ exec (.rmaWrite p .sp addr bytes) s = .next s)
      ∧ (∀ addr len pa, x.frameOf addr len = some pa → s.avail 4 pa = .yes → s.sound pa len →
        Completes (.rmaRead p .mem addr len) s fun t => SameBytes s t ∧ t.queue = s.queue
          ∧ said t 0 0 ((List.range len).map fun k => s.coherent (pa + k)))
      ∧ (∀ addr len pa b, x.frameOf addr len = some pa → s.avail 4 pa = .yes → b ∈ Sys2Proof.Machine.blocksOf pa len →
        (s.view b).2 = true → Completes (.rmaRead p .mem addr len) s fun t => SameBytes s t ∧ said t 0 1 [])
      ∧ (∀ addr bytes pa, x.frameOf addr bytes.length = some pa →
        (s.avail 4 pa = .wait → exec (.rmaRead p .mem addr bytes.length) s = .next s)
        ∧ (s.takes 4 pa bytes.length = .wait → exec (.rmaWrite p .mem addr bytes) s = .next s))
      ∧ (∀ addr bytes, (∀ pa, x.frameOf addr bytes.length = some pa → s.avail 4 pa = .no) →
        refused (.rmaRead p .mem addr bytes.length) 0 ∧ refused (.rmaWrite p .mem addr bytes) 1)
      ∧ (∀ addr bytes, (bytes.length ≠ 4 ∨ addr % 4 ≠ 0 ∨ 4096 < addr + 4) → refused (.rmaWrite p .ctl addr bytes) 1)
      ∧ (∀ addr (v : Word), addr % 4 = 0 → addr < 4096 → (addr < 0x10 ∨ 0x20 ≤ addr) → (addr < 0x200 ∨ 0x300 ≤ addr) →
        Completes (.rmaWrite p .ctl addr (toLe 4 v.toNat)) s fun t => t = { s with replies := t.replies } ∧ said t 1 0 [])
      ∧ (∀ n (v : Word), n < 4 → exec (.rmaWrite p .ctl (0x10 + 4 * n) (toLe 4 v.toNat)) s
        = .next ((s.ackWrite p n v).reply p 257 0 []))
      ∧ (∀ q (v : Word), q < 64 → exec (.rmaWrite p .ctl (0x200 + 4 * q) (toLe 4 v.toNat)) s
        = .next ((s.notifyWrite p q).reply p 257 0 []))
      ∧ (∀ addr bytes pa, x.frameOf addr bytes.length = some pa → s.takes 4 pa bytes.length = .yes → s.sound pa bytes.length →
        Completes (.rmaWrite p .mem addr bytes) s fun t => SameMemory s t ∧ said t 1 0 [] ∧ AcceptedOpen s t pa bytes)
      ∧ (∀ addr bytes, s.lwatches = [] → addr + bytes.length ≤ x.spSize → s.windowAvail x addr bytes.length = .yes →
        Completes (.rmaWrite p .sp addr bytes) s fun t => written t addr bytes)
      ∧ (∀ addr bytes, (x.spSize < addr + bytes.length ∨ s.windowAvail x addr bytes.length = .no) →
        refused (.rmaWrite p .sp addr bytes) 1)
      ∧ (∀ addr op w64 b c pa,
        let n := if w64 then 8 else 4
        let old := (List.range n).map fun k => s.coherent (pa + k)
        x.frameOf addr n = some pa → pa % n = 0 → addr % n = 0 → s.takes 4 pa n = .yes → s.sound pa n →
        Completes (.rmaAtomic p .mem addr op w64 b c) s fun t => SameLocal s t ∧ said t 2 0 old
          ∧ AcceptedOpen s t pa (toLe n (atomVal op (8 * n) (ofLe old) b.toNat c.toNat)))
      ∧ ∀ r addr op w64 b c, (r ≠ .mem ∨ addr % (if w64 then 8 else 4) ≠ 0
        ∨ ∀ pa, x.frameOf addr (if w64 then 8 else 4) = some pa → s.avail 4 pa = .no) → refused (.rmaAtomic p r addr op w64 b c) 2)

/-- R18, R19, R157, R159, R254, R279, R301, R302, R306, R335: a write of FEATACK stores the offered features, of which BASE stays, and is
ignored once LOCKED; a register that the service or the board sets keeps what is written to its fields, within their ranges
(a value outside its range: log entry 17). -/
def Obligations.ControlPages : Prop :=
  ∀ (s : State) (p : Nat) (v : Word),
    (∀ n, n < 4 → (s.polder p).locked = false → Completes (.featackWrite p n v) s fun t => SameMemory s t ∧ t.cores = s.cores
      ∧ pageRead t p (0x10 + 4 * n) = ((v &&& if n = 0 then 0x7FF else 0) ||| if n = 0 then 1 else 0)
      ∧ (∀ m, m < 4 → m ≠ n → pageRead t p (0x10 + 4 * m) = pageRead s p (0x10 + 4 * m))
      ∧ (∀ off, (off < 0x10 ∨ 0x20 ≤ off) → pageRead t p off = pageRead s p off)
      ∧ ∀ q, q ≠ p → t.polder q = s.polder q)
    ∧ (∀ n, (s.polder p).locked = true → exec (.featackWrite p n v) s = .next s)
    ∧ (let sets (r : PlainReg) (off : Nat) (w : Word) : Prop := p < 64 → Completes (.registerWrite r v) s fun t => SameMemory s t
        ∧ t.cores = s.cores ∧ pageRead t p off = w ∧ (∀ o, o ≠ off → pageRead t p o = pageRead s p o)
        ∧ ∀ q, q ≠ p → t.polder q = s.polder q
      sets (.weirRate p) 0x100 v
      ∧ (256 ≤ v.toNat → sets (.weirDepth p) 0x104 v)
      ∧ sets (.weirDebtLim p) 0x108 v
      ∧ (v.setWidth 8 ≠ (0 : BitVec 8) → sets (.ageLim p) 0x130 (v &&& 0xFF))
      ∧ ((v &&& 0x7FF).toNat ≤ 1024 → sets (.auditF p) 0x134 (v &&& 0x7FF))
      ∧ sets (.preempt p) 0x138 (v &&& 0xF)
      ∧ (64 ≤ (v &&& 0x7FFF).toNat → (v &&& 0x7FFF).toNat ≤ 16384 → sets (.walkLim p) 0x150 (v &&& 0x7FFF))
      ∧ (v.setWidth 8 ≠ (0 : BitVec 8) → sets (.walkWt p) 0x154 (v &&& 0xFF))
      ∧ sets (.fltPol0 p) 0x160 v ∧ sets (.fltPol1 p) 0x164 v)
    ∧ (∀ st, st < 24 → (s.hbm st).state ≠ 1 → Completes (.registerWrite (.trainsel st) v) s fun t => SameMemory s t
      ∧ (t.hbm st) = { s.hbm st with trainsel := v.setWidth 8 } ∧ ∀ k, k ≠ st → t.hbm k = s.hbm k)
    ∧ (∀ st, (s.hbm st).state = 1 → exec (.registerWrite (.trainsel st) v) s = .next s)
    ∧ (∀ k, k < 16 → Completes (.registerWrite (.portAutoneg k) v) s fun t => t.port k = { s.port k with autoneg := v.getLsbD 0 })
    ∧ (∀ k, k < 16 → (s.port k).enable = false → Completes (.registerWrite (.portLoop k) v) s fun t =>
      t.port k = { s.port k with loop := v.getLsbD 0 })
    ∧ (∀ k, k < 16 → (s.port k).enable = false → v.extractLsb' 0 2 ≠ 3 → Completes (.registerWrite (.portWidth k) v) s fun t =>
      t.port k = { s.port k with width := v.extractLsb' 0 2 })
    ∧ ∀ k, k < 16 → (s.port k).enable = true → Completes (.registerWrite (.portLoop k) v) s fun t => t.port k = s.port k

/-! ### Rails, stacks, ports, links and heat -/

/-- R300: writes of ENABLE raise and lower the rails, a 0 of the same cycle and FAULT before it winning over a 1; each power-good
signal within 2 ms completes a step; a step that takes 2 ms fails with FAILRAIL, the rails go down, and BOOTSTAT.CODE is 6. (That
every rail is down in the step of the time-out: log entry 52.) -/
def Claims.RailSequence : Prop :=
  ∀ s : State,
    let r := s.rails
    let became (i : Instr) (y : Sys2Proof.Machine.Rails) : Prop := exec i s = .next { s with rails := y }
    ((r.state = 4 ∨ r.zeroAt = some s.clock) → became .railseqEnable r)
    ∧ (r.zeroAt ≠ some s.clock → (r.state = 0 ∨ r.state = 3) →
      became .railseqEnable { r with enable := true, state := 1, since := s.clock })
    ∧ (r.zeroAt ≠ some s.clock → (r.state = 1 ∨ r.state = 2) → became .railseqEnable { r with enable := true })
    ∧ (r.state = 4 → became .railseqDisable { r with enable := false, zeroAt := some s.clock, state := 0 })
    ∧ ((r.state = 1 ∨ r.state = 2) → became .railseqDisable
      { r with enable := false, zeroAt := some s.clock, state := if r.up = 0 then 0 else 3, since := s.clock })
    ∧ ((r.state = 0 ∨ r.state = 3) → became .railseqDisable { r with enable := false, zeroAt := some s.clock })
    ∧ ((r.since + 3200000 ≤ s.clock ∨ r.state = 0 ∨ r.state = 2 ∨ r.state = 4) → exec .railPowerGood s = .next s)
    ∧ (s.clock < r.since + 3200000 → r.state = 1 → r.up ≤ 6 → became .railPowerGood
      { r with up := r.up + 1, state := if r.up = 6 then 2 else 1, since := s.clock })
    ∧ (s.clock < r.since + 3200000 → r.state = 3 → 1 ≤ r.up → became .railPowerGood
      { r with up := r.up - 1, state := if r.up = 1 then 0 else 3, since := s.clock })
    ∧ ((r.state = 1 ∨ r.state = 3) → r.since + 3200000 ≤ s.clock → exec .railStepTimeout s = .next { s with
        rails := { r with state := 4, failRail := BitVec.ofNat 4 (if r.state = 1 then r.up else r.up - 1), up := 0 }
        boot := { s.boot with code := 6 } })
    ∧ ((r.state = 0 ∨ r.state = 2 ∨ r.state = 4 ∨ s.clock < r.since + 3200000) → exec .railStepTimeout s = .next s)

/-- R301, R326: START trains an isolated stack with the steps of TRAINSEL, or with none answers from what it was before; the training ends
READY, or FAILED at a step that was selected; ISOLATE is cleared only where STATE is READY and HOT is 0; a write of STACKERR
clears its three counters. -/
def Claims.StackTraining : Prop :=
  ∀ (s : State) (st : Nat), st < 24 →
    let x := s.hbm st
    let became (i : Instr) (y : Stack) : Prop := exec i s = .next (s.setHbm st y)
    ((x.isolate = false ∨ x.state = 1) → exec (.stackStart st) s = .next s)
    ∧ (x.isolate = true → x.state ≠ 1 → x.trainsel ≠ 0 → became (.stackStart st) { x with state := 1 })
    ∧ (x.isolate = true → x.state ≠ 1 → x.trainsel = 0 → became (.stackStart st)
      (if x.trained then { x with state := 2 } else { x with state := 3, failstep := 0xFF }))
    ∧ (x.state = 1 → became (.trainingComplete st none) { x with state := 2, trained := true })
    ∧ (∀ k, x.state = 1 → x.trainsel.getLsbD k.toNat = true → became (.trainingComplete st (some k))
      { x with state := 3, failstep := k.setWidth 8 })
    ∧ ((x.state ≠ 2 ∨ x.hot = true) → exec (.stackIsolateClear st) s = .next s)
    ∧ (x.state = 2 → x.hot = false → x.isolate = true → became (.stackIsolateClear st)
      { x with isolate := false, selfRefresh := false })
    ∧ became (.stackerrClear st) { x with corr := 0, uncorr := 0, rowpar := 0 }

/-- R300, R301, R326: the rails and the training of stacks. -/
def Obligations.RailsAndTraining : Prop := Claims.RailSequence ∧ Claims.StackTraining

/-- R301, R331, R332: where HOT asserts, or a stack is isolated, every packet accepted into its queues is applied without a change of
what a read finds; a hot stack enters self-refresh once the bank items on it have ended, and is isolated after 10 ms; isolation fails every packet that waits for the
stack with UNAVAIL and its number, and the stack stays isolated when HOT clears. -/
def Obligations.StackIsolation : Prop :=
  ∀ (s : State) (st : Nat), st < 24 →
    let x := s.hbm st
    let drained (t : State) : Prop := (∀ q ∈ t.queue, unitOnStack q.unit st = false) ∧ t.sp = s.sp
      ∧ ((s.queue.map (·.seq)).Nodup → (∀ q ∈ s.queue, unitOnStack q.unit st = onStack s q.pa st) → ∀ b, t.view b = s.view b)
    let isolated (t : State) : Prop := drained t ∧ (t.hbm st).isolate = true ∧ (t.hbm st).state = x.state
      ∧ ∀ n a pa ord, tfind s.accs n = some a → a.st = .sent pa ord → a.op ≠ .slab → onStack s pa st = true →
        ∃ y, tfind t.accs n = some y ∧ y.st = .failed 0x13 0 (BitVec.ofNat 32 st)
    (x.hot = false → Completes (.hotAssert st) s fun t => drained t ∧ (t.hbm st).hot = true ∧ (t.hbm st).hotAt = s.clock
      ∧ (t.hbm st).selfRefresh = (if s.itemsRun st then x.selfRefresh else true) ∧ (t.hbm st).isolate = x.isolate)
    ∧ (x.hot = true → exec (.hotAssert st) s = .next (if s.itemsRun st then s else s.setHbm st { x with selfRefresh := true }))
    ∧ (x.hot = true → x.hotAt + 16000000 ≤ s.clock → x.isolate = false → OnlyCommands s → Completes (.stackIsolate st) s fun t => isolated t
      ∧ (t.hbm st).selfRefresh = x.selfRefresh)
    ∧ ((x.hot = false ∨ s.clock < x.hotAt + 16000000 ∨ x.isolate = true) → exec (.stackIsolate st) s = .next s)
    ∧ (x.isolate = false → OnlyCommands s → Completes (.stackIsolateSet st) s fun t => isolated t ∧ (t.hbm st).selfRefresh = x.selfRefresh)
    ∧ (x.isolate = true → exec (.stackIsolateSet st) s = .next s)
    ∧ (x.hot = true → s.clock < x.hotAt + 16000000 → exec (.hotClear st) s
      = .next (s.setHbm st { x with hot := false, selfRefresh := x.isolate }))
    ∧ (x.hot = true → x.hotAt + 16000000 ≤ s.clock → OnlyCommands s → Completes (.hotClear st) s fun t => (t.hbm st).hot = false
      ∧ (t.hbm st).isolate = true ∧ (t.hbm st).selfRefresh = true)
    ∧ (x.hot = false → exec (.hotClear st) s = .next s)

/-- R302, R329: ENABLE trains a port and clears FECCOR; it is UP once every lane of its width has locked within 500 ms, and FAILED after
them, until ENABLE is written 0 and then 1; ENABLE = 0 takes another link down. A flit with a bad CRC is replayed, the eighth replay retrains the link, and a link that
fails to retrain stays failed. -/
def Claims.PortsAndLinks : Prop :=
  ∀ s : State,
    (∀ p, p < 16 →
      let x := s.port p
      let became (i : Instr) (y : Port) : Prop := exec i s = .next (s.setPort p y)
      let used : BitVec 8 := if x.width = 0 then 0xFF else if x.width = 1 then 0x0F else 0x03
      (x.enable = false → became (.portEnable p) { x with enable := true, fecCor := 0, lanesUp := 0, state := 1, since := s.clock })
      ∧ (x.enable = true → became (.portEnable p) x)
      ∧ (x.enable = true → became (.portDisable p) { x with enable := false, lanesUp := 0, state := if x.state = 3 then 3 else 0 })
      ∧ (x.enable = false → became (.portDisable p) x)
      ∧ (∀ lanes, x.state = 1 → s.clock < x.since + 800000000 →
        became (.portLinkUp p lanes) { x with state := if lanes &&& used = used then 2 else 1, lanesUp := lanes })
      ∧ (∀ lanes, (x.state ≠ 1 ∨ x.since + 800000000 ≤ s.clock) → exec (.portLinkUp p lanes) s = .next s)
      ∧ (x.state = 1 → x.since + 800000000 ≤ s.clock → became (.portTrainTimeout p) { x with state := 3 })
      ∧ ((x.state ≠ 1 ∨ s.clock < x.since + 800000000) → exec (.portTrainTimeout p) s = .next s))
    ∧ ∀ d e, d < e → e < 5 →
      let l := linkId d e
      let x := tget Link.reset s.links l
      let became (i : Instr) (y : Link) : Prop := exec i s = .next { s with links := tput s.links l y }
      (x.failed = false → x.training = false → x.replays < 7 → became (.flitCrcError l) { x with replays := x.replays + 1 })
      ∧ (x.failed = false → x.training = false → x.replays = 7 → became (.flitCrcError l) { x with replays := 0, training := true })
      ∧ ((x.failed = true ∨ x.training = true) → exec (.flitCrcError l) s = .next s)
      ∧ (x.training = true → became (.dieLinkRetrainEnd l true) { x with training := false })
      ∧ (x.training = true → OnlyCommands s → Completes (.dieLinkRetrainEnd l false) s fun t => SameMemory s t
        ∧ (∀ y ∈ t.linkQ, y ∈ s.linkQ ∧ linkId (dieOf y.core) y.die ≠ l)
        ∧ tget Link.reset t.links l = { x with training := false, failed := true }
        ∧ (∀ k, k ≠ l → tget Link.reset t.links k = tget Link.reset s.links k)
        ∧ ∀ n a pa ord, tfind s.accs n = some a → a.st = .sent pa ord → a.op ≠ .slab →
          memDie s pa ≠ dieOf a.core → linkId (dieOf a.core) (memDie s pa) = l →
          ∃ y, tfind t.accs n = some y ∧ y.st = .failed 0x13 0 (unavailAux s pa))
      ∧ (∀ ok, x.training = false → exec (.dieLinkRetrainEnd l ok) s = .next s)

/-- R304, R330: a die at its temperature limits moves its core clock by 100 MHz between 800 MHz and 1.6 GHz; its core clock counter goes on
from where it stands, and nothing else changes; at
110 °C the rails enter FAULT with BOOTSTAT.CODE 6 and every resident block of the compute cores is lost. A second-tier port that
loses its link fails what waits for it with UNAVAIL, AUX the port. (That every rail is down in the step of a thermal trip: log entry
52.) -/
def Claims.HeatAndTiers : Prop :=
  ∀ s : State,
    (∀ d, d < 4 → (s.die d).mhz ≤ 1600 → 800 ≤ (s.die d).mhz →
      let x := s.die d
      let now := x.clkBase + (s.clock - x.clkRef) * x.mhz / 1600
      exec (.thermalThrottle d true) s = .next (s.setDie d { x with mhz := max 800 (x.mhz - 100), clkBase := now, clkRef := s.clock })
      ∧ exec (.thermalThrottle d false) s = .next (s.setDie d { x with mhz := min 1600 (x.mhz + 100), clkBase := now, clkRef := s.clock })
      ∧ ∀ t, exec (.thermalThrottle d true) s = .next t ∨ exec (.thermalThrottle d false) s = .next t → ∀ c, t.coreClk c = s.coreClk c)
    ∧ (∀ d, d < 4 → Completes (.thermalTrip d) s fun t => SameMemory s t ∧ t.rails.state = 4 ∧ t.rails.up = 0 ∧ t.boot.code = 6
      ∧ (∀ c < 32, (t.core c).blocks = [] ∧ (t.core c).groups = [] ∧ (t.core c).records = [])
      ∧ ∀ c, 32 ≤ c → t.core c = s.core c)
    ∧ ∀ k, k < 8 → OnlyCommands s → Completes (.cxlLinkDown k) s fun t => SameMemory s t ∧ (tget Tier.reset t.tiers k).up = false
      ∧ (∀ j, j ≠ k → tget Tier.reset t.tiers j = tget Tier.reset s.tiers j)
      ∧ ∀ n a pa ord off, tfind s.accs n = some a → a.st = .sent pa ord → a.op ≠ .slab →
        placeOf s pa = .tier k off → ∃ y, tfind t.accs n = some y ∧ y.st = .failed 0x13 0 (BitVec.ofNat 32 k)

/-- R302, R304, R329, R330: ports, links, heat and second-tier ports. -/
def Obligations.LinksAndHeat : Prop := Claims.PortsAndLinks ∧ Claims.HeatAndTiers

/-! ### Audit and quarantine -/

/-- R345, R353, R354: every halving of SEEPAGE that is due takes place before the threshold test; a core at 256 points or more, or one that
was to be quarantined already, is quarantined: QUAR 1, PLACEOK 0, and the service is told; where the core's reeve holds the ticket,
only once it has written DONE. The service then takes a ticket to move its work away; with the last block saved the core enters
barrel mode and its self-test starts. The service is told of the test's end, and after a test that passed the core is released with
SEEPAGE 128, PLACEOK 1 and BARREL 0. (When a threshold result counts, and the order of these steps: log entry 44.) -/
def Claims.Quarantine : Prop :=
  ∀ (s : State),
    (s.halvings < s.clock / 2 ^ 32 → Completes .seepageHalving s fun t => SameMemory s t ∧ t.halvings = s.clock / 2 ^ 32
      ∧ ∀ c < 32,
        let k := s.core c
        let y := t.core c
        let n := k.seepage.toNat / 2 ^ (s.clock / 2 ^ 32 - s.halvings)
        let reached := k.condemned = true ∨ 256 ≤ n
        y.seepage.toNat = n ∧ y.barrel = k.barrel ∧ y.selfTest = k.selfTest
        ∧ (k.quar = true ∨ ¬reached → y.quar = k.quar ∧ y.placeok = k.placeok ∧ y.condemned = k.condemned)
        ∧ (k.quar = false → reached → s.holdsTicket c = false → y.quar = true ∧ y.placeok = false ∧ y.condemned = true
          ∧ y.tested = false ∧ .quarantine c ∈ t.notices)
        ∧ (k.quar = false → reached → s.holdsTicket c = true → y.quar = false ∧ y.placeok = k.placeok ∧ y.condemned = true))
    ∧ (s.clock / 2 ^ 32 ≤ s.halvings → exec .seepageHalving s = .next s)
    ∧ ∀ c, c < 32 →
      let k := s.core c
      (s.lwatches = [] → s.ticketFree = true → k.quar = true → k.condemned = true → (∀ e ∈ s.cores, e.2.parkedA = []) →
        let t := runProc (.vacate c) s
        t.board 0 = s.board 0 + 1 ∧ t.board 4 = s.board 4 ∧ t.mem = s.mem ∧ (t.core c).selfTest = k.selfTest
        ∧ (∃ u, t.unit = some u ∧ u.goal = .vacate c ∧ u.stage = .preempt ∧ u.ticket = s.board 0)
        ∧ ∀ b x, s.block c b = some x → b ≠ 63 → x.tenant = true → ∃ y, t.block c b = some y ∧ y.stopping = true)
      ∧ (∀ u va, s.lwatches = [] → s.unit = some u → u.core = serviceCore → u.goal = .vacate c → u.stage = .preempt → u.victims = [] →
        s.boardReach serviceCore = .yes →
        let t := runProc (.unit serviceCore va) s
        t.unit = none ∧ t.board 4 = u.ticket + 1 ∧ t.mem = s.mem ∧ (t.core c).condemned = false ∧ (t.core c).barrel = true
          ∧ (t.core c).selfTest = true ∧ (t.core c).tested = false ∧ (t.core c).quar = k.quar ∧ (t.core c).seepage = k.seepage)
      ∧ (∀ pass, k.selfTest = true → exec (.selfTestEnd c pass) s = .next { s.setCore c { k with selfTest := false, tested := pass }
          with notices := s.notices ++ [.selfTest c pass] })
      ∧ (∀ pass, k.selfTest = false → exec (.selfTestEnd c pass) s = .next s)
      ∧ (k.quar = true → k.tested = true → k.selfTest = false → exec (.quarantineRelease c) s = .next (s.setCore c
        { k with quar := false, seepage := 128, placeok := true, barrel := false, tested := false }))
      ∧ ((k.quar = false ∨ k.tested = false ∨ k.selfTest = true) → exec (.quarantineRelease c) s = .next s)

/-- R258, R261, R351 to R355: equal digests of two runs raise AUDOK and free the region. Two that differ wait for a third run where a core
of the polder is left, else the audit may end unresolved; with three, two digests that agree give the core of the other run 64 points,
and three that differ give each 16. The region is freed and one AUDIT entry is written. (No halving is due here. That the service may
name no reserve core is log entry 15.) -/
def Claims.AuditOutcomes : Prop :=
  ∀ (s : State) (p id : Nat) (a : Audit), tfind s.audits id = some a → s.halvings = s.clock / 2 ^ 32 →
    let x := s.polder p
    let agree (d e : List Byte) : Prop := d ≠ [] ∧ d = e
    let left (used : List Nat) : Prop := ∃ k < 32, x.cores.getLsbD k = true ∧ k ∉ used ∧ k ∉ a.avoid ∧ (s.core k).quar = false
    let freed (t : State) : Prop := tfind t.audits id = none ∧ (t.polder p).audRingUse = x.audRingUse - x.audRegSz ∧ SameMemory s t
    let points (t : State) (n : Nat → Nat) : Prop := ∀ k,
      (t.core k).seepage.toNat = (if n k = 0 then (s.core k).seepage.toNat else min (2 ^ 32 - 1) ((s.core k).seepage.toNat + n k))
      ∧ (k < 32 → 256 ≤ (t.core k).seepage.toNat → (t.core k).quar = true ∨ (s.holdsTicket k = true ∧ (t.core k).condemned = true))
    let entry (t : State) (cause c1 c2 c3 gain seep core : Nat) (d : List Byte) : Prop := (t.polder p).audOk = x.audOk
      ∧ (t.polder p).fltCount = x.fltCount + 1
      ∧ tfind (t.polder p).flog (x.fltCount.toNat % 31) = some (entryBytes [BitVec.ofNat 32 (0x1F + cause * 65536),
          BitVec.ofNat 32 c1, BitVec.ofNat 32 c2, BitVec.ofNat 32 c3, BitVec.ofNat 32 gain, BitVec.ofNat 32 seep,
          BitVec.ofNat 32 (ofLe (d.take 4)), 0] a.launchId a.idx core 0xFF 0xFFFF s.clock)
    ((a.polder ≠ p ∨ a.rerun.isSome = true) → exec (.auditOutcome p id) s = .next s)
    ∧ (∀ r1, a.runs = [r1] → exec (.auditOutcome p id) s = .next s)
    ∧ (a.polder = p → a.rerun = none → ∀ r1 r2 : Nat × List Byte,
      (a.runs = [r1, r2] →
        (agree r1.2 r2.2 → Completes (.auditOutcome p id) s fun t => freed t ∧ (t.polder p).audOk = x.audOk + 1
          ∧ (t.polder p).fltCount = x.fltCount ∧ ∀ k, t.core k = s.core k)
        ∧ (¬agree r1.2 r2.2 → left [r1.1, r2.1] → exec (.auditOutcome p id) s = .next s)
        ∧ (¬agree r1.2 r2.2 → ¬left [r1.1, r2.1] → Completes (.auditOutcome p id) s fun t => freed t
          ∧ entry t 3 r1.1 r2.1 0xFFFFFFFF 0xFFFFFFFF 0 0xFF r1.2 ∧ ∀ k, t.core k = s.core k))
      ∧ ∀ r3 : Nat × List Byte, a.runs = [r1, r2, r3] → Completes (.auditOutcome p id) s fun t => freed t
        ∧ ((∃ k, ((agree r1.2 r3.2 ∧ k = r2.1) ∨ (¬agree r1.2 r3.2 ∧ agree r2.2 r3.2 ∧ k = r1.1)
              ∨ (¬agree r1.2 r3.2 ∧ ¬agree r2.2 r3.2 ∧ agree r1.2 r2.2 ∧ k = r3.1))
            ∧ points t (fun j => if j = k then 64 else 0) ∧ entry t 1 r1.1 r2.1 r3.1 k (t.core k).seepage.toNat
              (if k = 0xFFFFFFFF then 0xFF else k) r1.2)
          ∨ (¬agree r1.2 r3.2 ∧ ¬agree r2.2 r3.2 ∧ ¬agree r1.2 r2.2 ∧ entry t 2 r1.1 r2.1 r3.1 0xFFFFFFFF 0 0xFF r1.2
            ∧ points t (fun j => 16 * ([r1.1, r2.1, r3.1].filter fun k => decide (k = j)).length))))

/-- R249, R258, R261, R348, R351, R352: a reeve schedules a further run of a retired audited block as a unit of class 0 under a ticket:
its block stands on a core of the polder that is left, else on a reserve core, with the log from its beginning, and takes no part in
its launch; a log that cannot be read back leaves the audit unresolved. Once nothing of the run is left its digest is kept; one that
has failed is kept as a failed one. (The form of a run, its order of choice and its core: log entry 15. No ticket is out, and no
doorbell is set.) -/
def Claims.ReExecution : Prop :=
  ∀ (s : State) (c id k : Nat) (a : Audit), tfind s.audits id = some a →
    let l := a.rerunLaunch
    let p := s.polder a.polder
    let used := a.runs.map Prod.fst ++ a.avoid
    let open' (k : Nat) : Prop := p.cores.getLsbD k = true ∧ k ∉ used ∧ (s.core k).quar = false
    let due := (∀ e ∈ s.cores, ∀ b ∈ e.2.blocks, b.2.audit ≠ some id) ∧ (∀ y ∈ p.saved, y.block.audit ≠ some id) ∧ a.rerun = none
      ∧ p.closing = none ∧ ((∃ r, a.runs = [r]) ∨ ∃ r1 r2 : Nat × List Byte, a.runs = [r1, r2] ∧ (r1.2 = [] ∨ r1.2 ≠ r2.2))
    (s.lwatches = [] → c < 32 → s.boardReach c = .yes → (s.core c).quar = false → s.reeveRuns c = true → s.ticketFree = true →
      s.bells = [] → (s.board 0x18 = 0xFFFFFFFF ∨ s.firstPlacer = some (s.board 0x18).toNat) →
      (∀ sl, s.chosen = some sl → s.board (slotWord sl 1) = 0) → due → k < 32 → (open' k ∨ ∀ j < 32, ¬open' j) →
      (s.core k).placeok = true → (s.core k).quar = false → s.board (0x20 + 4 * k) = 0 →
      let t := runProc (.auditRun c id k) s
      (s.logLost a = false → ∀ b slots, (s.core k).room (s.polder l.polder).shSize l = some (b, slots) → SameReads s t
        ∧ t.board 0 = s.board 0 + 1 ∧ t.board 4 = s.board 4 + 1 ∧ t.slots = s.slots
        ∧ (∃ x, t.block k b = some x ∧ x.rerun = some id ∧ x.tenant = false ∧ x.audit = none ∧ x.idx = a.idx ∧ x.launch = l)
        ∧ tfind t.audits id = some { a with
            rerun := some { core := k, left := a.log, ctl := a.ctl, effects := [], failed := false } })
      ∧ (s.logLost a = true → t.board 4 = s.board 4 + 1 ∧ tfind t.audits id = none ∧ (t.polder a.polder).fltCount = p.fltCount + 1
        ∧ (t.polder a.polder).audOk = p.audOk))
    ∧ ∀ b x r, s.block k b = some x → x.rerun = some id → a.rerun = some r → (∀ e ∈ s.cores, ∀ y ∈ e.2.blocks, y.2.audit ≠ some id) →
      let ends (t : State) (d : List Byte) : Prop := t.block k b = none ∧ t.mem = s.mem
        ∧ ∃ y, tfind t.audits id = some y ∧ y.rerun = none ∧ y.runs = a.runs ++ [(k, d)]
      (r.failed = true → Completes (.blockRetire k b) s fun t => ends t [])
      ∧ (r.failed = false → s.runStuck k b = true → Completes (.blockRetire k b) s fun t => ends t [])
      ∧ (r.failed = false → s.runStuck k b = false → s.drainedBlock k b x = true → r.ctl = [] →
        Completes (.blockRetire k b) s fun t => ends t (sha3_256 (r.effects.flatMap fun e => e.2.flatMap (·.2))))
      ∧ (r.failed = false → s.runStuck k b = false → s.drainedBlock k b x = false → exec (.blockRetire k b) s = .next s)

/-- R249, R258, R261, R345, R348, R351 to R355: audit outcomes, re-execution, seepage and quarantine. -/
def Obligations.AuditAndQuarantine : Prop := Claims.Quarantine ∧ Claims.AuditOutcomes ∧ Claims.ReExecution

/-! ### Boot -/

/-- R184, R186, R292 to R299: after a module reset the ROM halts on a bad configuration record with CODE 4, and starts an image that
passes: its body in SRAM, PHASE 2, MINSVN and L, a reeve in slot 63 of every compute core and one group on every front core,
all at ENTRY, CORECTL still BARREL 1 and PLACEOK 0. An image that passes has a good signature, SVN and header. A bad image
enters recovery, with port 0 up: a fetch that fails halts with CODE 5, a fetched image that fails with its own code, and a good one is
written to the slot before the ROM runs again by itself. Power loss keeps the flash alone, and leaves a slot that was being written unable to
pass. (The order of the ROM's tests, and reeves at ENTRY: log entries 14 and 21.) (Memory that nothing has written reads 0: log
entry 5.) -/
def Obligations.Booting : Prop :=
  ∀ s : State,
    let f := s.boot.tornFlash
    let im := mreads f 0x100000 (2 ^ 24)
    let halted (t : State) (k : Nat) : Prop := t.boot.phase = 3 ∧ t.boot.code = BitVec.ofNat 8 k ∧ t.boot.flash = f
      ∧ (∀ c, t.core c = Core.reset) ∧ t.polders = [] ∧ t.clock = 0
    let started (t : State) (F : Memory) : Prop :=
      let i := mreads F 0x100000 (2 ^ 24)
      let r := mreads F 0x10000 128
      let n := bfield i 8 4
      let entry := BitVec.ofNat 32 (bfield i 16 4)
      let ext (l d : List Byte) : List Byte := sha3_512 (l ++ d)
      let l3 := ext (ext (ext (List.replicate 64 0) (sha3_512 (i.take (64 + n)))) (sha3_512 r)) (sha3_512 (mreads F 0 7220))
      t.boot.phase = 2 ∧ t.boot.code = 0 ∧ t.boot.flash = F ∧ (∀ k < n, mget t.boot.sram k = i.getD (64 + k) 0)
      ∧ t.boot.minsvn = BitVec.ofNat 32 (bfield r 4 4)
      ∧ t.boot.attLog = (if byteAt r 60 = 1 then ext l3 (List.replicate 64 0xFF) else l3)
      ∧ (∀ c < 32, (t.core c).barrel = true ∧ (t.core c).placeok = false ∧ (t.core c).quar = false
        ∧ ∃ g, t.group c 63 = some g ∧ g.pc = entry ∧ g.occs = [0] ∧ (t.launchOf c g).sram = true
          ∧ (t.launchOf c g).polder = 0 ∧ (t.launchOf c g).regs = 64)
      ∧ ∀ k < 8, ∃ g, t.group (32 + k) 0 = some g ∧ g.pc = entry ∧ g.occs = [0] ∧ (t.launchOf (32 + k) g).sram = true
    let passes (F : Memory) (i : List Byte) : Prop := imageCode F i = 0
    let portUp (t : State) : Prop := (t.port 0).enable = true ∧ (t.port 0).state = 2
      ∧ ∀ k, k ≠ 0 → t.port k = Port.reset
    (∀ F i, passes F i →
      let n := bfield i 8 4
      let sel := bfield i 12 1
      bfield i 0 4 = 1 ∧ bfield (mreads F 0x10000 128) 4 4 ≤ bfield i 4 4 ∧ (ownerOnly F = true → sel = 1)
      ∧ (∀ k, (13 ≤ k ∧ k ≤ 15) ∨ (20 ≤ k ∧ k ≤ 63) → byteAt i k = 0)
      ∧ ∃ key, keyOf F sel = some key ∧ Config.mldsaVerify key (sha3_512 (i.take (64 + n))) ((i.drop (64 + n)).take 4627) = true)
    ∧ (s.boot.writing = none → f = s.boot.flash)
    ∧ (recordGood f = false → Completes .moduleReset s fun t => halted t 4)
    ∧ (recordGood f = true → passes f im → Completes .moduleReset s fun t => started t f)
    ∧ (recordGood f = true → ¬passes f im → Config.recoveryFetch (mreads f 0x10000 128) = none →
      Completes .moduleReset s fun t => halted t 5 ∧ portUp t)
    ∧ (∀ bs, recordGood f = true → ¬passes f im → Config.recoveryFetch (mreads f 0x10000 128) = some bs →
      let n := bfield (mreads f 0x10000 128) 56 4
      let i := padTo n (bs.take n)
      (¬passes f i → Completes .moduleReset s fun t => halted t (imageCode f i) ∧ portUp t)
      ∧ (passes f i → Completes .moduleReset s fun t => t.boot.phase = 1 ∧ t.boot.writing = some i ∧ t.boot.flash = f ∧ portUp t))
    ∧ (∀ i d r, (∀ c, s.core c = Core.reset) → s.turns = [] → s.powered = true → s.agenda = (d, .proc .recovered) :: r → s.boot.writing = some i →
      let F := mwrites s.boot.flash 0x100000 (i.take (2 ^ 24))
      recordGood F = true → passes F (mreads F 0x100000 (2 ^ 24)) → ∃ t, step s = .next t ∧ t.boot.writing = none ∧ started t F)
    ∧ (Completes .powerLoss s fun t => t.powered = false ∧ t.boot.flash = f ∧ t.boot.writing = none ∧ t.mem = [] ∧ t.sp = []
      ∧ (∀ c, t.core c = Core.reset) ∧ t.polders = [] ∧ t.queue = [])
    ∧ ∀ i, s.boot.writing = some i → ¬passes f im

/-! ### Reset, decoding, and what every step keeps -/

/-- R157, R159, R186, R254, R279, R299 to R302, R306, R326: at reset CORECTL reads BARREL 1 and PLACEOK 0, WDOGINT 0x0100_0000, SEEPAGE
and COREQ 0; BOOTSTAT, RAILSEQ and the pool read 0; every stack reads ISOLATE 1, STACKSTAT 0, TRAINSEL 0xBF and STACKERR 0, every
port PORTCTL 0x10 and PORTSTAT 0; no polder exists, the invariant holds, and no step is pending. (Memory that nothing has written
reads 0: log entry 5.) -/
def Obligations.ResetState : Prop :=
  let s := State.reset
  s.Inv ∧ ctlRead s 0 = some 0 ∧ ctlRead s 0x10 = some 0 ∧ ctlRead s 0x20 = some 0
  ∧ (∀ c < 40, (s.core c).barrel = true ∧ (s.core c).placeok = false ∧ (s.core c).wdogint = 0x01000000
      ∧ (s.core c).seepage = 0 ∧ (s.core c).quar = false ∧ (s.core c).groups = [])
  ∧ (∀ k < 24, ctlRead s (0x100 + 16 * k) = some 2 ∧ ctlRead s (0x104 + 16 * k) = some 0 ∧ ctlRead s (0x108 + 16 * k) = some 0xBF
      ∧ ctlRead s (0x10C + 16 * k) = some 0)
  ∧ (∀ p < 16, ctlRead s (0x300 + 8 * p) = some 0x10 ∧ ctlRead s (0x304 + 8 * p) = some 0)
  ∧ (∀ p < 64, (s.polder p).alive = false) ∧ s.turns = [] ∧ s.mem = [] ∧ s.sp = [] ∧ s.boot.phase = 0

/-- R50, R53 to R56, R86, R115, R168, R190, R268, R269, R202, R203: words of every family, written out from their encodings, read as the
instructions that they stand for, and a header whose CHECK is wrong or whose COUNT is 0, and reserved values, are refused. -/
def Obligations.KnownWords : Prop :=
  let g : Guard := { pred := 7, neg := false }
  let r (n : Reg) : Src := { reg := n, last := false, keep := false }
  decodeHeader 0x2000000E = some { count := 2, cls := 0, runend := false, wclass := 0, wthresh := 0, width := 3 }
  ∧ decodeHeader 0x20000000 = none ∧ decodeHeader 0x00000002 = none
  ∧ decodeVilesk 0x01070000 0xFFFFE0E0 = some (.bra 7 0xFFFFE g)
  ∧ decodeVilesk 0x1003050B 0x09800050 = some (.iadd 3 (r 5) { reg := 9, last := true, keep := false } .n16 true { pred := 2, neg := true })
  ∧ decodeVilesk 0x70080400 0x060000E0 = some (.mma 8 (r 4) (r 6) .e4m3 .e4m3 false 0 0 g)
  ∧ decodeVilesk 0x80060200 0x000080E0 = some (.ldsh 6 (r 2) .rlx .b32 8 .grp 0 g)
  ∧ decodeVilesk 0xA0000400 0x060200E0 = some (.cpy (r 4) (r 6) (r 8) false false .sh g)
  ∧ decodeVilesk 0xAA140001 0x000000E0 = some (.wait 20 (.one .cpy) 0 g)
  ∧ decodeVilesk 0xA2090400 0x050180E0 = some (.gat 9 (r 4) (r 5) (r 6) .sh .sh g)
  ∧ decodeVilesk 0xA7000400 0x0601C0E0 = some (.pred (r 4) (r 6) (r 7) g)
  ∧ decodeVilesk 0xC3050900 0x000000E0 = some (.place 5 (r 9) g)
  ∧ decodeVilesk 0x0F000000 0 = none ∧ decodeVilesk 0xFF000000 0 = none ∧ decodeVilesk 0x03010000 0x000000C0 = none
  ∧ decodeWalker 0x40A3FFF8 = some (.waddi 5 3 0xFFF8) ∧ decodeWalker 0xC003201D = some (.wmap 3 4 7 1)
  ∧ decodeWalker 0xC0032003 = none ∧ decodeWalker 0x30000000 = none
  ∧ decodeBank 0x62920201 = some (.bmac 1 2 1 .bf16 2 1) ∧ decodeBank 0x60030000 = none

/-- R50 to R65, R202, R203, R268, R269: DECODE AND ENCODE AGREE, for every instruction with every operand that its encoding admits: a clause
header, a Vilesk instruction of one or two words, a walker instruction and a bank instruction decode to themselves from the
words that encode them; and whatever a decoder reads is well-formed and has such words. -/
def Obligations.EncodeDecode : Prop :=
  (∀ h : Header, h.count ≠ 0 → encode (.clauseHeader h) = [encodeHeader h] ∧ decodeHeader (encodeHeader h) = some h)
  ∧ (∀ w h, decodeHeader w = some h → h.count ≠ 0)
  ∧ (∀ i, twoWords i = true → wf i = true → ∃ a b, encode i = [a, b] ∧ decodeVilesk a b = some i)
  ∧ (∀ i a b, wf i = true → encode i = [a, b] → decodeVilesk a b = some i)
  ∧ (∀ c w b, ∀ i ∈ ([.nop, .yield, .brk c, .wflush, .tile w] : List Instr), ∃ a, encode i = [a] ∧ decodeVilesk a b = some i)
  ∧ (∀ x y i, decodeVilesk x y = some i → wf i = true ∧ ∃ a m, encode i = a :: m ∧ m.length ≤ 1
      ∧ ∀ z, decodeVilesk a (m.headD z) = some i)
  ∧ (∀ d a b imm n k perm size, size ≠ 3 → ∀ i ∈ ([.wadd d a b, .wsub d a b, .wand d a b, .wor d a b, .wxor d a b, .wshl d a b,
      .wshr d a b, .wmul d a b, .wmulhu d a b, .wsltu d a b, .wslt d a b, .whash d a b, .waddi d a imm, .wandi d a imm,
      .wori d a imm, .wxori d a imm, .wshli d a n, .wshri d a n, .wins d imm, .wbfx d a n k, .wld d a imm, .wldw d a imm,
      .wlds d a imm, .wsts d a imm, .wbeq a b imm, .wbne a b imm, .wbltu a b imm, .wbgeu a b imm, .wblt a b imm, .wbge a b imm,
      .wmap a b perm size, .wnone] : List Instr), ∃ w, encode i = [w] ∧ decodeWalker w = some i)
  ∧ (∀ w i, decodeWalker w = some i → wf i = true ∧ ∃ v, encode i = [v] ∧ decodeWalker v = some i)
  ∧ (∀ k j n m f md imm ij ic, ∀ i ∈ ([.bnop, .bend, .bldi k imm, .baddi k j imm, .bloop k imm, .bbeq k j imm, .bmac k j n f ij ic,
      .bmacs k n f ic, .bzero n, .bmov n m, .baddv n m, .bmaxv n m, .bred n, .bscl n, .brelu n, .bemit k n md ic] : List Instr),
      ∃ w, encode i = [w] ∧ decodeBank w = some i)
  ∧ ∀ w i, decodeBank w = some i → wf i = true ∧ ∃ v, encode i = [v] ∧ decodeBank v = some i

/-- EVERY STEP KEEPS THE INVARIANT: main memory, scratchpad, flash and boot SRAM keep their canonical form, addresses strictly rising
and no zero listed (log entry 5), and commands stay listed under rising numbers. -/
def Obligations.InvariantKept : Prop := ∀ s t : State, s.Inv → step s = .next t → t.Inv
end

