-- ==== Sys2Proof/Laws/Exec.lean ====
section
/-! SUPPORT. The meaning of each constructor, as an equation of `exec`: no proof unfolds `exec`. -/

namespace Sys2Proof.Machine

open Sys2Proof

variable (s : State)

@[simp] theorem exec_nop : exec .nop s = execNop s := rfl
@[simp] theorem exec_bra (n off g) : exec (.bra n off g) s = execBra n off g s := rfl
@[simp] theorem exec_brx (n t g) : exec (.brx n t g) s = execBrx n t g s := rfl
@[simp] theorem exec_call (n off) : exec (.call n off) s = execCall n off s := rfl
@[simp] theorem exec_callx (n t) : exec (.callx n t) s = execCallx n t s := rfl
@[simp] theorem exec_ret (n) : exec (.ret n) s = execRet n s := rfl
@[simp] theorem exec_join (timeout off) : exec (.join timeout off) s = execJoin timeout off s := rfl
@[simp] theorem exec_exit (g) : exec (.exit g) s = execExit g s := rfl
@[simp] theorem exec_yield : exec .yield s = execYield s := rfl
@[simp] theorem exec_sleep (cycles g) : exec (.sleep cycles g) s = execSleep cycles g s := rfl
@[simp] theorem exec_trap (code g) : exec (.trap code g) s = execTrap code g s := rfl
@[simp] theorem exec_brk (code) : exec (.brk code) s = execBrk code s := rfl
@[simp] theorem exec_spawn (blk other v k off g) : exec (.spawn blk other v k off g) s = execSpawn blk other v k off g s := rfl
@[simp] theorem exec_reord (key v k off g) : exec (.reord key v k off g) s = execReord key v k off g s := rfl
@[simp] theorem exec_wflush : exec .wflush s = execWflush s := rfl
@[simp] theorem exec_tile (w) : exec (.tile w) s = execTile w s := rfl
@[simp] theorem exec_iadd (d a b ty sat g) : exec (.iadd d a b ty sat g) s = execIadd d a b ty sat g s := rfl
@[simp] theorem exec_iaddImm (d a ty sat imm) : exec (.iaddImm d a ty sat imm) s = execIaddImm d a ty sat imm s := rfl
@[simp] theorem exec_isub (d a b ty sat g) : exec (.isub d a b ty sat g) s = execIsub d a b ty sat g s := rfl
@[simp] theorem exec_imul (d a b ty sat g) : exec (.imul d a b ty sat g) s = execImul d a b ty sat g s := rfl
@[simp] theorem exec_imulImm (d a ty sat imm) : exec (.imulImm d a ty sat imm) s = execImulImm d a ty sat imm s := rfl
@[simp] theorem exec_imulhi (d a b ty g) : exec (.imulhi d a b ty g) s = execImulhi d a b ty g s := rfl
@[simp] theorem exec_imad (d a b c ty sat g) : exec (.imad d a b c ty sat g) s = execImad d a b c ty sat g s := rfl
@[simp] theorem exec_iabs (d a ty sat g) : exec (.iabs d a ty sat g) s = execIabs d a ty sat g s := rfl
@[simp] theorem exec_imin (d a b ty g) : exec (.imin d a b ty g) s = execImin d a b ty g s := rfl
@[simp] theorem exec_imax (d a b ty g) : exec (.imax d a b ty g) s = execImax d a b ty g s := rfl
@[simp] theorem exec_and (d a b g) : exec (.and d a b g) s = execAnd d a b g s := rfl
@[simp] theorem exec_andImm (d a imm) : exec (.andImm d a imm) s = execAndImm d a imm s := rfl
@[simp] theorem exec_or (d a b g) : exec (.or d a b g) s = execOr d a b g s := rfl
@[simp] theorem exec_orImm (d a imm) : exec (.orImm d a imm) s = execOrImm d a imm s := rfl
@[simp] theorem exec_xor (d a b g) : exec (.xor d a b g) s = execXor d a b g s := rfl
@[simp] theorem exec_xorImm (d a imm) : exec (.xorImm d a imm) s = execXorImm d a imm s := rfl
@[simp] theorem exec_not (d a g) : exec (.not d a g) s = execNot d a g s := rfl
@[simp] theorem exec_shl (d a b g) : exec (.shl d a b g) s = execShl d a b g s := rfl
@[simp] theorem exec_shr (d a b g) : exec (.shr d a b g) s = execShr d a b g s := rfl
@[simp] theorem exec_sar (d a b g) : exec (.sar d a b g) s = execSar d a b g s := rfl
@[simp] theorem exec_popc (d a g) : exec (.popc d a g) s = execPopc d a g s := rfl
@[simp] theorem exec_clz (d a g) : exec (.clz d a g) s = execClz d a g s := rfl
@[simp] theorem exec_brev (d a g) : exec (.brev d a g) s = execBrev d a g s := rfl
@[simp] theorem exec_bfx (d a b ty g) : exec (.bfx d a b ty g) s = execBfx d a b ty g s := rfl
@[simp] theorem exec_bfi (d a b c g) : exec (.bfi d a b c g) s = execBfi d a b c g s := rfl
@[simp] theorem exec_sel (d a b q qneg g) : exec (.sel d a b q qneg g) s = execSel d a b q qneg g s := rfl
@[simp] theorem exec_cmp (pd a b ty c g) : exec (.cmp pd a b ty c g) s = execCmp pd a b ty c g s := rfl
@[simp] theorem exec_idp4 (d a b c na nb sat g) : exec (.idp4 d a b c na nb sat g) s = execIdp4 d a b c na nb sat g s := rfl
@[simp] theorem exec_addc (d a b pout sub cin g) : exec (.addc d a b pout sub cin g) s = execAddc d a b pout sub cin g s := rfl
@[simp] theorem exec_lea (d a b sh sgn g) : exec (.lea d a b sh sgn g) s = execLea d a b sh sgn g s := rfl
@[simp] theorem exec_mov (d a g) : exec (.mov d a g) s = execMov d a g s := rfl
@[simp] theorem exec_movP2r (d g) : exec (.movP2r d g) s = execMovP2r d g s := rfl
@[simp] theorem exec_movR2p (a g) : exec (.movR2p a g) s = execMovR2p a g s := rfl
@[simp] theorem exec_movi (d imm) : exec (.movi d imm) s = execMovi d imm s := rfl
@[simp] theorem exec_fadd (d a b rm g) : exec (.fadd d a b rm g) s = execFadd d a b rm g s := rfl
@[simp] theorem exec_faddImm (d a imm) : exec (.faddImm d a imm) s = execFaddImm d a imm s := rfl
@[simp] theorem exec_fsub (d a b rm g) : exec (.fsub d a b rm g) s = execFsub d a b rm g s := rfl
@[simp] theorem exec_fmul (d a b rm g) : exec (.fmul d a b rm g) s = execFmul d a b rm g s := rfl
@[simp] theorem exec_fmulImm (d a imm) : exec (.fmulImm d a imm) s = execFmulImm d a imm s := rfl
@[simp] theorem exec_ffma (d a b c rm g) : exec (.ffma d a b c rm g) s = execFfma d a b c rm g s := rfl
@[simp] theorem exec_fmin (d a b g) : exec (.fmin d a b g) s = execFmin d a b g s := rfl
@[simp] theorem exec_fmax (d a b g) : exec (.fmax d a b g) s = execFmax d a b g s := rfl
@[simp] theorem exec_fcmp (pd a b c g) : exec (.fcmp pd a b c g) s = execFcmp pd a b c g s := rfl
@[simp] theorem exec_frnd (d a rm g) : exec (.frnd d a rm g) s = execFrnd d a rm g s := rfl
@[simp] theorem exec_cvt (d a c df sf dsel ssel sat rm g) : exec (.cvt d a c df sf dsel ssel sat rm g) s = execCvt d a c df sf dsel ssel sat rm g s := rfl
@[simp] theorem exec_hadd2 (d a b f rm g) : exec (.hadd2 d a b f rm g) s = execHadd2 d a b f rm g s := rfl
@[simp] theorem exec_hmul2 (d a b f rm g) : exec (.hmul2 d a b f rm g) s = execHmul2 d a b f rm g s := rfl
@[simp] theorem exec_hfma2 (d a b c f rm g) : exec (.hfma2 d a b c f rm g) s = execHfma2 d a b c f rm g s := rfl
@[simp] theorem exec_frcp (d a rm la g) : exec (.frcp d a rm la g) s = execFrcp d a rm la g s := rfl
@[simp] theorem exec_frsq (d a rm la g) : exec (.frsq d a rm la g) s = execFrsq d a rm la g s := rfl
@[simp] theorem exec_fsqrt (d a rm la g) : exec (.fsqrt d a rm la g) s = execFsqrt d a rm la g s := rfl
@[simp] theorem exec_fexp2 (d a rm la g) : exec (.fexp2 d a rm la g) s = execFexp2 d a rm la g s := rfl
@[simp] theorem exec_flog2 (d a rm la g) : exec (.flog2 d a rm la g) s = execFlog2 d a rm la g s := rfl
@[simp] theorem exec_fsin (d a rm la g) : exec (.fsin d a rm la g) s = execFsin d a rm la g s := rfl
@[simp] theorem exec_fcos (d a rm la g) : exec (.fcos d a rm la g) s = execFcos d a rm la g s := rfl
@[simp] theorem exec_ftanh (d a rm la g) : exec (.ftanh d a rm la g) s = execFtanh d a rm la g s := rfl
@[simp] theorem exec_qswap (d a m la g) : exec (.qswap d a m la g) s = execQswap d a m la g s := rfl
@[simp] theorem exec_qbcast (d a k la g) : exec (.qbcast d a k la g) s = execQbcast d a k la g s := rfl
@[simp] theorem exec_shfl (d a b m la g) : exec (.shfl d a b m la g) s = execShfl d a b m la g s := rfl
@[simp] theorem exec_vote (d q m occ la g) : exec (.vote d q m occ la g) s = execVote d q m occ la g s := rfl
@[simp] theorem exec_redadd (d a ty occ sat la g) : exec (.redadd d a ty occ sat la g) s = execRedadd d a ty occ sat la g s := rfl
@[simp] theorem exec_redmax (d a ty occ la g) : exec (.redmax d a ty occ la g) s = execRedmax d a ty occ la g s := rfl
@[simp] theorem exec_redmin (d a ty occ la g) : exec (.redmin d a ty occ la g) s = execRedmin d a ty occ la g s := rfl
@[simp] theorem exec_scan (d a op ty occ sat excl la g) : exec (.scan d a op ty occ sat excl la g) s = execScan d a op ty occ sat excl la g s := rfl
@[simp] theorem exec_mma (d a w af wf z steps la g) : exec (.mma d a w af wf z steps la g) s = execMma d a w af wf z steps la g s := rfl
@[simp] theorem exec_mmaw (d a w sc af wf bsel z steps la g) : exec (.mmaw d a w sc af wf bsel z steps la g) s = execMmaw d a w sc af wf bsel z steps la g s := rfl
@[simp] theorem exec_mmas (d a b af wf z steps la g) : exec (.mmas d a b af wf z steps la g) s = execMmas d a b af wf z steps la g s := rfl
@[simp] theorem exec_mmasp (d a w c af wf n z steps la g) : exec (.mmasp d a w c af wf n z steps la g) s = execMmasp d a w c af wf n z steps la g s := rfl
@[simp] theorem exec_ldfrag (d a cnt off la g) : exec (.ldfrag d a cnt off la g) s = execLdfrag d a cnt off la g s := rfl
@[simp] theorem exec_fxpose (d a f sat rm la g) : exec (.fxpose d a f sat rm la g) s = execFxpose d a f sat rm la g s := rfl
@[simp] theorem exec_ldsh (d a sem w off sc la g) : exec (.ldsh d a sem w off sc la g) s = execLdsh d a sem w off sc la g s := rfl
@[simp] theorem exec_stsh (a v sem w off sc g) : exec (.stsh a v sem w off sc g) s = execStsh a v sem w off sc g s := rfl
@[simp] theorem exec_atsh (d a b c op sem w64 sc la g) : exec (.atsh d a b c op sem w64 sc la g) s = execAtsh d a b c op sem w64 sc la g s := rfl
@[simp] theorem exec_ldsp (d a sem w off sc la g) : exec (.ldsp d a sem w off sc la g) s = execLdsp d a sem w off sc la g s := rfl
@[simp] theorem exec_stsp (a v sem w off sc g) : exec (.stsp a v sem w off sc g) s = execStsp a v sem w off sc g s := rfl
@[simp] theorem exec_atsp (d a b c op sem w64 sc la g) : exec (.atsp d a b c op sem w64 sc la g) s = execAtsp d a b c op sem w64 sc la g s := rfl
@[simp] theorem exec_ldc (d a w off la g) : exec (.ldc d a w off la g) s = execLdc d a w off la g s := rfl
@[simp] theorem exec_sreg (d r la g) : exec (.sreg d r la g) s = execSreg d r la g s := rfl
@[simp] theorem exec_sregClr (d la g) : exec (.sregClr d la g) s = execSregClr d la g s := rfl
@[simp] theorem exec_cpy (a v o st solo sp g) : exec (.cpy a v o st solo sp g) s = execCpy a v o st solo sp g s := rfl
@[simp] theorem exec_sealRec (d a rec128 g) : exec (.sealRec d a rec128 g) s = execSealRec d a rec128 g s := rfl
@[simp] theorem exec_gat (n r ix o isp rsp g) : exec (.gat n r ix o isp rsp g) s = execGat n r ix o isp rsp g s := rfl
@[simp] theorem exec_sct (n r ix o isp rsp comb f g) : exec (.sct n r ix o isp rsp comb f g) s = execSct n r ix o isp rsp comb f g s := rfl
@[simp] theorem exec_matom (d a b c op w64 g) : exec (.matom d a b c op w64 g) s = execMatom d a b c op w64 g s := rfl
@[simp] theorem exec_mred (a b op f g) : exec (.mred a b op f g) s = execMred a b op f g s := rfl
@[simp] theorem exec_bkrun (a g) : exec (.bkrun a g) s = execBkrun a g s := rfl
@[simp] theorem exec_pred (r x o g) : exec (.pred r x o g) s = execPred r x o g s := rfl
@[simp] theorem exec_pchk (r x o g) : exec (.pchk r x o g) s = execPchk r x o g s := rfl
@[simp] theorem exec_batch (c g) : exec (.batch c g) s = execBatch c g s := rfl
@[simp] theorem exec_wait (d c n g) : exec (.wait d c n g) s = execWait d c n g s := rfl
@[simp] theorem exec_fence (sc g) : exec (.fence sc g) s = execFence sc g s := rfl
@[simp] theorem exec_bar : exec .bar s = execBar s := rfl
@[simp] theorem exec_barMx : exec .barMx s = execBarMx s := rfl
@[simp] theorem exec_gsync : exec .gsync s = execGsync s := rfl
@[simp] theorem exec_sregw (a r g) : exec (.sregw a r g) s = execSregw a r g s := rfl
@[simp] theorem exec_sregwRd (d r g) : exec (.sregwRd d r g) s = execSregwRd d r g s := rfl
@[simp] theorem exec_qmap (d a b g) : exec (.qmap d a b g) s = execQmap d a b g s := rfl
@[simp] theorem exec_qunmap (d a g) : exec (.qunmap d a g) s = execQunmap d a g s := rfl
@[simp] theorem exec_place (d a g) : exec (.place d a g) s = execPlace d a g s := rfl
@[simp] theorem exec_ctxsave (d a b g) : exec (.ctxsave d a b g) s = execCtxsave d a b g s := rfl
@[simp] theorem exec_ctxrest (d a b g) : exec (.ctxrest d a b g) s = execCtxrest d a b g s := rfl
@[simp] theorem exec_tbinv (k a b g) : exec (.tbinv k a b g) s = execTbinv k a b g s := rfl
@[simp] theorem exec_cinvSprd (g) : exec (.cinvSprd g) s = execCinvSprd g s := rfl
@[simp] theorem exec_cinvRec (b g) : exec (.cinvRec b g) s = execCinvRec b g s := rfl
@[simp] theorem exec_wkload (d a b c die g) : exec (.wkload d a b c die g) s = execWkload d a b c die g s := rfl
@[simp] theorem exec_clauseHeader (h) : exec (.clauseHeader h) s = execClauseHeader h s := rfl
@[simp] theorem exec_issueCycle (core sub) : exec (.issueCycle core sub) s = execIssueCycle core sub s := rfl
@[simp] theorem exec_longLatencyResult (core slot id) : exec (.longLatencyResult core slot id) s = execLongLatencyResult core slot id s := rfl
@[simp] theorem exec_storePerform (src) : exec (.storePerform src) s = execStorePerform src s := rfl
@[simp] theorem exec_atspReply (core slot id) : exec (.atspReply core slot id) s = execAtspReply core slot id s := rfl
@[simp] theorem exec_collectiveStart (core bslot) : exec (.collectiveStart core bslot) s = execCollectiveStart core bslot s := rfl
@[simp] theorem exec_cpyComplete (cmd) : exec (.cpyComplete cmd) s = execCpyComplete cmd s := rfl
@[simp] theorem exec_sealComplete (cmd) : exec (.sealComplete cmd) s = execSealComplete cmd s := rfl
@[simp] theorem exec_gatComplete (cmd) : exec (.gatComplete cmd) s = execGatComplete cmd s := rfl
@[simp] theorem exec_sctComplete (cmd) : exec (.sctComplete cmd) s = execSctComplete cmd s := rfl
@[simp] theorem exec_matomReply (cmd lane) : exec (.matomReply cmd lane) s = execMatomReply cmd lane s := rfl
@[simp] theorem exec_mredAccept (cmd) : exec (.mredAccept cmd) s = execMredAccept cmd s := rfl
@[simp] theorem exec_predComplete (cmd) : exec (.predComplete cmd) s = execPredComplete cmd s := rfl
@[simp] theorem exec_spawnComplete (cmd) : exec (.spawnComplete cmd) s = execSpawnComplete cmd s := rfl
@[simp] theorem exec_fenceComplete (core slot) : exec (.fenceComplete core slot) s = execFenceComplete core slot s := rfl
@[simp] theorem exec_spillRoomFreed (core) : exec (.spillRoomFreed core) s = execSpillRoomFreed core s := rfl
@[simp] theorem exec_setDue (core age) : exec (.setDue core age) s = execSetDue core age s := rfl
@[simp] theorem exec_groupEvict (core slot) : exec (.groupEvict core slot) s = execGroupEvict core slot s := rfl
@[simp] theorem exec_weaverFormGroup (core) : exec (.weaverFormGroup core) s = execWeaverFormGroup core s := rfl
@[simp] theorem exec_joinMerge (core slot) : exec (.joinMerge core slot) s = execJoinMerge core slot s := rfl
@[simp] theorem exec_joinTimeout (core slot) : exec (.joinTimeout core slot) s = execJoinTimeout core slot s := rfl
@[simp] theorem exec_sleepExpire (core slot) : exec (.sleepExpire core slot) s = execSleepExpire core slot s := rfl
@[simp] theorem exec_barrierComplete (core bslot) : exec (.barrierComplete core bslot) s = execBarrierComplete core bslot s := rfl
@[simp] theorem exec_gangBarrierComplete (core bslot) : exec (.gangBarrierComplete core bslot) s = execGangBarrierComplete core bslot s := rfl
@[simp] theorem exec_blockRetire (core bslot) : exec (.blockRetire core bslot) s = execBlockRetire core bslot s := rfl
@[simp] theorem exec_weirChunk (cmd) : exec (.weirChunk cmd) s = execWeirChunk cmd s := rfl
@[simp] theorem exec_weirRefill : exec .weirRefill s = execWeirRefill s := rfl
@[simp] theorem exec_watchdogExpire (core bslot) : exec (.watchdogExpire core bslot) s = execWatchdogExpire core bslot s := rfl
@[simp] theorem exec_walkStart (die walker) : exec (.walkStart die walker) s = execWalkStart die walker s := rfl
@[simp] theorem exec_wldDataReturn (die walker waited) : exec (.wldDataReturn die walker waited) s = execWldDataReturn die walker waited s := rfl
@[simp] theorem exec_walkTimelimit (die walker) : exec (.walkTimelimit die walker) s = execWalkTimelimit die walker s := rfl
@[simp] theorem exec_wadd (d a b) : exec (.wadd d a b) s = execWadd d a b s := rfl
@[simp] theorem exec_wsub (d a b) : exec (.wsub d a b) s = execWsub d a b s := rfl
@[simp] theorem exec_wand (d a b) : exec (.wand d a b) s = execWand d a b s := rfl
@[simp] theorem exec_wor (d a b) : exec (.wor d a b) s = execWor d a b s := rfl
@[simp] theorem exec_wxor (d a b) : exec (.wxor d a b) s = execWxor d a b s := rfl
@[simp] theorem exec_wshl (d a b) : exec (.wshl d a b) s = execWshl d a b s := rfl
@[simp] theorem exec_wshr (d a b) : exec (.wshr d a b) s = execWshr d a b s := rfl
@[simp] theorem exec_wmul (d a b) : exec (.wmul d a b) s = execWmul d a b s := rfl
@[simp] theorem exec_wmulhu (d a b) : exec (.wmulhu d a b) s = execWmulhu d a b s := rfl
@[simp] theorem exec_wsltu (d a b) : exec (.wsltu d a b) s = execWsltu d a b s := rfl
@[simp] theorem exec_wslt (d a b) : exec (.wslt d a b) s = execWslt d a b s := rfl
@[simp] theorem exec_whash (d a b) : exec (.whash d a b) s = execWhash d a b s := rfl
@[simp] theorem exec_waddi (d a imm) : exec (.waddi d a imm) s = execWaddi d a imm s := rfl
@[simp] theorem exec_wandi (d a imm) : exec (.wandi d a imm) s = execWandi d a imm s := rfl
@[simp] theorem exec_wori (d a imm) : exec (.wori d a imm) s = execWori d a imm s := rfl
@[simp] theorem exec_wxori (d a imm) : exec (.wxori d a imm) s = execWxori d a imm s := rfl
@[simp] theorem exec_wshli (d a n) : exec (.wshli d a n) s = execWshli d a n s := rfl
@[simp] theorem exec_wshri (d a n) : exec (.wshri d a n) s = execWshri d a n s := rfl
@[simp] theorem exec_wins (d imm) : exec (.wins d imm) s = execWins d imm s := rfl
@[simp] theorem exec_wbfx (d a pos len) : exec (.wbfx d a pos len) s = execWbfx d a pos len s := rfl
@[simp] theorem exec_wld (d a imm) : exec (.wld d a imm) s = execWld d a imm s := rfl
@[simp] theorem exec_wldw (d a imm) : exec (.wldw d a imm) s = execWldw d a imm s := rfl
@[simp] theorem exec_wlds (d a imm) : exec (.wlds d a imm) s = execWlds d a imm s := rfl
@[simp] theorem exec_wsts (d a imm) : exec (.wsts d a imm) s = execWsts d a imm s := rfl
@[simp] theorem exec_wbeq (a b off) : exec (.wbeq a b off) s = execWbeq a b off s := rfl
@[simp] theorem exec_wbne (a b off) : exec (.wbne a b off) s = execWbne a b off s := rfl
@[simp] theorem exec_wbltu (a b off) : exec (.wbltu a b off) s = execWbltu a b off s := rfl
@[simp] theorem exec_wbgeu (a b off) : exec (.wbgeu a b off) s = execWbgeu a b off s := rfl
@[simp] theorem exec_wblt (a b off) : exec (.wblt a b off) s = execWblt a b off s := rfl
@[simp] theorem exec_wbge (a b off) : exec (.wbge a b off) s = execWbge a b off s := rfl
@[simp] theorem exec_wmap (a b perm size) : exec (.wmap a b perm size) s = execWmap a b perm size s := rfl
@[simp] theorem exec_wnone : exec .wnone s = execWnone s := rfl
@[simp] theorem exec_readPacket (acc) : exec (.readPacket acc) s = execReadPacket acc s := rfl
@[simp] theorem exec_writePacket (acc) : exec (.writePacket acc) s = execWritePacket acc s := rfl
@[simp] theorem exec_atomicPacket (acc) : exec (.atomicPacket acc) s = execAtomicPacket acc s := rfl
@[simp] theorem exec_reducePacket (acc) : exec (.reducePacket acc) s = execReducePacket acc s := rfl
@[simp] theorem exec_queueApply (u) : exec (.queueApply u) s = execQueueApply u s := rfl
@[simp] theorem exec_bankRunPacket (run stack) : exec (.bankRunPacket run stack) s = execBankRunPacket run stack s := rfl
@[simp] theorem exec_bankItemStart (run pc item) : exec (.bankItemStart run pc item) s = execBankItemStart run pc item s := rfl
@[simp] theorem exec_bankRunComplete (run) : exec (.bankRunComplete run) s = execBankRunComplete run s := rfl
@[simp] theorem exec_bnop : exec .bnop s = execBnop s := rfl
@[simp] theorem exec_bend : exec .bend s = execBend s := rfl
@[simp] theorem exec_bldi (k imm) : exec (.bldi k imm) s = execBldi k imm s := rfl
@[simp] theorem exec_baddi (k j imm) : exec (.baddi k j imm) s = execBaddi k j imm s := rfl
@[simp] theorem exec_bloop (k off) : exec (.bloop k off) s = execBloop k off s := rfl
@[simp] theorem exec_bbeq (k j off) : exec (.bbeq k j off) s = execBbeq k j off s := rfl
@[simp] theorem exec_bmac (k j n f ij ic) : exec (.bmac k j n f ij ic) s = execBmac k j n f ij ic s := rfl
@[simp] theorem exec_bmacs (k n f ic) : exec (.bmacs k n f ic) s = execBmacs k n f ic s := rfl
@[simp] theorem exec_bzero (n) : exec (.bzero n) s = execBzero n s := rfl
@[simp] theorem exec_bmov (n m) : exec (.bmov n m) s = execBmov n m s := rfl
@[simp] theorem exec_baddv (n m) : exec (.baddv n m) s = execBaddv n m s := rfl
@[simp] theorem exec_bmaxv (n m) : exec (.bmaxv n m) s = execBmaxv n m s := rfl
@[simp] theorem exec_bred (n) : exec (.bred n) s = execBred n s := rfl
@[simp] theorem exec_bscl (n) : exec (.bscl n) s = execBscl n s := rfl
@[simp] theorem exec_brelu (n) : exec (.brelu n) s = execBrelu n s := rfl
@[simp] theorem exec_bemit (k n m ic) : exec (.bemit k n m ic) s = execBemit k n m ic s := rfl
@[simp] theorem exec_hotAssert (stack) : exec (.hotAssert stack) s = execHotAssert stack s := rfl
@[simp] theorem exec_hotClear (stack) : exec (.hotClear stack) s = execHotClear stack s := rfl
@[simp] theorem exec_stackIsolate (stack) : exec (.stackIsolate stack) s = execStackIsolate stack s := rfl
@[simp] theorem exec_launch (slot core) : exec (.launch slot core) s = execLaunch slot core s := rfl
@[simp] theorem exec_resume (slot core) : exec (.resume slot core) s = execResume slot core s := rfl
@[simp] theorem exec_predicate (slot core) : exec (.predicate slot core) s = execPredicate slot core s := rfl
@[simp] theorem exec_waitPacket (slot core) : exec (.waitPacket slot core) s = execWaitPacket slot core s := rfl
@[simp] theorem exec_waitPacketTimeout (slot) : exec (.waitPacketTimeout slot) s = execWaitPacketTimeout slot s := rfl
@[simp] theorem exec_signal (slot core) : exec (.signal slot core) s = execSignal slot core s := rfl
@[simp] theorem exec_copy (slot core) : exec (.copy slot core) s = execCopy slot core s := rfl
@[simp] theorem exec_nopPacket (slot core) : exec (.nopPacket slot core) s = execNopPacket slot core s := rfl
@[simp] theorem exec_notifyWrite (polder q) : exec (.notifyWrite polder q) s = execNotifyWrite polder q s := rfl
@[simp] theorem exec_featackWrite (polder n val) : exec (.featackWrite polder n val) s = execFeatackWrite polder n val s := rfl
@[simp] theorem exec_registerWrite (r val) : exec (.registerWrite r val) s = execRegisterWrite r val s := rfl
@[simp] theorem exec_railseqEnable : exec .railseqEnable s = execRailseqEnable s := rfl
@[simp] theorem exec_stackStart (stack) : exec (.stackStart stack) s = execStackStart stack s := rfl
@[simp] theorem exec_trainingComplete (stack fail) : exec (.trainingComplete stack fail) s = execTrainingComplete stack fail s := rfl
@[simp] theorem exec_stackIsolateSet (stack) : exec (.stackIsolateSet stack) s = execStackIsolateSet stack s := rfl
@[simp] theorem exec_portEnable (port) : exec (.portEnable port) s = execPortEnable port s := rfl
@[simp] theorem exec_moduleReset : exec .moduleReset s = execModuleReset s := rfl
@[simp] theorem exec_openReq (o) : exec (.openReq o) s = execOpenReq o s := rfl
@[simp] theorem exec_queueReq (polder q slots maxprio desc ring) : exec (.queueReq polder q slots maxprio desc ring) s = execQueueReq polder q slots maxprio desc ring s := rfl
@[simp] theorem exec_loadReq (polder imgs) : exec (.loadReq polder imgs) s = execLoadReq polder imgs s := rfl
@[simp] theorem exec_walkReq (polder image root) : exec (.walkReq polder image root) s = execWalkReq polder image root s := rfl
@[simp] theorem exec_mapReq (polder k r) : exec (.mapReq polder k r) s = execMapReq polder k r s := rfl
@[simp] theorem exec_watchReq (polder word peer q) : exec (.watchReq polder word peer q) s = execWatchReq polder word peer q s := rfl
@[simp] theorem exec_unwatchReq (polder handle) : exec (.unwatchReq polder handle) s = execUnwatchReq polder handle s := rfl
@[simp] theorem exec_quoteReq (polder nonce) : exec (.quoteReq polder nonce) s = execQuoteReq polder nonce s := rfl
@[simp] theorem exec_closeReq (polder grace) : exec (.closeReq polder grace) s = execCloseReq polder grace s := rfl
@[simp] theorem exec_closeGraceExpire (polder) : exec (.closeGraceExpire polder) s = execCloseGraceExpire polder s := rfl
@[simp] theorem exec_invalReq (polder page) : exec (.invalReq polder page) s = execInvalReq polder page s := rfl
@[simp] theorem exec_rmaRead (polder r addr len) : exec (.rmaRead polder r addr len) s = execRmaRead polder r addr len s := rfl
@[simp] theorem exec_rmaWrite (polder r addr bytes) : exec (.rmaWrite polder r addr bytes) s = execRmaWrite polder r addr bytes s := rfl
@[simp] theorem exec_rmaAtomic (polder r addr op w64 b c) : exec (.rmaAtomic polder r addr op w64 b c) s = execRmaAtomic polder r addr op w64 b c s := rfl
@[simp] theorem exec_railStepTimeout : exec .railStepTimeout s = execRailStepTimeout s := rfl
@[simp] theorem exec_portTrainTimeout (port) : exec (.portTrainTimeout port) s = execPortTrainTimeout port s := rfl
@[simp] theorem exec_seepageHalving : exec .seepageHalving s = execSeepageHalving s := rfl
@[simp] theorem exec_selfTestEnd (core pass) : exec (.selfTestEnd core pass) s = execSelfTestEnd core pass s := rfl
@[simp] theorem exec_quarantineRelease (core) : exec (.quarantineRelease core) s = execQuarantineRelease core s := rfl
@[simp] theorem exec_dieLinkRetrainEnd (link ok) : exec (.dieLinkRetrainEnd link ok) s = execDieLinkRetrainEnd link ok s := rfl
@[simp] theorem exec_cxlLinkDown (port) : exec (.cxlLinkDown port) s = execCxlLinkDown port s := rfl
@[simp] theorem exec_watchReportArrival (polder q val) : exec (.watchReportArrival polder q val) s = execWatchReportArrival polder q val s := rfl
@[simp] theorem exec_powerLoss : exec .powerLoss s = execPowerLoss s := rfl
@[simp] theorem exec_uudDrop : exec .uudDrop s = execUudDrop s := rfl
@[simp] theorem exec_unadmittedJobDrop : exec .unadmittedJobDrop s = execUnadmittedJobDrop s := rfl
@[simp] theorem exec_auditOutcome (polder aid) : exec (.auditOutcome polder aid) s = execAuditOutcome polder aid s := rfl
@[simp] theorem exec_portLinkUp (port lanes) : exec (.portLinkUp port lanes) s = execPortLinkUp port lanes s := rfl
@[simp] theorem exec_railPowerGood : exec .railPowerGood s = execRailPowerGood s := rfl
@[simp] theorem exec_precharge (stack pc bank row) : exec (.precharge stack pc bank row) s = execPrecharge stack pc bank row s := rfl
@[simp] theorem exec_neighbourRefresh (stack pc bank row) : exec (.neighbourRefresh stack pc bank row) s = execNeighbourRefresh stack pc bank row s := rfl
@[simp] theorem exec_flitCrcError (link) : exec (.flitCrcError link) s = execFlitCrcError link s := rfl
@[simp] theorem exec_thermalThrottle (die down) : exec (.thermalThrottle die down) s = execThermalThrottle die down s := rfl
@[simp] theorem exec_thermalTrip (die) : exec (.thermalTrip die) s = execThermalTrip die s := rfl
@[simp] theorem exec_stackIsolateClear (stack) : exec (.stackIsolateClear stack) s = execStackIsolateClear stack s := rfl
@[simp] theorem exec_stackerrClear (stack) : exec (.stackerrClear stack) s = execStackerrClear stack s := rfl
@[simp] theorem exec_portDisable (port) : exec (.portDisable port) s = execPortDisable port s := rfl
@[simp] theorem exec_railseqDisable : exec .railseqDisable s = execRailseqDisable s := rfl
@[simp] theorem exec_remoteWriteAck (seq) : exec (.remoteWriteAck seq) s = execRemoteWriteAck seq s := rfl

end Sys2Proof.Machine
end

