-- ==== Sys2Proof/Laws/Fields.lean ====
section
/-! SUPPORT. What each field of a packed Vilesk word reads (R53 to R56): one lemma per field of each packing. -/

namespace Sys2Proof.Laws

@[simp] theorem fMajor_pack0 (maj d : BitVec 8) (a : Src) (m : BitVec 6) : fMajor (pack0 maj d a m) = maj := by
  unfold fMajor pack0
  apply BitVec.eq_of_getLsbD_eq
  intro i hi
  rw [BitVec.getLsbD_extractLsb', BitVec.getLsbD_cast]
  simp only [BitVec.getLsbD_append]
  interval_cases i <;> simp

@[simp] theorem fDst_pack0 (maj d : BitVec 8) (a : Src) (m : BitVec 6) : fDst (pack0 maj d a m) = d := by
  unfold fDst pack0
  apply BitVec.eq_of_getLsbD_eq
  intro i hi
  rw [BitVec.getLsbD_extractLsb', BitVec.getLsbD_cast]
  simp only [BitVec.getLsbD_append]
  interval_cases i <;> simp

@[simp] theorem fSrc0_pack0 (maj d : BitVec 8) (a : Src) (m : BitVec 6) : fSrc0 (pack0 maj d a m) = a := by
  unfold fSrc0 pack0
  cases a with | mk r l k =>
  congr 1
  · apply BitVec.eq_of_getLsbD_eq
    intro i hi
    rw [BitVec.getLsbD_extractLsb', BitVec.getLsbD_cast]
    simp only [BitVec.getLsbD_append]
    interval_cases i <;> simp
  · rw [BitVec.getLsbD_cast]
    simp only [BitVec.getLsbD_append]
    simp
  · rw [BitVec.getLsbD_cast]
    simp only [BitVec.getLsbD_append]
    simp

@[simp] theorem fMinor_pack0 (maj d : BitVec 8) (a : Src) (m : BitVec 6) : fMinor (pack0 maj d a m) = m := by
  unfold fMinor pack0
  apply BitVec.eq_of_getLsbD_eq
  intro i hi
  rw [BitVec.getLsbD_extractLsb', BitVec.getLsbD_cast]
  simp only [BitVec.getLsbD_append]
  interval_cases i <;> simp

@[simp] theorem fSrc1_pack1 (b c : Src) (la : BitVec 4) (g : Guard) (x : BitVec 4) : fSrc1 (pack1 b c la g x) = b := by
  unfold fSrc1 pack1
  cases b with | mk r l k =>
  congr 1
  · apply BitVec.eq_of_getLsbD_eq
    intro i hi
    rw [BitVec.getLsbD_extractLsb', BitVec.getLsbD_cast]
    simp only [BitVec.getLsbD_append]
    interval_cases i <;> simp
  · rw [BitVec.getLsbD_cast]
    simp only [BitVec.getLsbD_append]
    simp
  · rw [BitVec.getLsbD_cast]
    simp only [BitVec.getLsbD_append]
    simp

@[simp] theorem fSrc2_pack1 (b c : Src) (la : BitVec 4) (g : Guard) (x : BitVec 4) : fSrc2 (pack1 b c la g x) = c := by
  unfold fSrc2 pack1
  cases c with | mk r l k =>
  congr 1
  · apply BitVec.eq_of_getLsbD_eq
    intro i hi
    rw [BitVec.getLsbD_extractLsb', BitVec.getLsbD_cast]
    simp only [BitVec.getLsbD_append]
    interval_cases i <;> simp
  · rw [BitVec.getLsbD_cast]
    simp only [BitVec.getLsbD_append]
    simp
  · rw [BitVec.getLsbD_cast]
    simp only [BitVec.getLsbD_append]
    simp

@[simp] theorem fLa_pack1 (b c : Src) (la : BitVec 4) (g : Guard) (x : BitVec 4) : fLa (pack1 b c la g x) = la := by
  unfold fLa pack1
  apply BitVec.eq_of_getLsbD_eq
  intro i hi
  rw [BitVec.getLsbD_extractLsb', BitVec.getLsbD_cast]
  simp only [BitVec.getLsbD_append]
  interval_cases i <;> simp

@[simp] theorem fGuard_pack1 (b c : Src) (la : BitVec 4) (g : Guard) (x : BitVec 4) : fGuard (pack1 b c la g x) = g := by
  unfold fGuard pack1
  cases g with | mk r n =>
  congr 1
  · apply BitVec.eq_of_getLsbD_eq
    intro i hi
    rw [BitVec.getLsbD_extractLsb', BitVec.getLsbD_cast]
    simp only [BitVec.getLsbD_append]
    interval_cases i <;> simp
  · rw [BitVec.getLsbD_cast]
    simp only [BitVec.getLsbD_append]
    simp

@[simp] theorem fX_pack1 (b c : Src) (la : BitVec 4) (g : Guard) (x : BitVec 4) : fX (pack1 b c la g x) = x := by
  unfold fX pack1
  apply BitVec.eq_of_getLsbD_eq
  intro i hi
  rw [BitVec.getLsbD_extractLsb', BitVec.getLsbD_cast]
  simp only [BitVec.getLsbD_append]
  interval_cases i <;> simp

@[simp] theorem fOff_packOff (o : BitVec 20) (la : BitVec 4) (g : Guard) (x : BitVec 4) : fOff (packOff o la g x) = o := by
  unfold fOff packOff
  apply BitVec.eq_of_getLsbD_eq
  intro i hi
  rw [BitVec.getLsbD_extractLsb', BitVec.getLsbD_cast]
  simp only [BitVec.getLsbD_append]
  interval_cases i <;> simp

@[simp] theorem fLa_packOff (o : BitVec 20) (la : BitVec 4) (g : Guard) (x : BitVec 4) : fLa (packOff o la g x) = la := by
  unfold fLa packOff
  apply BitVec.eq_of_getLsbD_eq
  intro i hi
  rw [BitVec.getLsbD_extractLsb', BitVec.getLsbD_cast]
  simp only [BitVec.getLsbD_append]
  interval_cases i <;> simp

@[simp] theorem fGuard_packOff (o : BitVec 20) (la : BitVec 4) (g : Guard) (x : BitVec 4) : fGuard (packOff o la g x) = g := by
  unfold fGuard packOff
  cases g with | mk r n =>
  congr 1
  · apply BitVec.eq_of_getLsbD_eq
    intro i hi
    rw [BitVec.getLsbD_extractLsb', BitVec.getLsbD_cast]
    simp only [BitVec.getLsbD_append]
    interval_cases i <;> simp
  · rw [BitVec.getLsbD_cast]
    simp only [BitVec.getLsbD_append]
    simp

@[simp] theorem fX_packOff (o : BitVec 20) (la : BitVec 4) (g : Guard) (x : BitVec 4) : fX (packOff o la g x) = x := by
  unfold fX packOff
  apply BitVec.eq_of_getLsbD_eq
  intro i hi
  rw [BitVec.getLsbD_extractLsb', BitVec.getLsbD_cast]
  simp only [BitVec.getLsbD_append]
  interval_cases i <;> simp

@[simp] theorem fSrc1_packSt (s : Src) (o : BitVec 10) (g : Guard) (x : BitVec 4) : fSrc1 (packSt s o g x) = s := by
  unfold fSrc1 packSt
  cases s with | mk r l k =>
  congr 1
  · apply BitVec.eq_of_getLsbD_eq
    intro i hi
    rw [BitVec.getLsbD_extractLsb', BitVec.getLsbD_cast]
    simp only [BitVec.getLsbD_append]
    interval_cases i <;> simp
  · rw [BitVec.getLsbD_cast]
    simp only [BitVec.getLsbD_append]
    simp
  · rw [BitVec.getLsbD_cast]
    simp only [BitVec.getLsbD_append]
    simp

@[simp] theorem fOff10_packSt (s : Src) (o : BitVec 10) (g : Guard) (x : BitVec 4) : fOff10 (packSt s o g x) = o := by
  unfold fOff10 packSt
  apply BitVec.eq_of_getLsbD_eq
  intro i hi
  rw [BitVec.getLsbD_extractLsb', BitVec.getLsbD_cast]
  simp only [BitVec.getLsbD_append]
  interval_cases i <;> simp

@[simp] theorem fGuard_packSt (s : Src) (o : BitVec 10) (g : Guard) (x : BitVec 4) : fGuard (packSt s o g x) = g := by
  unfold fGuard packSt
  cases g with | mk r n =>
  congr 1
  · apply BitVec.eq_of_getLsbD_eq
    intro i hi
    rw [BitVec.getLsbD_extractLsb', BitVec.getLsbD_cast]
    simp only [BitVec.getLsbD_append]
    interval_cases i <;> simp
  · rw [BitVec.getLsbD_cast]
    simp only [BitVec.getLsbD_append]
    simp

@[simp] theorem fX_packSt (s : Src) (o : BitVec 10) (g : Guard) (x : BitVec 4) : fX (packSt s o g x) = x := by
  unfold fX packSt
  apply BitVec.eq_of_getLsbD_eq
  intro i hi
  rw [BitVec.getLsbD_extractLsb', BitVec.getLsbD_cast]
  simp only [BitVec.getLsbD_append]
  interval_cases i <;> simp

end Sys2Proof.Laws
end

