-- ==== Sys2Proof/Laws/Table.lean ====
section
/-! SUPPORT. Laws of sparse tables and of byte memories: a read after a write, other keys unchanged, and the canonical
form kept by every operation. -/

namespace Sys2Proof.Machine

variable {α : Type}

@[simp] theorem tfind_nil (k : Nat) : tfind ([] : Table α) k = none := rfl

@[simp] theorem tfind_tput_same (t : Table α) (k : Nat) (v : α) : tfind (tput t k v) k = some v := by
  induction t with
  | nil => simp [tput, tfind]
  | cons e t ih =>
    obtain ⟨j, w⟩ := e
    by_cases h : k = j
    · simp [tput, tfind, h]
    · by_cases h' : k < j <;> simp [tput, tfind, h, h', ih]

@[simp] theorem tfind_tput_ne (t : Table α) {k j : Nat} (v : α) (h : j ≠ k) : tfind (tput t k v) j = tfind t j := by
  induction t with
  | nil => simp [tput, tfind, h]
  | cons e t ih =>
    obtain ⟨i, w⟩ := e
    by_cases hk : k = i
    · subst hk; simp [tput, tfind, h]
    · by_cases h' : k < i <;> simp [tput, tfind, hk, h', h, ih]

/-- A table reads back what was entered, and no other key changes. -/
theorem tfind_tput (t : Table α) (k j : Nat) (v : α) : tfind (tput t k v) j = if j = k then some v else tfind t j := by
  by_cases h : j = k
  · subst h; simp
  · simp [h]

@[simp] theorem tdel_nil (k : Nat) : tdel ([] : Table α) k = [] := rfl

theorem tdel_cons (e : Nat × α) (t : Table α) (k : Nat) : tdel (e :: t) k = if e.1 = k then tdel t k else e :: tdel t k := by
  by_cases h : e.1 = k <;> simp [tdel, h]

@[simp] theorem tfind_tdel_same (t : Table α) (k : Nat) : tfind (tdel t k) k = none := by
  induction t with
  | nil => rfl
  | cons e t ih =>
    obtain ⟨j, w⟩ := e
    by_cases h : j = k
    · simp [tdel_cons, h, ih]
    · simp [tdel_cons, tfind, h, Ne.symm h, ih]

@[simp] theorem tfind_tdel_ne (t : Table α) {k j : Nat} (h : j ≠ k) : tfind (tdel t k) j = tfind t j := by
  induction t with
  | nil => rfl
  | cons e t ih =>
    obtain ⟨i, w⟩ := e
    by_cases hi : i = k
    · subst hi; simp [tdel_cons, tfind, h, ih]
    · simp [tdel_cons, tfind, hi, ih]

/-- Removing a key leaves every other key. -/
theorem tfind_tdel (t : Table α) (k j : Nat) : tfind (tdel t k) j = if j = k then none else tfind t j := by
  by_cases h : j = k
  · subst h; simp
  · simp [h]

@[simp] theorem tget_nil (d : α) (k : Nat) : tget d [] k = d := rfl

@[simp] theorem tget_tput_same (d : α) (t : Table α) (k : Nat) (v : α) : tget d (tput t k v) k = v := by simp [tget]

@[simp] theorem tget_tput_ne (d : α) (t : Table α) {k j : Nat} (v : α) (h : j ≠ k) : tget d (tput t k v) j = tget d t j := by
  simp [tget, h]

/-- What a table with a default reads after an entry. -/
theorem tget_tput (d : α) (t : Table α) (k j : Nat) (v : α) :
    tget d (tput t k v) j = if j = k then v else tget d t j := by
  by_cases h : j = k
  · subst h; simp
  · simp [h]

/-- What a table with a default reads after a write, the default among its values. -/
theorem tget_tset [DecidableEq α] (d : α) (t : Table α) (k j : Nat) (v : α) :
    tget d (tset d t k v) j = if j = k then v else tget d t j := by
  by_cases hv : v = d <;> by_cases h : j = k
  · subst h; simp [tset, tget, hv]
  · simp [tset, tget, hv, h]
  · subst h; simp [tset, tget, hv]
  · simp [tset, tget, hv, h]

@[simp] theorem tget_tset_same [DecidableEq α] (d : α) (t : Table α) (k : Nat) (v : α) : tget d (tset d t k v) k = v := by
  simp [tget_tset]

@[simp] theorem tget_tset_ne [DecidableEq α] (d : α) (t : Table α) {k j : Nat} (v : α) (h : j ≠ k) :
    tget d (tset d t k v) j = tget d t j := by
  simp [tget_tset, h]

/-! ### Rising keys -/

theorem tsortedFrom_mono {t : Table α} {a b : Nat} (h : a ≤ b) (ht : tsortedFrom b t = true) : tsortedFrom a t = true := by
  cases t with
  | nil => rfl
  | cons e t => simp [tsortedFrom] at ht ⊢; exact ⟨h.trans ht.1, ht.2⟩

theorem tsortedFrom_tput {t : Table α} {lo k : Nat} (v : α) (ht : tsortedFrom lo t = true) (h : lo ≤ k) :
    tsortedFrom lo (tput t k v) = true := by
  induction t generalizing lo with
  | nil => simp [tput, tsortedFrom, h]
  | cons e t ih =>
    obtain ⟨j, w⟩ := e
    simp [tsortedFrom] at ht
    by_cases hk : k = j
    · subst hk; simp [tput, tsortedFrom, ht.2, h]
    · by_cases h' : k < j
      · simp [tput, tsortedFrom, hk, h', h, ht.2]
      · simp [tput, tsortedFrom, hk, h', ht.1]
        exact ih ht.2 (by omega)

theorem tsortedFrom_tdel {t : Table α} {lo : Nat} (k : Nat) (ht : tsortedFrom lo t = true) :
    tsortedFrom lo (tdel t k) = true := by
  induction t generalizing lo with
  | nil => rfl
  | cons e t ih =>
    obtain ⟨j, w⟩ := e
    simp only [tsortedFrom, Bool.and_eq_true, decide_eq_true_eq] at ht
    have := ih ht.2
    by_cases hk : j = k
    · simpa [tdel_cons, hk] using tsortedFrom_mono (by omega) this
    · simp [tdel_cons, hk, tsortedFrom, ht.1, this]

theorem mem_tput {t : Table α} {k : Nat} {v : α} {e : Nat × α} (h : e ∈ tput t k v) : e = (k, v) ∨ e ∈ t := by
  induction t with
  | nil => simp [tput] at h; exact .inl h
  | cons x t ih =>
    obtain ⟨j, w⟩ := x
    by_cases hk : k = j
    · simp [tput, hk] at h; rcases h with h | h
      · exact .inl (by simp [h, hk])
      · exact .inr (by simp [h])
    · by_cases h' : k < j
      · simp [tput, hk, h'] at h; rcases h with h | h | h
        · exact .inl h
        · exact .inr (by simp [h])
        · exact .inr (by simp [h])
      · simp [tput, hk, h'] at h; rcases h with h | h
        · exact .inr (by simp [h])
        · rcases ih h with h | h
          · exact .inl h
          · exact .inr (by simp [h])

/-- A write keeps the canonical form of a table with a default. -/
theorem tcanon_tset [DecidableEq α] {d : α} {t : Table α} (k : Nat) (v : α) (h : tcanon d t = true) :
    tcanon d (tset d t k v) = true := by
  simp only [tcanon, Bool.and_eq_true, List.all_eq_true, decide_eq_true_eq] at h ⊢
  by_cases hv : v = d
  · simp only [tset, hv, if_true]
    exact ⟨tsortedFrom_tdel k h.1, fun e he => h.2 e (List.mem_of_mem_filter he)⟩
  · simp only [tset, hv, if_false]
    refine ⟨tsortedFrom_tput v h.1 (Nat.zero_le k), fun e he => ?_⟩
    rcases mem_tput he with rfl | he
    · exact hv
    · exact h.2 e he

/-! ### Byte memories -/

/-- A byte reads as it was written; every other byte is unchanged. -/
theorem mget_mset (m : Memory) (a i : Nat) (b : Byte) : mget (mset m a b) i = if i = a then b else mget m i :=
  tget_tset unlisted m a i b

@[simp] theorem Memory.wf_nil : Memory.wf [] = true := rfl

/-- Writing a byte keeps the canonical form. -/
theorem Memory.wf_mset {m : Memory} (a : Nat) (b : Byte) (h : m.wf = true) : (mset m a b).wf = true := tcanon_tset a b h

/-- Writing bytes keeps the canonical form. -/
theorem Memory.wf_mwrites {m : Memory} (bs : List Byte) (a : Nat) (h : m.wf = true) : (mwrites m a bs).wf = true := by
  induction bs generalizing a with
  | nil => exact h
  | cons b bs ih => exact Memory.wf_mset a b (ih (a + 1))

/-- Writing a word keeps the canonical form. -/
theorem Memory.wf_mset32 {m : Memory} (a : Nat) (w : Word) (h : m.wf = true) : (mset32 m a w).wf = true :=
  Memory.wf_mwrites _ a h

/-- Every byte after a write of bytes: inside the written range the byte written, outside it the byte before. -/
theorem mget_mwrites (m : Memory) (bs : List Byte) (a i : Nat) :
    mget (mwrites m a bs) i = if a ≤ i ∧ i < a + bs.length then bs.getD (i - a) 0 else mget m i := by
  induction bs generalizing a with
  | nil => simp [mwrites]
  | cons b bs ih =>
    rw [mwrites, mget_mset, ih]
    by_cases h : i = a
    · simp [h]
    · by_cases h' : a ≤ i ∧ i < a + (b :: bs).length
      · have h1 : a + 1 ≤ i ∧ i < a + 1 + bs.length := by simp at h'; omega
        have h2 : i - a = (i - (a + 1)) + 1 := by omega
        simp only [h, h1, h', if_true, if_false, and_self]
        rw [h2, List.getD_cons_succ]
      · have h1 : ¬(a + 1 ≤ i ∧ i < a + 1 + bs.length) := by simp at h'; omega
        simp only [h, h1, h', if_false]

@[simp] theorem length_toLe (k n : Nat) : (toLe k n).length = k := by
  induction k generalizing n with
  | zero => rfl
  | succ k ih => simp [toLe, ih]

@[simp] theorem length_mreads (m : Memory) (a n : Nat) : (mreads m a n).length = n := by
  induction n generalizing a with
  | zero => rfl
  | succ n ih => simp [mreads, ih]

/-- Outside the four bytes of a word, a write of the word changes nothing. -/
theorem mget_mset32_ne (m : Memory) (a i : Nat) (w : Word) (h : i < a ∨ a + 4 ≤ i) : mget (mset32 m a w) i = mget m i := by
  rw [mset32, mget_mwrites, if_neg (by simp; omega)]

/-- Little-endian bytes read back as the number, up to their width. -/
theorem ofLe_toLe (k n : Nat) : ofLe (toLe k n) = n % 256 ^ k := by
  induction k generalizing n with
  | zero => simp [toLe, ofLe, Nat.mod_one]
  | succ k ih =>
    rw [toLe, ofLe, ih, pow_succ, Nat.mul_comm (256 ^ k) 256, Nat.mod_mul]
    simp

/-- The bytes just written read back. -/
theorem mreads_mwrites (m : Memory) (bs : List Byte) (a : Nat) : mreads (mwrites m a bs) a bs.length = bs := by
  apply List.ext_getElem
  · simp
  · intro i h1 h2
    have key : ∀ (n b j : Nat) (mm : Memory) (hj : j < (mreads mm b n).length), (mreads mm b n)[j] = mget mm (b + j) := by
      intro n
      induction n with
      | zero => intro b j mm hj; simp [mreads] at hj
      | succ n ih =>
        intro b j mm hj
        cases j with
        | zero => simp [mreads]
        | succ j => simp [mreads, ih]; congr 1; omega
    rw [key, mget_mwrites, if_pos (by simp at h2 ⊢; omega)]
    simp [h2]

/-- A word reads back as it was written. -/
theorem mget32_mset32 (m : Memory) (a : Nat) (w : Word) : mget32 (mset32 m a w) a = w := by
  have h := mreads_mwrites m (toLe 4 w.toNat) a
  rw [length_toLe] at h
  rw [mget32, mset32, h, ofLe_toLe]
  have := w.isLt
  rw [Nat.mod_eq_of_lt (by simpa using this)]
  simp

end Sys2Proof.Machine
end

