-- ==== Sys2Proof/Laws/State.lean ====
section
/-! SUPPORT. One lemma per field per update of the state, true by rfl, and what the named reads give after the named
updates. -/

namespace Sys2Proof.Machine

/-! ### setCore -/

@[simp] theorem State.setCore_agenda (s : State) (c : Nat) (k : Core) : (s.setCore c k).agenda = s.agenda := rfl
@[simp] theorem State.setCore_turns (s : State) (c : Nat) (k : Core) : (s.setCore c k).turns = s.turns := rfl
@[simp] theorem State.setCore_cur (s : State) (c : Nat) (k : Core) : (s.setCore c k).cur = s.cur := rfl
@[simp] theorem State.setCore_ir (s : State) (c : Nat) (k : Core) : (s.setCore c k).ir = s.ir := rfl
@[simp] theorem State.setCore_choices (s : State) (c : Nat) (k : Core) : (s.setCore c k).choices = s.choices := rfl
@[simp] theorem State.setCore_next (s : State) (c : Nat) (k : Core) : (s.setCore c k).next = s.next := rfl
@[simp] theorem State.setCore_powered (s : State) (c : Nat) (k : Core) : (s.setCore c k).powered = s.powered := rfl
@[simp] theorem State.setCore_clock (s : State) (c : Nat) (k : Core) : (s.setCore c k).clock = s.clock := rfl
@[simp] theorem State.setCore_mem (s : State) (c : Nat) (k : Core) : (s.setCore c k).mem = s.mem := rfl
@[simp] theorem State.setCore_flaws (s : State) (c : Nat) (k : Core) : (s.setCore c k).flaws = s.flaws := rfl
@[simp] theorem State.setCore_poison (s : State) (c : Nat) (k : Core) : (s.setCore c k).poison = s.poison := rfl
@[simp] theorem State.setCore_queue (s : State) (c : Nat) (k : Core) : (s.setCore c k).queue = s.queue := rfl
@[simp] theorem State.setCore_sp (s : State) (c : Nat) (k : Core) : (s.setCore c k).sp = s.sp := rfl
@[simp] theorem State.setCore_links (s : State) (c : Nat) (k : Core) : (s.setCore c k).links = s.links := rfl
@[simp] theorem State.setCore_linkQ (s : State) (c : Nat) (k : Core) : (s.setCore c k).linkQ = s.linkQ := rfl
@[simp] theorem State.setCore_dies (s : State) (c : Nat) (k : Core) : (s.setCore c k).dies = s.dies := rfl
@[simp] theorem State.setCore_hbms (s : State) (c : Nat) (k : Core) : (s.setCore c k).hbms = s.hbms := rfl
@[simp] theorem State.setCore_tiers (s : State) (c : Nat) (k : Core) : (s.setCore c k).tiers = s.tiers := rfl
@[simp] theorem State.setCore_ports (s : State) (c : Nat) (k : Core) : (s.setCore c k).ports = s.ports := rfl
@[simp] theorem State.setCore_polders (s : State) (c : Nat) (k : Core) : (s.setCore c k).polders = s.polders := rfl
@[simp] theorem State.setCore_slots (s : State) (c : Nat) (k : Core) : (s.setCore c k).slots = s.slots := rfl
@[simp] theorem State.setCore_unit (s : State) (c : Nat) (k : Core) : (s.setCore c k).unit = s.unit := rfl
@[simp] theorem State.setCore_cmds (s : State) (c : Nat) (k : Core) : (s.setCore c k).cmds = s.cmds := rfl
@[simp] theorem State.setCore_accs (s : State) (c : Nat) (k : Core) : (s.setCore c k).accs = s.accs := rfl
@[simp] theorem State.setCore_runs (s : State) (c : Nat) (k : Core) : (s.setCore c k).runs = s.runs := rfl
@[simp] theorem State.setCore_pool (s : State) (c : Nat) (k : Core) : (s.setCore c k).pool = s.pool := rfl
@[simp] theorem State.setCore_refills (s : State) (c : Nat) (k : Core) : (s.setCore c k).refills = s.refills := rfl
@[simp] theorem State.setCore_halvings (s : State) (c : Nat) (k : Core) : (s.setCore c k).halvings = s.halvings := rfl
@[simp] theorem State.setCore_watches (s : State) (c : Nat) (k : Core) : (s.setCore c k).watches = s.watches := rfl
@[simp] theorem State.setCore_lwatches (s : State) (c : Nat) (k : Core) : (s.setCore c k).lwatches = s.lwatches := rfl
@[simp] theorem State.setCore_reports (s : State) (c : Nat) (k : Core) : (s.setCore c k).reports = s.reports := rfl
@[simp] theorem State.setCore_past (s : State) (c : Nat) (k : Core) : (s.setCore c k).past = s.past := rfl
@[simp] theorem State.setCore_ready (s : State) (c : Nat) (k : Core) : (s.setCore c k).ready = s.ready := rfl
@[simp] theorem State.setCore_idle (s : State) (c : Nat) (k : Core) : (s.setCore c k).idle = s.idle := rfl
@[simp] theorem State.setCore_audits (s : State) (c : Nat) (k : Core) : (s.setCore c k).audits = s.audits := rfl
@[simp] theorem State.setCore_boot (s : State) (c : Nat) (k : Core) : (s.setCore c k).boot = s.boot := rfl
@[simp] theorem State.setCore_rails (s : State) (c : Nat) (k : Core) : (s.setCore c k).rails = s.rails := rfl
@[simp] theorem State.setCore_replies (s : State) (c : Nat) (k : Core) : (s.setCore c k).replies = s.replies := rfl
@[simp] theorem State.setCore_notices (s : State) (c : Nat) (k : Core) : (s.setCore c k).notices = s.notices := rfl
@[simp] theorem State.setCore_jobDrops (s : State) (c : Nat) (k : Core) : (s.setCore c k).jobDrops = s.jobDrops := rfl
@[simp] theorem State.setCore_uudDrops (s : State) (c : Nat) (k : Core) : (s.setCore c k).uudDrops = s.uudDrops := rfl

/-! ### setPolder -/

@[simp] theorem State.setPolder_agenda (s : State) (p : Nat) (x : Polder) : (s.setPolder p x).agenda = s.agenda := rfl
@[simp] theorem State.setPolder_turns (s : State) (p : Nat) (x : Polder) : (s.setPolder p x).turns = s.turns := rfl
@[simp] theorem State.setPolder_cur (s : State) (p : Nat) (x : Polder) : (s.setPolder p x).cur = s.cur := rfl
@[simp] theorem State.setPolder_ir (s : State) (p : Nat) (x : Polder) : (s.setPolder p x).ir = s.ir := rfl
@[simp] theorem State.setPolder_choices (s : State) (p : Nat) (x : Polder) : (s.setPolder p x).choices = s.choices := rfl
@[simp] theorem State.setPolder_next (s : State) (p : Nat) (x : Polder) : (s.setPolder p x).next = s.next := rfl
@[simp] theorem State.setPolder_powered (s : State) (p : Nat) (x : Polder) : (s.setPolder p x).powered = s.powered := rfl
@[simp] theorem State.setPolder_clock (s : State) (p : Nat) (x : Polder) : (s.setPolder p x).clock = s.clock := rfl
@[simp] theorem State.setPolder_mem (s : State) (p : Nat) (x : Polder) : (s.setPolder p x).mem = s.mem := rfl
@[simp] theorem State.setPolder_flaws (s : State) (p : Nat) (x : Polder) : (s.setPolder p x).flaws = s.flaws := rfl
@[simp] theorem State.setPolder_poison (s : State) (p : Nat) (x : Polder) : (s.setPolder p x).poison = s.poison := rfl
@[simp] theorem State.setPolder_queue (s : State) (p : Nat) (x : Polder) : (s.setPolder p x).queue = s.queue := rfl
@[simp] theorem State.setPolder_sp (s : State) (p : Nat) (x : Polder) : (s.setPolder p x).sp = s.sp := rfl
@[simp] theorem State.setPolder_links (s : State) (p : Nat) (x : Polder) : (s.setPolder p x).links = s.links := rfl
@[simp] theorem State.setPolder_linkQ (s : State) (p : Nat) (x : Polder) : (s.setPolder p x).linkQ = s.linkQ := rfl
@[simp] theorem State.setPolder_cores (s : State) (p : Nat) (x : Polder) : (s.setPolder p x).cores = s.cores := rfl
@[simp] theorem State.setPolder_dies (s : State) (p : Nat) (x : Polder) : (s.setPolder p x).dies = s.dies := rfl
@[simp] theorem State.setPolder_hbms (s : State) (p : Nat) (x : Polder) : (s.setPolder p x).hbms = s.hbms := rfl
@[simp] theorem State.setPolder_tiers (s : State) (p : Nat) (x : Polder) : (s.setPolder p x).tiers = s.tiers := rfl
@[simp] theorem State.setPolder_ports (s : State) (p : Nat) (x : Polder) : (s.setPolder p x).ports = s.ports := rfl
@[simp] theorem State.setPolder_slots (s : State) (p : Nat) (x : Polder) : (s.setPolder p x).slots = s.slots := rfl
@[simp] theorem State.setPolder_unit (s : State) (p : Nat) (x : Polder) : (s.setPolder p x).unit = s.unit := rfl
@[simp] theorem State.setPolder_cmds (s : State) (p : Nat) (x : Polder) : (s.setPolder p x).cmds = s.cmds := rfl
@[simp] theorem State.setPolder_accs (s : State) (p : Nat) (x : Polder) : (s.setPolder p x).accs = s.accs := rfl
@[simp] theorem State.setPolder_runs (s : State) (p : Nat) (x : Polder) : (s.setPolder p x).runs = s.runs := rfl
@[simp] theorem State.setPolder_pool (s : State) (p : Nat) (x : Polder) : (s.setPolder p x).pool = s.pool := rfl
@[simp] theorem State.setPolder_refills (s : State) (p : Nat) (x : Polder) : (s.setPolder p x).refills = s.refills := rfl
@[simp] theorem State.setPolder_halvings (s : State) (p : Nat) (x : Polder) : (s.setPolder p x).halvings = s.halvings := rfl
@[simp] theorem State.setPolder_watches (s : State) (p : Nat) (x : Polder) : (s.setPolder p x).watches = s.watches := rfl
@[simp] theorem State.setPolder_lwatches (s : State) (p : Nat) (x : Polder) : (s.setPolder p x).lwatches = s.lwatches := rfl
@[simp] theorem State.setPolder_reports (s : State) (p : Nat) (x : Polder) : (s.setPolder p x).reports = s.reports := rfl
@[simp] theorem State.setPolder_past (s : State) (p : Nat) (x : Polder) : (s.setPolder p x).past = s.past := rfl
@[simp] theorem State.setPolder_ready (s : State) (p : Nat) (x : Polder) : (s.setPolder p x).ready = s.ready := rfl
@[simp] theorem State.setPolder_idle (s : State) (p : Nat) (x : Polder) : (s.setPolder p x).idle = s.idle := rfl
@[simp] theorem State.setPolder_audits (s : State) (p : Nat) (x : Polder) : (s.setPolder p x).audits = s.audits := rfl
@[simp] theorem State.setPolder_boot (s : State) (p : Nat) (x : Polder) : (s.setPolder p x).boot = s.boot := rfl
@[simp] theorem State.setPolder_rails (s : State) (p : Nat) (x : Polder) : (s.setPolder p x).rails = s.rails := rfl
@[simp] theorem State.setPolder_replies (s : State) (p : Nat) (x : Polder) : (s.setPolder p x).replies = s.replies := rfl
@[simp] theorem State.setPolder_notices (s : State) (p : Nat) (x : Polder) : (s.setPolder p x).notices = s.notices := rfl
@[simp] theorem State.setPolder_jobDrops (s : State) (p : Nat) (x : Polder) : (s.setPolder p x).jobDrops = s.jobDrops := rfl
@[simp] theorem State.setPolder_uudDrops (s : State) (p : Nat) (x : Polder) : (s.setPolder p x).uudDrops = s.uudDrops := rfl

/-! ### setDie -/

@[simp] theorem State.setDie_agenda (s : State) (d : Nat) (x : Die) : (s.setDie d x).agenda = s.agenda := rfl
@[simp] theorem State.setDie_turns (s : State) (d : Nat) (x : Die) : (s.setDie d x).turns = s.turns := rfl
@[simp] theorem State.setDie_cur (s : State) (d : Nat) (x : Die) : (s.setDie d x).cur = s.cur := rfl
@[simp] theorem State.setDie_ir (s : State) (d : Nat) (x : Die) : (s.setDie d x).ir = s.ir := rfl
@[simp] theorem State.setDie_choices (s : State) (d : Nat) (x : Die) : (s.setDie d x).choices = s.choices := rfl
@[simp] theorem State.setDie_next (s : State) (d : Nat) (x : Die) : (s.setDie d x).next = s.next := rfl
@[simp] theorem State.setDie_powered (s : State) (d : Nat) (x : Die) : (s.setDie d x).powered = s.powered := rfl
@[simp] theorem State.setDie_clock (s : State) (d : Nat) (x : Die) : (s.setDie d x).clock = s.clock := rfl
@[simp] theorem State.setDie_mem (s : State) (d : Nat) (x : Die) : (s.setDie d x).mem = s.mem := rfl
@[simp] theorem State.setDie_flaws (s : State) (d : Nat) (x : Die) : (s.setDie d x).flaws = s.flaws := rfl
@[simp] theorem State.setDie_poison (s : State) (d : Nat) (x : Die) : (s.setDie d x).poison = s.poison := rfl
@[simp] theorem State.setDie_queue (s : State) (d : Nat) (x : Die) : (s.setDie d x).queue = s.queue := rfl
@[simp] theorem State.setDie_sp (s : State) (d : Nat) (x : Die) : (s.setDie d x).sp = s.sp := rfl
@[simp] theorem State.setDie_links (s : State) (d : Nat) (x : Die) : (s.setDie d x).links = s.links := rfl
@[simp] theorem State.setDie_linkQ (s : State) (d : Nat) (x : Die) : (s.setDie d x).linkQ = s.linkQ := rfl
@[simp] theorem State.setDie_cores (s : State) (d : Nat) (x : Die) : (s.setDie d x).cores = s.cores := rfl
@[simp] theorem State.setDie_hbms (s : State) (d : Nat) (x : Die) : (s.setDie d x).hbms = s.hbms := rfl
@[simp] theorem State.setDie_tiers (s : State) (d : Nat) (x : Die) : (s.setDie d x).tiers = s.tiers := rfl
@[simp] theorem State.setDie_ports (s : State) (d : Nat) (x : Die) : (s.setDie d x).ports = s.ports := rfl
@[simp] theorem State.setDie_polders (s : State) (d : Nat) (x : Die) : (s.setDie d x).polders = s.polders := rfl
@[simp] theorem State.setDie_slots (s : State) (d : Nat) (x : Die) : (s.setDie d x).slots = s.slots := rfl
@[simp] theorem State.setDie_unit (s : State) (d : Nat) (x : Die) : (s.setDie d x).unit = s.unit := rfl
@[simp] theorem State.setDie_cmds (s : State) (d : Nat) (x : Die) : (s.setDie d x).cmds = s.cmds := rfl
@[simp] theorem State.setDie_accs (s : State) (d : Nat) (x : Die) : (s.setDie d x).accs = s.accs := rfl
@[simp] theorem State.setDie_runs (s : State) (d : Nat) (x : Die) : (s.setDie d x).runs = s.runs := rfl
@[simp] theorem State.setDie_pool (s : State) (d : Nat) (x : Die) : (s.setDie d x).pool = s.pool := rfl
@[simp] theorem State.setDie_refills (s : State) (d : Nat) (x : Die) : (s.setDie d x).refills = s.refills := rfl
@[simp] theorem State.setDie_halvings (s : State) (d : Nat) (x : Die) : (s.setDie d x).halvings = s.halvings := rfl
@[simp] theorem State.setDie_watches (s : State) (d : Nat) (x : Die) : (s.setDie d x).watches = s.watches := rfl
@[simp] theorem State.setDie_lwatches (s : State) (d : Nat) (x : Die) : (s.setDie d x).lwatches = s.lwatches := rfl
@[simp] theorem State.setDie_reports (s : State) (d : Nat) (x : Die) : (s.setDie d x).reports = s.reports := rfl
@[simp] theorem State.setDie_past (s : State) (d : Nat) (x : Die) : (s.setDie d x).past = s.past := rfl
@[simp] theorem State.setDie_ready (s : State) (d : Nat) (x : Die) : (s.setDie d x).ready = s.ready := rfl
@[simp] theorem State.setDie_idle (s : State) (d : Nat) (x : Die) : (s.setDie d x).idle = s.idle := rfl
@[simp] theorem State.setDie_audits (s : State) (d : Nat) (x : Die) : (s.setDie d x).audits = s.audits := rfl
@[simp] theorem State.setDie_boot (s : State) (d : Nat) (x : Die) : (s.setDie d x).boot = s.boot := rfl
@[simp] theorem State.setDie_rails (s : State) (d : Nat) (x : Die) : (s.setDie d x).rails = s.rails := rfl
@[simp] theorem State.setDie_replies (s : State) (d : Nat) (x : Die) : (s.setDie d x).replies = s.replies := rfl
@[simp] theorem State.setDie_notices (s : State) (d : Nat) (x : Die) : (s.setDie d x).notices = s.notices := rfl
@[simp] theorem State.setDie_jobDrops (s : State) (d : Nat) (x : Die) : (s.setDie d x).jobDrops = s.jobDrops := rfl
@[simp] theorem State.setDie_uudDrops (s : State) (d : Nat) (x : Die) : (s.setDie d x).uudDrops = s.uudDrops := rfl

/-! ### setHbm -/

@[simp] theorem State.setHbm_agenda (s : State) (i : Nat) (x : Stack) : (s.setHbm i x).agenda = s.agenda := rfl
@[simp] theorem State.setHbm_turns (s : State) (i : Nat) (x : Stack) : (s.setHbm i x).turns = s.turns := rfl
@[simp] theorem State.setHbm_cur (s : State) (i : Nat) (x : Stack) : (s.setHbm i x).cur = s.cur := rfl
@[simp] theorem State.setHbm_ir (s : State) (i : Nat) (x : Stack) : (s.setHbm i x).ir = s.ir := rfl
@[simp] theorem State.setHbm_choices (s : State) (i : Nat) (x : Stack) : (s.setHbm i x).choices = s.choices := rfl
@[simp] theorem State.setHbm_next (s : State) (i : Nat) (x : Stack) : (s.setHbm i x).next = s.next := rfl
@[simp] theorem State.setHbm_powered (s : State) (i : Nat) (x : Stack) : (s.setHbm i x).powered = s.powered := rfl
@[simp] theorem State.setHbm_clock (s : State) (i : Nat) (x : Stack) : (s.setHbm i x).clock = s.clock := rfl
@[simp] theorem State.setHbm_mem (s : State) (i : Nat) (x : Stack) : (s.setHbm i x).mem = s.mem := rfl
@[simp] theorem State.setHbm_flaws (s : State) (i : Nat) (x : Stack) : (s.setHbm i x).flaws = s.flaws := rfl
@[simp] theorem State.setHbm_poison (s : State) (i : Nat) (x : Stack) : (s.setHbm i x).poison = s.poison := rfl
@[simp] theorem State.setHbm_queue (s : State) (i : Nat) (x : Stack) : (s.setHbm i x).queue = s.queue := rfl
@[simp] theorem State.setHbm_sp (s : State) (i : Nat) (x : Stack) : (s.setHbm i x).sp = s.sp := rfl
@[simp] theorem State.setHbm_links (s : State) (i : Nat) (x : Stack) : (s.setHbm i x).links = s.links := rfl
@[simp] theorem State.setHbm_linkQ (s : State) (i : Nat) (x : Stack) : (s.setHbm i x).linkQ = s.linkQ := rfl
@[simp] theorem State.setHbm_cores (s : State) (i : Nat) (x : Stack) : (s.setHbm i x).cores = s.cores := rfl
@[simp] theorem State.setHbm_dies (s : State) (i : Nat) (x : Stack) : (s.setHbm i x).dies = s.dies := rfl
@[simp] theorem State.setHbm_tiers (s : State) (i : Nat) (x : Stack) : (s.setHbm i x).tiers = s.tiers := rfl
@[simp] theorem State.setHbm_ports (s : State) (i : Nat) (x : Stack) : (s.setHbm i x).ports = s.ports := rfl
@[simp] theorem State.setHbm_polders (s : State) (i : Nat) (x : Stack) : (s.setHbm i x).polders = s.polders := rfl
@[simp] theorem State.setHbm_slots (s : State) (i : Nat) (x : Stack) : (s.setHbm i x).slots = s.slots := rfl
@[simp] theorem State.setHbm_unit (s : State) (i : Nat) (x : Stack) : (s.setHbm i x).unit = s.unit := rfl
@[simp] theorem State.setHbm_cmds (s : State) (i : Nat) (x : Stack) : (s.setHbm i x).cmds = s.cmds := rfl
@[simp] theorem State.setHbm_accs (s : State) (i : Nat) (x : Stack) : (s.setHbm i x).accs = s.accs := rfl
@[simp] theorem State.setHbm_runs (s : State) (i : Nat) (x : Stack) : (s.setHbm i x).runs = s.runs := rfl
@[simp] theorem State.setHbm_pool (s : State) (i : Nat) (x : Stack) : (s.setHbm i x).pool = s.pool := rfl
@[simp] theorem State.setHbm_refills (s : State) (i : Nat) (x : Stack) : (s.setHbm i x).refills = s.refills := rfl
@[simp] theorem State.setHbm_halvings (s : State) (i : Nat) (x : Stack) : (s.setHbm i x).halvings = s.halvings := rfl
@[simp] theorem State.setHbm_watches (s : State) (i : Nat) (x : Stack) : (s.setHbm i x).watches = s.watches := rfl
@[simp] theorem State.setHbm_lwatches (s : State) (i : Nat) (x : Stack) : (s.setHbm i x).lwatches = s.lwatches := rfl
@[simp] theorem State.setHbm_reports (s : State) (i : Nat) (x : Stack) : (s.setHbm i x).reports = s.reports := rfl
@[simp] theorem State.setHbm_past (s : State) (i : Nat) (x : Stack) : (s.setHbm i x).past = s.past := rfl
@[simp] theorem State.setHbm_ready (s : State) (i : Nat) (x : Stack) : (s.setHbm i x).ready = s.ready := rfl
@[simp] theorem State.setHbm_idle (s : State) (i : Nat) (x : Stack) : (s.setHbm i x).idle = s.idle := rfl
@[simp] theorem State.setHbm_audits (s : State) (i : Nat) (x : Stack) : (s.setHbm i x).audits = s.audits := rfl
@[simp] theorem State.setHbm_boot (s : State) (i : Nat) (x : Stack) : (s.setHbm i x).boot = s.boot := rfl
@[simp] theorem State.setHbm_rails (s : State) (i : Nat) (x : Stack) : (s.setHbm i x).rails = s.rails := rfl
@[simp] theorem State.setHbm_replies (s : State) (i : Nat) (x : Stack) : (s.setHbm i x).replies = s.replies := rfl
@[simp] theorem State.setHbm_notices (s : State) (i : Nat) (x : Stack) : (s.setHbm i x).notices = s.notices := rfl
@[simp] theorem State.setHbm_jobDrops (s : State) (i : Nat) (x : Stack) : (s.setHbm i x).jobDrops = s.jobDrops := rfl
@[simp] theorem State.setHbm_uudDrops (s : State) (i : Nat) (x : Stack) : (s.setHbm i x).uudDrops = s.uudDrops := rfl

/-! ### setGroup -/

@[simp] theorem State.setGroup_agenda (s : State) (c sl : Nat) (g : Group) : (s.setGroup c sl g).agenda = s.agenda := rfl
@[simp] theorem State.setGroup_turns (s : State) (c sl : Nat) (g : Group) : (s.setGroup c sl g).turns = s.turns := rfl
@[simp] theorem State.setGroup_cur (s : State) (c sl : Nat) (g : Group) : (s.setGroup c sl g).cur = s.cur := rfl
@[simp] theorem State.setGroup_ir (s : State) (c sl : Nat) (g : Group) : (s.setGroup c sl g).ir = s.ir := rfl
@[simp] theorem State.setGroup_choices (s : State) (c sl : Nat) (g : Group) : (s.setGroup c sl g).choices = s.choices := rfl
@[simp] theorem State.setGroup_next (s : State) (c sl : Nat) (g : Group) : (s.setGroup c sl g).next = s.next := rfl
@[simp] theorem State.setGroup_powered (s : State) (c sl : Nat) (g : Group) : (s.setGroup c sl g).powered = s.powered := rfl
@[simp] theorem State.setGroup_clock (s : State) (c sl : Nat) (g : Group) : (s.setGroup c sl g).clock = s.clock := rfl
@[simp] theorem State.setGroup_mem (s : State) (c sl : Nat) (g : Group) : (s.setGroup c sl g).mem = s.mem := rfl
@[simp] theorem State.setGroup_flaws (s : State) (c sl : Nat) (g : Group) : (s.setGroup c sl g).flaws = s.flaws := rfl
@[simp] theorem State.setGroup_poison (s : State) (c sl : Nat) (g : Group) : (s.setGroup c sl g).poison = s.poison := rfl
@[simp] theorem State.setGroup_queue (s : State) (c sl : Nat) (g : Group) : (s.setGroup c sl g).queue = s.queue := rfl
@[simp] theorem State.setGroup_sp (s : State) (c sl : Nat) (g : Group) : (s.setGroup c sl g).sp = s.sp := rfl
@[simp] theorem State.setGroup_links (s : State) (c sl : Nat) (g : Group) : (s.setGroup c sl g).links = s.links := rfl
@[simp] theorem State.setGroup_linkQ (s : State) (c sl : Nat) (g : Group) : (s.setGroup c sl g).linkQ = s.linkQ := rfl
@[simp] theorem State.setGroup_dies (s : State) (c sl : Nat) (g : Group) : (s.setGroup c sl g).dies = s.dies := rfl
@[simp] theorem State.setGroup_hbms (s : State) (c sl : Nat) (g : Group) : (s.setGroup c sl g).hbms = s.hbms := rfl
@[simp] theorem State.setGroup_tiers (s : State) (c sl : Nat) (g : Group) : (s.setGroup c sl g).tiers = s.tiers := rfl
@[simp] theorem State.setGroup_ports (s : State) (c sl : Nat) (g : Group) : (s.setGroup c sl g).ports = s.ports := rfl
@[simp] theorem State.setGroup_polders (s : State) (c sl : Nat) (g : Group) : (s.setGroup c sl g).polders = s.polders := rfl
@[simp] theorem State.setGroup_slots (s : State) (c sl : Nat) (g : Group) : (s.setGroup c sl g).slots = s.slots := rfl
@[simp] theorem State.setGroup_unit (s : State) (c sl : Nat) (g : Group) : (s.setGroup c sl g).unit = s.unit := rfl
@[simp] theorem State.setGroup_cmds (s : State) (c sl : Nat) (g : Group) : (s.setGroup c sl g).cmds = s.cmds := rfl
@[simp] theorem State.setGroup_accs (s : State) (c sl : Nat) (g : Group) : (s.setGroup c sl g).accs = s.accs := rfl
@[simp] theorem State.setGroup_runs (s : State) (c sl : Nat) (g : Group) : (s.setGroup c sl g).runs = s.runs := rfl
@[simp] theorem State.setGroup_pool (s : State) (c sl : Nat) (g : Group) : (s.setGroup c sl g).pool = s.pool := rfl
@[simp] theorem State.setGroup_refills (s : State) (c sl : Nat) (g : Group) : (s.setGroup c sl g).refills = s.refills := rfl
@[simp] theorem State.setGroup_halvings (s : State) (c sl : Nat) (g : Group) : (s.setGroup c sl g).halvings = s.halvings := rfl
@[simp] theorem State.setGroup_watches (s : State) (c sl : Nat) (g : Group) : (s.setGroup c sl g).watches = s.watches := rfl
@[simp] theorem State.setGroup_lwatches (s : State) (c sl : Nat) (g : Group) : (s.setGroup c sl g).lwatches = s.lwatches := rfl
@[simp] theorem State.setGroup_reports (s : State) (c sl : Nat) (g : Group) : (s.setGroup c sl g).reports = s.reports := rfl
@[simp] theorem State.setGroup_past (s : State) (c sl : Nat) (g : Group) : (s.setGroup c sl g).past = s.past := rfl
@[simp] theorem State.setGroup_ready (s : State) (c sl : Nat) (g : Group) : (s.setGroup c sl g).ready = s.ready := rfl
@[simp] theorem State.setGroup_idle (s : State) (c sl : Nat) (g : Group) : (s.setGroup c sl g).idle = s.idle := rfl
@[simp] theorem State.setGroup_audits (s : State) (c sl : Nat) (g : Group) : (s.setGroup c sl g).audits = s.audits := rfl
@[simp] theorem State.setGroup_boot (s : State) (c sl : Nat) (g : Group) : (s.setGroup c sl g).boot = s.boot := rfl
@[simp] theorem State.setGroup_rails (s : State) (c sl : Nat) (g : Group) : (s.setGroup c sl g).rails = s.rails := rfl
@[simp] theorem State.setGroup_replies (s : State) (c sl : Nat) (g : Group) : (s.setGroup c sl g).replies = s.replies := rfl
@[simp] theorem State.setGroup_notices (s : State) (c sl : Nat) (g : Group) : (s.setGroup c sl g).notices = s.notices := rfl
@[simp] theorem State.setGroup_jobDrops (s : State) (c sl : Nat) (g : Group) : (s.setGroup c sl g).jobDrops = s.jobDrops := rfl
@[simp] theorem State.setGroup_uudDrops (s : State) (c sl : Nat) (g : Group) : (s.setGroup c sl g).uudDrops = s.uudDrops := rfl

/-! ### setBlock -/

@[simp] theorem State.setBlock_agenda (s : State) (c b : Nat) (x : Block) : (s.setBlock c b x).agenda = s.agenda := rfl
@[simp] theorem State.setBlock_turns (s : State) (c b : Nat) (x : Block) : (s.setBlock c b x).turns = s.turns := rfl
@[simp] theorem State.setBlock_cur (s : State) (c b : Nat) (x : Block) : (s.setBlock c b x).cur = s.cur := rfl
@[simp] theorem State.setBlock_ir (s : State) (c b : Nat) (x : Block) : (s.setBlock c b x).ir = s.ir := rfl
@[simp] theorem State.setBlock_choices (s : State) (c b : Nat) (x : Block) : (s.setBlock c b x).choices = s.choices := rfl
@[simp] theorem State.setBlock_next (s : State) (c b : Nat) (x : Block) : (s.setBlock c b x).next = s.next := rfl
@[simp] theorem State.setBlock_powered (s : State) (c b : Nat) (x : Block) : (s.setBlock c b x).powered = s.powered := rfl
@[simp] theorem State.setBlock_clock (s : State) (c b : Nat) (x : Block) : (s.setBlock c b x).clock = s.clock := rfl
@[simp] theorem State.setBlock_mem (s : State) (c b : Nat) (x : Block) : (s.setBlock c b x).mem = s.mem := rfl
@[simp] theorem State.setBlock_flaws (s : State) (c b : Nat) (x : Block) : (s.setBlock c b x).flaws = s.flaws := rfl
@[simp] theorem State.setBlock_poison (s : State) (c b : Nat) (x : Block) : (s.setBlock c b x).poison = s.poison := rfl
@[simp] theorem State.setBlock_queue (s : State) (c b : Nat) (x : Block) : (s.setBlock c b x).queue = s.queue := rfl
@[simp] theorem State.setBlock_sp (s : State) (c b : Nat) (x : Block) : (s.setBlock c b x).sp = s.sp := rfl
@[simp] theorem State.setBlock_links (s : State) (c b : Nat) (x : Block) : (s.setBlock c b x).links = s.links := rfl
@[simp] theorem State.setBlock_linkQ (s : State) (c b : Nat) (x : Block) : (s.setBlock c b x).linkQ = s.linkQ := rfl
@[simp] theorem State.setBlock_dies (s : State) (c b : Nat) (x : Block) : (s.setBlock c b x).dies = s.dies := rfl
@[simp] theorem State.setBlock_hbms (s : State) (c b : Nat) (x : Block) : (s.setBlock c b x).hbms = s.hbms := rfl
@[simp] theorem State.setBlock_tiers (s : State) (c b : Nat) (x : Block) : (s.setBlock c b x).tiers = s.tiers := rfl
@[simp] theorem State.setBlock_ports (s : State) (c b : Nat) (x : Block) : (s.setBlock c b x).ports = s.ports := rfl
@[simp] theorem State.setBlock_polders (s : State) (c b : Nat) (x : Block) : (s.setBlock c b x).polders = s.polders := rfl
@[simp] theorem State.setBlock_slots (s : State) (c b : Nat) (x : Block) : (s.setBlock c b x).slots = s.slots := rfl
@[simp] theorem State.setBlock_unit (s : State) (c b : Nat) (x : Block) : (s.setBlock c b x).unit = s.unit := rfl
@[simp] theorem State.setBlock_cmds (s : State) (c b : Nat) (x : Block) : (s.setBlock c b x).cmds = s.cmds := rfl
@[simp] theorem State.setBlock_accs (s : State) (c b : Nat) (x : Block) : (s.setBlock c b x).accs = s.accs := rfl
@[simp] theorem State.setBlock_runs (s : State) (c b : Nat) (x : Block) : (s.setBlock c b x).runs = s.runs := rfl
@[simp] theorem State.setBlock_pool (s : State) (c b : Nat) (x : Block) : (s.setBlock c b x).pool = s.pool := rfl
@[simp] theorem State.setBlock_refills (s : State) (c b : Nat) (x : Block) : (s.setBlock c b x).refills = s.refills := rfl
@[simp] theorem State.setBlock_halvings (s : State) (c b : Nat) (x : Block) : (s.setBlock c b x).halvings = s.halvings := rfl
@[simp] theorem State.setBlock_watches (s : State) (c b : Nat) (x : Block) : (s.setBlock c b x).watches = s.watches := rfl
@[simp] theorem State.setBlock_lwatches (s : State) (c b : Nat) (x : Block) : (s.setBlock c b x).lwatches = s.lwatches := rfl
@[simp] theorem State.setBlock_reports (s : State) (c b : Nat) (x : Block) : (s.setBlock c b x).reports = s.reports := rfl
@[simp] theorem State.setBlock_past (s : State) (c b : Nat) (x : Block) : (s.setBlock c b x).past = s.past := rfl
@[simp] theorem State.setBlock_ready (s : State) (c b : Nat) (x : Block) : (s.setBlock c b x).ready = s.ready := rfl
@[simp] theorem State.setBlock_idle (s : State) (c b : Nat) (x : Block) : (s.setBlock c b x).idle = s.idle := rfl
@[simp] theorem State.setBlock_audits (s : State) (c b : Nat) (x : Block) : (s.setBlock c b x).audits = s.audits := rfl
@[simp] theorem State.setBlock_boot (s : State) (c b : Nat) (x : Block) : (s.setBlock c b x).boot = s.boot := rfl
@[simp] theorem State.setBlock_rails (s : State) (c b : Nat) (x : Block) : (s.setBlock c b x).rails = s.rails := rfl
@[simp] theorem State.setBlock_replies (s : State) (c b : Nat) (x : Block) : (s.setBlock c b x).replies = s.replies := rfl
@[simp] theorem State.setBlock_notices (s : State) (c b : Nat) (x : Block) : (s.setBlock c b x).notices = s.notices := rfl
@[simp] theorem State.setBlock_jobDrops (s : State) (c b : Nat) (x : Block) : (s.setBlock c b x).jobDrops = s.jobDrops := rfl
@[simp] theorem State.setBlock_uudDrops (s : State) (c b : Nat) (x : Block) : (s.setBlock c b x).uudDrops = s.uudDrops := rfl

/-! ### Reads after updates -/

@[simp] theorem State.core_setCore_same (s : State) (c : Nat) (k : Core) : (s.setCore c k).core c = k := by
  simp [State.core, State.setCore]

@[simp] theorem State.core_setCore_ne (s : State) {c d : Nat} (k : Core) (h : d ≠ c) : (s.setCore c k).core d = s.core d := by
  simp [State.core, State.setCore, h]

@[simp] theorem State.polder_setPolder_same (s : State) (p : Nat) (x : Polder) : (s.setPolder p x).polder p = x := by
  simp [State.polder, State.setPolder]

@[simp] theorem State.polder_setPolder_ne (s : State) {p q : Nat} (x : Polder) (h : q ≠ p) :
    (s.setPolder p x).polder q = s.polder q := by
  simp [State.polder, State.setPolder, h]

@[simp] theorem State.die_setDie_same (s : State) (d : Nat) (x : Die) : (s.setDie d x).die d = x := by
  simp [State.die, State.setDie]

@[simp] theorem State.die_setDie_ne (s : State) {d e : Nat} (x : Die) (h : e ≠ d) : (s.setDie d x).die e = s.die e := by
  simp [State.die, State.setDie, h]

@[simp] theorem State.hbm_setHbm_same (s : State) (i : Nat) (x : Stack) : (s.setHbm i x).hbm i = x := by
  simp [State.hbm, State.setHbm]

@[simp] theorem State.hbm_setHbm_ne (s : State) {i j : Nat} (x : Stack) (h : j ≠ i) : (s.setHbm i x).hbm j = s.hbm j := by
  simp [State.hbm, State.setHbm, h]

@[simp] theorem State.group_setGroup_same (s : State) (c sl : Nat) (g : Group) : (s.setGroup c sl g).group c sl = some g := by
  simp [State.group, State.setGroup]

@[simp] theorem State.group_setGroup_ne (s : State) (c : Nat) {sl i : Nat} (g : Group) (h : i ≠ sl) :
    (s.setGroup c sl g).group c i = s.group c i := by
  simp [State.group, State.setGroup, h]

@[simp] theorem State.group_setBlock (s : State) (c b : Nat) (x : Block) (sl : Nat) :
    (s.setBlock c b x).group c sl = s.group c sl := by
  simp [State.group, State.setBlock]

@[simp] theorem State.block_setBlock_same (s : State) (c b : Nat) (x : Block) : (s.setBlock c b x).block c b = some x := by
  simp [State.block, State.setBlock]

@[simp] theorem State.block_setBlock_ne (s : State) (c : Nat) {b i : Nat} (x : Block) (h : i ≠ b) :
    (s.setBlock c b x).block c i = s.block c i := by
  simp [State.block, State.setBlock, h]

@[simp] theorem State.block_setGroup (s : State) (c sl : Nat) (g : Group) (b : Nat) :
    (s.setGroup c sl g).block c b = s.block c b := by
  simp [State.block, State.setGroup]

@[simp] theorem State.core_setPolder (s : State) (p : Nat) (x : Polder) (c : Nat) : (s.setPolder p x).core c = s.core c := rfl
@[simp] theorem State.group_setPolder (s : State) (p : Nat) (x : Polder) (c sl : Nat) : (s.setPolder p x).group c sl = s.group c sl := rfl
@[simp] theorem State.block_setPolder (s : State) (p : Nat) (x : Polder) (c b : Nat) : (s.setPolder p x).block c b = s.block c b := rfl
@[simp] theorem State.core_setDie (s : State) (d : Nat) (x : Die) (c : Nat) : (s.setDie d x).core c = s.core c := rfl
@[simp] theorem State.group_setDie (s : State) (d : Nat) (x : Die) (c sl : Nat) : (s.setDie d x).group c sl = s.group c sl := rfl
@[simp] theorem State.block_setDie (s : State) (d : Nat) (x : Die) (c b : Nat) : (s.setDie d x).block c b = s.block c b := rfl
@[simp] theorem State.core_setHbm (s : State) (i : Nat) (x : Stack) (c : Nat) : (s.setHbm i x).core c = s.core c := rfl
@[simp] theorem State.group_setHbm (s : State) (i : Nat) (x : Stack) (c sl : Nat) : (s.setHbm i x).group c sl = s.group c sl := rfl
@[simp] theorem State.block_setHbm (s : State) (i : Nat) (x : Stack) (c b : Nat) : (s.setHbm i x).block c b = s.block c b := rfl
@[simp] theorem State.polder_setCore (s : State) (c : Nat) (k : Core) (q : Nat) : (s.setCore c k).polder q = s.polder q := rfl
@[simp] theorem State.die_setCore (s : State) (c : Nat) (k : Core) (q : Nat) : (s.setCore c k).die q = s.die q := rfl
@[simp] theorem State.hbm_setCore (s : State) (c : Nat) (k : Core) (q : Nat) : (s.setCore c k).hbm q = s.hbm q := rfl
@[simp] theorem State.polder_setGroup (s : State) (c sl : Nat) (g : Group) (q : Nat) : (s.setGroup c sl g).polder q = s.polder q := rfl
@[simp] theorem State.die_setGroup (s : State) (c sl : Nat) (g : Group) (q : Nat) : (s.setGroup c sl g).die q = s.die q := rfl
@[simp] theorem State.hbm_setGroup (s : State) (c sl : Nat) (g : Group) (q : Nat) : (s.setGroup c sl g).hbm q = s.hbm q := rfl
@[simp] theorem State.polder_setBlock (s : State) (c b : Nat) (x : Block) (q : Nat) : (s.setBlock c b x).polder q = s.polder q := rfl
@[simp] theorem State.die_setBlock (s : State) (c b : Nat) (x : Block) (q : Nat) : (s.setBlock c b x).die q = s.die q := rfl
@[simp] theorem State.hbm_setBlock (s : State) (c b : Nat) (x : Block) (q : Nat) : (s.setBlock c b x).hbm q = s.hbm q := rfl

@[simp] theorem State.core_reset (c : Nat) : State.reset.core c = Core.reset := rfl
@[simp] theorem State.polder_reset (p : Nat) : State.reset.polder p = Polder.reset := rfl
@[simp] theorem State.die_reset (d : Nat) : State.reset.die d = Die.reset := rfl
@[simp] theorem State.hbm_reset (i : Nat) : State.reset.hbm i = Stack.reset := rfl
@[simp] theorem State.group_reset (c sl : Nat) : State.reset.group c sl = none := rfl
@[simp] theorem State.block_reset (c b : Nat) : State.reset.block c b = none := rfl

end Sys2Proof.Machine
end

