-- ==== Sys2Proof/Laws/Issue.lean ====
section
/-! SUPPORT. What issue does, said once: the frame of every operation on one group, the group after the marks of its
instruction, and the effect of instructions that write at once or later. -/

namespace Sys2Proof.Machine

/-! ### The frame -/

theorem OwnGroup.refl (s : State) (c sl : Nat) : OwnGroup s s c sl :=
  ⟨fun _ => rfl, fun _ => rfl, fun _ _ => rfl, fun _ _ _ => rfl, fun _ _ => rfl, fun _ => rfl, rfl⟩

theorem OwnGroup.trans {s t u : State} {c sl : Nat} (h : OwnGroup s t c sl) (k : OwnGroup t u c sl) : OwnGroup s u c sl where
  memory a := (k.memory a).trans (h.memory a)
  scratch a := (k.scratch a).trans (h.scratch a)
  shared d a := (k.shared d a).trans (h.shared d a)
  groups d i n := (k.groups d i n).trans (h.groups d i n)
  blocks d b := (k.blocks d b).trans (h.blocks d b)
  cores d := (k.cores d).trans (h.cores d)
  others := k.others.trans h.others

/-- A core that keeps its memory, its other groups and its blocks but for their marks keeps the frame. -/
theorem OwnGroup.of_setCore (s : State) (c sl : Nat) (k : Core) (hr : k.rest = (s.core c).rest)
    (hg : ∀ i, i ≠ sl → tfind k.groups i = tfind (s.core c).groups i)
    (hb : ∀ b, (tfind k.blocks b).map Block.rest = (tfind (s.core c).blocks b).map Block.rest) :
    OwnGroup s (s.setCore c k) c sl where
  memory _ := rfl
  scratch _ := rfl
  shared d a := by
    by_cases h : d = c
    · subst h; rw [State.core_setCore_same]; exact congrArg (fun m : Memory => mget m a) (congrArg Core.sh hr : k.rest.sh = (s.core d).rest.sh)
    · rw [State.core_setCore_ne _ _ h]
  groups d i n := by
    by_cases h : d = c
    · subst h; simp only [State.group, State.core_setCore_same]; exact hg i fun e => n ⟨rfl, e⟩
    · simp only [State.group, State.core_setCore_ne _ _ h]
  blocks d b := by
    by_cases h : d = c
    · subst h; simp only [State.block, State.core_setCore_same]; exact hb b
    · simp only [State.block, State.core_setCore_ne _ _ h]
  cores d := by
    by_cases h : d = c
    · subst h; rw [State.core_setCore_same]; exact hr
    · rw [State.core_setCore_ne _ _ h]
  others := rfl

theorem OwnGroup.setGroup (s : State) (c sl : Nat) (g : Group) : OwnGroup s (s.setGroup c sl g) c sl :=
  .of_setCore s c sl _ rfl (fun i h => by simp [h]) (fun _ => rfl)

theorem OwnGroup.onGroup (s : State) (c sl : Nat) (f : Group → Group) : OwnGroup s (s.onGroup c sl f) c sl := by
  unfold State.onGroup
  split
  · exact .setGroup s c sl _
  · exact .refl s c sl

theorem OwnGroup.onSub (s : State) (c sl i : Nat) (f : SubCore → SubCore) : OwnGroup s (s.onSub c i f) c sl :=
  .of_setCore s c sl _ rfl (fun _ _ => rfl) (fun _ => rfl)

theorem OwnGroup.setBlock (s : State) (c sl b : Nat) {x y : Block} (h : s.block c b = some x) (hr : y.rest = x.rest) :
    OwnGroup s (s.setBlock c b y) c sl := by
  refine .of_setCore s c sl _ rfl (fun _ _ => rfl) fun i => ?_
  by_cases hi : i = b
  · subst hi
    have : tfind (s.core c).blocks i = some x := h
    simp [this, hr]
  · simp [hi]

theorem OwnGroup.notePoison (s : State) (c sl b : Nat) : OwnGroup s (s.notePoison c b) c sl := by
  unfold State.notePoison
  split
  · next x h => exact .setBlock s c sl b h rfl
  · exact .refl s c sl

theorem OwnGroup.progress (s : State) (c sl b : Nat) : OwnGroup s (s.progress c b) c sl := by
  unfold State.progress
  split
  · next x h => exact .setBlock s c sl b h rfl
  · exact .refl s c sl

theorem OwnGroup.newId (s : State) (c sl : Nat) : OwnGroup s s.newId.2 c sl :=
  ⟨fun _ => rfl, fun _ => rfl, fun _ _ => rfl, fun _ _ _ => rfl, fun _ _ => rfl, fun _ => rfl, rfl⟩

theorem OwnGroup.endRun (s : State) (c sl : Nat) : OwnGroup s (s.endRun c sl) c sl :=
  (OwnGroup.onGroup s c sl _).trans (.onSub _ c sl sl _)

theorem OwnGroup.begun (v : Issue) (s : State) (c sl : Nat) (g : Group) (cl : Clause) :
    OwnGroup s (s.begun v c sl g cl) c sl := by
  unfold State.begun
  have h1 := OwnGroup.setGroup s c sl { (g.marked v).advance v cl with issued := g.issued + portCycles v g.cache }
  have h2 : ∀ t : State, OwnGroup t (if badRead v g then t.notePoison c g.bslot else t) c sl := by
    intro t; split
    · exact .notePoison t c sl _
    · exact .refl t c sl
  have h3 : ∀ (b : Bool) (t : State), OwnGroup t (if b then t.endRun c sl else t) c sl := by
    intro b t; split
    · exact .endRun t c sl
    · exact .refl t c sl
  exact (h1.trans (h2 _)).trans (h3 _ _)

theorem OwnGroup.writeLanes (s : State) (c sl : Nat) (act : Nat → Bool) (f : Nat → List (Loc × Word)) (fl : Nat → Flags) :
    OwnGroup s (s.writeLanes c sl act f fl) c sl := .onGroup s c sl _

theorem OwnGroup.defer (s : State) (c sl la : Nat) (ws : List LWrite) :
    OwnGroup s (s.defer c sl la ws) c sl := by
  unfold State.defer
  split
  · exact .refl s c sl
  · exact (OwnGroup.newId s c sl).trans (.onGroup _ c sl _)

theorem OwnGroup.busyMx (s : State) (c sl n : Nat) : OwnGroup s (s.busyMx c sl n) c sl := .onSub s c sl sl _

/-! ### Groups after operations -/

@[simp] theorem State.group_onSub (s : State) (c i d sl : Nat) (f : SubCore → SubCore) :
    (s.onSub c i f).group d sl = s.group d sl := by
  by_cases h : d = c
  · subst h; simp [State.onSub, State.group]
  · simp [State.onSub, State.group, h]

theorem State.group_onGroup {s : State} {c sl : Nat} {g : Group} (h : s.group c sl = some g) (f : Group → Group) :
    (s.onGroup c sl f).group c sl = some (f g) := by
  simp [State.onGroup, h]

@[simp] theorem State.group_notePoison (s : State) (c b sl : Nat) : (s.notePoison c b).group c sl = s.group c sl := by
  unfold State.notePoison
  split <;> simp

@[simp] theorem State.group_progress (s : State) (c b sl : Nat) : (s.progress c b).group c sl = s.group c sl := by
  unfold State.progress
  split <;> simp

theorem State.group_endRun {s : State} {c sl : Nat} {g : Group} (h : s.group c sl = some g) :
    (s.endRun c sl).group c sl = some { g with run := 0 } := by
  simp [State.endRun, State.group_onGroup h]

/-- The group behind its instruction: marks set, PC and clause moved on; its run may have ended. -/
theorem State.group_begun (v : Issue) (s : State) (c sl : Nat) (g : Group) (cl : Clause) :
    (s.begun v c sl g cl).group c sl = some { (g.marked v).advance v cl with
      issued := g.issued + portCycles v g.cache
      run := if v.runEnd || cl.isLast && cl.hdr.runend then 0 else g.run + 1 } := by
  unfold State.begun
  by_cases hb : badRead v g = true <;> by_cases he : (v.runEnd || cl.isLast && cl.hdr.runend) = true
  all_goals simp only [hb, he, if_true, if_false, Bool.false_eq_true]
  · exact State.group_endRun (g := { (g.marked v).advance v cl with issued := g.issued + portCycles v g.cache })
      (by rw [State.group_notePoison, State.group_setGroup_same])
  · rw [State.group_notePoison, State.group_setGroup_same]; rfl
  · exact State.group_endRun (g := { (g.marked v).advance v cl with issued := g.issued + portCycles v g.cache })
      (by rw [State.group_setGroup_same])
  · rw [State.group_setGroup_same]; rfl

/-! ### Lanes -/

theorem lane_mapLanes (g : Group) (f : Nat → Lane → Lane) {l : Nat} (h : l < 32) :
    (g.mapLanes f).lane l = f l (g.lane l) := by
  have key : ∀ (n a l : Nat) (hl : a ≤ l) (hn : l < a + n),
      tfind ((List.range' a n).map fun i => (i, f i (g.lane i))) l = some (f l (g.lane l)) := by
    intro n
    induction n with
    | zero => intro a l hl hn; omega
    | succ n ih =>
      intro a l hl hn
      rw [List.range'_succ, List.map_cons, tfind]
      by_cases e : l = a
      · simp [e]
      · rw [if_neg e]; exact ih (a + 1) l (by omega) (by omega)
  have := key 32 0 l (Nat.zero_le _) (by omega)
  simp only [Group.lane, Group.mapLanes, lanes32, tget, List.range_eq_range'] at this ⊢
  rw [this]; rfl

/-! ### Registers and predicates of a lane -/

theorem Lane.rest_kill (ln : Lane) (b n : Nat) : (ln.kill b n).rest = ln.rest := by
  unfold Lane.kill; split <;> rfl

theorem Lane.regs_kill (ln : Lane) (b n : Nat) : (ln.kill b n).regs = ln.regs := by
  unfold Lane.kill; split <;> rfl

theorem Lane.preds_kill (ln : Lane) (b n : Nat) : (ln.kill b n).preds = ln.preds := by
  unfold Lane.kill; split <;> rfl

theorem Lane.rest_freshen (ln : Lane) (loc : Loc) : (ln.freshen loc).rest = ln.rest := by cases loc <;> rfl
theorem Lane.regs_freshen (ln : Lane) (loc : Loc) : (ln.freshen loc).regs = ln.regs := by cases loc <;> rfl
theorem Lane.preds_freshen (ln : Lane) (loc : Loc) : (ln.freshen loc).preds = ln.preds := by cases loc <;> rfl

theorem Lane.rest_put (ln : Lane) (loc : Loc) (v : Word) : (ln.put loc v).rest = ln.rest := by
  cases loc
  · simp only [Lane.put, Lane.setReg]; split <;> rfl
  · simp only [Lane.put, Lane.setPred]; split <;> rfl

theorem Lane.st_of_rest {x y : Lane} (h : x.rest = y.rest) : x.st = y.st := by
  have := congrArg Lane.st h
  exact this

/-- A register file after a write (R57): v255 and an empty lane take nothing. -/
theorem Lane.tget_put (ln : Lane) (loc : Loc) (v : Word) (r : Nat) :
    tget 0 (ln.put loc v).regs r = if loc = .reg r ∧ r ≠ 255 ∧ ln.st ≠ .empty then v else tget 0 ln.regs r := by
  cases loc with
  | reg q =>
    simp only [Lane.put, Lane.setReg]
    by_cases h : q = 255 <;> by_cases e : ln.st = .empty <;> by_cases hq : q = r
    all_goals first | subst hq | skip
    all_goals simp_all [tget_tset]
    all_goals intro k; simp_all
  | pred p =>
    simp only [Lane.put, Lane.setPred]
    split <;> simp

theorem bit_or_twoPow (b : BitVec 7) (p k : Nat) (h : p < 7) :
    (b ||| BitVec.twoPow 7 p).getLsbD k = if k = p then true else b.getLsbD k := by
  by_cases e : k = p
  · subst e; simp [h]
  · simp [BitVec.getLsbD_twoPow, e, Ne.symm e]

theorem bit_andNot_twoPow (b : BitVec 7) (p k : Nat) (h : p < 7) :
    (b &&& ~~~(BitVec.twoPow 7 p)).getLsbD k = if k = p then false else b.getLsbD k := by
  by_cases e : k = p
  · subst e; simp [h]
  · by_cases hk : k < 7
    · simp [e, hk]
    · simp [e, BitVec.getLsbD_of_ge b k (by omega)]

/-- Predicates after a write (R84): p7 and an empty lane take nothing. -/
theorem Lane.getLsbD_put (ln : Lane) (loc : Loc) (v : Word) (p : Nat) :
    (ln.put loc v).preds.getLsbD p
      = if loc = .pred p ∧ p < 7 ∧ ln.st ≠ .empty then decide (v ≠ 0) else ln.preds.getLsbD p := by
  cases loc with
  | reg q => simp only [Lane.put, Lane.setReg]; split <;> simp
  | pred q =>
    simp only [Lane.put, Lane.setPred]
    by_cases h : 7 ≤ q ∨ ln.st = .empty
    · have h' : (decide (q ≥ 7) || decide (ln.st = .empty)) = true := by simpa using h
      rw [if_pos h', if_neg]
      rintro ⟨e, hp, hs⟩
      cases e
      rcases h with h | h
      · omega
      · exact hs h
    · have h' : (decide (q ≥ 7) || decide (ln.st = .empty)) = false := by simpa using h
      simp only [h', Bool.false_eq_true, if_false]
      have hq : q < 7 := by omega
      have hs : ln.st ≠ .empty := fun e => h (.inr e)
      by_cases hv : v = 0
      · simp only [hv, ne_eq, not_true, decide_false, Bool.false_eq_true, if_false, bit_andNot_twoPow _ _ _ hq]
        by_cases e : p = q
        · subst e; simp [hq, hs]
        · simp [e, Ne.symm e]
      · simp only [hv, ne_eq, not_false_eq_true, decide_true, if_true, bit_or_twoPow _ _ _ hq]
        by_cases e : p = q
        · subst e; simp [hq, hs]
        · simp [e, Ne.symm e]

theorem Lane.dead_put (ln : Lane) (loc : Loc) (v : Word) : (ln.put loc v).dead = ln.dead := by
  cases loc
  · simp only [Lane.put, Lane.setReg]; split <;> rfl
  · simp only [Lane.put, Lane.setPred]; split <;> rfl

theorem Lane.pend_put (ln : Lane) (loc : Loc) (v : Word) : (ln.put loc v).pend = ln.pend := by
  cases loc
  · simp only [Lane.put, Lane.setReg]; split <;> rfl
  · simp only [Lane.put, Lane.setPred]; split <;> rfl

theorem Lane.st_put (ln : Lane) (loc : Loc) (v : Word) : (ln.put loc v).st = ln.st :=
  Lane.st_of_rest (Lane.rest_put ln loc v)

/-! ### Results of one lane written in turn -/

/-- A lane after a list of results. -/
def Lane.puts (ln : Lane) (ws : List (Loc × Word)) : Lane := ws.foldl (fun ln w => ln.put w.1 w.2) ln

theorem Lane.puts_cons (ln : Lane) (w : Loc × Word) (ws : List (Loc × Word)) :
    ln.puts (w :: ws) = (ln.put w.1 w.2).puts ws := rfl

theorem Lane.rest_puts (ln : Lane) (ws : List (Loc × Word)) : (ln.puts ws).rest = ln.rest := by
  induction ws generalizing ln with
  | nil => rfl
  | cons w ws ih => rw [Lane.puts_cons, ih, Lane.rest_put]

theorem Lane.dead_puts (ln : Lane) (ws : List (Loc × Word)) : (ln.puts ws).dead = ln.dead := by
  induction ws generalizing ln with
  | nil => rfl
  | cons w ws ih => rw [Lane.puts_cons, ih, Lane.dead_put]

theorem Lane.pend_puts (ln : Lane) (ws : List (Loc × Word)) : (ln.puts ws).pend = ln.pend := by
  induction ws generalizing ln with
  | nil => rfl
  | cons w ws ih => rw [Lane.puts_cons, ih, Lane.pend_put]

theorem Lane.st_puts (ln : Lane) (ws : List (Loc × Word)) : (ln.puts ws).st = ln.st :=
  Lane.st_of_rest (Lane.rest_puts ln ws)

theorem Lane.tget_puts_notMem (ln : Lane) (ws : List (Loc × Word)) (r : Nat) (h : Loc.reg r ∉ ws.map Prod.fst) :
    tget 0 (ln.puts ws).regs r = tget 0 ln.regs r := by
  induction ws generalizing ln with
  | nil => rfl
  | cons w ws ih =>
    simp only [List.map_cons, List.mem_cons, not_or] at h
    rw [Lane.puts_cons, ih _ h.2, Lane.tget_put, if_neg fun e => h.1 e.1.symm]

theorem Lane.tget_puts_mem (ln : Lane) (ws : List (Loc × Word)) (hn : (ws.map Prod.fst).Nodup) {r : Nat} {v : Word}
    (h : (Loc.reg r, v) ∈ ws) (hr : r ≠ 255) (hs : ln.st ≠ .empty) : tget 0 (ln.puts ws).regs r = v := by
  induction ws generalizing ln with
  | nil => cases h
  | cons w ws ih =>
    simp only [List.map_cons, List.nodup_cons] at hn
    rcases List.mem_cons.1 h with rfl | h
    · rw [Lane.puts_cons, Lane.tget_puts_notMem _ _ _ hn.1, Lane.tget_put, if_pos ⟨rfl, hr, hs⟩]
    · rw [Lane.puts_cons]; exact ih _ hn.2 h (by rwa [Lane.st_put])

theorem Lane.pred_puts_notMem (ln : Lane) (ws : List (Loc × Word)) (p : Nat) (h : Loc.pred p ∉ ws.map Prod.fst) :
    (ln.puts ws).preds.getLsbD p = ln.preds.getLsbD p := by
  induction ws generalizing ln with
  | nil => rfl
  | cons w ws ih =>
    simp only [List.map_cons, List.mem_cons, not_or] at h
    rw [Lane.puts_cons, ih _ h.2, Lane.getLsbD_put, if_neg fun e => h.1 e.1.symm]

theorem Lane.pred_puts_mem (ln : Lane) (ws : List (Loc × Word)) (hn : (ws.map Prod.fst).Nodup) {p : Nat} {v : Word}
    (h : (Loc.pred p, v) ∈ ws) (hp : p < 7) (hs : ln.st ≠ .empty) : (ln.puts ws).preds.getLsbD p = decide (v ≠ 0) := by
  induction ws generalizing ln with
  | nil => cases h
  | cons w ws ih =>
    simp only [List.map_cons, List.nodup_cons] at hn
    rcases List.mem_cons.1 h with rfl | h
    · rw [Lane.puts_cons, Lane.pred_puts_notMem _ _ _ hn.1, Lane.getLsbD_put, if_pos ⟨rfl, hp, hs⟩]
    · rw [Lane.puts_cons]; exact ih _ hn.2 h (by rwa [Lane.st_put])

/-! ### The marks of an instruction -/

/-- A lane after the marks of an instruction. -/
def Lane.marks (ln : Lane) (v : Issue) (writes : Bool := true) : Lane :=
  let killed := v.uses.foldl (fun ln u => if u.last then ln.kill u.reg u.n else ln) ln
  if writes then v.dsts.foldl Lane.freshen killed else killed

theorem Lane.kills_spec (us : List Use) (ln : Lane) :
    (us.foldl (fun ln u => if u.last then ln.kill u.reg u.n else ln) ln).rest = ln.rest
      ∧ (us.foldl (fun ln u => if u.last then ln.kill u.reg u.n else ln) ln).regs = ln.regs
      ∧ (us.foldl (fun ln u => if u.last then ln.kill u.reg u.n else ln) ln).preds = ln.preds := by
  induction us generalizing ln with
  | nil => exact ⟨rfl, rfl, rfl⟩
  | cons u us ih =>
    obtain ⟨a, b, c⟩ := ih (if u.last then ln.kill u.reg u.n else ln)
    rw [List.foldl_cons, a, b, c]
    split
    · exact ⟨Lane.rest_kill .., Lane.regs_kill .., Lane.preds_kill ..⟩
    · exact ⟨rfl, rfl, rfl⟩

theorem Lane.freshens_spec (ds : List Loc) (ln : Lane) :
    (ds.foldl Lane.freshen ln).rest = ln.rest ∧ (ds.foldl Lane.freshen ln).regs = ln.regs
      ∧ (ds.foldl Lane.freshen ln).preds = ln.preds := by
  induction ds generalizing ln with
  | nil => exact ⟨rfl, rfl, rfl⟩
  | cons d ds ih =>
    obtain ⟨a, b, c⟩ := ih (ln.freshen d)
    exact ⟨a.trans (Lane.rest_freshen ..), b.trans (Lane.regs_freshen ..), c.trans (Lane.preds_freshen ..)⟩

theorem Lane.freshen_keeps (ln : Lane) (d : Loc) (r : Nat) (h : r ∉ ln.dead ∧ tfind ln.pend r = none) :
    r ∉ (ln.freshen d).dead ∧ tfind (ln.freshen d).pend r = none := by
  cases d with
  | reg q =>
    refine ⟨fun m => h.1 (List.mem_of_mem_filter m), ?_⟩
    simp only [Lane.freshen, tfind_tdel]
    split
    · rfl
    · exact h.2
  | pred q => exact h

/-- A destination register is live and not pending after the marks (R62, R148). -/
theorem Lane.freshens_mem (ds : List Loc) (ln : Lane) (r : Nat) (h : Loc.reg r ∈ ds) :
    r ∉ (ds.foldl Lane.freshen ln).dead ∧ tfind (ds.foldl Lane.freshen ln).pend r = none := by
  have keep : ∀ (ds : List Loc) (ln : Lane), (r ∉ ln.dead ∧ tfind ln.pend r = none) →
      r ∉ (ds.foldl Lane.freshen ln).dead ∧ tfind (ds.foldl Lane.freshen ln).pend r = none := by
    intro ds
    induction ds with
    | nil => intro ln h; exact h
    | cons d ds ih => intro ln h; exact ih _ (Lane.freshen_keeps ln d r h)
  induction ds generalizing ln with
  | nil => cases h
  | cons d ds ih =>
    rcases List.mem_cons.1 h with rfl | h
    · exact keep ds _ ⟨by simp [Lane.freshen], by simp [Lane.freshen]⟩
    · exact ih _ h

theorem Lane.marks_spec (ln : Lane) (v : Issue) (w : Bool) :
    (ln.marks v w).rest = ln.rest ∧ (ln.marks v w).regs = ln.regs ∧ (ln.marks v w).preds = ln.preds := by
  have a := Lane.kills_spec v.uses ln
  cases w
  · exact a
  · have b := Lane.freshens_spec v.dsts (v.uses.foldl (fun ln u => if u.last then ln.kill u.reg u.n else ln) ln)
    exact ⟨b.1.trans a.1, b.2.1.trans a.2.1, b.2.2.trans a.2.2⟩

theorem Lane.rest_marks (ln : Lane) (v : Issue) (w : Bool) : (ln.marks v w).rest = ln.rest := (Lane.marks_spec ln v w).1

theorem Lane.regs_marks (ln : Lane) (v : Issue) (w : Bool) : (ln.marks v w).regs = ln.regs := (Lane.marks_spec ln v w).2.1

theorem Lane.preds_marks (ln : Lane) (v : Issue) (w : Bool) : (ln.marks v w).preds = ln.preds :=
  (Lane.marks_spec ln v w).2.2

theorem Lane.st_marks (ln : Lane) (v : Issue) (w : Bool) : (ln.marks v w).st = ln.st :=
  Lane.st_of_rest (Lane.rest_marks ln v w)

theorem Group.lane_marked (g : Group) (v : Issue) {l : Nat} (h : l < 32) :
    (g.marked v).lane l = if g.active v.guard l then (g.lane l).marks v (g.writesIn v l) else g.lane l := by
  have := lane_mapLanes g (fun i ln => if g.active v.guard i then ln.marks v (g.writesIn v i) else ln) h
  exact this

theorem Group.lane_advance (g : Group) (v : Issue) (cl : Clause) (l : Nat) : (g.advance v cl).lane l = g.lane l := rfl

/-- No result on its way hides a destination of an instruction that has just issued (R60). -/
theorem Group.hidden_marked (g : Group) (v : Issue) (cl : Clause) {l : Nat} {loc : Loc} (ha : g.writesIn v l = true)
    (hd : loc ∈ v.dsts) : ((g.marked v).advance v cl).hidden l loc = false := by
  simp only [Group.hidden, Group.advance, Group.marked, Bool.and_eq_false_iff, List.any_eq_false, List.mem_map]
  right
  rintro f ⟨f1, ⟨f0, -, rfl⟩, rfl⟩
  simp only [List.any_eq_true, List.mem_filter]
  rintro ⟨w, ⟨-, hw⟩, hl⟩
  simp only [Bool.and_eq_true, decide_eq_true_eq] at hl
  obtain ⟨rfl, rfl⟩ := hl
  simp [ha, hd] at hw

/-! ### Instructions that write at once -/

/-- Where an instruction issues and its check passes, it acts in the state behind its marks. -/
theorem issueWith_next {i : Instr} {s : State} {c sl : Nat} {g : Group} {cl : Clause} (h : Issues i s c sl g cl)
    (pre : Nat → Nat → Group → State → Check) (body : Nat → Nat → Group → State → State) (hp : pre c sl g s = .ok) :
    issueWith (issueOf i) pre body s = .next (body c sl g (s.begun (issueOf i) c sl g cl)) := by
  simp [issueWith, h.agent, h.group, h.clause, h.ready, h.legal, hp]

theorem issue_next {i : Instr} {s : State} {c sl : Nat} {g : Group} {cl : Clause} (h : Issues i s c sl g cl)
    (body : Nat → Nat → Group → State → State) :
    issue (issueOf i) body s = .next (body c sl g (s.begun (issueOf i) c sl g cl)) :=
  issueWith_next h _ _ rfl

/-- The group behind its marks has passed its instruction (R50, R60, R62). -/
theorem passed_begun (i : Instr) (g : Group) (cl : Clause) (n r : Nat) :
    Passed i g { (g.marked (issueOf i)).advance (issueOf i) cl with issued := n, run := r } where
  pc := rfl
  rest := rfl
  lanes l h := by
    have := Group.lane_marked g (issueOf i) h
    change ((g.marked (issueOf i)).lane l).rest = _
    rw [this]
    split
    · exact Lane.rest_marks ..
    · rfl

/-- An instruction that writes at once has the effect `Wrote`: its locations are distinct, and each is a destination, v255 or
p7. -/
theorem vecLanes_wrote {i : Instr} {gd : Guard} {s : State} {c sl : Nat} {g : Group} {cl : Clause}
    (h : Issues i s c sl g cl) (hg : (issueOf i).guard = gd) (f : Group → Nat → List (Loc × Word) × Flags)
    (hd : ∀ l, ∀ w ∈ (f g l).1, w.1 ∈ (issueOf i).dsts ∨ w.1 = .reg 255 ∨ w.1 = .pred 7)
    (ht : (issueOf i).threads = false)
    (hn : ∀ l, ((f g l).1.map Prod.fst).Nodup) :
    ∃ t, vecLanes (issueOf i) f s = .next t
      ∧ Wrote i gd s t c sl g (fun l => (f g l).1) (fun l => (f g l).2) := by
  subst hg
  have hwr : ∀ l, g.writesIn (issueOf i) l = g.active (issueOf i).guard l := by intro l; simp [Group.writesIn, ht]
  refine ⟨_, issue_next h _, ?_, ?_⟩
  · exact (OwnGroup.begun ..).trans (OwnGroup.writeLanes ..)
  obtain hb := State.group_begun (issueOf i) s c sl g cl
  generalize (if (issueOf i).runEnd || cl.isLast && cl.hdr.runend then 0 else g.run + 1) = r at hb
  generalize g.issued + portCycles (issueOf i) g.cache = n at hb
  obtain ⟨k, hk, hlane, hinf, hrest, hpc, hfs⟩ : ∃ k,
      ((s.begun (issueOf i) c sl g cl).writeLanes c sl (g.active (issueOf i).guard) (fun l => (f g l).1)
        (fun l => (f g l).2)).group c sl = some k
      ∧ (∀ l < 32, k.lane l = if g.active (issueOf i).guard l = true then ((g.lane l).marks (issueOf i)).puts (f g l).1
          else g.lane l)
      ∧ k.inflight = ((g.marked (issueOf i)).advance (issueOf i) cl).inflight
      ∧ k.rest = g.rest ∧ k.pc = g.pc + BitVec.ofNat 32 (4 * (issueOf i).words)
      ∧ k.fstat = (lanes32.filter fun l => g.active (issueOf i).guard l && g.occ l).foldl
          (fun b l => b ||| fstatOf (f g l).2) (markedFstat i g) := by
    refine ⟨_, State.group_onGroup hb _, ?_, rfl, rfl, rfl, ?_⟩
    · intro l hl
      refine (lane_mapLanes _ (fun j ln =>
        if g.active (issueOf i).guard j then (f g j).1.foldl (fun ln w => ln.put w.1 w.2) ln else ln) hl).trans ?_
      change (if _ then ((Group.marked g (issueOf i)).lane l).puts (f g l).1 else (Group.marked g (issueOf i)).lane l) = _
      rw [Group.lane_marked g _ hl, hwr]
      split
      · rename_i ha; rw [ha]
      · rfl
    · have ho : ∀ l < 32, (Group.marked g (issueOf i)).occ l = g.occ l := by
        intro l hl
        have := Lane.st_of_rest ((passed_begun i g cl 0 0).lanes l hl)
        exact congrArg (fun x => decide (x = LaneSt.occupied)) this
      change List.foldl _ (markedFstat i g) (lanes32.filter fun l => g.active (issueOf i).guard l
        && (Group.marked g (issueOf i)).occ l) = _
      congr 1
      apply List.filter_congr
      intro l hm
      rw [ho l (by simpa [lanes32] using hm)]
  refine ⟨k, hk, ⟨hpc, hrest, ?_⟩, ?_, ?_, ?_, ?_, hfs⟩
  · intro l hl
    rw [hlane l hl]
    split
    · rw [Lane.rest_puts, Lane.rest_marks]
    · rfl
  · intro l hl ha r hr w hw
    have hd' : Loc.reg r ∈ (issueOf i).dsts := by
      rcases hd l _ hw with x | x | x
      · exact x
      · cases x; omega
      · cases x
    have hf := Lane.freshens_mem (issueOf i).dsts
      ((issueOf i).uses.foldl (fun ln u => if u.last then ln.kill u.reg u.n else ln) (g.lane l)) r hd'
    have hhid : k.hidden l (.reg r) = false := by
      have := Group.hidden_marked g (issueOf i) cl ((hwr l).trans ha) hd'
      rwa [Group.hidden, ← hinf] at this
    have hs : (g.lane l).st ≠ .empty := by simp [Group.active] at ha; exact ha.1
    have hv := Lane.tget_puts_mem ((g.lane l).marks (issueOf i)) (f g l).1 (hn l) hw (by omega)
      (by rw [Lane.st_marks]; exact hs)
    have h1 : r ∉ ((g.lane l).marks (issueOf i)).dead := hf.1
    have h2 : tfind ((g.lane l).marks (issueOf i)).pend r = none := hf.2
    have h3 : r ≠ 255 := by omega
    simp [Group.reg, Group.bad, hlane l hl, ha, hhid, Lane.st_puts, Lane.st_marks, Lane.dead_puts, Lane.pend_puts, h1, h2,
      h3, hs]
    exact hv
  · intro l hl ha p hp w hw
    have hd' : Loc.pred p ∈ (issueOf i).dsts := by
      rcases hd l _ hw with x | x | x
      · exact x
      · cases x
      · cases x; omega
    have hhid : k.hidden l (.pred p) = false := by
      have := Group.hidden_marked g (issueOf i) cl ((hwr l).trans ha) hd'
      rwa [Group.hidden, ← hinf] at this
    have hs : (g.lane l).st ≠ .empty := by simp [Group.active] at ha; exact ha.1
    have hv := Lane.pred_puts_mem ((g.lane l).marks (issueOf i)) (f g l).1 (hn l) hw hp
      (by rw [Lane.st_marks]; exact hs)
    have h3 : p ≠ 7 := by omega
    simp only [Group.pred, h3, if_false, hlane l hl, ha, if_true, hhid, Lane.st_puts, Lane.st_marks, hs, hv,
      Bool.false_eq_true]
  · intro l hl r hr
    rw [Group.raw, hlane l hl]
    split
    · rename_i ha
      rw [Lane.tget_puts_notMem _ _ _ (hr.resolve_left (by simp [ha])), Lane.regs_marks]; rfl
    · rfl
  · intro l hl p hp
    rw [Group.rawPred, hlane l hl]
    split
    · rename_i ha
      rw [Lane.pred_puts_notMem _ _ _ (hp.resolve_left (by simp [ha])), Lane.preds_marks]; rfl
    · rfl

/-- Results entered for later (R60). -/
theorem State.group_defer {s : State} {c sl : Nat} {g : Group} (h : s.group c sl = some g) (la : Nat)
    (ws : List LWrite) :
    (s.defer c sl la ws).group c sl
      = some (if ws = [] then g else { g with inflight := g.inflight ++
          [{ id := s.next + 1, window := la, writes := ws, reply := false, lines := [], todo := [], got := [], org := default }] }) := by
  unfold State.defer
  by_cases hw : ws = []
  · simp [hw, h]
  · have : ({ s with next := s.next + 1 } : State).group c sl = some g := h
    simp [hw, State.newId, State.group_onGroup this]

/-- An instruction whose results come later has the effect `Later`, where the operations before it on its group's ports
keep the group. -/
theorem later_of_defer {i : Instr} {s u : State} {c sl : Nat} {g : Group} {cl : Clause} (ws : List LWrite)
    (hu : OwnGroup (s.begun (issueOf i) c sl g cl) u c sl)
    (hg : u.group c sl = (s.begun (issueOf i) c sl g cl).group c sl) (hn : u.next = s.next) :
    Later i s (u.defer c sl ((issueOf i).la.getD 0) ws) c sl g ws := by
  rw [State.group_begun] at hg
  refine ⟨(OwnGroup.begun ..).trans (hu.trans (OwnGroup.defer ..)), _, State.group_defer hg _ _, ?_⟩
  have hp := passed_begun i g cl (g.issued + portCycles (issueOf i) g.cache)
    (if (issueOf i).runEnd || cl.isLast && cl.hdr.runend then 0 else g.run + 1)
  have hl : ∀ l < 32, (Group.marked g (issueOf i)).lane l
      = if g.active (issueOf i).guard l then (g.lane l).marks (issueOf i) (g.writesIn (issueOf i) l) else g.lane l :=
    fun l hl => Group.lane_marked g (issueOf i) hl
  have hraw : ∀ l < 32, ∀ r, tget 0 ((Group.marked g (issueOf i)).lane l).regs r = g.raw l r := by
    intro l hl' r; rw [hl l hl']; split
    · rw [Lane.regs_marks]; rfl
    · rfl
  have hpr : ∀ l < 32, ∀ p, ((Group.marked g (issueOf i)).lane l).preds.getLsbD p = g.rawPred l p := by
    intro l hl' p; rw [hl l hl']; split
    · rw [Lane.preds_marks]; rfl
    · rfl
  by_cases hw : ws = []
  · rw [if_pos hw]
    exact ⟨hp, hraw, hpr, rfl, fun h => absurd hw h⟩
  · rw [if_neg hw]
    refine ⟨⟨hp.pc, hp.rest, hp.lanes⟩, hraw, hpr, rfl, fun _ => ⟨_, List.mem_append_right _ (List.mem_singleton.2 rfl), ?_⟩⟩
    exact ⟨congrArg (· + 1) hn, rfl, rfl⟩

@[simp] theorem State.next_onSub (s : State) (c i : Nat) (f : SubCore → SubCore) : (s.onSub c i f).next = s.next := rfl

@[simp] theorem State.next_onGroup (s : State) (c sl : Nat) (f : Group → Group) : (s.onGroup c sl f).next = s.next := by
  unfold State.onGroup; split <;> rfl

@[simp] theorem State.next_notePoison (s : State) (c b : Nat) : (s.notePoison c b).next = s.next := by
  unfold State.notePoison; split <;> rfl

@[simp] theorem State.next_begun (v : Issue) (s : State) (c sl : Nat) (g : Group) (cl : Clause) :
    (s.begun v c sl g cl).next = s.next := by
  unfold State.begun
  by_cases hb : badRead v g = true <;> by_cases he : (v.runEnd || cl.isLast && cl.hdr.runend) = true
  all_goals simp [hb, he, State.endRun]

/-- The results of a long-latency instruction, lane by lane. -/
def laterWrites (v : Issue) (f : Group → Nat → List (Loc × Word) × Flags) (g : Group) : List LWrite :=
  (lanes32.filter (g.active v.guard)).flatMap fun i =>
    (f g i).1.map fun w => { lane := i, loc := w.1, val := w.2, flags := (f g i).2 }

/-- Special functions and cross-lane instructions: the results come later. -/
theorem laterLanes_later {i : Instr} {s : State} {c sl : Nat} {g : Group} {cl : Clause} (h : Issues i s c sl g cl)
    (f : Group → Nat → List (Loc × Word) × Flags) :
    ∃ t, laterLanes (issueOf i) f s = .next t ∧ Later i s t c sl g (laterWrites (issueOf i) f g) :=
  ⟨_, issue_next h _, later_of_defer _ (.refl ..) rfl (State.next_begun ..)⟩

/-- An instruction of one destination register writes it in every active lane. -/
theorem vec3_wrote {i : Instr} {gd : Guard} {s : State} {c sl : Nat} {g : Group} {cl : Clause} (h : Issues i s c sl g cl)
    (hg : (issueOf i).guard = gd) (d : Reg) (hd : (issueOf i).dsts = dstN d 1)
    (ht : (issueOf i).threads = false) (a b c' : Src)
    (op : Word → Word → Word → Word × Flags) :
    ∃ t, vec3 (issueOf i) d a b c' op s = .next t
      ∧ Wrote i gd s t c sl g
        (fun l => [(.reg d.toNat, (op (g.reg l a.reg.toNat) (g.reg l b.reg.toNat) (g.reg l c'.reg.toNat)).1)])
        (fun l => (op (g.reg l a.reg.toNat) (g.reg l b.reg.toNat) (g.reg l c'.reg.toNat)).2) := by
  refine vecLanes_wrote h hg _ (fun l w hw => ?_) ht (fun l => by simp)
  simp only [List.mem_singleton] at hw
  subst hw
  by_cases e : d = 255
  · exact .inr (.inl (by simp [e]))
  · exact .inl (by simpa [hd, dstN] using e)

/-- The pattern of R87: a result computed from the operands as numbers of the type. -/
theorem arith_wrote {i : Instr} {gd : Guard} {s : State} {c sl : Nat} {g : Group} {cl : Clause} (h : Issues i s c sl g cl)
    (hg : (issueOf i).guard = gd) (d : Reg) (hd : (issueOf i).dsts = dstN d 1)
    (ht : (issueOf i).threads = false) (a b c' : Src) (t : Nat × Bool) (sat : Bool)
    (op : Int → Int → Int → Int) :
    ∃ u, arith i d a b c' t sat op s = .next u
      ∧ Wrote i gd s u c sl g (fun l => [(.reg d.toNat, writeT t sat (op (readT t (g.reg l a.reg.toNat))
        (readT t (g.reg l b.reg.toNat)) (readT t (g.reg l c'.reg.toNat))))]) (fun _ => 0) :=
  vec3_wrote h hg d hd ht a b c' _

end Sys2Proof.Machine
end

