-- ==== Sys2Proof/Laws/Reset.lean ====
section
/-! SUPPORT. The memories of the state after reset keep the canonical form. -/

namespace Sys2Proof.Machine

@[simp] theorem State.wf_mem_reset : Memory.wf State.reset.mem = true := rfl
@[simp] theorem State.wf_sp_reset : Memory.wf State.reset.sp = true := rfl
@[simp] theorem State.wf_flash_reset : Memory.wf State.reset.boot.flash = true := rfl
@[simp] theorem State.wf_sram_reset : Memory.wf State.reset.boot.sram = true := rfl
@[simp] theorem Core.wf_sh_reset : Memory.wf Core.reset.sh = true := rfl

end Sys2Proof.Machine
end

