-- ==== Sys2Proof/Tests/Slice0.lean ====
section
/-! SUPPORT. Tests: ill-formed terms, words written out from the encodings of the manual, single steps, and for every statement a
state that meets its hypotheses. -/

namespace Sys2Proof.Tests

set_option Elab.async false

open Sys2Proof.Machine

/-! ### Helpers -/

/-- The unguarded guard, p7. -/
def g7 : Guard := { pred := 7, neg := false }

/-- A source register without marks. -/
def r (n : Reg) : Src := { reg := n, last := false, keep := false }

/-- A module whose core 0 holds one group of 32 threads of polder 1 inside a clause of class `cls`, which is about to issue. -/
def demo (cls : Nat) : State :=
  let s := State.reset.setPolder 1 { Polder.reset with alive := true, cores := 1, spBase := 65536, spSize := 65536, featack := [(0, 0x7FF)] }
  let s := s.setBlock 0 0 (launchBlock (loadLaunch 1 255 false) 0 0 0 [0] 0)
  { s.setGroup 0 0 (loadGroup 0 32 (loadClause cls true 0 0)) with cur := .group 0 0 }

/-- A module in which the reeve of core 0 is about to issue a system instruction. -/
def reeve : State :=
  let s := State.reset.setPolder 0 { Polder.reset with alive := true, cores := 1, spSize := 65536, featack := [(0, 0x7FF)] }
  let s := s.setBlock 0 firmSlot (launchBlock (loadLaunch 0 64 true) 0 firmSlot 0 [63] 0)
  { s.setGroup 0 63 (loadGroup firmSlot 1 (loadClause 7 true 0 0)) with cur := .group 0 63 }

/-- The group in a slot of core 0. -/
def grp (s : State) (sl : Nat) : Group := (s.group 0 sl).getD Group.reset

/-- `Issues`, computed. -/
def issues (i : Instr) (s : State) (sl : Nat) : Bool :=
  match s.group 0 sl with
  | some g =>
    match g.clause with
    | some cl => decide (s.cur = .group 0 sl) && !g.stalled && decide (illegalCause (issueOf i) s 0 sl g cl = none)
    | none => false
  | none => false

theorem issues_spec {i : Instr} {s : State} {sl : Nat} (h : issues i s sl = true) :
    ∃ g cl, s.group 0 sl = some g ∧ Issues i s 0 sl g cl := by
  unfold issues at h
  split at h
  · rename_i g hg
    split at h
    · rename_i cl hcl
      simp at h
      exact ⟨g, cl, hg, h.1.1, hg, hcl, h.1.2, h.2⟩
    · cases h
  · cases h

/-- Under the guard p0. -/
def g0 : Guard := { pred := 0, neg := false }

/-- The demo state with registers that are the same in every lane. -/
def demoR (cls : Nat) (rs : List (Nat × Word)) : State :=
  let s := demo cls
  s.setGroup 0 0 ((grp s 0).mapLanes fun _ ln => { ln with regs := rs })

/-- The demo state with `n` threads. -/
def demoN (cls n : Nat) : State :=
  let s := demo cls
  s.setGroup 0 0 (loadGroup 0 n (loadClause cls true 0 0))

/-- The demo state in whose lane 0 p0 is true. -/
def demoP (cls : Nat) (rs : List (Nat × Word)) : State :=
  let s := demoR cls rs
  s.setGroup 0 0 ((grp s 0).mapLanes fun l ln => if l = 0 then { ln with preds := 1 } else ln)

/-- The demo state in whose clause the instruction has one word. -/
def one (cls : Nat) : State :=
  (demo cls).setGroup 0 0 (loadGroup 0 32 (loadClause cls false 0 0))

/-- The reeve's state with registers. -/
def reeveR (rs : List (Nat × Word)) : State :=
  reeve.setGroup 0 63 ((grp reeve 63).mapLanes fun _ ln => { ln with regs := rs })

/-- Bytes of a word. -/
def le (k n : Nat) : List Byte := toLe k n

/-- The demo state with bytes in core 0's shared memory of block 0. -/
def withSh (s : State) (a : Nat) (bs : List Byte) : State :=
  s.setCore 0 { s.core 0 with sh := mwrites (s.core 0).sh (shBaseFor 0 + a) bs }

/-- An instruction changes the state. -/
def changes (i : Instr) (s : State) : Bool := match exec i s with | .next t => decide (t ≠ s) | _ => false

/-- Main memory of stack 0 can be reached. -/
def open0 (s : State) : State := s.setHbm 0 { s.hbm 0 with isolate := false, state := 2 }

/-- The reeve's state with an entry of the translation buffer that covers addresses from 0, and bytes in main memory. -/
def reeveM (rs : List (Nat × Word)) (a : Nat) (bs : List Byte) : State :=
  let s := reeveR rs
  let e : TEntry := { polder := 0, base := 0, size := 2 ^ 21, frame := 0, perm := 7 }
  let s := s.setHbm 0 { s.hbm 0 with isolate := false, state := 2 }
  { s.setCore 0 { s.core 0 with tb := [e] } with mem := mwrites [] a bs }


/-! ### Decoding -/

/-- A guard by not p2. -/
def gn : Guard := { pred := 2, neg := true }

/-- A source register with its marks. -/
def mk (n : Reg) (l k : Bool) : Src := { reg := n, last := l, keep := k }

/-- R168: words written out from the encodings. -/
theorem test_decode_ctl : ([
    (0x00000000, 0x00000000, .nop),
    (0x01090000, 0xFFFFD050, .bra 9 0xFFFFD gn),
    (0x02091180, 0x00000050, .brx 9 (mk 17 true false) gn),
    (0x03090000, 0x0004D0E0, .call 9 77),
    (0x04091180, 0x000000E0, .callx 9 (mk 17 true false)),
    (0x05090000, 0x000000E0, .ret 9),
    (0x06ABCD00, 0x000050E0, .join 0xABCD 5),
    (0x07000000, 0x00000050, .exit gn),
    (0x08000000, 0x00000000, .yield),
    (0x09000000, 0xFFFFF050, .sleep 0xFFFFF gn),
    (0x0A000000, 0xF1234050, .trap 0x1234 gn),
    (0x0B00003F, 0x00000000, .brk 63),
    (0x0C091198, 0x00006050, .spawn 9 true (mk 17 true false) 8 6 gn),
    (0x0C091183, 0x00006050, .spawn 0 false (mk 17 true false) 3 6 gn),
    (0x0D091188, 0xFFFFF050, .reord 9 (mk 17 true false) 8 0xFFFFF gn),
    (0x0E000000, 0x00000000, .wflush),
    (0x0F000004, 0x00000000, .tile .w16)] : List (Word × Word × Instr)).all
      (fun e => decodeVilesk e.1 e.2.1 = some e.2.2) = true := by decide

/-- R86 to R95: words written out from the encodings. -/
theorem test_decode_int : ([
    (0x1005118B, 0x22400050, .iadd 5 (mk 17 true false) (mk 34 false true) .n16 true gn),
    (0x1105118B, 0xDEADBEEF, .iaddImm 5 (mk 17 true false) .n16 true 0xDEADBEEF),
    (0x12051184, 0x22400050, .isub 5 (mk 17 true false) (mk 34 false true) .i8 false gn),
    (0x13051181, 0x22400050, .imul 5 (mk 17 true false) (mk 34 false true) .n32 false gn),
    (0x14051182, 0xDEADBEEF, .imulImm 5 (mk 17 true false) .i16 false 0xDEADBEEF),
    (0x15051181, 0x22400050, .imulhi 5 (mk 17 true false) (mk 34 false true) .n32 gn),
    (0x1605118D, 0x224CF050, .imad 5 (mk 17 true false) (mk 34 false true) (mk 51 true true) .n8 true gn),
    (0x1705118C, 0x00000050, .iabs 5 (mk 17 true false) .i8 true gn),
    (0x18051183, 0x22400050, .imin 5 (mk 17 true false) (mk 34 false true) .n16 gn),
    (0x19051182, 0x22400050, .imax 5 (mk 17 true false) (mk 34 false true) .i16 gn),
    (0x1A051180, 0x22400050, .and 5 (mk 17 true false) (mk 34 false true) gn),
    (0x1B051180, 0xDEADBEEF, .andImm 5 (mk 17 true false) 0xDEADBEEF),
    (0x1C051180, 0x22400050, .or 5 (mk 17 true false) (mk 34 false true) gn),
    (0x1D051180, 0xDEADBEEF, .orImm 5 (mk 17 true false) 0xDEADBEEF),
    (0x1E051180, 0x22400050, .xor 5 (mk 17 true false) (mk 34 false true) gn),
    (0x1F051180, 0xDEADBEEF, .xorImm 5 (mk 17 true false) 0xDEADBEEF),
    (0x20051180, 0x00000050, .not 5 (mk 17 true false) gn),
    (0x21051180, 0x22400050, .shl 5 (mk 17 true false) (mk 34 false true) gn),
    (0x22051180, 0x22400050, .shr 5 (mk 17 true false) (mk 34 false true) gn),
    (0x23051180, 0x22400050, .sar 5 (mk 17 true false) (mk 34 false true) gn),
    (0x24051180, 0x00000050, .popc 5 (mk 17 true false) gn),
    (0x25051180, 0x00000050, .clz 5 (mk 17 true false) gn),
    (0x26051180, 0x00000050, .brev 5 (mk 17 true false) gn),
    (0x27051181, 0x22400050, .bfx 5 (mk 17 true false) (mk 34 false true) .n32 gn),
    (0x28051180, 0x224CF050, .bfi 5 (mk 17 true false) (mk 34 false true) (mk 51 true true) gn),
    (0x29051180, 0x2240005B, .sel 5 (mk 17 true false) (mk 34 false true) 3 true gn),
    (0x2A061185, 0x22400054, .cmp 6 (mk 17 true false) (mk 34 false true) .n8 .gt gn),
    (0x2B05118A, 0x224CF050, .idp4 5 (mk 17 true false) (mk 34 false true) (mk 51 true true) false true true gn),
    (0x2C05118C, 0x2240005B, .addc 5 (mk 17 true false) (mk 34 false true) 4 true (some 3) gn),
    (0x2C051187, 0x22400053, .addc 5 (mk 17 true false) (mk 34 false true) 7 false none gn),
    (0x2D06128D, 0x22400050, .lea 6 (mk 18 true false) (mk 34 false true) 5 true gn),
    (0x2E051180, 0x00000050, .mov 5 (mk 17 true false) gn),
    (0x2E050001, 0x00000050, .movP2r 5 gn),
    (0x2E001182, 0x00000050, .movR2p (mk 17 true false) gn),
    (0x2F050000, 0xDEADBEEF, .movi 5 0xDEADBEEF)] : List (Word × Word × Instr)).all
      (fun e => decodeVilesk e.1 e.2.1 = some e.2.2) = true := by decide

/-- R96 to R100: words written out from the encodings. -/
theorem test_decode_fp : ([
    (0x30051180, 0x22400053, .fadd 5 (mk 17 true false) (mk 34 false true) .rup gn),
    (0x32051180, 0x22400053, .fsub 5 (mk 17 true false) (mk 34 false true) .rup gn),
    (0x33051180, 0x22400053, .fmul 5 (mk 17 true false) (mk 34 false true) .rup gn),
    (0x31051180, 0xDEADBEEF, .faddImm 5 (mk 17 true false) 0xDEADBEEF),
    (0x34051180, 0xDEADBEEF, .fmulImm 5 (mk 17 true false) 0xDEADBEEF),
    (0x35051180, 0x224CF051, .ffma 5 (mk 17 true false) (mk 34 false true) (mk 51 true true) .rtz gn),
    (0x36051180, 0x22400050, .fmin 5 (mk 17 true false) (mk 34 false true) gn),
    (0x37051180, 0x22400050, .fmax 5 (mk 17 true false) (mk 34 false true) gn),
    (0x38061180, 0x22400056, .fcmp 6 (mk 17 true false) (mk 34 false true) .un gn),
    (0x39051180, 0x00000052, .frnd 5 (mk 17 true false) .rdn gn),
    (0x3A0511A1, 0x490CF05D, .cvt 5 (mk 17 true false) (mk 51 true true) .e5m2 .i8 3 2 true .rtz gn),
    (0x3B051181, 0x22400052, .hadd2 5 (mk 17 true false) (mk 34 false true) .bf16 .rdn gn),
    (0x3C051181, 0x22400052, .hmul2 5 (mk 17 true false) (mk 34 false true) .bf16 .rdn gn),
    (0x3D051180, 0x224CF053, .hfma2 5 (mk 17 true false) (mk 34 false true) (mk 51 true true) .f16 .rup gn)] : List (Word × Word × Instr)).all
      (fun e => decodeVilesk e.1 e.2.1 = some e.2.2) = true := by decide

/-- R101 to R107: words written out from the encodings. -/
theorem test_decode_xl : ([
    (0x50051180, 0x00000650, .frcp 5 (mk 17 true false) .rne 6 gn),
    (0x51051180, 0x00000651, .frsq 5 (mk 17 true false) .rtz 6 gn),
    (0x52051180, 0x00000652, .fsqrt 5 (mk 17 true false) .rdn 6 gn),
    (0x53051180, 0x00000653, .fexp2 5 (mk 17 true false) .rup 6 gn),
    (0x54051180, 0x00000650, .flog2 5 (mk 17 true false) .rne 6 gn),
    (0x55051180, 0x00000651, .fsin 5 (mk 17 true false) .rtz 6 gn),
    (0x56051180, 0x00000652, .fcos 5 (mk 17 true false) .rdn 6 gn),
    (0x57051180, 0x00000653, .ftanh 5 (mk 17 true false) .rup 6 gn),
    (0x60051182, 0x00000650, .qswap 5 (mk 17 true false) .d 6 gn),
    (0x61051183, 0x00000650, .qbcast 5 (mk 17 true false) 3 6 gn),
    (0x62051182, 0x22400650, .shfl 5 (mk 17 true false) (mk 34 false true) .down 6 gn),
    (0x63050306, 0x00000650, .vote 5 3 .ballot true 6 gn),
    (0x6405118E, 0x00000650, .redadd 5 (mk 17 true false) .n32 true true 6 gn),
    (0x65030205, 0x000002E0, .redmax 3 (r 2) .i32 true 2 g7),
    (0x66051182, 0x00000650, .redmin 5 (mk 17 true false) .n32 false 6 gn),
    (0x67051185, 0x00000655, .scan 5 (mk 17 true false) .max .i32 true false true 6 gn)] : List (Word × Word × Instr)).all
      (fun e => decodeVilesk e.1 e.2.1 = some e.2.2) = true := by decide

/-- R115 to R122: words written out from the encodings. -/
theorem test_decode_mx : ([
    (0x704011B9, 0x22400650, .mma 64 (mk 17 true false) (mk 34 false true) .e5m2 .e5m2 true 2 6 gn),
    (0x71400810, 0x100A02E9, .mmaw 64 (r 8) (r 16) (r 40) .e4m3 .i4g 1 true 0 2 g7),
    (0x724011A6, 0x22400650, .mmas 64 (mk 17 true false) (mk 34 false true) .bf16 .e5m2 false 1 6 gn),
    (0x73401190, 0x224CF659, .mmasp 64 (mk 17 true false) (mk 34 false true) (mk 51 true true) .e4m3 .e4m3 9 true 0 6 gn),
    (0x74051191, 0x8ABCD650, .ldfrag 5 (mk 17 true false) 17 0x8ABCD 6 gn),
    (0x75051187, 0x00000652, .fxpose 5 (mk 17 true false) .bf16 true .rdn 6 gn)] : List (Word × Word × Instr)).all
      (fun e => decodeVilesk e.1 e.2.1 = some e.2.2) = true := by decide

/-- R136 to R140: words written out from the encodings. -/
theorem test_decode_mem : ([
    (0x80061194, 0xFFFF8652, .ldsh 6 (mk 17 true false) .acq .b64 0xFFFF8 .die 6 gn),
    (0x810011A8, 0x247FE054, .stsh (mk 17 true false) (mk 36 false true) .rel .b128 0x3FE .sys gn),
    (0x820511B9, 0x224CF651, .atsh 5 (mk 17 true false) (mk 34 false true) (mk 51 true true) .cas .acqrel false .blk 6 gn),
    (0x83081188, 0x00010654, .ldsp 8 (mk 17 true false) .rlx .b128 16 .sys 6 gn),
    (0x84001180, 0x23805053, .stsp (mk 17 true false) (mk 35 true false) .rlx .b32 5 .pkg gn),
    (0x85FF1198, 0x220D065A, .atsp 255 (mk 17 true false) (r 34) (r 52) .exch .acq true .die 6 gn),
    (0x86061184, 0x00018650, .ldc 6 (mk 17 true false) .b64 24 6 gn)] : List (Word × Word × Instr)).all
      (fun e => decodeVilesk e.1 e.2.1 = some e.2.2) = true := by decide

/-- R108, R141: words written out from the encodings. -/
theorem test_decode_sreg : ([
    (0x87050000, 0x00000650, .sreg 5 .lane 6 gn),
    (0x87050100, 0x00000650, .sreg 5 .quad 6 gn),
    (0x87050200, 0x00000650, .sreg 5 .grp 6 gn),
    (0x87050300, 0x00000650, .sreg 5 .ngrp 6 gn),
    (0x87050400, 0x00000650, .sreg 5 .blkX 6 gn),
    (0x87050500, 0x00000650, .sreg 5 .blkY 6 gn),
    (0x87050600, 0x00000650, .sreg 5 .blkZ 6 gn),
    (0x87050700, 0x00000650, .sreg 5 .nblkX 6 gn),
    (0x87050800, 0x00000650, .sreg 5 .nblkY 6 gn),
    (0x87050900, 0x00000650, .sreg 5 .nblkZ 6 gn),
    (0x87050A00, 0x00000650, .sreg 5 .gang 6 gn),
    (0x87050B00, 0x00000650, .sreg 5 .core 6 gn),
    (0x87050C00, 0x00000650, .sreg 5 .die 6 gn),
    (0x87050D00, 0x00000650, .sreg 5 .polder 6 gn),
    (0x87050E00, 0x00000650, .sreg 5 .clockLo 6 gn),
    (0x87050F00, 0x00000650, .sreg 5 .clockHi 6 gn),
    (0x87051000, 0x00000650, .sreg 5 .tilew 6 gn),
    (0x87051100, 0x00000650, .sreg 5 .fstat 6 gn),
    (0x87051200, 0x00000650, .sreg 5 .slim 6 gn),
    (0x87031101, 0x000000E0, .sregClr 3 0 g7)] : List (Word × Word × Instr)).all
      (fun e => decodeVilesk e.1 e.2.1 = some e.2.2) = true := by decide

/-- R126, R146 to R165, R180: words written out from the encodings. -/
theorem test_decode_eng : ([
    (0xA0001287, 0x224CF050, .cpy (mk 18 true false) (mk 34 false true) (mk 51 true true) true true .sp gn),
    (0xA0000400, 0x060200E0, .cpy (r 4) (r 6) (r 8) false false .sh g7),
    (0xA1051181, 0x00000050, .sealRec 5 (mk 17 true false) true gn),
    (0xA2090400, 0x050180E0, .gat 9 (r 4) (r 5) (r 6) .sh .sh g7),
    (0xA2091181, 0x224CF050, .gat 9 (mk 17 true false) (mk 34 false true) (mk 51 true true) .sp .sh gn),
    (0xA309118A, 0x224CF051, .sct 9 (mk 17 true false) (mk 34 false true) (mk 51 true true) .sh .sp .max .bf16 gn),
    (0xA4061293, 0x220D0050, .matom 6 (mk 18 true false) (r 34) (r 52) .minN true gn),
    (0xA5001286, 0x22400050, .mred (mk 18 true false) (mk 34 false true) .min .bf16 gn),
    (0xA6001180, 0x00000050, .bkrun (mk 17 true false) gn),
    (0xA7000400, 0x0601C0E0, .pred (r 4) (r 6) (r 7) g7),
    (0xA8000400, 0x0601C0E0, .pchk (r 4) (r 6) (r 7) g7),
    (0xA9000005, 0x00000050, .batch .prd gn),
    (0xAA140001, 0x000000E0, .wait 20 (.one .cpy) 0 g7),
    (0xAA140007, 0x0000005D, .wait 20 .all 13 gn),
    (0xAB000000, 0x00000050, .fence .grp gn),
    (0xAB000000, 0x00000051, .fence .blk gn),
    (0xAB000000, 0x00000052, .fence .die gn),
    (0xAB000000, 0x00000053, .fence .pkg gn),
    (0xAB000000, 0x00000054, .fence .sys gn),
    (0xAB000000, 0x00000055, .fence .bank gn),
    (0xAB000000, 0x00000056, .fence .mx gn),
    (0xAC000000, 0x000000E0, .bar),
    (0xAC000001, 0x000000E0, .barMx),
    (0xAD000000, 0x000000E0, .gsync)] : List (Word × Word × Instr)).all
      (fun e => decodeVilesk e.1 e.2.1 = some e.2.2) = true := by decide

/-- R185: words written out from the encodings. -/
theorem test_decode_sys : ([
    (0xC0001180, 0x00000050, .sregw (mk 17 true false) .corectl gn),
    (0xC0001180, 0x00001050, .sregw (mk 17 true false) .wdogint gn),
    (0xC0001180, 0x00002050, .sregw (mk 17 true false) .seepage gn),
    (0xC0001180, 0x00003050, .sregw (mk 17 true false) .coreq gn),
    (0xC0050001, 0x00001050, .sregwRd 5 .wdogint gn),
    (0xC1051280, 0x22400050, .qmap 5 (mk 18 true false) (mk 34 false true) gn),
    (0xC4051280, 0x22400050, .ctxsave 5 (mk 18 true false) (mk 34 false true) gn),
    (0xC5051280, 0x22400050, .ctxrest 5 (mk 18 true false) (mk 34 false true) gn),
    (0xC2051180, 0x00000050, .qunmap 5 (mk 17 true false) gn),
    (0xC3051180, 0x00000050, .place 5 (mk 17 true false) gn),
    (0xC6001280, 0x22400050, .tbinv .pol (mk 18 true false) (mk 34 false true) gn),
    (0xC6001281, 0x22400050, .tbinv .page (mk 18 true false) (mk 34 false true) gn),
    (0xC6001282, 0x22400050, .tbinv .all (mk 18 true false) (mk 34 false true) gn),
    (0xC7000000, 0x00000050, .cinvSprd gn),
    (0xC7000001, 0x22400050, .cinvRec (mk 34 false true) gn),
    (0xC8051283, 0x224D0050, .wkload 5 (mk 18 true false) (mk 34 false true) (r 52) 3 gn)] : List (Word × Word × Instr)).all
      (fun e => decodeVilesk e.1 e.2.1 = some e.2.2) = true := by decide

/-- R268, R269: walker words. -/
theorem test_decode_walker : ([
    (0x00B3E000, .wadd 5 19 28),
    (0x04B3E000, .wsub 5 19 28),
    (0x08B3E000, .wand 5 19 28),
    (0x0CB3E000, .wor 5 19 28),
    (0x10B3E000, .wxor 5 19 28),
    (0x14B3E000, .wshl 5 19 28),
    (0x18B3E000, .wshr 5 19 28),
    (0x1CB3E000, .wmul 5 19 28),
    (0x20B3E000, .wmulhu 5 19 28),
    (0x24B3E000, .wsltu 5 19 28),
    (0x28B3E000, .wslt 5 19 28),
    (0x2CB3E000, .whash 5 19 28),
    (0x40B39ABC, .waddi 5 19 0x9ABC),
    (0x44B39ABC, .wandi 5 19 0x9ABC),
    (0x48B39ABC, .wori 5 19 0x9ABC),
    (0x4CB39ABC, .wxori 5 19 0x9ABC),
    (0x50B3002B, .wshli 5 19 0x2B),
    (0x54B3002B, .wshri 5 19 0x2B),
    (0x58A09ABC, .wins 5 0x9ABC),
    (0x5CB3036B, .wbfx 5 19 0x2B 0x0D),
    (0x80B39ABC, .wld 5 19 0x9ABC),
    (0x84B39ABC, .wldw 5 19 0x9ABC),
    (0x88B39ABC, .wlds 5 19 0x9ABC),
    (0x8CB39ABC, .wsts 5 19 0x9ABC),
    (0xA0B39ABC, .wbeq 5 19 0x9ABC),
    (0xA4B39ABC, .wbne 5 19 0x9ABC),
    (0xA8B39ABC, .wbltu 5 19 0x9ABC),
    (0xACB39ABC, .wbgeu 5 19 0x9ABC),
    (0xB0B39ABC, .wblt 5 19 0x9ABC),
    (0xB4B39ABC, .wbge 5 19 0x9ABC),
    (0xC013E016, .wmap 19 28 5 2),
    (0xC4000000, .wnone)] : List (Word × Instr)).all
      (fun e => decodeWalker e.1 = some e.2) = true := by decide

/-- R202, R203: bank words. -/
theorem test_decode_bank : ([
    (0x00000000, .bnop),
    (0x10000000, .bend),
    (0x2A009ABC, .bldi 5 0x9ABC),
    (0x3AC09ABC, .baddi 5 3 0x9ABC),
    (0x4A00FFFE, .bloop 5 0xFFFE),
    (0x5AC00007, .bbeq 5 3 7),
    (0x6AE11234, .bmac 5 3 2 .e5m2 0x12 0x34),
    (0x7A220034, .bmacs 5 2 .bf16 0x34),
    (0x80200000, .bzero 2),
    (0x90240000, .bmov 2 1),
    (0xA0240000, .baddv 2 1),
    (0xB0240000, .bmaxv 2 1),
    (0xC0200000, .bred 2),
    (0xD0200000, .bscl 2),
    (0xE0200000, .brelu 2),
    (0xFA220034, .bemit 5 2 .itemc 0x34)] : List (Word × Instr)).all
      (fun e => decodeBank e.1 = some e.2) = true := by decide

/-- R50: a header of two instructions of class VEC, the second of two words, which waits for one open cpy batch and ends its run; CHECK
and COUNT. -/
theorem test_decode_header : decodeHeader 0x2322000A
      = some { count := 2, cls := 1, runend := true, wclass := 1, wthresh := 1, width := 2 }
    ∧ decodeHeader 0x23220009 = none ∧ decodeHeader 0x0322000A = none := by decide

/-- R52, R65, R74, R85, R94, R136, R168, R185, R203, R209, R274: reserved majors and reserved values are refused. -/
theorem test_decode_reserved : ([(0x3E000000, 0xE0), (0x0F000000, 0), (0x0F000006, 0), (0x10050106, 0xE0), (0x2A080100, 0xE0),
      (0x2E000003, 0xE0), (0x2D050400, 0xE0), (0x03000000, 0xC0), (0x0C000009, 0xE0), (0x63000800, 0xE0), (0x70000003, 0xE0),
      (0x80000020, 0xE0), (0x80010004, 0xE0), (0x80000000, 0xE5), (0x87001300, 0xE0), (0x87001001, 0xE0), (0xA0000500, 0xE0),
      (0xA4000500, 0xE0), (0xA9000000, 0xE0), (0xAB000000, 0xE7), (0xC0000000, 0x40E0), (0xC6000003, 0xE0), (0xC7000002, 0xE0),
      (0xFF000000, 0)] : List (Word × Word)).all
      (fun e => (decodeVilesk e.1 e.2).isNone) = true
    ∧ decodeWalker 0x60000000 = none ∧ decodeWalker 0xC0000003 = none ∧ decodeBank 0x60030000 = none
    ∧ decodeBank 0xF0030000 = none := by decide

/-! ### Well-formed terms -/

/-- What OPEN gives a polder here. -/
def spec1 : OpenSpec :=
  { polder := 1, cores := 1, spBase := 65536, spSize := 65536, weirRate := 512, weirDepth := 4096, weirDebtLim := 1024, ageLim := 4
    auditF := 0, preempt := 0, walkLim := 2048, walkWt := 1, fltPol0 := 0x00010000, fltPol1 := 0x3FFE, spillSz := 1048576
    audRingSz := 0, audRegSz := 65536, shSize := 65536, spillPa := 0x100000, audRing := 0x300000, sealKey := List.replicate 32 7, nonce := List.replicate 32 1
    ranges := [{ base := 0, limit := 65536, perm := 3 }], visible := [{ va := 0, size := 65536, frame := 0 }] }

/-- One term for each check of `wf`, which the check refuses. -/
theorem test_wf_refuses : ([.spawn 0 true (r 1) 9 0 g7, .spawn 1 false (r 1) 8 0 g7, .reord 0 (r 1) 9 0 g7, .lea 1 (r 2) (r 3) 0 false g7,
    .lea 2 (r 1) (r 3) 0 false g7, .cvt 1 (r 2) (r 3) .f32 .f32 1 0 false .rne g7, .cvt 1 (r 2) (r 3) .f16 .i16 0 2 false .rne g7,
    .redadd 1 (r 2) .f32 false true 0 g7, .scan 1 (r 2) .add .f32 false true false 0 g7, .scan 1 (r 2) .max .i32 false true false 0 g7,
    .mmaw 1 (r 2) (r 3) (r 4) .e4m3 .e4m3 3 false 1 0 g7, .ldsh 1 (r 2) .rlx .b64 0 .grp 0 g7, .ldsp 2 (r 2) .rlx .b128 0 .grp 0 g7,
    .ldc 1 (r 2) .b64 0 0 g7, .stsh (r 2) (r 3) .rlx .b64 0 .grp g7, .stsp (r 2) (r 6) .rlx .b128 0 .grp g7,
    .atsh 1 (r 2) (r 4) (r 6) .add .rlx true .grp 0 g7, .atsp 2 (r 2) (r 5) (r 6) .add .rlx true .grp 0 g7,
    .atsh 2 (r 2) (r 4) (r 6) .addf .rlx true .grp 0 g7, .cpy (r 3) (r 2) (r 4) false false .sh g7, .cpy (r 2) (r 3) (r 4) false false .sh g7,
    .sct 1 (r 2) (r 3) (r 4) .sh .sh .last .bf16 g7, .matom 1 (r 3) (r 4) (r 5) .add false g7, .matom 1 (r 2) (r 4) (r 5) .addf false g7,
    .matom 1 (r 2) (r 4) (r 6) .add true g7, .mred (r 3) (r 4) .add .f32 g7, .pred (r 3) (r 4) (r 5) g7, .pchk (r 3) (r 4) (r 5) g7,
    .qmap 1 (r 3) (r 4) g7, .ctxsave 1 (r 3) (r 4) g7, .ctxrest 1 (r 3) (r 4) g7, .tbinv .page (r 3) (r 4) g7,
    .wkload 1 (r 3) (r 4) (r 6) 0 g7, .wkload 1 (r 2) (r 4) (r 5) 0 g7,
    .clauseHeader { count := 0, cls := 0, runend := false, wclass := 0, wthresh := 0, width := 0 }, .issueCycle 40 0, .issueCycle 0 4,
    .longLatencyResult 40 0 0, .longLatencyResult 0 64 0, .atspReply 40 0 0, .fenceComplete 0 64, .collectiveStart 0 63,
    .barrierComplete 40 0, .gangBarrierComplete 0 63, .blockRetire 0 63, .watchdogExpire 0 63, .spillRoomFreed 40, .weaverFormGroup 40,
    .setDue 40 0, .groupEvict 0 64, .joinMerge 0 64, .joinTimeout 0 64, .sleepExpire 0 64, .walkStart 4 0, .walkStart 0 16,
    .wldDataReturn 0 16 0, .walkTimelimit 4 0, .wmap 0 0 0 3, .bankRunPacket 1 24, .bankItemStart 1 64 0, .precharge 0 0 48 0,
    .neighbourRefresh 0 0 0 30518, .hotAssert 24, .hotClear 24, .stackIsolate 24, .stackStart 24, .trainingComplete 24 none,
    .stackIsolateClear 24, .stackIsolateSet 24, .stackerrClear 24, .thermalThrottle 5 true, .thermalTrip 5,
    .openReq { spec1 with polder := 0 }, .openReq { spec1 with polder := 64 }, .selfTestEnd 32 true, .quarantineRelease 32, .launch 256 0,
    .resume 0 40, .predicate 256 0, .waitPacket 0 40, .waitPacketTimeout 256, .signal 0 40, .copy 256 0, .nopPacket 0 40] : List Instr).all
    (fun i => wf i = false) = true := by decide

/-- Terms at the edge of the checks, which pass. -/
theorem test_wf_accepts : ([.spawn 3 true (r 1) 8 0 g7, .lea 252 (r 250) (r 3) 7 true g7, .cvt 1 (r 2) (r 3) .e4m3 .i16 3 1 true .rup g7,
    .mmaw 1 (r 2) (r 3) (r 4) .e4m3 .i3g 1 false 2 0 g7, .ldsh 4 (r 2) .acq .b128 0 .sys 0 g7,
    .atsp 255 (r 2) (r 4) (r 6) .cas .rlx true .grp 0 g7, .matom 255 (r 2) (r 4) (r 6) .cas true g7, .issueCycle 39 3, .walkStart 3 15,
    .wmap 0 0 7 2, .precharge 23 63 47 30517, .openReq spec1, .nopPacket 255 39] : List Instr).all (fun i => wf i) = true := by decide

/-! ### Single steps: the worked examples of the manual -/

/-- What an instruction leaves of the demo group. -/
def groupAfter (i : Instr) (s : State) : Group := match exec i s with | .next t => grp t 0 | _ => Group.reset

/-- The value of a result that has yet to arrive in a lane's register, with its flags. -/
def resultOf (g : Group) (l : Nat) (loc : Loc) : Option (Word × BitVec 5) :=
  (g.inflight.flatMap (·.writes)).findSome? fun w => if w.lane = l ∧ w.loc = loc then some (w.val, w.flags) else none

/-- The example of R85 with `.sat` and without. -/
theorem test_iadd : let s := demoR 1 [(1, 0x0001FFF0), (2, 0x20)]
    (groupAfter (.iadd 5 (r 1) (r 2) .n16 true g7) s).reg 9 5 = 0x0000FFFF
    ∧ (groupAfter (.iadd 5 (r 1) (r 2) .n16 false g7) s).reg 9 5 = 0x00000010 := by decide +kernel

/-- The 64-bit addition of the example of R92, by two `addc`. -/
theorem test_addc : let a := groupAfter (.addc 4 (r 0) (r 2) 1 false none g7) (demoR 1 [(0, 0xFFFFFFFF), (1, 1), (2, 1), (3, 0)])
    a.reg 3 4 = 0 ∧ a.pred 3 1 = true
    ∧ (groupAfter (.addc 5 (r 1) (r 3) 7 false (some 0) g7) (demoP 1 [(1, 1), (3, 0)])).reg 0 5 = 2 := by decide +kernel

/-- The example of R68: a poison read computes with the poison bits and sets POISONRD. -/
theorem test_poison : let s := demoR 1 [(2, 7)]
    let s := s.setGroup 0 0 ((grp s 0).mapLanes fun _ ln => { ln with dead := [1] })
    let g := groupAfter (.iadd 5 (r 1) (r 2) .n32 false g7) s
    g.reg 0 5 = 0x7FD00007 ∧ g.fstat = 0x20 := by decide +kernel

/-- The example of R99: byte 2 of v3 is 10.0 in e5m2. -/
theorem test_cvt : (groupAfter (.cvt 7 (r 3) (r 255) .i32 .e5m2 0 2 false .rne g7) (demoR 1 [(3, 0x00490000)])).reg 0 7 = 10 := by decide +kernel

/-- The example of R101: 2 to the 128 is infinite, with OF and NX. -/
theorem test_fexp2 : resultOf (groupAfter (.fexp2 5 (r 1) .rne 2 g7) (demoR 2 [(1, 0x43000000)])) 0 (.reg 5)
    = some (0x7F800000, 0x05) := by decide +kernel

/-- The example of R103 to R107: 20 lanes of a bound group hold −5 and p2. -/
theorem test_redmax_vote : let s := demoN 3 20
    let s := s.setGroup 0 0 ((grp s 0).mapLanes fun l ln => if l < 20 then { ln with regs := [(2, 0xFFFFFFFB)], preds := 4 } else ln)
    let v (i : Instr) (loc : Loc) : Option Word := (resultOf (groupAfter i s) 19 loc).map (·.1)
    v (.redmax 3 (r 2) .i32 false 2 g7) (.reg 3) = some 0 ∧ v (.redmax 3 (r 2) .i32 true 2 g7) (.reg 3) = some 0xFFFFFFFB
    ∧ v (.vote 1 2 .all false 0 g7) (.pred 1) = some 0 ∧ v (.vote 1 2 .all true 0 g7) (.pred 1) = some 1
    ∧ v (.vote 4 2 .ballot false 0 g7) (.reg 4) = some 0x000FFFFF := by decide +kernel

/-- The example of R82 and R83: a tile of width 4 holds 2^24, 1, 1 and −2^24 in lanes 4 to 7. -/
theorem test_redadd_scan : let s := demo 3
    let x (l : Nat) : Word := if l = 4 then 0x4B800000 else if l = 7 then 0xCB800000 else 0x3F800000
    let s := s.setGroup 0 0 { (grp s 0).mapLanes fun l ln => { ln with regs := [(2, x l)] } with tilew := .w4 }
    resultOf (groupAfter (.redadd 3 (r 2) .f32 false false 2 g7) s) 5 (.reg 3) = some (0x3F800000, 1)
    ∧ (resultOf (groupAfter (.scan 3 (r 2) .add .f32 false false false 2 g7) s) 6 (.reg 3)).map (·.1) = some 0x4B800000 := by decide +kernel

/-- The example of R81: 24 products of 2^−12 are added to 4096 as one sum. -/
theorem test_mma : let s := demoR 4 [(4, 0x08080808), (5, 0x08080808), (6, 0x08080808), (7, 0x08080808), (8, 0x08080808), (9, 0x08080808), (64, 0x45800000)]
    resultOf (groupAfter (.mma 64 (r 4) (r 4) .e4m3 .e4m3 false 0 0 g7) s) 3 (.reg 64) = some (0x4580000C, 0) := by decide +kernel

/-- The example of `mmaw`: lane n holds the code (n mod 8) − 3 in every nibble; lanes 0, 3 and 7 get −72, +0 and 96. -/
theorem test_mmaw : let s := demo 4
    let c (l : Nat) : Word := if l % 8 = 0 then 0xDDDDDDDD else if l % 8 = 3 then 0 else 0x44444444
    let one : Word := 0x38383838
    let s := s.setGroup 0 0 ((grp s 0).mapLanes fun l ln => { ln with regs := [(8, one), (9, one), (10, one), (11, one), (12, one), (13, one),
      (16, c l), (17, c l), (18, c l), (40, 0x8000)] })
    let g := groupAfter (.mmaw 64 (r 8) (r 16) (r 40) .e4m3 .i4g 1 true 0 2 g7) s
    resultOf g 0 (.reg 64) = some (0xC2900000, 0) ∧ resultOf g 3 (.reg 70) = some (0, 0) ∧ resultOf g 7 (.reg 95) = some (0x42C00000, 0) := by
  decide +kernel

/-- The example of R311: a load past the allocation in lane 31, delivered to a handler at 0x400. -/
theorem test_bounds_delivered : let s := demo 5
    let s := s.setPolder 1 { s.polder 1 with fltPol0 := 0x00000400 }
    let l := { loadLaunch 1 40 false with shared := 256, trapVec := 0x400, bound := true }
    let s := s.setBlock 0 0 (launchBlock l 0 0 0 [0] 0)
    let cl : Clause := { hdr := { count := 2, cls := 5, runend := false, wclass := 0, wthresh := 0, width := 3 }, hdrPc := 0xA0, done := 0
                         words := [0x80060200, 0x000080E0, 0, 0] }
    let g := { (grp s 0).mapLanes fun l ln => { ln with regs := [(2, BitVec.ofNat 32 (8 * l))] } with pc := 0xA4, clause := some cl, bound := true }
    let h := groupAfter (.ldsh 6 (r 2) .rlx .b32 8 .grp 0 g7) { s.setGroup 0 0 g with ir := 0x80060200 }
    h.pc = 0x400 ∧ (h.lane 3).rstk = [0xB4] ∧ (List.range 8).map (fun k => h.reg 3 (56 + k))
      = [0x00000005, 0xA4, 0x80000000, 0x100, 0, 0x80060200, 0xB4, 0] ∧ h.parked = false ∧ h.reg 3 6 = 0 := by decide +kernel

/-! ### Witnesses: states and operands that meet the hypotheses of the statements, each theorem named after its statement -/

/-- A group of the demo state issues. -/
theorem witness_Issues : ∃ g cl, Issues .nop (one 0) 0 0 g cl := by
  obtain ⟨g, cl, -, h⟩ := issues_spec (i := .nop) (s := one 0) (sl := 0) (by decide +kernel)
  exact ⟨g, cl, h⟩

theorem witness_IntegerArithmetic : ([.iadd 5 (r 1) (r 2) .n16 true g7, .iaddImm 5 (r 1) .n8 false 7, .isub 5 (r 1) (r 2) .i8 false g7,
    .imul 5 (r 1) (r 2) .i16 true g7, .imulImm 5 (r 1) .n32 true 9, .imulhi 5 (r 1) (r 2) .n32 g7,
    .imad 5 (r 1) (r 2) (r 3) .n16 true g7, .iabs 5 (r 1) .i16 true g7, .imin 5 (r 1) (r 2) .n8 g7,
    .imax 255 (r 1) (r 2) .i32 g7] : List Instr).all (fun i => issues i (demo 1) 0) = true
    ∧ 2 ^ 32 ≤ (0xFFFFFFFF : Word).toNat + (1 : Word).toNat := by decide +kernel

theorem witness_Bitwise : ([.and 5 (r 1) (r 2) g7, .andImm 5 (r 1) 3, .or 5 (r 1) (r 2) g7, .orImm 5 (r 1) 3, .xor 5 (r 1) (r 2) g7,
    .xorImm 5 (r 1) 3, .not 5 (r 1) g7, .shl 5 (r 1) (r 2) g7, .shr 5 (r 1) (r 2) g7, .sar 5 (r 1) (r 2) g7, .popc 5 (r 1) g7,
    .clz 5 (r 1) g7, .brev 255 (r 255) g7] : List Instr).all (fun i => issues i (demo 1) 0) = true := by decide +kernel

theorem witness_FieldsAndCompares : ([.bfx 5 (r 1) (r 2) .i32 g7, .bfi 5 (r 1) (r 2) (r 3) g7, .sel 5 (r 1) (r 2) 3 true g7,
    .idp4 5 (r 1) (r 2) (r 3) true false true g7, .addc 5 (r 1) (r 2) 1 true (some 2) g7, .lea 252 (r 250) (r 3) 7 true g7,
    .mov 5 (r 1) g7, .movP2r 5 g7, .movR2p (r 1) g7, .movi 5 9, .cmp 7 (r 1) (r 2) .n16 .lt g7, .fcmp 3 (r 1) (r 2) .un g7] :
    List Instr).all (fun i => issues i (demo 1) 0) = true := by decide +kernel

theorem witness_FloatArithmetic : ([.fadd 5 (r 1) (r 2) .rup g7, .faddImm 5 (r 1) 9, .fsub 5 (r 1) (r 2) .rne g7, .fmul 5 (r 1) (r 2) .rtz g7,
    .fmulImm 5 (r 1) 9, .ffma 5 (r 1) (r 2) (r 3) .rdn g7, .fmin 5 (r 1) (r 2) g7, .fmax 5 (r 1) (r 2) g7, .frnd 5 (r 1) .rup g7,
    .cvt 5 (r 1) (r 3) .e4m3 .f32 3 0 true .rne g7, .hadd2 5 (r 1) (r 2) .f16 .rne g7, .hmul2 5 (r 1) (r 2) .bf16 .rne g7,
    .hfma2 5 (r 1) (r 2) (r 3) .f16 .rne g7] : List Instr).all (fun i => issues i (demo 1) 0) = true := by decide +kernel

theorem witness_SpecialAndCrossLane : ([.frcp 5 (r 1) .rne 3 g7, .frsq 5 (r 1) .rne 3 g7, .fsqrt 5 (r 1) .rne 3 g7, .fexp2 5 (r 1) .rne 3 g7,
    .flog2 5 (r 1) .rne 3 g7, .fsin 5 (r 1) .rne 3 g7, .fcos 5 (r 1) .rne 3 g7, .ftanh 5 (r 1) .rne 15 g7] : List Instr).all
      (fun i => issues i (demo 2) 0) = true
    ∧ ([.qswap 5 (r 1) .d 0 g7, .qbcast 5 (r 1) 3 0 g7, .shfl 5 (r 1) (r 2) .up 0 g7, .vote 5 3 .ballot true 0 g7, .vote 2 3 .any false 0 g7,
      .redadd 5 (r 1) .i32 true true 0 g7, .redmax 5 (r 1) .f32 true 0 g7, .redmin 5 (r 1) .n32 false 0 g7,
      .scan 5 (r 1) .add .i32 true true true 0 g7] : List Instr).all (fun i => issues i (demo 3) 0) = true := by decide +kernel

theorem witness_Matrix :
    let s := demoR 4 [(6, 128)]
    let b := (s.block 0 0).getD default
    ([.mma 8 (r 4) (r 6) .e4m3 .e4m3 false 3 0 g7, .mmaw 8 (r 4) (r 6) (r 20) .e4m3 .i4g 1 false 2 0 g7,
      .mmasp 8 (r 4) (r 6) (r 20) .bf16 .e5m2 15 true 0 0 g7, .mmas 8 (r 4) (r 6) .e4m3 .e4m3 false 0 0 g7, .ldfrag 8 (r 6) 3 128 0 g7,
      .fxpose 8 (r 4) .bf16 true .rne 0 g7] : List Instr).all (fun i => issues i s 0) = true
    ∧ (∀ l < 32, (grp s 0).occ l = true) ∧ s.mxBusy 0 0 = false
    ∧ (∀ l < 32, (grp s 0).active g7 l = true → ∀ j < 1, onesBelow ((grp s 0).reg l (20 + j)).toNat 24 ≤ (15 : BitVec 4).toNat + 1)
    ∧ s.block 0 (grp s 0).bslot = some b ∧ ((grp s 0).reg 0 6).toNat % 128 = 0 ∧ ((grp s 0).reg 0 6).toNat + 128 * 24 ≤ b.shSize
    ∧ ((grp s 0).reg 0 6).toNat + 128 + 128 * 4 ≤ b.shSize
    ∧ issues (.mma 8 (r 4) (r 6) .e4m3 .e4m3 false 0 0 g7) (demoN 4 5) 0 = true ∧ (∃ l < 32, (grp (demoN 4 5) 0).occ l = false) := by
  decide +kernel

theorem witness_LocalLoads :
    let s := demoR 5 [(2, 16)]
    let g := grp s 0
    let addr (l : Nat) : Int := (g.reg l 2).toNat + (48 : BitVec 20).toInt
    ([.ldsh 6 (r 2) .acq .b128 48 .blk 0 g7, .ldc 6 (r 2) .b128 48 0 g7, .ldsp 6 (r 2) .rlx .b128 48 .grp 0 g7] : List Instr).all
      (fun i => issues i s 0) = true
    ∧ g.accessing = false ∧ Fits g g7 addr 16 (s.shSizeOf 0 g) ∧ Fits g g7 addr 16 4096
    ∧ Fits g g7 addr 16 (s.polder 1).spSize ∧ Linked s 0 g g7 addr ∧ (∃ x, s.block 0 g.bslot = some x ∧ x.audit = none) := by
  unfold Fits Linked
  refine ⟨by decide +kernel, by decide +kernel, by decide +kernel, by decide +kernel, by decide +kernel, by decide +kernel,
    ⟨_, rfl, rfl⟩⟩

theorem witness_Stores :
    let s := demoR 5 [(2, 16), (3, 7)]
    let g := grp s 0
    let addr (l : Nat) : Int := (g.reg l 2).toNat + 4 * (4 : BitVec 10).toInt
    ([.stsh (r 2) (r 4) .rel .b128 4 .sys g7, .stsp (r 2) (r 4) .rlx .b64 4 .grp g7] : List Instr).all (fun i => issues i s 0) = true
    ∧ g.accessing = false ∧ g.stq.length < 32 ∧ Fits g g7 addr 16 (s.shSizeOf 0 g)
    ∧ Fits g g7 addr 8 (s.polder 1).spSize ∧ Linked s 0 g g7 addr := by
  unfold Fits Linked
  decide +kernel

/-- A store entry of two words, one at home on die 0 and one on die 1. -/
def entry2 (rel : Option Scope) : StEntry :=
  { id := 9, owner := 1, org := default, after := [], space := .sp, polder := 1, rel := rel
    writes := [{ lane := 0, addr := 65536, val := 5 }, { lane := 1, addr := 2 ^ 27, val := 6 }]
    left := [{ lane := 0, addr := 65536, val := 5 }, { lane := 1, addr := 2 ^ 27, val := 6 }] }

/-- A word on a die link from core 0. -/
def sent0 : Sent := { id := 0, core := 0, entry := entry2 none, word := { lane := 1, addr := 2 ^ 27, val := 6 } }

theorem witness_StoresPerform :
    let g := { grp (demo 5) 0 with stq := [entry2 none] }
    let s := (demo 5).setGroup 0 0 g
    let g' := { grp (demo 5) 0 with stq := [{ entry2 (some .sys) with owner := 1, after := [77] }] }
    let q : QPacket := { seq := 1, unit := .remote, pa := 0, op := .write [1], cmd := 77, org := default, lane := 0, va := 0, told := false }
    let s' := { (demo 5).setGroup 0 0 g' with
      cmds := [(77, { (default : Cmd) with phase := .data })], queue := [q] }
    let u := { s with linkQ := [sent0] }
    let h := { g with stq := [{ entry2 none with space := .sh }] }
    let v := { g with stq := [{ entry2 none with left := [{ lane := 1, addr := 2 ^ 27, val := 6 }] }] }
    let calm (k : Group) : Prop := ∀ f ∈ k.inflight, f.reply = false
    s.lwatches = [] ∧ s.group 0 0 = some g ∧ g.stq = [entry2 none] ∧ (entry2 none).rel = none
    ∧ ((s.setGroup 0 0 h).group 0 0 = some h)
    ∧ (∀ v ∈ (entry2 none).left.drop 1, v.lane ≠ 0) ∧ (∀ z ∈ (s.core 0).groups, calm z.2) ∧ s.linkAvail (dieOf 0) (homeDie 65536) ≠ .no
    ∧ ((s.setGroup 0 0 v).group 0 0 = some v) ∧ s.linkAvail (dieOf 0) (homeDie (2 ^ 27)) ≠ .no
    ∧ s'.group 0 0 = some g' ∧ s'.relReady 1 [77] .sys = false
    ∧ u.linkQ = [sent0] ∧ sent0.id = 0 ∧ (∀ z ∈ (u.core sent0.core).groups, calm z.2)
    ∧ u.linkAvail (dieOf sent0.core) (homeDie sent0.word.addr) = .yes
    ∧ homeDie 65536 = dieOf 0 ∧ homeDie (2 ^ 27) ≠ dieOf 0
    ∧ changes (.storePerform (.queue 0 0)) (s.setGroup 0 0 h) = true ∧ changes (.storePerform (.queue 0 0)) s = true
    ∧ changes (.storePerform (.link 0)) u = true := by
  decide +kernel

theorem witness_Atomics :
    let s := demoR 5 [(2, 16), (4, 7)]
    let g := grp s 0
    let addr (l : Nat) : Int := (g.reg l 2).toNat
    ([.atsh 8 (r 2) (r 4) (r 6) .cas .acqrel true .sys 3 g7, .atsp 255 (r 2) (r 4) (r 6) .cas .acqrel true .sys 3 g7] : List Instr).all
      (fun i => issues i s 0) = true
    ∧ g.accessing = false ∧ g.stq = [] ∧ s.relReady g.uid (g.mreds ++ g.finished) .sys = true
    ∧ Fits g g7 addr 8 (s.shSizeOf 0 g) ∧ Fits g g7 addr 8 (s.polder 1).spSize ∧ Linked s 0 g g7 addr
    ∧ (∃ x, s.block 0 g.bslot = some x ∧ x.audit = none) := by
  unfold Fits Linked
  refine ⟨by decide +kernel, by decide +kernel, by decide +kernel, by decide +kernel, by decide +kernel, by decide +kernel, by decide +kernel,
    ⟨_, rfl, rfl⟩⟩

/-- The demo group with a load and with an atomic of the scratchpad of which one word is left, at an address of die 1. -/
def partly (reply : Bool) (op : SpOp) : State :=
  let f : InFlight := { id := 3, window := 2, writes := [{ lane := 0, loc := .reg 5, val := 0, flags := 0 }], reply := reply, lines := []
                        todo := [{ lane := 0, addr := 2 ^ 27, acq := false, op := op }], got := [], org := default }
  (demo 5).setGroup 0 0 { grp (demo 5) 0 with inflight := [f] }

/-- A word that is loaded from its home die, from the group's own store and from a line of the cache, and one lane of an atomic. -/
theorem witness_ScratchpadParts :
    let a := partly false (.load 5 true)
    let b := a.setGroup 0 0 { grp a 0 with stq := [entry2 none] }
    let ln : CLine := { polder := 1, filled := 0, bytes := List.replicate 64 7 }
    let c := a.setCore 0 { a.core 0 with rcache := [(2 ^ 27 / 64, ln)] }
    let d := partly true (.atom .add false [5] 3 0 none [])
    (∀ s ∈ [a, b, c, d], s.group 0 0 = some (grp s 0) ∧ (s.flight 0 0 3).isSome = true
      ∧ (s.flight 0 0 3).map (fun f => f.todo.length) = some 1 ∧ s.linkAvail (dieOf 0) (homeDie (2 ^ 27)) = .yes ∧ s.lwatches = [])
    ∧ (∀ s ∈ [a, b, c], ∀ e ∈ (s.core 0).groups, ∀ x ∈ e.2.inflight, x.reply = false)
    ∧ (∀ e ∈ (d.core 0).groups, ∀ x ∈ e.2.inflight, x.reply = true → x.id = 3)
    ∧ forward (grp a 0).stq .sp (2 ^ 27) = none ∧ forward (grp b 0).stq .sp (2 ^ 27) = some 6
    ∧ tfind (c.core 0).rcache (2 ^ 27 / 64) = some ln ∧ c.clock - ln.filled ≤ 65536 := by
  decide +kernel

theorem witness_SpecialRegisters :
    ([.sreg 5 .clockLo 3 g7, .sreg 5 .fstat 3 g7, .sregClr 5 3 g7] : List Instr).all (fun i => issues i (demo 5) 0) = true
    ∧ (grp (demo 5) 0).inflight = [] ∧ (∃ x, (demo 5).block 0 0 = some x ∧ x.audit = none) := by
  refine ⟨by decide +kernel, by decide +kernel, ⟨_, rfl, rfl⟩⟩

/-- A misaligned address and one that lies just past each space. -/
theorem witness_AccessFaults :
    let s := demoR 5 [(2, 18), (3, 65536), (4, 4096)]
    let g := grp s 0
    let odd (a n : Nat) (l : Nat) : Bool := g.works g7 l && decide (((g.reg l a).toNat : Int) % n ≠ 0)
    let out (a n size : Nat) (l : Nat) : Bool := g.works g7 l
      && decide (((g.reg l a).toNat : Int) < 0 ∨ (size : Int) < ((g.reg l a).toNat : Int) + n)
    ([.ldsh 6 (r 2) .acq .b128 0 .blk 0 g7, .stsh (r 2) (r 4) .rel .b128 0 .sys g7, .atsh 8 (r 2) (r 4) (r 6) .add .acqrel true .sys 3 g7,
      .ldsp 6 (r 2) .rlx .b128 0 .grp 0 g7, .stsp (r 2) (r 4) .rlx .b128 0 .grp g7, .atsp 8 (r 2) (r 4) (r 6) .add .acqrel true .sys 3 g7,
      .ldc 6 (r 2) .b128 0 0 g7, .ldsh 6 (r 3) .acq .b128 0 .blk 0 g7, .stsh (r 3) (r 4) .rel .b128 0 .sys g7,
      .atsh 8 (r 3) (r 4) (r 6) .add .acqrel true .sys 3 g7, .ldsp 6 (r 3) .rlx .b128 0 .grp 0 g7, .stsp (r 3) (r 4) .rlx .b128 0 .grp g7,
      .atsp 8 (r 3) (r 4) (r 6) .add .acqrel true .sys 3 g7, .ldc 6 (r 4) .b128 0 0 g7] : List Instr).all (fun i => issues i s 0) = true
    ∧ lowest (odd 2 16) = some 0 ∧ lowest (odd 2 8) = some 0
    ∧ lowest (odd 3 16) = none ∧ lowest (out 3 16 (s.shSizeOf 0 g)) = some 0 ∧ lowest (out 3 8 (s.shSizeOf 0 g)) = some 0
    ∧ lowest (out 3 16 (s.polder 1).spSize) = some 0 ∧ lowest (out 3 8 (s.polder 1).spSize) = some 0
    ∧ lowest (odd 4 16) = none ∧ lowest (out 4 16 4096) = some 0 := by
  decide +kernel

theorem witness_UniformBranches :
    let s := demoR 0 [(9, 64)]
    let g := grp s 0
    ([.bra 4 12 g7, .brx 4 (r 9) g7, .call 4 12, .callx 4 (r 9), .ret 4] : List Instr).all (fun i => issues i s 0) = true
    ∧ (∃ l < 32, g.occ l = true) ∧ (∀ l < 32, g.guard g7 l = true) ∧ (∀ l < 32, g.guard g0 l = false)
    ∧ issues (.bra 4 12 g0) s 0 = true
    ∧ (∀ l < 32, (64 : Word) = g.reg l 9 &&& 0xFFFFFFFC) ∧ (∀ l < 32, (g.lane l).canPush (s.launchOf 0 g).stackSz = true)
    ∧ (let k := g.mapLanes fun _ ln => ln.push 64
       issues (.ret 4) (s.setGroup 0 0 k) 0 = true ∧ ∀ l < 32, (k.lane l).top = some 64)
    ∧ Lane.reset.rstk.length ≤ 8 := by
  decide +kernel

theorem witness_DivergentBranches :
    let s := demoP 0 [(9, 64)]
    let g := grp s 0
    let T := g.occs.filter (g.guard g0)
    let F := g.occs.filter fun l => !g.guard g0 l
    issues (.bra 4 12 g0) s 0 = true ∧ g.bound = false ∧ T = [0] ∧ F.length = 31 ∧ g.inflight = []
    ∧ (∀ l ∈ T, s.pendBusy (g.lane l) = false)
    ∧ s.fits 0 (s.launchOf 0 g).polder (T.map fun l => recSize (g.lane l).rstk.length 4) = true ∧ (s.core 0).ageCtr + 32 < 2 ^ 32
    ∧ (let h := { g with bound := true }
       issues (.bra 4 12 g0) (s.setGroup 0 0 h) 0 = true ∧ h.bound = true) := by
  decide +kernel

theorem witness_ControlInstructions :
    let s := demo 0
    let g := grp s 0
    let p := demoP 0 []
    ([.nop, .wflush, .tile .w8, .yield] : List Instr).all (fun i => issues i (one 0) 0) = true
    ∧ ([.join 9 5, .sleep 9 g7, .exit g7, .exit g0, .sleep 9 g0] : List Instr).all (fun i => issues i s 0) = true
    ∧ (∀ f ∈ g.inflight, f.lines = []) ∧ g.inflight = [] ∧ g.bound = false ∧ (s.launchOf 0 g).noprom = true
    ∧ lanes32.any (g.active g7) = true ∧ lanes32.any (g.active g0) = false ∧ (∀ l < 32, g.works g0 l = false)
    ∧ (∀ l < 32, g.occ l = true → g.works g7 l = true ∧ s.pendBusy (g.lane l) = false)
    ∧ g.openB = [] ∧ g.closedB = [] ∧ g.stq = []
    ∧ issues (.exit g0) p 0 = true ∧ (grp p 0).works g0 0 = true ∧ (grp p 0).occ 1 = true ∧ (grp p 0).works g0 1 = false
    ∧ (∀ l < 32, (grp p 0).works g0 l = true → p.pendBusy ((grp p 0).lane l) = false)
    ∧ issues (.join 9 5) (s.setGroup 0 0 { g with bound := true }) 0 = true := by
  decide +kernel

/-- Each policy, and a handler with and without room for RESUMEPC. -/
theorem witness_Faults :
    let s := demo 0
    let g := grp s 0
    let l := s.launchOf 0 g
    let t := s.setBlock 0 0 (launchBlock { l with trapVec := 256 } 0 0 0 [0] 0)
    let u := t.setGroup 0 0 (g.mapLanes fun _ ln => { ln with rstk := List.replicate 8 0, mstk := List.replicate 256 0 })
    s.group 0 0 = some g ∧ (∀ f ∈ g.inflight, f.lines = [])
    ∧ (s.polder 1).policy 4 = .park ∧ (s.polder 1).policy 0x10 = .replay ∧ (s.polder 1).policy 8 = .deliver
    ∧ (s.polder 1).policy 0x12 = .cont ∧ l.trapVec = 0xFFFFFFFF ∧ (t.launchOf 0 g).trapVec ≠ 0xFFFFFFFF
    ∧ (∀ i < 32, (g.lane i).canPush (t.launchOf 0 g).stackSz = true) ∧ 8 ≤ allocOf (t.launchOf 0 g)
    ∧ (grp u 0).occ 0 = true ∧ ((grp u 0).lane 0).canPush (u.launchOf 0 (grp u 0)).stackSz = false
    ∧ ([.trap 5 g7, .trap 5 g0] : List Instr).all (fun i => issues i s 0) = true ∧ issues (.brk 3) (one 0) 0 = true
    ∧ (∃ l < 32, g.active g7 l = true) ∧ (∀ l < 32, g.active g0 l = false) := by
  decide +kernel

theorem witness_RelaunchAndSpawn :
    let s := demoR 0 [(9, 3), (12, 77)]
    let g := grp s 0
    let out := lanes32.filter (g.works g7)
    let p := demoP 0 []
    issues (.reord 9 (r 10) 8 5 g7) s 0 = true ∧ issues (.reord 9 (r 10) 8 5 g0) p 0 = true
    ∧ ([.spawn 12 true (r 10) 8 5 g7, .spawn 0 false (r 10) 0 5 g7] : List Instr).all (fun i => issues i s 0) = true
    ∧ g.accessing = false ∧ out ≠ [] ∧ g.inflight = [] ∧ (∀ l ∈ out, s.pendBusy (g.lane l) = false)
    ∧ s.fits 0 1 (out.map fun _ => recSize 0 8) = true ∧ (s.core 0).ageCtr + 32 < 2 ^ 32 ∧ g.openB = [] ∧ g.closedB = []
    ∧ (grp p 0).occ 1 = true ∧ (grp p 0).works g0 0 = true ∧ (grp p 0).works g0 1 = false := by
  decide +kernel

theorem witness_WithoutLanes :
    let s := demo 6
    let g := grp s 0
    ([.cpy (r 4) (r 6) (r 8) false false .sh g0, .sealRec 5 (r 4) true g0, .gat 9 (r 4) (r 5) (r 6) .sh .sh g0,
      .sct 9 (r 4) (r 5) (r 6) .sh .sh .last .f32 g0, .matom 8 (r 4) (r 6) (r 10) .add true g0, .mred (r 4) (r 6) .add .f32 g0,
      .bkrun (r 4) g0, .pred (r 4) (r 6) (r 7) g0, .pchk (r 4) (r 6) (r 7) g0] : List Instr).all (fun i => issues i s 0) = true
    ∧ issues (.spawn 12 true (r 10) 8 5 g0) (demo 0) 0 = true
    ∧ (∀ l < 32, g.works g0 l = false) ∧ g.accessing = false ∧ s.packetsOut 0 < 1024
    ∧ ([.sregw (r 5) .corectl g0, .sregwRd 5 .corectl g0, .qmap 5 (r 4) (r 6) g0, .qunmap 5 (r 4) g0, .place 5 (r 4) g0,
      .ctxsave 5 (r 4) (r 6) g0, .ctxrest 5 (r 4) (r 6) g0, .tbinv .all (r 4) (r 6) g0, .cinvSprd g0, .cinvRec (r 4) g0,
      .wkload 5 (r 4) (r 6) (r 8) 0 g0] : List Instr).all (fun i => issues i reeve 63) = true
    ∧ (∀ l < 32, (grp reeve 63).works g0 l = false) := by
  decide +kernel
theorem witness_CopyCommands :
    let s := demoR 6 [(4, 0x1000), (6, 2), (7, 3), (8, 64)]
    let g := grp s 0
    ([.cpy (r 4) (r 6) (r 8) false false .sh g7, .cpy (r 4) (r 6) (r 8) true true .sp g7, .sealRec 5 (r 8) true g7, .sealRec 255 (r 8) false g7] :
      List Instr).all (fun i => issues i s 0) = true
    ∧ EngReady s 0 g g7 0 ∧ (g.pair 0 4).toNat % 64 = 0 ∧ (g.reg 0 8).toNat % 16 = 0 ∧ (g.reg 0 8).toNat < s.localSize 0 g .sh
    ∧ (g.reg 0 8).toNat < s.localSize 0 g .sp ∧ (g.reg 0 8).toNat + 124 + 4 ≤ s.shSizeOf 0 g := by
  unfold EngReady EngFree
  decide +kernel

/-- Three positions: an index to fetch, the sentinel, and an index out of bounds. -/
theorem witness_GatherCommands :
    let s := withSh (withSh (demoR 6 [(9, 3), (4, 256), (5, 512), (6, 1024)]) 256
      (le 8 0x10000 ++ le 4 16 ++ le 4 32 ++ le 4 100 ++ le 4 0xFFFFFFFF ++ le 4 0)) 512 (le 4 7 ++ le 4 0xFFFFFFFF ++ le 4 100)
    let g := grp s 0
    let bytes := mreads (s.core 0).sh (s.shBaseOf 0 g + 256) 28
    let rowb := bfield bytes 8 4
    let stride := bfield bytes 12 4
    ([.gat 9 (r 4) (r 5) (r 6) .sh .sh g7, .sct 9 (r 4) (r 5) (r 6) .sh .sh .add .f32 g7] : List Instr).all (fun i => issues i s 0) = true
    ∧ EngReady s 0 g g7 0 ∧ rowb = 16 ∧ stride = 32 ∧ 256 + 32 ≤ s.shSizeOf 0 g ∧ s.storesOf g = []
    ∧ 512 + 4 * 3 ≤ s.localSize 0 g .sh ∧ 1024 + 3 * rowb ≤ s.localSize 0 g .sh ∧ 512 + 4 * 3 ≤ 1024 ∧ 256 + 32 ≤ 1024
    ∧ rowb % 16 = 0 ∧ stride % 16 = 0 ∧ rowb ≤ stride
    ∧ s.indices (s.originOf 0 0 g .gat) .sh 512 3 = [7, 0xFFFFFFFF, 100] := by
  unfold EngReady EngFree
  decide +kernel

/-- A lane's operation at an aligned and at a misaligned address. -/
theorem witness_BaseDieCommands :
    let s := demoR 6 [(4, 0x1000), (6, 5), (8, 0x1001)]
    let g := grp s 0
    ([.matom 10 (r 4) (r 6) (r 12) .cas true g7, .matom 255 (r 8) (r 6) (r 12) .add false g7, .mred (r 4) (r 6) .add .bf16 g7,
      .mred (r 8) (r 6) .max .f32 g7] : List Instr).all (fun i => issues i s 0) = true
    ∧ g.works g7 0 = true ∧ g.accessing = false ∧ s.packetsOut 0 < 1024 ∧ (g.pair 0 4).toNat % 8 = 0 ∧ (g.pair 0 8).toNat % 4 ≠ 0 ∧ (g.pair 0 8).toNat % 2 ≠ 0 := by
  decide +kernel

/-- A run of two items on pseudo-channel 0, with slabs 3 and 4 and a program of one word. -/
theorem witness_BankRunCommand :
    let d : List Byte := le 8 0x100000 ++ le 8 1 ++ le 4 0xFFFFFFFF ++ le 4 128 ++ le 4 3 ++ le 4 0 ++ le 2 16 ++ le 1 0 ++ le 1 0
      ++ le 4 0xFFFFFFFF ++ le 4 1024 ++ le 4 4096 ++ le 2 1 ++ le 2 1 ++ le 4 256 ++ List.replicate 8 0
    let s := withSh (withSh (demoR 6 [(4, 64)]) 64 d) 128 (le 4 2)
    let g := grp s 0
    let b := bDesc (mreads (s.core 0).sh (s.shBaseOf 0 g + 64) 64)
    issues (.bkrun (r 4) g7) s 0 = true ∧ EngReady s 0 g g7 0 ∧ s.storesOf g = [] ∧ 64 + 64 ≤ s.shSizeOf 0 g
    ∧ bDescBad (mreads (s.core 0).sh (s.shBaseOf 0 g + 64) 64) = false ∧ b.vbase = 0x100000 ∧ b.vbase % 65536 = 0 ∧ b.cntAddr = 128
    ∧ ofLe (mreads (s.core 0).sh (s.shBaseOf 0 g + 128) 4) = 2 ∧ b.listAddr = noAddr ∧ b.progAddr % 4 = 0
    ∧ b.progAddr + 4 * b.plen ≤ (s.polder 1).spSize ∧ b.itemOut % 64 = 0 ∧ b.sumOut % 64 = 0 ∧ b.vecAddr % 16 = 0
    ∧ b.vecAddr + vecCount b * vecBytes b ≤ (s.polder 1).spSize ∧ b.scalAddr = noAddr ∧ pcsOf b.pcmask = [0] := by
  unfold EngReady EngFree
  decide +kernel

theorem witness_PredictorCommands :
    let s := demoR 6 [(4, 0x1080), (6, 16), (8, 64)]
    let g := grp s 0
    ([.pred (r 4) (r 6) (r 8) g7, .pchk (r 4) (r 6) (r 8) g7] : List Instr).all (fun i => issues i s 0) = true
    ∧ EngReady s 0 g g7 0 ∧ (g.pair 0 4).toNat % 128 = 0 ∧ (g.reg 0 6).toNat % 16 = 0 ∧ (g.reg 0 6).toNat < s.shSizeOf 0 g
    ∧ (g.reg 0 8).toNat % 16 = 0 ∧ (g.reg 0 8).toNat < s.shSizeOf 0 g ∧ s.cmds = [] := by
  unfold EngReady EngFree
  decide +kernel

theorem witness_Synchronisation :
    let s := demo 6
    let g := grp s 0
    let k := { g with openB := [(1, [9])] }
    let u := { s.setGroup 0 0 k with cmds := [(9, default)] }
    issues (.batch .cpy g7) u 0 = true ∧ clsNum .cpy = 1 ∧ tget [] k.openB 1 ≠ [] ∧ (tget [] k.closedB 1).length < 15
    ∧ (k.closeBatch .cpy).closedB = [(1, [[9]])] ∧ u.cmdDone 9 = false
    ∧ ([.wait 20 (.one .cpy) 0 g7, .wait 20 .all 15 g7, .wait 20 .all 0 g0, .batch .cpy g0, .fence .sys g7, .fence .mx g0] : List Instr).all
      (fun i => issues i s 0) = true
    ∧ (∃ l < 32, g.active g7 l = true) ∧ (∀ l < 32, g.active g0 l = false) ∧ ((s.block 0 g.bslot).bind (·.audit)) = none
    ∧ g.openB = [] ∧ g.closedB = [] ∧ g.pendF = [] ∧ s.stopping 0 g = false
    ∧ ([.bar, .barMx, .gsync] : List Instr).all (fun i => issues i s 0) = true
    ∧ s.fenceOk g .blk = true ∧ s.fenceOk g .die = true := by
  decide +kernel

/-- Outside slot 63 a system instruction is refused. -/
theorem witness_Privilege :
    let s := demo 7
    let g := grp s 0
    let cl := g.clause.getD default
    ([.sregw (r 5) .corectl g7, .place 5 (r 4) g7, .tbinv .all (r 4) (r 6) g7] : List Instr).all
      (fun i => (issueOf i).cls = 7 && (issueOf i).words = 2) = true
    ∧ s.cur = .group 0 0 ∧ s.group 0 0 = some g ∧ g.clause = some cl ∧ g.stalled = false ∧ cl.hdr.cls = 7
    ∧ cl.hdr.width.getLsbD cl.done = true := by
  decide +kernel

theorem witness_SystemRegisters :
    let s := reeveM [(5, 1)] 0 []
    let g := grp s 63
    ([.sregw (r 5) .corectl g7, .sregw (r 5) .wdogint g7, .sregw (r 5) .coreq g7, .sregwRd 6 .seepage g7, .tbinv .pol (r 4) (r 6) g7,
      .tbinv .page (r 4) (r 6) g7, .tbinv .all (r 4) (r 6) g7, .cinvSprd g7, .cinvRec (r 4) g7, .wkload 6 (r 10) (r 5) (r 12) 0 g7] : List Instr).all
      (fun i => issues i s 63) = true
    ∧ SysReady s g g7 0 ∧ Reachable s 0 0 4096 false := by
  unfold SysReady Reachable
  decide +kernel

/-- A descriptor with a good ring, in main memory at 4096. -/
def desc64 : List Byte := le 8 0x2000 ++ le 4 16 ++ List.replicate 52 0

/-- A good ring and a bad one, a slot in use, and a free one. -/
theorem witness_QueueSlots :
    let s := reeveM [(4, 4096), (6, 9), (7, 300)] 4096 desc64
    let t := reeveM [(4, 8192), (6, 9)] 4096 desc64
    let h : HwSlot := { (default : HwSlot) with polder := 1, queue := 0, descVa := 4096 }
    let u := { reeveM [(4, 9), (6, 9), (7, 300)] 4096 desc64 with slots := [(9, h)] }
    let g := grp s 63
    ([.qmap 5 (r 4) (r 6) g7, .qmap 5 (r 4) (r 7) g7, .qunmap 5 (r 6) g7] : List Instr).all (fun i => issues i s 63) = true
    ∧ SysReady s g g7 0 ∧ s.lwatches = [] ∧ Reachable s 0 4096 64 false ∧ ringOk (s.peek 0 4096 64) = true
    ∧ issues (.qmap 5 (r 4) (r 6) g7) t 63 = true ∧ SysReady t (grp t 63) g7 0 ∧ ringOk (t.peek 0 8192 64) = false ∧ Reachable t 0 8192 64 false
    ∧ issues (.qunmap 5 (r 4) g7) u 63 = true ∧ SysReady u (grp u 63) g7 0 ∧ tfind u.slots 9 = some h ∧ Reachable u 0 h.descVa 64 false
    ∧ mget32 u.sp ((u.polder 0).spBase + 0x1000 + 16 * 9) ≠ 2 ∧ tfind s.slots 9 = none ∧ 255 < (300 : Nat) := by
  unfold SysReady Reachable
  decide +kernel

/-- A place descriptor that names slot 5, block index 0 and a core. -/
def reeveP (core : Nat) (l : Option Launch) : State :=
  let s := reeveM [(4, 0x4000), (6, 0x4008), (7, 0x10000)] 0 []
  let h : HwSlot := { (default : HwSlot) with polder := 1, queue := 0, launch := l }
  let s := s.setPolder 1 { Polder.reset with alive := true, cores := 2, spBase := 65536, spSize := 65536, shSize := 524288 }
  let s := s.setCore 1 { s.core 1 with placeok := true }
  { s with sp := mwrites [] 0x4000 (le 4 5 ++ le 8 0 ++ le 4 core), slots := [(5, h)] }

/-- A head that is no LAUNCH, a core that may not be used, a core without room, and a core with room; a misaligned descriptor and one
outside the window. -/
theorem witness_Placing :
    let l := loadLaunch 1 64 false
    let big := { loadLaunch 1 255 false with x := 1024, y := 64 }
    let s := reeveP 1 (some l)
    let g := grp s 63
    ([.place 5 (r 4) g7, .place 5 (r 6) g7, .place 5 (r 7) g7] : List Instr).all (fun i => issues i s 63) = true
    ∧ SysReady s g g7 0 ∧ (g.reg 0 4).toNat % 16 = 0 ∧ (g.reg 0 4).toNat + 16 ≤ (s.polder 0).spSize
    ∧ s.linkAvail (dieOf 0) (homeDie ((s.polder 0).spBase + 0x4000)) = .yes
    ∧ (g.reg 0 6).toNat % 16 ≠ 0 ∧ (g.reg 0 7).toNat % 16 = 0 ∧ (s.polder 0).spSize < (g.reg 0 7).toNat + 16
    ∧ ((tfind (reeveP 1 none).slots 5).bind (·.launch)) = none
    ∧ (s.polder 1).cores.getLsbD 1 = true ∧ (s.core 1).quar = false ∧ (s.core 1).placeok = true ∧ ((s.core 1).room (s.polder 1).shSize l).isSome = true
    ∧ (s.polder 1).cores.getLsbD 0 = false ∧ ((s.core 1).room (s.polder 1).shSize big).isNone = true
    ∧ ([0] : List Nat).Nodup ∧ ngrpOf l ≤ ([0] : List Nat).length := by
  unfold SysReady
  decide +kernel

/-- A block of polder 1 that has come to rest on core 1. -/
def rested : State :=
  let s := reeveM [(4, 0), (6, 256), (8, 256 + 5)] 0 []
  let l := { loadLaunch 1 32 false with shared := 0 }
  let s := s.setPolder 1 { Polder.reset with alive := true, cores := 2, spBase := 65536, spSize := 65536, shSize := 524288 }
  let s := s.setBlock 1 0 (launchBlock l 1 0 0 [0] 0)
  s.setGroup 1 0 { loadGroup 0 32 (loadClause 0 true 0 0) with clause := none }

/-- An image of 192 bytes, with or without its seal: the SHA3-256 of the rest, computed apart from the model. -/
def image192 (good : Bool) : List Byte :=
  let body := le 4 1 ++ le 4 192 ++ le 16 0 ++ le 2 1 ++ List.replicate 134 0
  (if good then [0, 147, 164, 27, 239, 125, 211, 222, 122, 211, 150, 197, 253, 67, 196, 118, 141, 136, 207, 140, 110, 163, 251, 179,
    13, 227, 69, 219, 77, 196, 33, 178] else List.replicate 32 0) ++ body

theorem witness_ctxsave :
    let s := rested
    let x := (s.block 1 0).getD default
    ([.ctxsave 5 (r 4) (r 6) g7, .ctxsave 5 (r 4) (r 8) g7] : List Instr).all (fun i => issues i s 63) = true
    ∧ SysReady s (grp s 63) g7 0 ∧ s.block 1 0 = some x ∧ s.block 1 5 = none ∧ x.stopping = false
    ∧ (∀ e ∈ (s.core 1).groups, e.2.bslot = 0 → e.2.atBoundary = true ∧ e.2.stq = []) ∧ (s.core 1).orphans = [] ∧ s.linkQ = []
    ∧ s.cmds = [] ∧ (s.core 1).parkedA = [] ∧ Reachable s 0 0 (s.imageLen 1 0 x) true
    ∧ (s.beginStop 1 0).quiet 1 0 = true
    ∧ (∀ e ∈ (s.beginStop 1 0).piecesPa 0 0 ((s.beginStop 1 0).imageLen 1 0 x), (s.beginStop 1 0).avail (dieOf 0) e.1 = .yes) := by
  unfold SysReady Reachable
  decide +kernel

/-- An image that is too short, one with a bad seal, and a good one. -/
theorem witness_ctxrest :
    let rs : List (Nat × Word) := [(4, 0), (6, 1)]
    let s0 := reeveM rs 0 (le 4 0)
    let s1 := reeveM rs 0 (image192 false)
    let s2 := reeveM rs 0 (image192 true)
    let im := s2.peek 0 0 192
    ([s0, s1, s2]).all (fun s => issues (.ctxrest 5 (r 4) (r 6) g7) s 63) = true
    ∧ (∀ s ∈ [s0, s1, s2], SysReady s (grp s 63) g7 0 ∧ Reachable s 0 0 128 false) ∧ bfield (s0.peek 0 0 128) 36 4 = 0
    ∧ (∀ s ∈ [s1, s2], bfield (s.peek 0 0 128) 36 4 = 192 ∧ Reachable (s.touch 0 0 128) 0 0 192 false)
    ∧ (s1.peek 0 0 192).take 32 ≠ im.take 32 ∧ im.take 32 = sha3_256 ((s2.polder 1).sealKey ++ im.drop 32) ∧ bfield im 32 4 = 1
    ∧ bfield im 56 2 = 1 ∧ s2.imageSlot 0 = none := by
  unfold SysReady Reachable
  decide +kernel

/-- A good image whose block has room on core 1. -/
theorem witness_ImagesComplete :
    let s := reeveM [(4, 0), (6, 1)] 0 (image192 true)
    let s := s.setPolder 1 { Polder.reset with alive := true, cores := 2, shSize := 524288, sealKey := (s.polder 1).sealKey }
    let im := s.peek 0 0 192
    let k := s.imageLaunch im
    issues (.ctxrest 5 (r 4) (r 6) g7) s 63 = true ∧ SysReady s (grp s 63) g7 0 ∧ bfield (s.peek 0 0 128) 36 4 = 192
    ∧ Ready s 0 0 128 false ∧ Ready s 0 0 192 false ∧ s.badImage (s.askedBy 0 im) im = false
    ∧ ((s.core 1).room (s.polder k.polder).shSize k).isSome = true
    ∧ s.fits 1 k.polder ((readRecs (bfield im 60 4) (im.drop (192 + nslotOf k * sectionLen k + shSizeFor k))).map fun e => e.1.size) = true := by
  unfold SysReady Ready Reachable
  decide +kernel

/-- A group of core 0 at a header, in boot SRAM or in main memory. -/
def atHeader (sram : Bool) (ws : List Byte) : State :=
  let p := if sram then 0 else 1
  let s := open0 (State.reset.setPolder p { Polder.reset with alive := true, cores := 1, featack := [(0, 0x7FF)] })
  let s := s.setBlock 0 0 (launchBlock (loadLaunch p 64 sram) 0 0 0 [0] 0)
  let s := s.setCore 0 { s.core 0 with tb := [{ polder := 1, base := 0, size := 2 ^ 21, frame := 0, perm := 7 }] }
  let s := s.setGroup 0 0 { loadGroup 0 32 (loadClause 0 true 0 0) with clause := none, pc := 0 }
  { s with boot := { s.boot with sram := if sram then mwrites [] 0 ws else [] }, mem := if sram then [] else mwrites [] 0 ws
           turns := [.group 0 0] }

theorem witness_StepRunsDecoded :
    let a := State.reset.withFetchWord 64 0x00000000_01000000
    let ga := grp a 0
    let cl := ga.clause.getD default
    let k := (ga.pc - cl.hdrPc).toNat / 4 - 1
    let hw : Word := 0x2000000E
    let b := atHeader true (le 4 hw.toNat)
    let m := atHeader false (le 4 hw.toNat)
    let e : TEntry := { polder := 1, base := 0, size := 2 ^ 21, frame := 0, perm := 7 }
    let w := State.reset.withFetchWord 32 0x40A3FFF8
    let x := (tfind (w.die 0).walks 0).getD default
    let fr := (x.frames.head?).getD default
    let n := State.reset.withFetchWord 32 0x62920201
    let run := (tfind n.runs 1).getD default
    let y := (tfind run.items (itemKey 0 0)).getD default
    (a.turns = [.group 0 0] ∧ a.group 0 0 = some ga ∧ ga.stalled = false ∧ ga.occs ≠ [] ∧ ga.clause = some cl
      ∧ decodeVilesk (cl.words.getD k 0) (cl.words.getD (k + 1) 0) = some (.bra 0 0 { pred := 0, neg := false }))
    ∧ (b.turns = [.group 0 0] ∧ b.group 0 0 = some (grp b 0) ∧ (grp b 0).stalled = false ∧ (grp b 0).occs ≠ [] ∧ (grp b 0).clause = none
      ∧ b.stopping 0 (grp b 0) = false ∧ (b.launchOf 0 (grp b 0)).sram = true ∧ mget32 b.boot.sram 0 = hw ∧ (decodeHeader hw).isSome = true)
    ∧ (m.turns = [.group 0 0] ∧ m.group 0 0 = some (grp m 0) ∧ (grp m 0).stalled = false ∧ (grp m 0).occs ≠ [] ∧ (grp m 0).clause = none
      ∧ m.stopping 0 (grp m 0) = false ∧ (m.launchOf 0 (grp m 0)).sram = false ∧ (m.launchOf 0 (grp m 0)).codeBase = 0
      ∧ (m.core 0).tb.find? (fun x => x.covers 1 0) = some e ∧ e.perm &&& 4 = 4 ∧ m.avail (dieOf 0) 0 = .yes
      ∧ (m.readPa 0 4).1 = toLe 4 hw.toNat ∧ (m.readPa 0 4).2.1 = [])
    ∧ (w.turns = [.walker 0 0] ∧ tfind (w.die 0).walks 0 = some x ∧ x.frames.head? = some fr ∧ x.read = none ∧ x.cycles < walkLimit w x.polder
      ∧ fr.pc ≤ 1023 ∧ decodeWalker (mget32 x.routine (4 * fr.pc)) = some (.waddi 5 3 0xFFF8))
    ∧ (n.turns = [.item 1 0 0] ∧ tfind n.runs 1 = some run ∧ tfind run.items (itemKey 0 0) = some y ∧ y.ended = false
      ∧ ((tfind run.loads y.stack).map fun ld => decodeBank (ld.prog.getD y.pc 0)) = some (some (.bmac 1 2 1 .bf16 2 1)))
    := by
  decide +kernel

theorem witness_StepRunsMoves :
    (let s : State := { State.reset with powered := true, agenda := [(1, Act.ev .weirRefill)] }
     s.turns = [] ∧ s.agenda = [(1, Act.ev .weirRefill)] ∧ s.powered = true)
    ∧ (let s : State := { State.reset with powered := true, agenda := [(1, Act.part 0 0 3)] }
       s.turns = [] ∧ s.agenda = [(1, Act.part 0 0 3)] ∧ s.powered = true)
    ∧ (let s : State := { State.reset with powered := true, agenda := [(1, Act.proc (.rescue 0))] }
       s.turns = [] ∧ s.agenda = [(1, Act.proc (.rescue 0))] ∧ s.powered = true) := by
  decide +kernel

theorem witness_ClauseHeaders :
    let h : Header := { count := 1, cls := 0, runend := false, wclass := 0, wthresh := 0, width := 0 }
    let h2 : Header := { h with wclass := 7, count := 24 }
    let b := atHeader true (le 4 0x2000000E)
    let full := b.setGroup 0 0 { grp b 0 with run := 24 }
    let m := atHeader false (le 4 0x2000000E)
    let at' (s : State) : State := { s with cur := .group 0 0 }
    (∀ s ∈ [at' b, at' full, at' m], s.cur = .group 0 0 ∧ s.group 0 0 = some (grp s 0) ∧ (grp s 0).stalled = false
      ∧ (grp s 0).clause = none ∧ (grp s 0).occs ≠ [] ∧ s.stopping 0 (grp s 0) = false)
    ∧ 24 < (grp full 0).run + h.count.toNat ∧ h.wclass = 0 ∧ (grp b 0).run + h.count.toNat ≤ 24 ∧ 0 + h2.count.toNat ≤ 24
    ∧ (grp b 0).openB = [] ∧ (grp b 0).closedB = [] ∧ (grp b 0).pendF = [] ∧ (b.launchOf 0 (grp b 0)).sram = true
    ∧ h.count = 1 ∧ h.width.getLsbD 0 = false ∧ (m.launchOf 0 (grp m 0)).sram = false
    ∧ (m.core 0).tb.any (fun x => x.covers 1 4 && x.perm &&& 4 = 4) = true ∧ m.avail (dieOf 0) 4 = .yes
    ∧ (m.readPa 4 4).1 = toLe 4 0 ∧ (m.readPa 4 4).2.1 = []
    ∧ ([at' b, at' full, at' m]).all (fun s => changes (.clauseHeader h) s) = true ∧ changes (.clauseHeader h2) (at' b) = true := by
  decide +kernel

/-- Barrel mode with the owner ready, and a free port A with a ready group. -/
theorem witness_IssueCycles :
    let s := demo 1
    let k := { s.core 0 with barrel := true }
    let u := (s.setCore 0 { k with barrel := false }).onSub 0 0 (·.youngest 0)
    let x := (u.core 0).sub 0
    let t := s.setCore 0 k
    (∀ v ∈ [t, u], ∀ j < 4, ((v.core 0).sub j).issued ≤ v.coreClk 0) ∧ t.mayIssue 0 0 = true ∧ u.mayIssue 0 0 = true
    ∧ (16 * 0 + t.coreClk 0 % 16 = 0 ∧ t.wantsEng 0 0 = false ∧ t.groupReady 0 0 = true)
    ∧ ((u.core 0).barrel = false ∧ x.portA = none ∧ x.portB = none ∧ x.holdA = false
      ∧ x.order.find? (fun y => u.groupReady 0 y) = some 0 ∧ u.wantsEng 0 0 = false)
    ∧ changes (.issueCycle 0 0) t = true ∧ changes (.issueCycle 0 0) u = true := by
  decide +kernel

/-- A result of two lanes, one with flags, and a reply of an atomic. -/
theorem witness_ResultsArrive :
    let ws : List LWrite := [{ lane := 0, loc := .reg 5, val := 7, flags := 1 }, { lane := 1, loc := .pred 2, val := 1, flags := 0 }]
    let f : InFlight := { id := 3, window := 2, writes := ws, reply := false, lines := [], todo := [], got := [], org := default }
    let e : InFlight := { id := 4, window := 2, writes := ws, reply := true, lines := [(0, 5)], todo := [], got := [], org := default }
    let p : InFlight := { f with id := 5, todo := [{ lane := 0, addr := 65536, acq := false, op := .load 5 true }] }
    let g := { grp (demo 1) 0 with inflight := [f, e, p] }
    let s := (demo 1).setGroup 0 0 g
    s.group 0 0 = some g ∧ f ∈ g.inflight ∧ e ∈ g.inflight ∧ (ws.map fun w => (w.lane, w.loc)).Nodup
    ∧ g.inflight.find? (fun x => x.id = 3 && !x.reply) = some f ∧ g.inflight.find? (fun x => x.id = 4 && x.reply) = some e
    ∧ p ∈ g.inflight ∧ (∀ x ∈ g.inflight, x.id = p.id → x = p) ∧ p.todo ≠ []
    ∧ changes (.longLatencyResult 0 0 3) s = true ∧ changes (.atspReply 0 0 4) s = true := by
  decide +kernel

/-- Where the commands here come from. -/
def org0 (cls : Cls) : Origin :=
  { polder := 1, core := 0, slot := 0, uid := 1, bslot := 0, grp := 0, launch := 1, blk := 0, cls := cls, pc := 0, ir := 0 }

/-- A command of the demo group, number 5. -/
def cmd5 (cls : Cls) (op : CmdOp) (accs : List Nat) : Cmd :=
  { org := org0 cls, op := op, mask := 1, phase := .data, stores := [], plan := [], accs := accs, recB := [], recB2 := [], status := 0, faults := [], wrote := [] }

/-- A served read of command 5. -/
def acc5 (off : Nat) (bs : List Byte) : Access :=
  { polder := 1, core := 0, cmd := 5, lane := 0, src := 0, op := .read, va := 0, len := bs.length, off := off, st := .served, data := bs, bad := [], aux := 0 }

/-- The demo state with command 5 in its group's open batch. -/
def withCmd (x : Cmd) (accs : List (Nat × Access)) : State :=
  let s := demo 6
  { s.setGroup 0 0 { grp s 0 with openB := [(clsNum x.org.cls, [5])] } with cmds := [(5, x)], accs := accs, next := 20 }

/-- A layout record of one-line tiles: 64 bytes a line. -/
def rec64 : List Byte := List.replicate 64 0

theorem witness_CopiesComplete :
    let x := cmd5 .cpy (.cpy false .sh 0x1000 0 1 64) [9]
    let s := withCmd x [(9, acc5 0 [1, 2, 3, 4])]
    let z := cmd5 .cpy (.sealRec 60 128 5) []
    let t := withCmd z []
    let t := t.setGroup 0 0 ((grp t 0).mapLanes fun l ln => if l = 0 then { ln with pend := [(5, { cmd := 5, cls := .cpy })] } else ln)
    let w : Coll := { parts := [1], slices := [{ uid := 1, cmd := some 5 }] }
    let y := { (s.block 0 0).getD default with coll := some w }
    let u := s.setBlock 0 0 y
    s.lwatches = [] ∧ tfind s.cmds 5 = some x ∧ x.phase = .data ∧ x.plan = [] ∧ s.accsOver x = true ∧ s.storesDone x.org x.stores = true
    ∧ s.localAvail x.org .sh 64 x.span = .yes ∧ ((s.accsOf x).flatMap Access.good) = [(0, 1), (1, 2), (2, 3), (3, 4)]
    ∧ (((s.accsOf x).flatMap Access.good).map Prod.fst).Nodup ∧ changes (.cpyComplete 5) s = true
    ∧ tfind t.cmds 5 = some z ∧ t.storesDone z.org z.stores = true ∧ t.awaits z 5 0 5 = true
    ∧ u.block 0 0 = some y ∧ y.coll = some w ∧ u.collReady 0 0 w = true ∧ y.collNext = [] ∧ changes (.collectiveStart 0 0) u = true
    ∧ x.org.core = 0 ∧ x.org.bslot = 0 := by
  decide +kernel

/-- A fetched index, the sentinel, and an index out of bounds. -/
theorem witness_GathersComplete :
    let idx : List Word := [7, 0xFFFFFFFF, 100]
    let x := cmd5 .gat (.gat 256 .sh 1024 16 0x11223344 100 0xFFFFFFFF idx) [9]
    let s := withCmd x [(9, acc5 0 (List.replicate 16 6))]
    let z := cmd5 .gat (.sct 256 1) []
    let t := withCmd z []
    tfind s.cmds 5 = some x ∧ s.lwatches = [] ∧ s.accsOver x = true ∧ s.localAvail x.org .sh 1024 (idx.length * 16) = .yes
    ∧ bytesAt (s.accsOf x) 0 16 = some (List.replicate 16 6) ∧ changes (.gatComplete 5) s = true
    ∧ tfind t.cmds 5 = some z ∧ t.lwatches = [] ∧ t.accsOver z = true ∧ changes (.sctComplete 5) t = true := by
  decide +kernel

/-- A child record of the demo block. -/
def child0 (kind : RKind) (age home : Nat) (key : Word) : Record :=
  { kind := kind, bslot := 0, pc := 64, nlive := 1, regs := [9], rstk := [], mstk := [], deep := 0, preds := 0, homeLane := home, homeGrp := 0, key := key
    age := age, born := 0, orig := 1, slot := 0, mark := default, stores := [], due := false, spilled := false, place := [], held := .free }

theorem witness_CommandReplies :
    let x := { cmd5 .mem (.matom 6 true) [9, 10] with mask := 3 }
    let s := withCmd x [(9, acc5 0 [1, 2, 3, 4, 5, 6, 7, 8]), (10, { acc5 0 [] with lane := 1, st := .sent 0 0 })]
    let x1 := { x with mask := 1 }
    let s1 := withCmd x1 [(9, acc5 0 [1, 2, 3, 4, 5, 6, 7, 8])]
    let m := cmd5 .mem .mred []
    let t := withCmd m []
    let p := { cmd5 .spn (.spawn 0 [(0, child0 .spawn 0 0 0)]) [] with phase := .waiting }
    let u := withCmd p []
    let f := (demo 6).setGroup 0 0 { grp (demo 6) 0 with waiting := .fence .sys }
    let f2 := (demo 6).setGroup 0 0 { grp (demo 6) 0 with waiting := .fence .mx, stq := [entry2 none] }
    tfind s.cmds 5 = some x ∧ x.phase = .data ∧ x.mask.getLsbD 0 = true ∧ (∀ a ∈ s.accsOf x, a.lane = 0 → a.st.over = true)
    ∧ x.mask ≠ BitVec.twoPow 32 0 ∧ tfind s1.cmds 5 = some x1 ∧ x1.mask = BitVec.twoPow 32 0
    ∧ changes (.matomReply 5 0) s = true ∧ changes (.matomReply 5 0) s1 = true
    ∧ tfind t.cmds 5 = some m ∧ m.op = .mred ∧ t.accsOver m = true ∧ changes (.mredAccept 5) t = true
    ∧ tfind u.cmds 5 = some p ∧ p.phase = .waiting ∧ (∀ w ∈ u.waiters 0, 0 ≤ w.order)
    ∧ u.fits 0 1 ([(0, child0 .spawn 0 0 0)].map fun e => e.2.size) = true ∧ (u.core 0).ageCtr + 1 < 2 ^ 32 ∧ changes (.spawnComplete 5) u = true
    ∧ f.group 0 0 = some (grp f 0) ∧ (grp f 0).waiting = .fence .sys ∧ (grp f 0).stq = [] ∧ (∀ y ∈ (grp f 0).inflight, y.reply = false)
    ∧ f.drained ((grp f 0).mreds ++ (grp f 0).finished) = true ∧ f.linkQ = [] ∧ f.queue = [] ∧ changes (.fenceComplete 0 0) f = true
    ∧ f2.group 0 0 = some (grp f2 0) ∧ (grp f2 0).waiting = .fence .mx ∧ (grp f2 0).stq ≠ [] := by
  decide +kernel

/-- Enough in the bucket, a borrowed rest, too little of both, and a refill that is due. -/
theorem witness_Weir :
    let x := { cmd5 .cpy (.cpy false .sh 0x1000 0 1 64) [] with plan := [{ va := 0x2000, len := 64, off := 0 }] }
    let s (level pool : Nat) (borrow : Bool) : State :=
      let s := withCmd x []
      { s.setPolder 1 { s.polder 1 with weirLevel := level, borrow := borrow, weirDebtLim := 100, weirDepth := 4096, weirRate := 512 } with pool := pool }
    let a := s 64 0 false
    let b := s 10 54 true
    let c := s 10 53 true
    let d := { a with clock := 2 ^ 40 }
    tfind a.cmds 5 = some x ∧ (0 < 5) ∧ a.refillDue = false ∧ a.hasChunk 5 x = true ∧ a.olderChunk 1 5 = false
    ∧ total (x.chunk.1.map (·.len)) = 64 ∧ (a.polder 1).weirLevel = 64
    ∧ b.refillDue = false ∧ b.hasChunk 5 x = true ∧ (b.polder 1).borrow = true ∧ (b.polder 1).weirDebt + 54 ≤ (b.polder 1).weirDebtLim ∧ 54 ≤ b.pool
    ∧ c.hasChunk 5 x = true ∧ c.pool < 54 ∧ changes (.weirChunk 5) a = true ∧ changes (.weirChunk 5) b = true
    ∧ d.refillDue = true ∧ d.pool ≤ 2 ^ 26 ∧ (d.polder 1).alive = true ∧ (tfind d.polders 1).isSome = true ∧ changes .weirRefill d = true := by
  decide +kernel

/-- A predictor record of one neuron and one input, of rank 1. -/
def rec128 : List Byte :=
  le 4 0 ++ le 4 1 ++ le 4 1 ++ le 2 1 ++ le 2 0 ++ le 4 0x40000000 ++ le 4 0x3F000000 ++ le 4 0x3F800000 ++ le 4 0x3F800000 ++ List.replicate 96 0

/-- A `pred` whose one row is active, and a `pchk` of a check list with that row. -/
theorem witness_PredictorResults :
    let x := { cmd5 .prd (.pred 0x1000 16 64) [9] with recB := rec128 }
    let s := withSh (withCmd x [(9, acc5 0 ([0x80, 0x40] ++ [0x80, 0x40]))]) 16 (le 4 0x3F800000)
    let area := le 4 0 ++ le 4 1 ++ List.replicate 28 0 ++ le 4 0
    let z := { cmd5 .prd (.pchk 0x1000 16 64) [9] with recB := rec128, recB2 := area }
    let t := withSh (withCmd z [(9, acc5 0 [0x38, 0, 0, 0x80])]) 16 (le 4 0x3F800000)
    (∀ u ∈ [s, t], u.numbered ∧ u.storesDone (org0 .prd) [] = true)
    ∧ tfind s.cmds 5 = some x ∧ x.phase = .data ∧ x.plan = [] ∧ x.faults = [] ∧ s.accsOver x = true ∧ changes (.predComplete 5) s = true
    ∧ tfind t.cmds 5 = some z ∧ t.accsOver z = true ∧ pN z.recB = 1 ∧ checkList 1 area = [0] ∧ bfield area 0 4 = 0
    ∧ (pchkRows (bfield area 20 4) (pF z.recB 24) (pF z.recB 28)
        [(0, pM (pX z.recB (le 4 0x3F800000)) [0x38, 0, 0] 0x80)]).1.length ≤ 1
    ∧ changes (.predComplete 5) t = true := by
  unfold State.numbered
  decide +kernel

/-- A block of the demo state with slots 0 and 1 of which slot 1 is free, and these records. -/
def weaving (rs : List Record) : State :=
  let s := demo 0
  let s := s.setBlock 0 0 (launchBlock { loadLaunch 1 64 false with bw := 4 } 0 0 0 [0, 1] 0)
  { s.setCore 0 { s.core 0 with records := rs, ageCtr := 9 } with clock := 100000 }

/-- Sets of one spill record and of two reorder records, whose groups have gone. -/
theorem witness_FormingGroups :
    let a := { child0 .spill 3 6 0 with orig := 99 }
    let b := { child0 .reorder 4 0 7 with orig := 99 }
    let d := { child0 .reorder 5 0 6 with orig := 99 }
    let s := weaving [a]
    let t := weaving [b, d]
    ((s.core 0).records.map (·.age)).Nodup ∧ a ∈ (s.core 0).records ∧ s.setOf 0 a = [a] ∧ s.mayForm 0 [a] = true
    ∧ (s.block 0 0).isSome = true ∧ s.freeSlot 0 0 = some 1 ∧ changes (.weaverFormGroup 0) s = true
    ∧ ((t.core 0).records.map (·.age)).Nodup ∧ t.setOf 0 b = [b, d] ∧ t.setOf 0 d = [b, d] ∧ t.mayForm 0 [b, d] = true
    ∧ t.freeSlot 0 0 = some 1 ∧ b.age ≤ d.age ∧ changes (.weaverFormGroup 0) t = true := by
  decide +kernel

theorem witness_WaitingRecords :
    let a := { child0 .spill 3 6 0 with orig := 99 }
    let s := weaving [a]
    let young := { s with clock := 4095 }
    let l := { loadLaunch 1 64 false with noprom := false }
    let g := { grp (demo 0) 0 with clause := none, pc := 64 }
    let e := ({ s with clock := 4096 }.setBlock 0 0 (launchBlock l 0 0 0 [0] 0)).setGroup 0 0 g
    let h := { g with waiting := .room 0 [64] false }
    let w := s.setGroup 0 0 h
    (s.core 0).records.find? (fun x => decide (x.age = 3)) = some a ∧ a.born + fairOf (s.blockLaunch 0 0) ≤ s.clock
    ∧ young.clock < a.born + fairOf (young.blockLaunch 0 0) ∧ changes (.setDue 0 3) s = true
    ∧ e.group 0 0 = some g ∧ (e.launchOf 0 g).noprom = false ∧ e.hasDue 0 0 = true ∧ e.freeSlot 0 0 = none
    ∧ e.evictee 0 0 = some 0 ∧ g.atRunEnd = true ∧ g.occs ≠ [] ∧ g.inflight = [] ∧ g.openB = [] ∧ g.closedB = []
    ∧ (∀ i ∈ g.occs, e.pendBusy (g.lane i) = false) ∧ (e.core 0).ageCtr + 32 < 2 ^ 32
    ∧ e.fits 0 1 (g.occs.map fun i => recSize (g.lane i).rstk.length 64) = true ∧ changes (.groupEvict 0 0) e = true
    ∧ w.group 0 0 = some h ∧ h.waiting = .room 0 [64] false
    ∧ w.waiters 1 = [{ order := 0, core := 0, slot := some 0, from' := 0, cmd := 0, sizes := [64] }] ∧ 1 ∈ w.poldersOn 0
    ∧ (∀ q ∈ w.poldersOn 0, q ≠ 1 → w.waiters q = []) ∧ w.fits 0 1 [64] = true
    ∧ changes (.spillRoomFreed 0) w = true := by
  decide +kernel

/-- A full group, a group with room and a record to merge, timeouts, a sleep, and both barriers. -/
theorem witness_JoinsAndBarriers :
    let w : Wait := .join 64 5 200000
    let s (n : Nat) (w : Wait) (rs : List Record) (clock : Nat) : State :=
      let s := weaving rs
      { s.setGroup 0 0 { loadGroup 0 n (loadClause 0 true 0 0) with clause := none, waiting := w } with clock := clock }
    let a := { child0 .spill 3 6 0 with orig := 99 }
    let full := s 32 w [] 100000
    let other := { child0 .spill 3 6 0 with pc := 128 }
    let wait' := s 4 w [other] 100000
    let one' := s 4 w [a] 100000
    let late := s 4 w [] 200000
    let slp := s 4 (.sleep 7) [] 7
    let bar := s 32 (.bar true) [] 100000
    let gs := s 32 .gsync [] 100000
    let due (t : State) : List Record := (t.core 0).records.filter fun r => decide (r.kind = .spill) && decide (r.bslot = 0)
      && decide (r.pc = 64) && t.eligible 0 r
    (∀ t ∈ [full, wait', one', late, slp, bar, gs], t.group 0 0 = some (grp t 0)) ∧ (∀ t ∈ [full, wait', one', late], (grp t 0).waiting = w)
    ∧ due full = [] ∧ (∀ i < 32, ((grp full 0).lane i).st ≠ .empty) ∧ changes (.joinMerge 0 0) full = true
    ∧ due wait' = [] ∧ ((grp wait' 0).lane 4).st = .empty ∧ (wait'.core 0).joinAlone 0 0 = false
    ∧ due one' = [a] ∧ (one'.core 0).joinsFirst 0 64 5 0 = true ∧ (grp one' 0).mergeLane 6 = some 6 ∧ changes (.joinMerge 0 0) one' = true
    ∧ 200000 ≤ late.clock ∧ due late = [] ∧ changes (.joinTimeout 0 0) late = true ∧ wait'.clock < 200000
    ∧ (grp slp 0).waiting = .sleep 7 ∧ changes (.sleepExpire 0 0) slp = true
    ∧ (grp bar 0).occs ≠ [] ∧ (∀ e ∈ bar.threads 0 0, e.2.atBar = true) ∧ (∃ e ∈ bar.threads 0 0, e.2.waiting = .bar true)
    ∧ changes (.barrierComplete 0 0) bar = true ∧ (∃ e ∈ gs.threads 0 0, e.2.atBar = false)
    ∧ (∀ y ∈ gs.gang 0 0, ∀ e ∈ gs.threads y.1 y.2, e.2.waiting = .gsync) ∧ gs.gangHere 0 0 = true ∧ gs.lwatches = []
    ∧ (∀ x ∈ ({ gs with linkQ := [sent0] } : State).linkQ, gs.linkAvail (dieOf x.core) (homeDie x.word.addr) = .yes)
    ∧ (let l := (((gs.block 0 0).getD default).launch)
       let h := gs.setBlock 0 0 { (gs.block 0 0).getD default with launch := { l with nblkX := 2, gangSz := 2 } }
       h.group 0 0 = some (grp h 0) ∧ h.gangHere 0 0 = true ∧ { h with slots := [(3, { (default : HwSlot) with polder := 1, launch := some { l with nblkX := 2, gangSz := 2 } })] }.gangHere 0 0 = false)
    ∧ changes (.gangBarrierComplete 0 0) gs = true := by
  decide +kernel

theorem witness_BlocksEnd :
    let s := weaving []
    let d := s.setCore 0 { s.core 0 with groups := [] }
    let x := (s.block 0 0).getD default
    let t := s.setCore 0 { s.core 0 with wdogint := 1000 }
    let y := { x with booked := true, poisoned := true }
    let e := d.setBlock 0 0 y
    s.block 0 0 = some x ∧ x.launch.sram = false ∧ x.abort = false ∧ s.drainedBlock 0 0 x = false ∧ d.lwatches = []
    ∧ e.block 0 0 = some y ∧ y.abort = false ∧ e.drainedBlock 0 0 y = true ∧ e.lwatches = [] ∧ changes (.blockRetire 0 0) e = true
    ∧ d.block 0 0 = some x ∧ d.drainedBlock 0 0 x = true ∧ changes (.blockRetire 0 0) d = true
    ∧ t.block 0 0 = some x ∧ (t.core 0).wdogint.toNat ≠ 0 ∧ x.progress + (t.core 0).wdogint.toNat ≤ t.clock ∧ changes (.watchdogExpire 0 0) t = true
    ∧ s.clock < x.progress + (s.core 0).wdogint.toNat := by
  decide +kernel

/-- Walker 0 of die 0 about to run an instruction of a walk of polder 1, with values in its registers. -/
def walking (rs : List (Nat × DWord)) (depth : Nat) (cycles : Nat) (read : Option WRead) : State :=
  let s := open0 (State.reset.withWalkerWord 0)
  let s := s.setPolder 1 { Polder.reset with alive := true, ranges := [(0, { base := 0, limit := 2 ^ 30, perm := 3 })] }
  let e : TEntry := { polder := 1, base := 0, size := 65536, frame := 0, perm := 1 }
  let e' : TEntry := { polder := 1, base := 65536, size := 65536, frame := 65536, perm := 2 }
  let x := (tfind (s.die 0).walks 0).getD default
  let fr := (x.frames.head?).getD default
  let x := { x with frames := [{ fr with regs := rs, depth := depth }], cycles := cycles, read := read }
  { (s.setDie 0 { s.die 0 with tb := [e, e'], walks := [(0, x)] }).setWalk 0 0 x with cur := .walker 0 0, turns := [] }

/-- The walk of such a state. -/
def walkOf (s : State) : Walk := (tfind (s.die 0).walks 0).getD default

/-- `Walks`, computed. -/
def walks (s : State) : Bool :=
  decide (s.cur = .walker 0 0) && decide (tfind (s.die 0).walks 0 = some (walkOf s)) && (walkOf s).frames.head?.isSome
    && (walkOf s).read.isNone && decide ((walkOf s).cycles < walkLimit s (walkOf s).polder)

theorem walks_spec {s : State} (h : walks s = true) : ∃ fr, Walks s 0 0 (walkOf s) fr := by
  unfold walks at h
  simp only [Bool.and_eq_true, decide_eq_true_eq] at h
  obtain ⟨⟨⟨⟨h1, h2⟩, h3⟩, h4⟩, h5⟩ := h
  obtain ⟨fr, hfr⟩ := Option.isSome_iff_exists.mp h3
  exact ⟨fr, h1, h2, hfr, Option.isNone_iff_eq_none.mp h4, h5⟩

/-- Register, branch and scratch instructions run; targets and scratch addresses in and out of range. -/
theorem witness_WalkerCode :
    let s := walking [(1, 8), (2, 1016), (3, 1024), (4, 9)] 0 0 none
    let fr := ((walkOf s).frames.head?).getD default
    walks s = true ∧ fr.pc = 0
    ∧ ([.wadd 5 1 2, .wmulhu 0 1 2, .whash 5 1 2, .wins 5 3, .wbfx 5 1 3 4, .wbeq 1 1 5, .wbne 1 2 (-1), .wblt 1 2 1023, .wlds 5 2 0,
      .wsts 5 1 0, .wlds 5 3 0, .wlds 5 4 0] : List Instr).all (fun i => changes i s) = true
    ∧ (fr.reg 2).toNat = 1016 ∧ (fr.reg 3).toNat = 1024 ∧ (fr.reg 4).toNat % 8 ≠ 0 := by
  decide +kernel

/-- A hit that may be read, one that may not, misses at two depths, a misaligned address, one past 2^57, and data that come back in time
and too late. -/
theorem witness_WalkerReads :
    let s (v : DWord) (depth : Nat) : State := walking [(1, v)] depth 0 none
    let rd : WRead := { d := 5, len := 8, pa := 64 }
    let w := walking [] 0 2047 (some rd)
    (∀ t ∈ [s 8 0, s 65536 0, s 131072 0, s 131072 2, s 4 0, s (2 ^ 57) 0], walks t = true)
    ∧ ((s 8 0).die 0).tb.find? (·.covers 1 8) = some { polder := 1, base := 0, size := 65536, frame := 0, perm := 1 }
    ∧ ((s 8 0).die 0).tb.find? (·.covers 1 65536) = some { polder := 1, base := 65536, size := 65536, frame := 65536, perm := 2 }
    ∧ ((s 8 0).die 0).tb.find? (·.covers 1 131072) = none
    ∧ (∀ t ∈ [s 8 0, s 65536 0, s 131072 0, s 131072 2, s 4 0, s (2 ^ 57) 0], changes (.wld 5 1 0) t = true) ∧ changes (.wldw 5 1 0) (s 4 0) = true
    ∧ tfind (w.die 0).walks 0 = some (walkOf w) ∧ (walkOf w).frames.head?.isSome = true ∧ (walkOf w).read = some rd
    ∧ (walkOf w).cycles + 0 < walkLimit w 1 ∧ w.avail 0 64 = .yes ∧ (w.readPa 64 8).2.1 = [] ∧ walkLimit w 1 ≤ (walkOf w).cycles + 1
    ∧ changes (.wldDataReturn 0 0 0) w = true ∧ changes (.wldDataReturn 0 0 1) w = true ∧ changes (.walkTimelimit 0 0) w = true := by
  decide +kernel

/-- An entry that fits and is allowed, at depth 0 and nested; one outside its page; one that is not allowed; and a waiting miss. -/
theorem witness_WalksEnd :
    let a := walking [] 0 0 none
    let b := walking [] 1 0 none
    let c := walking [(1, 65536)] 0 0 none
    let d := walking [(2, 2 ^ 31)] 0 0 none
    let sz := 2 ^ 16
    let z : Access := { acc5 0 [] with cmd := 5, st := .parked 0, va := 131072 }
    let m := { a.setDie 0 { a.die 0 with missQ := [(1, [7])], walks := [], routines := [(1, ([], 9))] } with accs := [(7, z)] }
    let p := (drr (fun q => (m.polder q).walkWt.toNat) (m.die 0).waiting drrFuel (m.die 0).ptr (m.die 0).deficit).1
    (∀ t ∈ [a, b, c, d], walks t = true) ∧ (walkOf a).stale = false ∧ allowance (a.polder 1) 0 sz 3 = true
    ∧ allowance (d.polder 1) (2 ^ 31) sz 3 = false ∧ (2 ^ 31) % sz = 0 ∧ (walkOf c).frames.head?.map (·.va) = some 0
    ∧ changes (.wmap 1 2 3 0) a = true ∧ changes (.wmap 1 2 3 0) b = true ∧ changes (.wmap 1 2 3 0) c = true ∧ changes (.wmap 1 2 3 0) d = true
    ∧ changes .wnone a = true ∧ changes .wnone b = true
    ∧ (let v := { a with accs := [(7, z)] }
       (v.polder 1).policy 0x10 = .replay ∧ ((v.setPolder 1 { v.polder 1 with fltPol1 := 0 }).polder 1).policy 0x10 ≠ .replay)
    ∧ tfind (m.die 0).walks 0 = none ∧ (m.die 0).waiting ≠ [] ∧ p = 1 ∧ tget [] (m.die 0).missQ 1 = [7] ∧ tfind m.accs 7 = some z
    ∧ (m.die 0).tb.find? (·.covers 1 131072) = none ∧ tfind (m.die 0).routines 1 = some ([], 9) ∧ changes (.walkStart 0 0) m = true := by
  decide +kernel

/-- A run whose item 0 is about to execute an instruction of a program of two words. -/
def running (regs : List (Nat × Word)) (pc : Nat) : State :=
  let s := open0 (State.reset.withItemWord 0)
  let r := (tfind s.runs 1).getD default
  let x := { freshItem r [] 0 0 0 with regs := regs, pc := pc }
  { s with runs := [(1, { r with items := [(itemKey 0 0, x)] })], cur := .item 1 0 0, turns := [] }

/-- `ItemRuns`, computed. -/
def itemRuns (s : State) : Bool :=
  match tfind s.runs 1 with
  | some r => match tfind r.items (itemKey 0 0) with
    | some x => decide (s.cur = .item 1 0 0) && !x.ended && decide (x.pc < r.plen) && decide (x.count < 16384)
    | none => false
  | none => false

/-- Every kind of bank instruction; a column and an index in and out of range; a block that is lost. -/
theorem witness_BankCode :
    let s := running [(1, 2), (2, 1008)] 0
    let t := running [(1, 64), (2, 1009)] 0
    let u := { s with poison := [0] }
    itemRuns s = true ∧ itemRuns t = true ∧ itemRuns u = true ∧ itemRuns (running [] 1) = true
    ∧ ([.bnop, .bldi 1 5, .baddi 1 2 5, .bloop 1 1, .bbeq 1 1 1, .bzero 1, .bmov 1 2, .baddv 1 2, .bmaxv 1 2, .bred 1, .bscl 1, .brelu 1, .bend,
      .bemit 3 1 .item 1, .bemit 1 1 .item 1, .bmac 1 2 1 .bf16 2 1, .bmac 1 2 1 .e4m3 2 1, .bmacs 1 1 .e5m2 1] : List Instr).all
      (fun i => changes i s) = true
    ∧ changes (.bmac 1 2 1 .bf16 2 1) t = true ∧ changes (.bmacs 1 1 .e5m2 1) t = true
    ∧ s.lost 0 = false ∧ u.lost 0 = true ∧ changes (.bmacs 1 1 .e5m2 1) u = true := by
  decide +kernel

/-- A run of one slab on stack 0, before its start, before its item, and over. -/
def bankRun (started ended : Bool) : State :=
  let s := running [] 0
  let r := (tfind s.runs 1).getD default
  let x := { freshItem r [] 0 0 0 with ended := true, emits := [(0, .item, List.replicate 16 5)] }
  let r := { r with cmd := 5, accs := [9], loads := if started then r.loads else [], items := if ended then [(itemKey 0 0, x)] else [] }
  let c := cmd5 .bnk (.bkrun 1) [9]
  let t := withCmd c [(9, { acc5 0 [] with op := .slab, len := 65536, st := .sent 0 0 })]
  { open0 t with runs := [(1, r)] }

theorem witness_BankRuns :
    let a := bankRun false false
    let b := bankRun true false
    let c := bankRun true true
    let r (s : State) : BankRun := (tfind s.runs 1).getD default
    (∀ s ∈ [a, b, c], tfind s.runs 1 = some (r s))
    ∧ (tfind a.cmds (r a).cmd).isSome = true ∧ a.slabsKnown (r a) = true ∧ (r a).load 0 = none ∧ a.itemsOn (r a) 0 ≠ []
    ∧ a.runBefore 1 0 0 = false ∧ a.avail (a.runDie (r a)) 0 = .yes ∧ (∀ e ∈ (r a).operands, a.localAvail (org0 .bnk) .sp e.1 e.2 = .yes)
    ∧ (∀ e ∈ a.runs, e.1 = 1) ∧ changes (.bankRunPacket 1 0) a = true
    ∧ b.slabAt (r b) 0 = some (0, 0) ∧ ((r b).load 0).map (·.bad) = some none ∧ (r b).pcmask.getLsbD 0 = true
    ∧ b.mayStart (r b) 0 0 0 = true ∧ b.avail (stackDie 0) 0 = .yes ∧ changes (.bankItemStart 1 0 0) b = true
    ∧ (tfind c.cmds (r c).cmd).isSome = true ∧ c.runOver (r c) = true ∧ c.lwatches = [] ∧ (r c).results ≠ []
    ∧ (∀ e ∈ (r c).results, c.localAvail (org0 .bnk) .sp e.1 64 = .yes) ∧ changes (.bankRunComplete 1) c = true := by
  decide +kernel

/-- The demo state with a sent access of command 5 to stack 0. -/
def arriving (x : Cmd) (op : AccOp) (pa len : Nat) : State :=
  open0 (withCmd { x with accs := [9] } [(9, { acc5 0 [] with op := op, len := len, va := pa, st := .sent pa 0 })])

/-- `Arrives` for access 9, computed. -/
def arrives (s : State) (pa : Nat) : Bool :=
  match tfind s.accs 9 with
  | some a => decide (a.cmd ≠ 0) && decide (a.st = .sent pa 0) && s.inTurn a && decide (s.avail (dieOf a.core) pa = .yes)
  | none => false

/-- A layout record of 4 lines of 16 bytes with its seal under an empty key, computed apart from the model. -/
def record64 : List Byte :=
  let b := le 4 0 ++ le 1 2 ++ le 1 6 ++ le 2 0 ++ le 4 16 ++ le 4 4 ++ le 4 1 ++ le 4 1 ++ le 4 1 ++ le 4 1 ++ List.replicate 28 0
  b ++ [239, 40, 84, 234]

theorem witness_ReadsAndWrites :
    let x := cmd5 .cpy (.cpy false .sh 0x1000 0 2 64) []
    let rd := arriving x .read 64 64
    let lost := { rd with poison := [1] }
    let q := arriving { x with phase := .record } .read 4096 64
    let rc := { q with mem := mwrites [] 4096 record64 }
    let wr := arriving x (.write [1, 2, 3]) 126 3
    let shut := rd.setHbm 0 { rd.hbm 0 with isolate := true }
    let bs := (rc.readPa 4096 64).1
    (∀ s ∈ [rd, lost], arrives s 64 = true ∧ isRegs s 64 = false ∧ ((tfind s.cmds 5).map (·.phase)) = some .data)
    ∧ (rd.readPa 64 64).2.1 = [] ∧ (lost.readPa 64 64).2.1 ≠ [] ∧ changes (.readPacket 9) rd = true ∧ changes (.readPacket 9) lost = true
    ∧ arrives rc 4096 = true ∧ (tfind rc.cmds 5).map (·.phase) = some .record ∧ (rc.readPa 4096 64).2.1 = [] ∧ bs = record64
    ∧ sealGood (rc.polder 1).sealKey bs = true ∧ layoutBad bs = none ∧ 0 + 2 ≤ lineCount bs ∧ 64 + 2 * lineLen bs ≤ 65536
    ∧ arrives wr 126 = true ∧ isRegs wr 126 = false ∧ (∀ b ∈ Sys2Proof.Machine.blocksOf 126 3, (wr.view b).2 = false) ∧ wr.backPressed 126 3 false = false ∧ changes (.writePacket 9) wr = true
    ∧ (tfind shut.accs 9).map (fun a => (shut.inTurn a, a.st)) = some (true, .sent 64 0) ∧ shut.avail (dieOf 0) 64 = .no
    ∧ changes (.readPacket 9) shut = true := by
  decide +kernel

/-- A word in memory, one in a lost block, a register, a control page, and a reduction. -/
theorem witness_AtomicPackets :
    let x := cmd5 .mem (.matom 6 false) []
    let a := arriving x (.atomic .add false 5 0) 64 4
    let lost := { a with poison := [1] }
    let c := arriving x (.atomic .or false 0 0) 0x0FF000000000 4
    let e := arriving x (.atomic .exch false 7 0) 0x0FF000000000 4
    let p := arriving x (.atomic .exch false 7 0) 0x0FF000101010 4
    let r := arriving (cmd5 .mem .mred []) (.reduce .add .bf16 5) 66 2
    arrives a 64 = true ∧ isRegs a 64 = false ∧ (∀ b ∈ Sys2Proof.Machine.blocksOf 64 4, (a.view b).2 = false) ∧ a.backPressed 64 1 false = false ∧ changes (.atomicPacket 9) a = true
    ∧ arrives lost 64 = true ∧ lost.backPressed 64 1 false = false ∧ (lost.view 1).2 = true ∧ changes (.atomicPacket 9) lost = true
    ∧ arrives c 0x0FF000000000 = true ∧ placeOf c 0x0FF000000000 = .ctl 0 ∧ (ctlRead c 0).isSome = true ∧ changes (.atomicPacket 9) c = true
    ∧ arrives e 0x0FF000000000 = true ∧ changes (.atomicPacket 9) e = true
    ∧ arrives p 0x0FF000101010 = true ∧ placeOf p 0x0FF000101010 = .page 1 0x10 ∧ changes (.atomicPacket 9) p = true
    ∧ arrives r 66 = true ∧ isRegs r 66 = false ∧ 66 % 2 = 0 ∧ r.backPressed 66 1 true = false ∧ changes (.reducePacket 9) r = true := by
  decide +kernel

/-- A packet in a bank's queue and one to a remote module. -/
theorem witness_MemoryArray :
    let q : QPacket := { seq := 3, unit := .bank 0 0 0, pa := 64, op := .write [1, 2, 3, 4], cmd := 5, org := org0 .cpy, lane := 0, va := 64, told := false }
    let v := { q with seq := 4, unit := .remote, pa := 2 ^ 51 }
    let s := { demo 6 with queue := [q, v] }
    let h := s.setHbm 0 { s.hbm 0 with rowCtr := [(rowKey 1 2 3, 1023)], active := [rowKey 1 2 3], refresh := [rowKey 0 0 0], badPar := [rowKey 0 0 0] }
    (s.queue.map (·.seq)).Nodup ∧ s.blockHead q = true ∧ s.blockHead v = true ∧ s.queue.find? (fun p => decide (p.unit = q.unit)) = some q
    ∧ q.unit ≠ .remote ∧ v ∈ s.queue ∧ v.unit = .remote ∧ changes (.queueApply q.unit) s = true ∧ changes (.remoteWriteAck 4) s = true
    ∧ rowKey 1 2 3 ∈ (h.hbm 0).active ∧ h.rowInUse 0 (rowKey 1 2 3) = false ∧ changes (.precharge 0 1 2 3) h = true ∧ rowKey 1 2 4 ∉ (h.hbm 0).active ∧ rowKey 0 0 0 ∈ (h.hbm 0).refresh ∧ rowKey 1 2 3 ∉ (h.hbm 0).refresh
    ∧ changes (.neighbourRefresh 0 0 0 0) h = true := by
  decide +kernel

/-- Slot 3 holds queue 0 of polder 1 in a state, with packets in its ring and the last `skip` of them not posted. -/
def queued (st : Word) (packets : List (List Byte)) (f : HwSlot → HwSlot) : State :=
  let e : TEntry := { polder := 0, base := 0, size := 2 ^ 21, frame := 0, perm := 7 }
  let s := open0 State.reset
  let s := s.setPolder 0 { Polder.reset with alive := true, cores := 1, spSize := 65536 }
  let q : Queue := { descPa := 4096, waitDue := none, skip := none, reports := [], dead := false, noted := none }
  let s := s.setPolder 1 { Polder.reset with alive := true, cores := 1, spBase := 65536, spSize := 65536, queues := [(0, q)] }
  let s := [0, 1, 2, 3].foldl (fun s d => s.setDie d { s.die d with tb := [e] }) s
  let h : HwSlot := { polder := 1, queue := 0, descVa := 4096, launch := none, retired := 0, images := [], deadline := none, skip := none, ids := [], copyCmd := none, dead := false }
  let desc := le 8 0x2000 ++ le 4 16 ++ le 4 0 ++ le 4 packets.length ++ le 4 0 ++ le 4 0 ++ le 1 3 ++ List.replicate 35 0
  { s with mem := mwrites (mwrites [] 4096 desc) 0x2000 (packets.flatMap fun p => p ++ List.replicate (64 - p.length) 0)
           sp := mset32 (mset32 [] (slotWord 3 0) st) 0x18 0xFFFFFFFF, slots := [(3, f h)] }

/-- `AtHead` for slot 3 and core 0, computed, without its equations. -/
def atHead (s : State) (st : Word) : Bool :=
  match tfind s.slots 3 with
  | some h =>
    let atOnce (va len : Nat) (w : Bool) : Bool := decide (s.missing 0 va len w = none)
      && (s.piecesPa 0 va len).all fun e => decide (s.avail 0 e.1 = .yes)
        && (Sys2Proof.Machine.blocksOf e.1 e.2).all fun b => decide (tget [] s.flaws b = []) && !s.poison.contains b
    let desc := s.peek 0 h.descVa 64
    decide (s.board 0 = s.board 4) && decide (s.bells = []) && decide (s.board 0x18 = 0xFFFFFFFF) && !h.dead && decide (s.sstate 3 = st) && !(s.core 0).quar
      && (decide (st = qActive) || decide (s.chosen = some 3)) && atOnce h.descVa 64 true && atOnce h.descVa 64 false
      && atOnce (bfield desc 0 8 + 64 * (dHead desc % max 1 (dLen desc))) 64 false
  | none => false

/-- The packet at the head of such a state. -/
def headOf (s : State) : List Byte := s.peek 0 0x2000 64

/-- A NOP; a PREDICATE that holds and one that does not; SIGNALs that write and that add; a reserved kind. -/
theorem witness_QueuePackets :
    let nop := queued qReady [[0]] id
    let p (op : Byte) (yes no : Byte) (n : Nat) := queued qReady (([3, op, yes, no, 0, 0, 0, 0] ++ le 4 0x100 ++ le 4 0 ++ le 8 0) :: List.replicate n [0]) id
    let yes := p 0 0 1 1
    let no := p 1 1 0 1
    let sig (fl : Byte) := queued qReady [[5, fl, 2, 0, 0, 0, 0, 0] ++ le 4 0x100 ++ le 4 0 ++ le 8 7] id
    let bad := queued qReady [[9]] id
    (∀ s ∈ [nop, yes, no, sig 0, sig 3, bad], atHead s qReady = true ∧ s.lwatches = [])
    ∧ bfield (headOf nop) 0 1 = 0 ∧ restZero (headOf nop) [(0, 0)] = true ∧ dPosted (nop.peek 0 4096 64) 1 = 0
    ∧ (∀ s ∈ [yes, no], bfield (headOf s) 0 1 = 3 ∧ restZero (headOf s) [(0, 4), (8, 11), (16, 23)] = true ∧ bfield (headOf s) 1 1 ≤ 5
      ∧ bfield (headOf s) 4 1 ≤ 1 ∧ wordOk s 1 (headOf s) false = true ∧ 2 ≤ dPosted (s.peek 0 4096 64) 0
      ∧ armBad (s.peek 0 0x2040 64) = false ∧ s.missing 0 0x2040 64 false = none)
    ∧ wordHolds yes 1 (headOf yes) false = true ∧ bfield (headOf yes) 2 1 = 0 ∧ bfield (headOf yes) 3 1 = 1 ∧ dPosted (yes.peek 0 4096 64) 2 = 0
    ∧ wordHolds no 1 (headOf no) false = false ∧ bfield (headOf no) 2 1 = 1 ∧ bfield (headOf no) 3 1 = 0 ∧ dPosted (no.peek 0 4096 64) 2 = 0
    ∧ (∀ s ∈ [sig 0, sig 3], bfield (headOf s) 0 1 = 5 ∧ restZero (headOf s) [(0, 2), (8, 11), (16, 23)] = true ∧ bfield (headOf s) 1 1 ≤ 3
      ∧ bfield (headOf s) 2 1 = 2 ∧ wordOk s 1 (headOf s) ((bfield (headOf s) 1 1).testBit 1) = true
      ∧ s.relReady 0 (s.reeveCmds 1) (signalScope (headOf s)) = true ∧ dPosted (s.peek 0 4096 64) 1 = 0)
    ∧ 0x3000 ≤ 65536 + 0x100 ∧ 6 < bfield (headOf bad) 0 1
    ∧ changes (.nopPacket 3 0) nop = true := by
  decide +kernel

/-- A LAUNCH packet of one block of 32 threads. -/
def launch64 : List Byte :=
  [1, 4, 1, 0] ++ le 4 64 ++ le 8 0x10000 ++ le 2 32 ++ le 2 1 ++ le 2 1 ++ le 2 0 ++ le 4 1 ++ le 2 1 ++ le 2 1 ++ le 8 0x3000 ++ le 2 16
    ++ [32, 0] ++ le 4 0 ++ le 4 0xFFFFFFFF ++ le 4 0 ++ le 8 0

/-- The state of slot 3. -/
def slot3 (s : State) : HwSlot := (tfind s.slots 3).getD default

theorem witness_QueueWork_launch :
    let a := queued qReady [launch64] id
    let l := launchOfPacket 1 0 1 3 (headOf a) []
    let b := queued qActive [launch64] fun h => { h with launch := some l, retired := 1 }
    let c := queued qReady [[6, 0, 0, 0, 0, 0, 0, 0] ++ le 8 0x3000 ++ le 8 0x3040 ++ le 4 0 ++ le 4 1] id
    atHead a qReady = true ∧ a.lwatches = [] ∧ bfield (headOf a) 0 1 = 1 ∧ launchBad (a.polder 1) l (headOf a) = false
    ∧ bfield (headOf a) 32 8 = 0x3000 ∧ a.missing 0 0x3000 16 false = none ∧ changes (.launch 3 0) a = true
    ∧ atHead b qActive = true ∧ (slot3 b).launch = some l ∧ gridOf l ≤ (slot3 b).retired ∧ (slot3 b).images = [] ∧ b.effectsDone l.polder l.id = true
    ∧ dPosted (b.peek 0 4096 64) 1 = 0
    ∧ atHead c qReady = true ∧ bfield (headOf c) 0 1 = 6 ∧ restZero (headOf c) [(0, 0), (8, 31)] = true ∧ bfield (headOf c) 8 8 % 64 = 0
    ∧ bfield (headOf c) 16 8 % 64 = 0 := by
  decide +kernel

/-- One image, at 0x4000, whose address is listed at 0x3000. -/
theorem witness_QueueWork_resume :
    let a := queued qReady [[2, 0, 0, 0, 0, 0, 0, 0] ++ le 8 0x3000 ++ le 1 1] id
    let s := { a with mem := mwrites (mwrites a.mem 0x3000 (le 8 0x4000)) 0x4000 (image192 true) }
    atHead s qReady = true ∧ bfield (headOf s) 0 1 = 2 ∧ restZero (headOf s) [(0, 0), (8, 16)] = true ∧ bfield (headOf s) 16 1 = 1
    ∧ s.missing 0 0x3000 8 false = none ∧ bfield (s.peek 0 0x3000 8) 0 8 = 0x4000 ∧ s.missing 0 0x4000 192 false = none
    ∧ bfield (s.peek 0 0x4000 128) 36 4 = 192 ∧ s.badImage 1 (s.peek 0 0x4000 192) = false := by
  decide +kernel

/-- A WAIT that holds, one that does not, and one whose time is over. -/
theorem witness_QueueWork_wait :
    let w (op : Byte) : List Byte := [4, op, 0, 0, 0, 0, 0, 0] ++ le 4 0x100 ++ le 4 0 ++ le 8 0 ++ le 4 5
    let a := queued qReady [w 0] id
    let b := queued qReady [w 1] id
    let c := { queued qWaiting [w 1] (fun h => { h with deadline := some 9 }) with clock := 9 }
    (∀ s ∈ [a, b], atHead s qReady = true ∧ s.lwatches = [] ∧ bfield (headOf s) 0 1 = 4 ∧ waitBad s 1 (headOf s) = false
      ∧ (bfield (headOf s) 4 1).testBit 1 = false ∧ (slot3 s).deadline = none)
    ∧ wordHolds a 1 (headOf a) false = true ∧ dPosted (a.peek 0 4096 64) 1 = 0 ∧ changes (.waitPacket 3 0) a = true
    ∧ wordHolds b 1 (headOf b) false = false ∧ 0x3000 ≤ 65536 + 0x100
    ∧ (slot3 c).dead = false ∧ (slot3 c).deadline = some 9 ∧ c.sstate 3 = qWaiting ∧ c.board 0 = c.board 4
    ∧ (tfind (c.polder 1).queues 0).isSome = true ∧ dFailed (c.peek 0 4096 64) = false
    ∧ (∀ k < 32, c.missing k 4096 64 true = none ∧ c.missing k 4096 64 false = none ∧ c.peek k 4096 64 = c.peek 0 4096 64
      ∧ (∀ e ∈ c.piecesPa k 4096 64, c.avail (dieOf k) e.1 = .yes)
      ∧ c.missing k 0x2000 64 false = none ∧ (∀ e ∈ c.piecesPa k 0x2000 64, c.avail (dieOf k) e.1 = .yes) ∧ c.peek k 0x2000 64 = headOf c)
    ∧ (c.view 64).2 = false ∧ (c.view 128).2 = false ∧ c.flaws = [] ∧ c.poison = []
    ∧ waitHolds c (slot3 c) (headOf c) = false := by
  decide +kernel

/-- A ticket without work and one with a placement; a RESV word that is free and one that is taken; a unit that has placed its block. -/
theorem witness_DispatchUnits :
    let run (s : State) : State := s.setGroup 0 63 (loadGroup 63 1 (loadClause 7 true 0 0))
    let l := loadLaunch 1 64 false
    let none' := run (queued qIdle [] id)
    let head := run (queued qActive [launch64] fun h => { h with launch := some l })
    let h := slot3 head
    let u (stage : Stage) (goal : Goal) (placed : List (Nat × Nat)) (taken : List Nat) : Dispatch :=
      { core := 0, ticket := 0, slot := 3, goal := goal, stage := stage, region := 0, allowed := [0, 1, 2, 3], listed := [0], taken := taken
        victims := [], placed := placed }
    let free := { head with unit := some (u .cas .head [] []) }
    let held := { free with sp := mset32 free.sp 0x20 0x105 }
    let last := { head with unit := some (u .place .head [(0, 0)] [0]), sp := mset32 (mset32 head.sp 0 1) 0x18 3 }
    let fill := { last with unit := some (u .place (.fill 5) [(0, 0)] [0]) }
    (∀ s ∈ [none', head, free, held, last, fill], s.lwatches = [] ∧ s.reeveRuns 0 = true)
    ∧ (∀ s ∈ [none', head], s.unit = none ∧ (s.core 0).quar = false ∧ s.board 0 = s.board 4 ∧ s.bells = [] ∧ s.board 0x18 = 0xFFFFFFFF)
    ∧ none'.chosen = none ∧ head.chosen = some 3 ∧ tfind head.slots 3 = some h ∧ head.places 3 h = true
    ∧ free.board (0x20 + 4 * 0) = 0 ∧ held.board (0x20 + 4 * 0) = 0x105 ∧ (u .cas .head [] []).listed[0]? = some 0
    ∧ last.board 0x18 = BitVec.ofNat 32 3
    ∧ (∀ s ∈ [none', head, free, held, last, fill], runProc (.unit 0 4096) s ≠ s) := by
  decide +kernel

/-- A parked holder with a block of its ticket, a ready queue and a free slot, an expired WAIT, and a group parked by BREAK. -/
theorem witness_ServiceMoves :
    let q0 := queued qIdle [] id
    let dead := q0.setGroup 0 63 { loadGroup 63 1 (loadClause 7 true 0 0) with parked := true }
    let dead := dead.setBlock 1 0 (launchBlock (loadLaunch 1 64 false) 1 0 0 [0] 0)
    let dead := { dead with sp := mset32 (mset32 dead.sp 0 1) 0x20 0x100 }
    let e : TEntry := { polder := 0, base := 0, size := 2 ^ 21, frame := 0, perm := 7 }
    let m : State := { q0.setCore 32 { q0.core 32 with tb := [e] } with slots := [], ready := [(1, 0)] }
    let q := (tfind (q0.polder 1).queues 0).getD default
    let w : State := { (q0.setPolder 1 { q0.polder 1 with queues := [(0, { q with waitDue := some 5 })] }) with clock := 5, idle := [(1, 0)], slots := [] }
    let k := { grp (demo 0) 0 with parked := true, frec := { (grp (demo 0) 0).frec with code := 9, resume := 64 } }
    let p := (demo 0).setGroup 0 0 k
    (∀ s ∈ [dead, m, w, p], s.lwatches = [])
    ∧ dead.reeveRuns 0 = false ∧ dead.board 0 ≠ dead.board 4 ∧ dead.unit = none ∧ (∀ e ∈ dead.cores, e.2.parkedA = [])
    ∧ dead.board (0x20 + 4 * 0) = 0x100 ∧ (dead.block 1 0).map Block.ticket = some (dead.board 4)
    ∧ m.nextReady = some (1, 0) ∧ m.board 0 = m.board 4 ∧ m.unit = none ∧ tfind m.slots 3 = none ∧ Ready m 32 4096 64 false
    ∧ ringOk (m.peek 32 4096 64) = true ∧ (m.xlat 32 0 4096).map (fun t => t.frame + (4096 - t.base)) = some 4096
    ∧ m.queueAt 4096 = some (1, 0) ∧ q.descPa = 4096
    ∧ (tfind (w.polder 1).queues 0).map Queue.waitDue = some (some 5) ∧ 5 ≤ w.clock ∧ (1, 0) ∈ w.idle
    ∧ p.group 0 0 = some k ∧ k.parked = true ∧ k.frec.code = 9 ∧ k.frec.resume ≠ 0xFFFFFFFF
    ∧ runProc (.rescue 0) dead ≠ dead ∧ runProc (.mapReady 32 3 4096) m ≠ m ∧ runProc (.waitDue 1 0) w ≠ w ∧ runProc (.release 0 0) p ≠ p := by
  unfold Ready Reachable
  decide +kernel

theorem witness_Notifications :
    let s := queued qIdle [] id
    let t := { s with slots := [] }
    let u := s.setPolder 1 { s.polder 1 with closing := some none }
    let q := (tfind (s.polder 1).queues 0).getD default
    let f := { s with mem := mwrites s.mem (4096 + 24) [2] }
    tfind (f.polder 1).queues 0 = some q ∧ f.queueFailed q = true ∧ s.queueFailed q = false ∧ changes (.notifyWrite 1 0) f = true
    ∧ (∀ v ∈ [s, t, u], tfind (v.polder 1).queues 0 = some q) ∧ (s.polder 1).closing = none ∧ q.descPa % 64 = 0 ∧ (s.view 64).2 = false
    ∧ s.slotOf 1 0 = some 3 ∧ t.slotOf 1 0 = none ∧ (u.polder 1).closing = some none ∧ changes (.notifyWrite 1 0) s = true
    ∧ changes (.notifyWrite 1 0) t = true ∧ changes (.watchReportArrival 1 0 ⟨3, 7⟩) s = true := by
  decide +kernel

/-- A session of polder 1, a polder without one, and a watch; and a state in which a watch is held. -/
theorem witness_WatchesAndQuotes :
    let s := queued qIdle [] id
    let w : Watch := { polder := 1, word := 16, peer := 0, queue := 0 }
    let t := { s with watches := [(0, w)] }
    s.session 2 = false ∧ s.session 1 = true ∧ 16 + 4 ≤ (s.polder 1).spSize ∧ tfind s.watches 0 = none
    ∧ changes (.watchReq 1 16 0 0) s = true ∧ t.session 1 = true ∧ tfind t.watches 0 = some w ∧ changes (.unwatchReq 1 0) t = true
    ∧ s.linkAvail 4 (homeDie (65536 + 16)) = .yes
    ∧ { s with links := [(linkId 0 4, { failed := false, training := true, replays := 0 })] }.linkAvail 4 (homeDie (65536 + 16)) = .wait
    ∧ { s with links := [(linkId 0 4, { failed := true, training := false, replays := 0 })] }.linkAvail 4 (homeDie (65536 + 16)) = .no
    ∧ (List.replicate 32 (0 : Byte)).length = 32 := by
  decide +kernel

/-- An entry of a table that lists every key below n. -/
theorem tfind_listed {α : Type} (v : α) (n k : Nat) (h : k < n) :
    (tfind ((List.range n).map fun k => (k, v)) k).isSome = true := by
  have gen : ∀ l : List Nat, k ∈ l → (tfind (l.map fun k => (k, v)) k).isSome = true := by
    intro l hl
    induction l with
    | nil => cases hl
    | cons a l ih =>
      by_cases e : k = a
      · simp [tfind, e]
      · simpa [tfind, e] using ih (by simpa [e] using hl)
  exact gen _ (by simpa using h)

/-- A watch table with all 1,024 entries in use. -/
def fullWatches : Table Watch := (List.range 1024).map fun k => (k, { polder := 1, word := 16, peer := 0, queue := 0 })

theorem witness_WatchesFull :
    ({ queued qIdle [] id with watches := fullWatches } : State).session 1 = true ∧ (∀ j < 1024, (tfind fullWatches j).isSome = true) := by
  constructor
  · have h : ∀ t : Table Watch, ({ queued qIdle [] id with watches := t } : State).session 1 = (queued qIdle [] id).session 1 := fun _ => rfl
    rw [h]; decide +kernel
  · intro j h
    unfold fullWatches
    exact tfind_listed _ 1024 j h

/-- A free number, a taken one, a window that overlaps; a polder at rest, one that is not, and one that closes with its time over. -/
theorem witness_PolderLife :
    let a := State.reset.setPolder 0 { Polder.reset with alive := true, spSize := 65536 }
    let b := a.setPolder 1 { Polder.reset with alive := true, spBase := 65536, spSize := 65536 }
    let c := { (demo 0) with clock := 100 }
    let tier := { spec1 with ranges := [{ base := 0x100000000000, limit := 0x100000010000, perm := 3 }], visible := [] }
    let bad := { spec1 with spBase := 1 }
    let x2 := { Polder.reset with alive := true, cores := 1, spBase := 2 ^ 20, shSize := 524288, ranges := [(0, { base := 0, limit := 65536, perm := 3 })] }
    let o := { spec1 with cores := 2, ranges := [], visible := [] }
    let d := c.setPolder 1 { c.polder 1 with closing := some (some 100) }
    let e := b.setPolder 1 { b.polder 1 with closing := some none }
    a.lwatches = [] ∧ spec1.polder = 1 ∧ openGood spec1 = true ∧ (a.polder 1).alive = false ∧ a.windowFree 65536 65536 = true
    ∧ (State.reset.polder 0).alive = false ∧ (a.polder 0).alive = true ∧ 1 < 64 ∧ openGood bad = false
    ∧ (∀ r ∈ spec1.ranges, rangeGranted 1 r = true ∧ a.rangeMapped 1 r = true ∧ a.rangeFree 1 r = true)
    ∧ openGood tier = true ∧ (∃ r ∈ tier.ranges, rangeGranted 1 r = false)
    ∧ a.sharedFree 1 spec1.cores spec1.shSize = true ∧ a.areaFree 1 spec1.ranges spec1.spillPa spec1.spillSz = true
    ∧ a.areaFree 1 spec1.ranges spec1.audRing spec1.audRingSz = true
    ∧ (a.setPolder 2 x2).sharedFree 1 spec1.cores spec1.shSize = false ∧ (∃ r ∈ spec1.ranges, (a.setPolder 2 x2).rangeFree 1 r = false)
    ∧ (∀ i ∈ ([.openReq spec1, .openReq bad, .openReq tier] : List Instr), changes i a = true)
    ∧ changes (.openReq spec1) (a.setPolder 2 x2) = true ∧ changes (.openReq spec1) State.reset = true ∧ openGood o = true
    ∧ (∀ k ∈ d.cores, ∀ b ∈ k.2.blocks, b.2.saving = false)
    ∧ changes (.openReq spec1) a = true ∧ (b.polder 1).alive = true ∧ b.windowFree 65536 65536 = false
    ∧ b.session 1 = true ∧ b.slots = [] ∧ b.polderQuiet 1 = true ∧ changes (.closeReq 1 5) b = true
    ∧ c.session 1 = true ∧ c.polderQuiet 1 = false ∧ c.slots = [] ∧ changes (.closeReq 1 5) c = true
    ∧ (d.polder 1).closing = some (some 100) ∧ d.clock = 100 ∧ (∀ k ∈ d.cores, k.2.parkedA = []) ∧ changes (.closeGraceExpire 1) d = true
    ∧ (e.polder 1).closing = some none ∧ e.polderQuiet 1 = true ∧ changes (.closeGraceExpire 1) e = true
    ∧ (a.polder 1).closing = none := by
  decide +kernel

/-- A polder that sees 64 KiB of stack 0 at address 0, without and with queue 0, which has stopped. -/
def served (qs : Table Queue) : State :=
  let s := open0 (demo 0)
  let s := s.setPolder 1 { s.polder 1 with spillPa := 0x100000, visible := [{ va := 0, size := 65536, frame := 0 }], queues := qs, featack := [(0, 0x41)] }
  { s with mem := mwrites [] (4096 + 24) [2] }

theorem witness_ServiceRequests :
    let s := served []
    let q : Queue := { descPa := 4096, waitDue := none, skip := none, reports := [], dead := false, noted := none }
    let t := served [(0, q)]
    let rg : AllowRange := { base := 0, limit := 65536, perm := 3 }
    let far : AllowRange := { base := 0, limit := 2 ^ 52 - 65536, perm := 3 }
    let f := tget 0 (s.polder 1).featack 0
    let im : Image := { space := .mem, addr := 64, bytes := List.replicate 64 0, layouts := [0], predictors := [] }
    let im2 : Image := { space := .sp, addr := 128, bytes := List.replicate 128 0, layouts := [], predictors := [0] }
    s.session 1 = true ∧ s.lwatches = [] ∧ tfind (s.polder 1).queues 0 = none ∧ 16 = 2 ^ 4 ∧ changes (.queueReq 1 0 16 3 4096 8192) s = true
    ∧ t.session 1 = true ∧ tfind (t.polder 1).queues 0 = some q ∧ q.descPa % 64 = 0 ∧ (t.view 64).2 = false ∧ (t.coherent (4096 + 24)).getLsbD 1 = true
    ∧ changes (.queueReq 1 0 16 3 0 0) t = true
    ∧ t.queueFailed q = true ∧ (served []).queueFailed { q with descPa := 8192 } = false
    ∧ rangeFits rg = true ∧ rangeFits far = true ∧ rg.limit ≤ 0x100000000000 ∧ f.getLsbD 7 = false ∧ ¬far.limit ≤ 2 ^ 51
    ∧ s.rangeMapped 1 rg = true ∧ s.rangeFree 1 rg = true ∧ meets 0 65536 (s.polder 1).spillPa (s.polder 1).spillSz = false
    ∧ meets 0 65536 (s.polder 1).audRing (s.polder 1).audRingSz = false
    ∧ (s.setPolder 2 { Polder.reset with alive := true, ranges := [(0, rg)] }).rangeFree 1 rg = false
    ∧ s.imageAvail (s.polder 1) im2 = .yes ∧ imageFits im (s.polder 1) = true ∧ imageFits { im with addr := 65536 } (s.polder 1) = false
    ∧ s.avail 4 64 = .yes
    ∧ ({ s with links := [(linkId 0 4, { failed := false, training := true, replays := 0 })] } : State).imageAvail (s.polder 1) im = .wait
    ∧ ({ s with links := [(linkId 0 4, { failed := true, training := false, replays := 0 })] } : State).imageAvail (s.polder 1) im = .no
    ∧ (∀ e ∈ s.cores, e.2.parkedA = []) ∧ changes (.mapReq 1 0 rg) s = true
    ∧ imageGood im = true ∧ (s.polder 1).frameOf im.addr im.bytes.length = some 64 ∧ (s.view 1).2 = false
    ∧ imageGood im2 = true ∧ im2.addr + im2.bytes.length ≤ (s.polder 1).spSize ∧ changes (.walkReq 1 [1] 0) s = true
    ∧ changes (.invalReq 1 (some (0, 0))) s = true := by
  decide +kernel

theorem witness_RemoteAccess :
    let s := served []
    let x := s.polder 1
    let op : Instr := .rmaWrite 1 .sp 64 [1, 2]
    let rod := s.setPolder 1 { x with rod := [op, .rmaRead 1 .sp 64 8] }
    let cut (failed : Bool) := { s with links := [(linkId 0 4, { failed := failed, training := !failed, replays := 0 })] }
    let bad := { s with poison := [1] }
    rod.session 1 = true ∧ (.rmaRead 1 .sp 64 8) ∈ (rod.polder 1).rod ∧ (rod.polder 1).rod.head? ≠ some (.rmaRead 1 .sp 64 8)
    ∧ (rod.polder 1).rod = op :: [.rmaRead 1 .sp 64 8] ∧ rod.windowAvail (rod.polder 1) 64 2 = .yes ∧ changes op rod = true ∧ x.rod = []
    ∧ s.windowAvail x 64 8 = .yes ∧ (cut false).windowAvail x 64 8 = .wait ∧ (cut true).windowAvail x 64 8 = .no
    ∧ (cut false).avail 4 64 = .wait ∧ (cut true).avail 4 64 = .no ∧ (bad.view 1).2 = true ∧ changes (.rmaRead 1 .mem 64 8) bad = true
    ∧ s.session 1 = true ∧ x.frameOf 64 8 = some 64 ∧ x.frameOf 65536 8 = none ∧ s.avail 4 64 = .yes ∧ (s.view 1).2 = false ∧ x.closing = none
    ∧ s.lwatches = [] ∧ 64 + 8 ≤ x.spSize ∧ x.spSize < 65536 + 8
    ∧ ([.rmaRead 1 .ctl 2 4, .rmaRead 1 .ctl 4092 4, .rmaRead 1 .ctl 0x10 8, .rmaRead 1 .sp 64 8, .rmaRead 1 .sp 65536 8, .rmaRead 1 .mem 64 8,
      .rmaRead 1 .mem 65536 8, .rmaWrite 1 .ctl 2 [0], .rmaWrite 1 .ctl 0x100 (toLe 4 5), .rmaWrite 1 .ctl 0x10 (toLe 4 5), .rmaWrite 1 .ctl 0x204 (toLe 4 1),
      .rmaWrite 1 .mem 64 [1, 2], .rmaWrite 1 .sp 64 [1, 2], .rmaWrite 1 .sp 65536 [1], .rmaAtomic 1 .mem 64 .add true 1 0,
      .rmaAtomic 1 .sp 64 .add true 1 0] : List Instr).all (fun i => changes i s) = true := by
  decide +kernel

theorem witness_ControlPages :
    let s := served []
    let t := s.setPolder 1 { s.polder 1 with locked := true }
    let u := (s.setHbm 1 { s.hbm 1 with state := 1 }).setPort 1 { s.port 1 with enable := true }
    (s.polder 1).locked = false ∧ (t.polder 1).locked = true ∧ changes (.featackWrite 1 0 0x13) s = true
    ∧ 256 ≤ (256 : Word).toNat ∧ (0x101 : Word).setWidth 8 ≠ (0 : BitVec 8) ∧ ((1024 : Word) &&& 0x7FF).toNat ≤ 1024
    ∧ 64 ≤ ((64 : Word) &&& 0x7FFF).toNat ∧ ((16384 : Word) &&& 0x7FFF).toNat ≤ 16384
    ∧ ([.registerWrite (.weirRate 1) 5, .registerWrite (.weirDepth 1) 512, .registerWrite (.auditF 1) 1024, .registerWrite (.walkLim 1) 128,
      .registerWrite (.trainsel 0) 1, .registerWrite (.portAutoneg 0) 0, .registerWrite (.portLoop 0) 1, .registerWrite (.portWidth 0) 2] :
      List Instr).all (fun i => changes i s) = true
    ∧ (s.hbm 0).state ≠ 1 ∧ (u.hbm 1).state = 1 ∧ (s.port 0).enable = false ∧ (2 : Word).extractLsb' 0 2 ≠ 3 ∧ (u.port 1).enable = true := by
  decide +kernel

/-- Every state of the rails, a stack in every state, with a step whose time is over. -/
theorem witness_RailsAndTraining :
    let s (st : BitVec 4) (up : Nat) (z : Option Nat) : State :=
      { State.reset with clock := 3200000, rails := { State.reset.rails with state := st, up := up, zeroAt := z, since := 0 } }
    let k (st : BitVec 4) (iso tr hot : Bool) (sel : BitVec 8) : State :=
      State.reset.setHbm 0 { State.reset.hbm 0 with state := st, isolate := iso, trained := tr, hot := hot, trainsel := sel }
    (s 0 0 (some 3200000)).rails.zeroAt = some (s 0 0 none).clock ∧ (s 0 0 none).rails.zeroAt ≠ some (s 0 0 none).clock
    ∧ (s 1 0 none).rails.since + 3200000 ≤ (s 1 0 none).clock ∧ (s 1 6 none).rails.up ≤ 6 ∧ 1 ≤ (s 3 1 none).rails.up
    ∧ changes .railseqEnable (s 0 0 none) = true ∧ changes .railseqEnable (s 3 1 none) = true ∧ changes .railseqEnable (s 2 7 none) = true
    ∧ changes .railseqDisable (s 4 0 none) = true ∧ changes .railseqDisable (s 1 0 none) = true ∧ changes .railseqDisable (s 2 7 none) = true
    ∧ changes .railPowerGood { s 1 6 none with clock := 3199999 } = true ∧ changes .railPowerGood { s 3 1 none with clock := 3199999 } = true
    ∧ changes .railStepTimeout (s 1 0 none) = true ∧ changes .railStepTimeout (s 3 1 none) = true
    ∧ ((k 0 true false false 0xBF).hbm 0).isolate = true ∧ changes (.stackStart 0) (k 0 true false false 0xBF) = true
    ∧ changes (.stackStart 0) (k 3 true false false 0) = true ∧ changes (.stackStart 0) (k 3 true true false 0) = true
    ∧ ((k 1 true false false 1).hbm 0).trainsel.getLsbD (0 : BitVec 3).toNat = true
    ∧ changes (.trainingComplete 0 none) (k 1 true false false 1) = true ∧ changes (.trainingComplete 0 (some 0)) (k 1 true false false 1) = true
    ∧ changes (.stackIsolateClear 0) (k 2 true true false 1) = true ∧ ((k 2 true true true 1).hbm 0).hot = true := by
  decide +kernel

theorem witness_StackIsolation :
    let q : QPacket := { seq := 3, unit := .bank 0 0 0, pa := 64, op := .write [1, 2], cmd := 5, org := org0 .cpy, lane := 0, va := 64, told := false }
    let a := { arriving (cmd5 .cpy (.cpy false .sh 0 0 1 0) []) .read 128 64 with queue := [q], clock := 16000000 }
    let hot := a.setHbm 0 { a.hbm 0 with hot := true, hotAt := 0 }
    let warm := a.setHbm 0 { a.hbm 0 with hot := true, hotAt := 1 }
    let iso := hot.setHbm 0 { hot.hbm 0 with isolate := true }
    (a.queue.map (·.seq)).Nodup ∧ (∀ q ∈ a.queue, unitOnStack q.unit 0 = onStack a q.pa 0) ∧ OnlyCommands a ∧ OnlyCommands hot
    ∧ (tfind a.accs 9).map (·.st) = some (.sent 128 0) ∧ onStack a 128 0 = true
    ∧ (a.hbm 0).hot = false ∧ (a.hbm 0).isolate = false ∧ changes (.hotAssert 0) a = true ∧ changes (.stackIsolateSet 0) a = true
    ∧ (hot.hbm 0).hotAt + 16000000 ≤ hot.clock ∧ changes (.stackIsolate 0) hot = true ∧ changes (.hotClear 0) hot = true
    ∧ hot.itemsRun 0 = false ∧ (running [] 0).itemsRun 0 = true
    ∧ warm.clock < (warm.hbm 0).hotAt + 16000000 ∧ changes (.hotClear 0) warm = true ∧ (iso.hbm 0).isolate = true := by
  unfold OnlyCommands
  decide +kernel

theorem witness_LinksAndHeat :
    let p (st : BitVec 4) (en : Bool) (w : BitVec 2) : State :=
      { State.reset.setPort 0 { State.reset.port 0 with enable := en, state := st, width := w } with clock := 799999999 }
    let late := { p 1 true 0 with clock := 800000000 }
    let l (failed training : Bool) (replays : Nat) : State :=
      { arriving (cmd5 .cpy (.cpy false .sh 0 0 1 0) []) .read (6 * 2 ^ 37) 64 with links := [(linkId 0 1, { failed := failed, training := training, replays := replays })] }
    let d (mhz : Nat) : State := State.reset.setDie 0 { State.reset.die 0 with mhz := mhz }
    let c := arriving (cmd5 .cpy (.cpy false .sh 0 0 1 0) []) .read 0x100000000000 64
    let t := { c with tiers := [(0, { up := true, size := 2 ^ 30 })] }
    changes (.portEnable 0) (p 0 false 0) = true ∧ changes (.portDisable 0) (p 2 true 0) = true
    ∧ changes (.portLinkUp 0 0x0F) (p 1 true 1) = true ∧ (0x0F : BitVec 8) &&& 0xFF ≠ 0xFF ∧ changes (.portTrainTimeout 0) late = true
    ∧ changes (.flitCrcError (linkId 0 1)) (l false false 6) = true ∧ changes (.flitCrcError (linkId 0 1)) (l false false 7) = true
    ∧ changes (.dieLinkRetrainEnd (linkId 0 1) true) (l false true 0) = true ∧ linkId (dieOf sent0.core) sent0.die = linkId 0 1 ∧ OnlyCommands (l false true 0)
    ∧ (tfind (l false true 0).accs 9).map (·.st) = some (.sent (6 * 2 ^ 37) 0) ∧ memDie (l false true 0) (6 * 2 ^ 37) = 1
    ∧ changes (.dieLinkRetrainEnd (linkId 0 1) false) (l false true 0) = true
    ∧ changes (.thermalThrottle 0 true) (d 1600) = true ∧ changes (.thermalThrottle 0 false) (d 800) = true ∧ changes (.thermalTrip 0) (d 800) = true
    ∧ OnlyCommands t ∧ placeOf t 0x100000000000 = .tier 0 0 ∧ changes (.cxlLinkDown 0) t = true := by
  unfold OnlyCommands
  decide +kernel

/-- A halving that is due with a core on either side of the threshold, a test that runs, one that passed, and audits with one and two
runs. -/
theorem witness_AuditAndQuarantine :
    let k (c : Nat) (see : Word) (q t p : Bool) (s : State) : State := s.setCore c { s.core c with seepage := see, quar := q, selfTest := t, tested := p }
    let s := { k 0 512 false false false (k 1 511 false false false State.reset) with clock := 2 ^ 32 }
    let t := k 0 300 true true false State.reset
    let u := k 0 300 true false true State.reset
    let a : Audit := { polder := 1, launchId := 1, idx := 0, region := 0, launch := loadLaunch 1 32 false, runs := [(0, [1])], log := [], ctl := [], effects := [], failed := false, avoid := [], rerun := none }
    let b := { a with runs := [(0, [1]), (1, [2])] }
    let v := { demo 0 with audits := [(7, a), (8, b)] }
    s.halvings + 1 = s.clock / 2 ^ 32 ∧ (s.core 0).seepage.toNat / 2 = 256 ∧ (s.core 1).seepage.toNat / 2 = 255 ∧ changes .seepageHalving s = true
    ∧ State.reset.clock / 2 ^ 32 ≤ State.reset.halvings ∧ (t.core 0).selfTest = true ∧ changes (.selfTestEnd 0 true) t = true
    ∧ (u.core 0).quar = true ∧ (u.core 0).tested = true ∧ (u.core 0).selfTest = false ∧ changes (.quarantineRelease 0) u = true
    ∧ tfind v.audits 7 = some a ∧ tfind v.audits 8 = some b ∧ v.halvings = v.clock / 2 ^ 32 ∧ v.auditRetired 7 a = true ∧ v.auditRetired 8 b = true
    ∧ s.lwatches = [] ∧ s.board 0 = s.board 4 ∧ v.lwatches = [] ∧ v.board 0 = v.board 4 ∧ v.logLost a = false ∧ v.logLost b = false
    ∧ { v with poison := v.regionBlocks a }.logLost a = true := by
  decide +kernel

/-- A bad record, power loss, and a writing slot. Where a signature is good, which only the key's holder can make so (log entry 3), an image
of 96 bytes of code passes. -/
theorem witness_Booting :
    let n := 96
    let i : List Byte := le 4 1 ++ le 4 0 ++ le 4 n ++ le 1 0 ++ le 3 0 ++ le 4 0 ++ List.replicate (44 + n) 0 ++ [5]
    State.reset.boot.writing = none ∧ recordGood State.reset.boot.flash = false ∧ changes .moduleReset State.reset = true
    ∧ (Config.mldsaVerify Config.vendorKey (sha3_512 (i.take (64 + n))) ((i.drop (64 + n)).take 4627) = true → imageCode [] i = 0)
    ∧ (∀ c < 40, State.reset.core c = Core.reset) := by
  refine ⟨by decide +kernel, by decide +kernel, by decide +kernel, ?_, by decide +kernel⟩
  intro h
  have e1 : ∀ i : List Byte, bfield i 8 4 = 96 → bfield i 12 1 = 0 → bfield i 4 4 = 0
      → (decide (bfield i 0 4 ≠ 1) || !zeroBytes i 13 15 || !zeroBytes i 20 63) = false
      → Config.mldsaVerify Config.vendorKey (sha3_512 (i.take (64 + 96))) ((i.drop (64 + 96)).take 4627) = true → imageCode [] i = 0 := by
    intro i e1 e2 e3 e4 h
    have e5 : ownerOnly [] = false := by decide +kernel
    have e6 : ¬(64 + 96 + 4627 > bootSlotSize) := by decide +kernel
    have e7 : sigLen = 4627 := by decide +kernel
    simp only [imageCode, e1, e2, e3, e4, e5, e7, keyOf, h]
    have e8 : ¬(0 < bfield (configRecord []) 4 4) := by decide +kernel
    simp [e8, Nat.not_lt.mp e6]
  exact e1 _ (by decide +kernel) (by decide +kernel) (by decide +kernel) (by decide +kernel) h

/-- A record passes where its signature is good, which only the key's holder can make so (log entry 3). -/
theorem witness_BootRecord :
    let F := mwrites [] 0x10000 (toLe 4 1)
    Config.mldsaVerify Config.vendorKey (sha3_512 (configRecord F)) (mreads F (recordAt + 128) sigLen) = true → recordGood F = true := by
  have gen : ∀ F : Memory, bfield (configRecord F) 12 1 = 0 → ownerOnly F = false
      → (decide (bfield (configRecord F) 0 4 = 1) && zeroBytes (configRecord F) 8 11 && zeroBytes (configRecord F) 13 15
        && zeroBytes (configRecord F) 36 39 && zeroBytes (configRecord F) 61 63 && zeroBytes (configRecord F) 96 127
        && decide (bfield (configRecord F) 56 4 ≤ recMax)) = true
      → Config.mldsaVerify Config.vendorKey (sha3_512 (configRecord F)) (mreads F (recordAt + 128) sigLen) = true → recordGood F = true := by
    intro F e1 e2 e3 h
    simp only [Bool.and_eq_true, decide_eq_true_eq] at e3
    obtain ⟨⟨⟨⟨⟨⟨a, b⟩, c⟩, d⟩, e⟩, f⟩, g⟩ := e3
    simp only [recordGood, e1, e2, a, b, c, d, e, f, g, keyOf, h]
    decide
  exact gen _ (by decide +kernel) (by decide +kernel) (by decide +kernel)

/-- A recovery that has its image still to write. -/
theorem witness_Recovered :
    let s : State := { State.reset with powered := true, agenda := [(1, .proc .recovered)], boot := { State.reset.boot with writing := some [1] } }
    (∀ c < 40, s.core c = Core.reset) ∧ s.turns = [] ∧ s.powered = true ∧ s.agenda = [(1, .proc .recovered)] ∧ s.boot.writing = some [1]
    ∧ s.boot.tornFlash ≠ s.boot.flash := by
  decide +kernel

theorem witness_EncodeDecode :
    let h : Header := { count := 1, cls := 0, runend := false, wclass := 0, wthresh := 0, width := 0 }
    h.count ≠ 0 ∧ wf (.wait 20 (.one .cpy) 15 g7) = true ∧ (encode (.wait 20 (.one .cpy) 15 g7)).length = 2
    ∧ (decodeVilesk 0x01070000 0xFFFFE0E0).isSome = true ∧ (decodeWalker 0xC003201D).isSome = true ∧ (decodeBank 0x62920201).isSome = true
    ∧ (1 : BitVec 2) ≠ 3 := by
  decide +kernel

theorem witness_InvariantKept : State.reset.Inv ∧ (match step (State.reset.withFetchWord 32 0x0E000000) with | .next _ => true | _ => false) = true := by
  unfold State.Inv State.memWf State.numbered
  decide +kernel

/-! ### Witnesses of the clauses on divergence, marks, logs and the order of records -/

/-- A bitwise word at each end of the range of majors, with every MINOR bit set. -/
theorem witness_Bitwise_minor : ∀ m ∈ ([0x1A, 0x26] : List Nat),
    let x : Word := BitVec.ofNat 32 (m * 2 ^ 24 + 0x0005007F)
    0x1A ≤ x.toNat / 2 ^ 24 ∧ x.toNat / 2 ^ 24 ≤ 0x26 ∧ (63 : Word).toNat < 64 ∧ (decodeVilesk x 0).isSome = true := by decide +kernel

theorem witness_MatrixNeedsThreads :
    let s := demoN 4 5
    ([.mma 8 (r 4) (r 6) .e4m3 .e4m3 false 3 0 g7, .mmaw 8 (r 4) (r 6) (r 20) .e4m3 .i4g 1 false 2 0 g7,
      .mmasp 8 (r 4) (r 6) (r 20) .bf16 .e5m2 15 true 0 0 g7, .mmas 8 (r 4) (r 6) .e4m3 .e4m3 false 0 0 g7, .ldfrag 8 (r 6) 3 128 0 g7,
      .fxpose 8 (r 4) .bf16 true .rne 0 g7] : List Instr).all (fun i => issues i s 0) = true
    ∧ (∃ l < 32, (grp s 0).occ l = false) := by decide +kernel

/-- A loose or bound group of four lanes: lane 0 with p0 and another target in v9 and on its stack. -/
def split (bound : Bool) : State :=
  let s := demoN 0 4
  s.setGroup 0 0 { (grp s 0).mapLanes fun l ln =>
    if l = 0 then { ln with preds := 1, regs := [(9, 128)], rstk := [128] }
    else if l < 4 then { ln with regs := [(9, 64)], rstk := [64] } else ln with bound := bound }

/-- The largest set with one target stays: v9 and the return stack say 64 in lanes 1 to 3 and 128 in lane 0; p0 is true in lane 0
alone, so the next PC stays at `brx`. -/
theorem witness_Divergence :
    let s := split false
    let g := grp s 0
    let next := g.pc + 8
    let out : List (Nat × Word) := [(0, 128)]
    ([.bra 4 12 g0, .brx 4 (r 9) g0, .callx 4 (r 9), .ret 4] : List Instr).all (fun i => issues i s 0) = true
    ∧ g.bound = false ∧ (∀ f ∈ g.inflight, f.lines = []) ∧ g.occs.filter (g.guard g0) = [0] ∧ (g.occs.filter fun l => !g.guard g0 l) = [1, 2, 3]
    ∧ (∀ e ∈ out, s.pendBusy (g.lane e.1) = false) ∧ (∀ k ≤ 9, s.fits 0 1 (out.map fun _ => recSize k 4) = true) ∧ (s.core 0).ageCtr + 32 < 2 ^ 32
    ∧ g.reg 0 9 &&& 0xFFFFFFFC ≠ next ∧ (∀ l ∈ [1, 2, 3], g.reg l 9 &&& 0xFFFFFFFC = 64 ∧ (g.lane l).top = some 64) ∧ (g.lane 0).top = some 128
    ∧ g.reg 0 9 = 128 ∧ (g.occs.filter fun l => decide (g.reg l 9 = 64)).length = 3
    ∧ g.stackRoom = true ∧ (∀ l ∈ g.occs, (g.lane l).canPush (s.launchOf 0 g).stackSz = true)
    ∧ ([.bra 4 12 g0, .brx 4 (r 9) g0, .callx 4 (r 9), .ret 4] : List Instr).all (fun i => changes i s) = true := by decide +kernel

theorem witness_BoundDivergence :
    let s := split true
    let g := grp s 0
    ([.bra 4 12 g0, .brx 4 (r 9) g0, .callx 4 (r 9), .ret 4] : List Instr).all (fun i => issues i s 0) = true
    ∧ g.bound = true ∧ g.occs.filter (g.guard g0) = [0] ∧ (∀ l ∈ g.occs, (g.lane l).topDeep = false ∧ (g.lane l).top.isSome = true) := by
  decide +kernel

/-- Full stacks and empty ones. -/
theorem witness_StackFaults :
    let s := demoR 0 [(9, 64)]
    let full := s.setGroup 0 0 ((grp s 0).mapLanes fun _ ln => { ln with rstk := List.replicate 8 0, mstk := List.replicate 256 0 })
    (∃ l < 32, ((grp full 0).lane l).canPush (full.launchOf 0 (grp full 0)).stackSz = false ∧ (grp full 0).occ l = true)
    ∧ ([.call 4 12, .callx 4 (r 9)] : List Instr).all (fun i => issues i full 0) = true ∧ (grp full 0).bound = false
    ∧ (∀ l ∈ (grp s 0).occs, ((grp s 0).lane l).top = none ∧ ((grp s 0).lane l).topDeep = false) ∧ (grp s 0).occs ≠ []
    ∧ issues (.ret 4) s 0 = true := by decide +kernel

/-- No collective, one of which the group is a participant without a slice, and one to which it has supplied its slice. -/
theorem witness_WithoutLanes_collective :
    let s := demo 6
    let b := (s.block 0 0).getD default
    let u := (grp s 0).uid
    let w (ks : List Slice) : State := s.setBlock 0 0 { b with coll := some { parts := [u], slices := ks } }
    let i : Instr := .cpy (r 4) (r 6) (r 8) false false .sh g0
    (∀ t ∈ [s, w [], w [{ uid := u, cmd := some 5 }]], issues i t 0 = true ∧ (∀ l < 32, (grp t 0).works g0 l = false)
      ∧ EngFree t 0 (grp t 0) ∧ t.block 0 (grp t 0).bslot ≠ none ∧ changes i t = true) := by
  unfold EngFree
  decide +kernel

/-- A re-execution takes no commands; NoWords and Unaudited hold of a state with no word on a link and no audit. -/
theorem witness_premises :
    let s := demo 6
    let b := (s.block 0 0).getD default
    let t := s.setBlock 0 0 { b with rerun := some 7 }
    NoWords s 0 ∧ Unaudited s 0 (grp s 0) ∧ NoWords { s with linkQ := [{ sent0 with core := 8 }] } 0 ∧ s.inRerun 0 0 = false ∧ t.inRerun 0 0 = true
    ∧ (∃ x, s.block 0 0 = some x ∧ x.audit = none ∧ x.rerun = none) ∧ s.boardReach 0 = .yes ∧ s.boardReach serviceCore = .yes := by
  unfold NoWords Unaudited
  refine ⟨by decide +kernel, fun x hx => ?_, by decide +kernel, by decide +kernel, by decide +kernel, ⟨_, rfl, rfl, rfl⟩, by decide +kernel,
    by decide +kernel⟩
  have : x = ((demo 6).block 0 0).getD default := by
    rw [show (demo 6).block 0 0 = some x from hx]; rfl
  subst this; exact ⟨rfl, rfl⟩

/-- A group whose branch finds no room for its record: the spill area is small and spawn memory full. -/
theorem witness_IssueCycles_room :
    let s := split false
    let g := grp s 0
    let cl := g.clause.getD default
    let s := s.setGroup 0 0 { g with clause := some { cl with words := [0x01040000, 0x0000C000, 0x01040000, 0x0000C000] } }
    let big := { child0 .spill 3 6 0 with regs := List.replicate 16384 0 }
    let u := (s.setPolder 1 { s.polder 1 with spillSz := 0, spillUse := 0 }).setCore 0 { s.core 0 with records := List.replicate 4 big }
    u.mayIssue 0 0 = true ∧ u.group 0 0 = some (grp u 0) ∧ (grp u 0).stalled = false ∧ (grp u 0).occs ≠ [] ∧ (u.roomNeed 0 0 (grp u 0)).isSome = true
    ∧ changes (.issueCycle 0 0) u = true
    ∧ (∀ e ∈ ((demo 1).core 0).groups, (demo 1).roomNeed 0 e.1 e.2 = none) ∧ (∀ r ∈ ((demo 1).core 0).records, r.born ≠ (demo 1).clock) := by
  decide +kernel

/-- One instruction of each shape; poison by a dead register, a pending command and a result on its way. -/
theorem witness_Marks :
    let s := demoR 1 [(1, 3), (2, 7), (3, 16)]
    let g := grp s 0
    let f : InFlight := { id := 3, window := 2, writes := [{ lane := 0, loc := .reg 3, val := 7, flags := 0 }], reply := false, lines := [], todo := [], got := [], org := default }
    let p := s.setGroup 0 0 { (g.mapLanes fun _ ln => { ln with dead := [1], pend := [(2, { cmd := 5, cls := .cpy })] }) with inflight := [f] }
    let k := grp p 0
    let t := demoR 5 [(3, 16)]
    ([.imad 5 (mk 1 true false) (mk 2 false true) (r 3) .n32 false g7, .lea 8 (r 2) (r 1) 2 true g7] : List Instr).all (fun i => issues i s 0) = true
    ∧ issues (.frcp 255 (mk 1 true true) .rne 2 g7) (demo 2) 0 = true ∧ issues (.stsh (r 3) (r 4) .rlx .b128 4 .blk g7) t 0 = true
    ∧ (grp t 0).accessing = false ∧ (grp t 0).stq.length < 32
    ∧ (∀ l < 32, (grp t 0).works g7 l = true → (((grp t 0).reg l 3).toNat : Int) + 16 ≤ t.shSizeOf 0 (grp t 0))
    ∧ (k.lane 0).st ≠ .empty ∧ 1 ∈ (k.lane 0).dead ∧ (tfind (k.lane 0).pend 2).isSome = true ∧ f ∈ k.inflight
    ∧ k.reg 0 1 = 0x7FD00000 ∧ k.reg 0 2 = 0x7FD00000 ∧ k.reg 0 3 = 0x7FD00000 ∧ g.reg 0 2 = g.raw 0 2
    ∧ k.active g7 0 = true ∧ issues (.imad 5 (r 1) (r 2) (r 3) .n32 false g7) p 0 = true
    ∧ changes (.imad 5 (r 1) (r 2) (r 3) .n32 false g7) p = true := by decide +kernel

/-- A core that has formed a group in this cycle, and a record made in this cycle by a lower and by a higher slot. -/
theorem witness_Order :
    let s := weaving [{ child0 .spill 3 6 0 with orig := 99 }]
    let f := s.setCore 0 { s.core 0 with formed := s.coreClk 0 + 1 }
    let a := { child0 .spill 3 6 0 with born := 100000, slot := 2 }
    let t := weaving [a]
    (s.core 0).formed ≤ s.coreClk 0 ∧ f.coreClk 0 < (f.core 0).formed ∧ ((s.block 0 0).getD default).rerun = none
    ∧ (t.core 0).inOrder t.clock 1 = false ∧ (t.core 0).inOrder t.clock 2 = true ∧ (s.core 0).inOrder s.clock 0 = true
    ∧ s.inRerun 0 0 = false := by decide +kernel

/-- A group that waits for room: not free, and free with and without room. -/
theorem witness_WaitingRecords_room :
    let s := weaving []
    let h (n : Nat) (fr : Bool) : Group := { grp s 0 with clause := none, pc := 64, waiting := .room 0 [n] fr }
    let w (n : Nat) (fr : Bool) : State := s.setGroup 0 0 (h n fr)
    (w 64 false).group 0 0 = some (h 64 false) ∧ (w 64 false).fits 0 1 [64] = true ∧ (w (2 ^ 30) false).fits 0 1 [2 ^ 30] = false
    ∧ ((w 64 true).group 0 0 = some (h 64 true)) ∧ (w 64 true).roomTurn 0 0 ≠ w 64 true
    ∧ (w (2 ^ 30) true).roomTurn 0 0 ≠ w (2 ^ 30) true := by decide +kernel

theorem witness_BlocksEnd_plain :
    let s := weaving []
    let x := (s.block 0 0).getD default
    s.rejecting 0 0 = false ∧ s.isDoomed x = false ∧ x.rerun = none ∧ (s.setBlock 0 0 { x with rerun := some 7 }).block 0 0 ≠ none := by decide +kernel

/-- The walker's hash runs. -/
theorem witness_WalkerHash : walks (walking [(1, 8), (2, 1016)] 0 0 none) = true
    ∧ changes (.whash 5 1 2) (walking [(1, 8), (2, 1016)] 0 0 none) = true := by decide +kernel

/-- A fault in a block that is re-executed. -/
theorem witness_Faults_rerun :
    let s := demo 0
    let t := s.setBlock 0 0 { (s.block 0 0).getD default with rerun := some 7 }
    s.inRerun 0 (grp s 0).bslot = false ∧ t.inRerun 0 (grp t 0).bslot = true ∧ t.group 0 0 = some (grp t 0) := by decide +kernel

/-- The last record of a spawn comes in the order of the slots; the chunk of a copy out has its local bytes at hand. -/
theorem witness_Order_commands :
    let p := { cmd5 .spn (.spawn 0 [(0, child0 .spawn 0 0 0)]) [] with phase := .waiting }
    let u := withCmd p []
    let x := { cmd5 .cpy (.cpy true .sh 0x1000 0 1 64) [] with plan := [{ va := 0x2000, len := 64, off := 0 }] }
    let s := withCmd x []
    (u.core 0).inOrder u.clock p.org.slot = true ∧ s.olderChunk 1 5 = false ∧ x.op.isReplayed = false ∧ NoWords s 0
    ∧ (∀ q ∈ x.chunk.1, s.localAvail x.org .sh (64 + q.off) q.len = .yes) := by
  unfold NoWords
  decide +kernel

/-- Words that a fetch may find: the one of memory, and an older one of a launch with a resident block. -/
theorem witness_OldWords :
    let m := atHeader false (le 4 0x2000000E)
    let l := m.launchOf 0 (grp m 0)
    let o := { m with past := [(pastKey l, { since := 0, words := [(0, 0x20000002)] })] }
    m.evictsNow 0 (grp m 0) = false ∧ m.oldWords l 0 = [] ∧ o.oldWords l 0 = [0x20000002] ∧ (decodeHeader 0x20000002).isSome = true
    ∧ (grp m 0).clause = none ∧ m.stopping 0 (grp m 0) = false := by decide +kernel

/-- `AtSlot` for slot 3 and core 0: TAIL has come back to HEAD, and lies more than RINGLEN ahead. -/
theorem witness_TailMoved :
    let zero := { queued qReady [] id with ready := [] }
    let far : State := { zero with mem := mwrites zero.mem (4096 + 16) (le 4 40) }
    (∀ s ∈ [zero, far], s.boardReach 0 = .yes ∧ s.board 0 = s.board 4 ∧ s.bells = [] ∧ s.board 0x18 = 0xFFFFFFFF ∧ (s.core 0).quar = false
      ∧ (slot3 s).dead = false ∧ s.sstate 3 = qReady ∧ s.chosen = some 3 ∧ Ready s 0 4096 64 true ∧ Ready s 0 4096 64 false ∧ s.lwatches = [])
    ∧ (let d := zero.peek 0 4096 64; dPosted d (dHead d) = 0) ∧ (let d := far.peek 0 4096 64; dLen d < dPosted d (dHead d))
    ∧ (∀ s ∈ [zero, far], changes (.nopPacket 3 0) s = true ∧ changes (.launch 3 0) s = true)
    ∧ (∀ b ∈ Sys2Proof.Machine.blocksOf 4096 64, (far.view b).2 = false) ∧ (∀ k < 64, far.reach (4096 + k) ≠ .no) := by
  unfold Ready Reachable
  decide +kernel

/-- A head that is posted and within its ring. -/
theorem witness_Posted :
    let s := queued qReady [[0]] id
    let d := s.peek 0 4096 64
    0 < dPosted d (dHead d) ∧ dPosted d (dHead d) ≤ dLen d ∧ s.boardReach 0 = .yes ∧ (∀ k < 64, s.reach (4096 + k) ≠ .no) := by decide +kernel

/-- QUEUE at a place that is free, at one of another polder, and at a descriptor whose memory is held back or gone; and MAP of a range
that grows and of one that would take something away. -/
theorem witness_ServiceRequests_places :
    let s := served []
    let q : Queue := { descPa := 4096, waitDue := none, skip := none, reports := [], dead := false, noted := none }
    let cut (failed : Bool) : State := { served [(0, { q with descPa := 8192 })] with
      links := [(linkId 0 4, { failed := failed, training := !failed, replays := 0 })] }
    let rg : AllowRange := { base := 0, limit := 65536, perm := 3 }
    let t := s.setPolder 1 { s.polder 1 with ranges := [(0, { rg with limit := 4096 })] }
    (s.polder 1).rod = [] ∧ s.descFree 1 4096 = true ∧ s.descAvail 4096 = .yes
    ∧ (s.setPolder 2 { Polder.reset with alive := true, ranges := [(0, rg)] }).descFree 1 4096 = false
    ∧ (served [(0, { q with descPa := 8192 })]).queueFailed { q with descPa := 8192 } = false
    ∧ changes (.queueReq 1 0 16 3 0 0) (served [(0, { q with descPa := 8192 })]) = true
    ∧ (cut false).descAvail 8192 = .wait ∧ (cut true).descAvail 8192 = .no
    ∧ (cut false).session 1 = true ∧ (cut true).session 1 = true
    ∧ tfind (t.polder 1).ranges 0 = some { rg with limit := 4096 } ∧ t.rangeMapped 1 rg = true ∧ t.rangeFree 1 rg = true
    ∧ changes (.mapReq 1 0 rg) t = true ∧ ¬(4096 : Nat) ≤ 2048 ∧ changes (.mapReq 1 0 { rg with limit := 2048 }) t = true
    ∧ s.takes 4 64 64 = .yes := by decide +kernel

/-- Requests of a session with ROD: one that is not the oldest waits, the oldest runs. -/
theorem witness_RemoteAccess_requests :
    let s := served []
    let a : Instr := .unwatchReq 1 5
    let b : Instr := .rmaRead 1 .sp 64 8
    let t := s.setPolder 1 { s.polder 1 with rod := [a, b] }
    sessionOf a = some 1 ∧ sessionOf b = some 1 ∧ t.session 1 = true ∧ b ∈ (t.polder 1).rod ∧ (t.polder 1).rod.head? ≠ some b
    ∧ (t.polder 1).rod = a :: [b] ∧ changes a t = true ∧ changes b t = false ∧ s.takes 4 64 2 = .yes
    ∧ (s.setPolder 1 { s.polder 1 with rod := [.rmaWrite 1 .sp 64 [1, 2]] }).session 1 = true := by decide +kernel

/-- CLOSE while a ticket is out, with nothing to unmap, and with a queue that is unmapped. -/
theorem witness_PolderLife_close :
    let c := { (demo 0) with clock := 100 }
    let held := { c with sp := mset32 c.sp 0 1 }
    let q := queued qIdle [] id
    (c.polder 1).rod = [] ∧ held.ticketFree = false ∧ c.ticketFree = true ∧ (c.polder 1).graceOver = false
    ∧ held.session 1 = true ∧ held.polderQuiet 1 = false ∧ changes (.closeReq 1 5) held = true
    ∧ q.ticketFree = true ∧ q.session 1 = true ∧ (q.slots.map Prod.fst).Nodup ∧ (∀ e ∈ q.slots, e.1 < 256) ∧ q.sstate 3 = qIdle
    ∧ changes (.closeReq 1 5) q = true ∧ (∀ k ∈ c.cores, ∀ b ∈ k.2.blocks, b.2.rerun = none) := by decide +kernel

/-- A core at the threshold whose reeve holds the ticket, one that is to be moved away, and the unit that has moved its work away. -/
theorem witness_Quarantine :
    let k (c : Nat) (f : Core → Core) (s : State) : State := s.setCore c (f (s.core c))
    let d : Dispatch := { core := 0, ticket := 0, slot := 3, goal := .head, stage := .place, region := 0, allowed := [0], listed := [0], taken := []
                          victims := [], placed := [] }
    let s := { k 0 (fun x => { x with seepage := 512 }) State.reset with clock := 2 ^ 32, unit := some d }
    let v := k 1 (fun x => { x with quar := true, condemned := true }) (queued qIdle [] id)
    let w : State := { v with unit := some { d with core := serviceCore, goal := .vacate 1, stage := .preempt } }
    s.halvings < s.clock / 2 ^ 32 ∧ s.holdsTicket 0 = true ∧ (s.core 0).quar = false ∧ 256 ≤ (s.core 0).seepage.toNat / 2 ^ (s.clock / 2 ^ 32 - s.halvings)
    ∧ (s.core 1).seepage.toNat / 2 ^ (s.clock / 2 ^ 32 - s.halvings) < 256 ∧ { s with unit := none }.holdsTicket 0 = false
    ∧ changes .seepageHalving s = true
    ∧ v.lwatches = [] ∧ v.ticketFree = true ∧ (v.core 1).quar = true ∧ (v.core 1).condemned = true ∧ (∀ e ∈ v.cores, e.2.parkedA = [])
    ∧ runProc (.vacate 1) v ≠ v
    ∧ w.boardReach serviceCore = .yes ∧ (w.unit.map (·.victims)) = some [] ∧ runProc (.unit serviceCore 0) w ≠ w := by
  decide +kernel

/-- An audit of a block of 32 threads of polder 1, with these runs. -/
def audit1 (runs : List (Nat × List Byte)) (rerun : Option Rerun) : Audit :=
  { polder := 1, launchId := 1, idx := 0, launch := loadLaunch 1 32 false, region := 0, runs := runs, log := [], ctl := [], effects := []
    failed := false, avoid := [], rerun := rerun }

/-- Two runs that agree, two that differ with and without a core that is left, and three runs: one of them differs, or all. -/
theorem witness_AuditOutcomes :
    let s (cores : BitVec 32) (runs : List (Nat × List Byte)) : State :=
      let s := queued qIdle [] id
      { s.setPolder 1 { s.polder 1 with cores := cores, audRingUse := 64, audRegSz := 64 } with audits := [(7, audit1 runs none)] }
    let two := s 3 [(0, [1]), (1, [1])]
    let wait' := s 7 [(0, [1]), (1, [2])]
    let unres := s 3 [(0, [1]), (1, [2])]
    let three := s 7 [(0, [1]), (1, [2]), (2, [1])]
    let all := s 7 [(0, [1]), (1, [2]), (2, [3])]
    let failed := s 7 [(0, []), (1, []), (2, [])]
    (∀ t ∈ [two, wait', unres, three, all, failed], t.halvings = t.clock / 2 ^ 32 ∧ (tfind t.audits 7).isSome = true)
    ∧ (wait'.polder 1).cores.getLsbD 2 = true ∧ (wait'.core 2).quar = false ∧ (∀ k < 32, (unres.polder 1).cores.getLsbD k = true → k < 2)
    ∧ (∀ t ∈ [two, unres, three, all, failed], changes (.auditOutcome 1 7) t = true) ∧ changes (.auditOutcome 1 7) wait' = false := by
  decide +kernel

/-- A run that is due, on a core that is left and where none is; a log that is lost; and the end of a run. -/
theorem witness_ReExecution :
    let base : State :=
      let s := queued qIdle [] id
      let s := s.setPolder 1 { s.polder 1 with cores := 3, shSize := 524288, audRingUse := 64, audRegSz := 64 }
      let s := s.setGroup 0 63 (loadGroup 63 1 (loadClause 7 true 0 0))
      let s := s.setCore 1 { s.core 1 with placeok := true }
      s.setCore 2 { s.core 2 with placeok := true }
    let a := audit1 [(0, [1])] none
    let s : State := { base with audits := [(7, a)] }
    let b := audit1 [(0, [1]), (1, [2])] none
    let none' : State := { base with audits := [(7, b)] }
    let lost := { s with poison := s.regionBlocks a }
    let run : Rerun := { core := 1, left := [], ctl := [], effects := [], failed := false }
    let fin (f : Bool) : State := { base.setBlock 1 0 { launchBlock (loadLaunch 1 32 false) 1 0 0 [0] 0 with rerun := some 7 } with
      audits := [(7, audit1 [(0, [1])] (some { run with failed := f }))] }
    (∀ t ∈ [s, none', lost], t.lwatches = [] ∧ t.boardReach 0 = .yes ∧ (t.core 0).quar = false ∧ t.reeveRuns 0 = true ∧ t.ticketFree = true
      ∧ t.bells = [] ∧ t.board 0x18 = 0xFFFFFFFF ∧ t.chosen = none ∧ (t.polder 1).closing = none ∧ (t.polder 1).saved = []
      ∧ (∀ e ∈ t.cores, ∀ b ∈ e.2.blocks, b.2.audit ≠ some 7))
    ∧ (s.core 1).placeok = true ∧ (s.core 1).quar = false ∧ s.board (0x20 + 4 * 1) = 0 ∧ none'.board (0x20 + 4 * 2) = 0
    ∧ s.logLost a = false ∧ none'.logLost b = false ∧ lost.logLost a = true
    ∧ ((s.core 1).room (s.polder 1).shSize a.rerunLaunch).isSome = true ∧ ((none'.core 2).room (none'.polder 1).shSize b.rerunLaunch).isSome = true
    ∧ runProc (.auditRun 0 7 1) s ≠ s ∧ runProc (.auditRun 0 7 2) none' ≠ none' ∧ runProc (.auditRun 0 7 1) lost ≠ lost
    ∧ (∀ f ∈ [true, false], changes (.blockRetire 1 0) (fin f) = true) ∧ (fin false).runStuck 1 0 = false
    ∧ ((fin false).block 1 0).map ((fin false).drainedBlock 1 0) = some true := by
  decide +kernel

/-- Two-word instructions that are well formed, at the ends of the opcode table. -/
theorem witness_EncodeDecode_two : ([.bra 9 0xFFFFD gn, .wkload 5 (r 4) (r 6) (r 8) 0 g7] : List Instr).all (fun i => twoWords i && wf i) = true := by
  decide +kernel

end Sys2Proof.Tests
end

section

/-!
# Every step keeps the invariant

The rules come first: what the invariant says field by field, and how it passes through `if`, folds and pairs. Then one lemma per
function of the model says that its result keeps the invariant, in the order of the model's files, each from the lemmas of the
functions that it calls. Where a function leaves the memories and the table of commands alone, the invariant of its result is that
of its argument as it stands (`h`, or `of_kept`); the work is done where a memory is written or a command entered.
-/

namespace Sys2Proof.Machine

/-! ### The invariant, field by field -/

namespace State.Inv

variable {s t : State}

theorem mem_wf (h : s.Inv) : s.mem.wf = true := h.1.1
theorem sp_wf (h : s.Inv) : s.sp.wf = true := h.1.2.1
theorem flash_wf (h : s.Inv) : s.boot.flash.wf = true := h.1.2.2.1
theorem sram_wf (h : s.Inv) : s.boot.sram.wf = true := h.1.2.2.2
theorem cmds_rising (h : s.Inv) : tsortedFrom 1 s.cmds = true := h.2

theorem intro (hm : s.mem.wf = true) (hp : s.sp.wf = true) (hf : s.boot.flash.wf = true) (hr : s.boot.sram.wf = true)
    (hc : tsortedFrom 1 s.cmds = true) : s.Inv := ⟨⟨hm, hp, hf, hr⟩, hc⟩

end State.Inv

/-- What the invariant speaks of. -/
def State.kept (s : State) : Memory × Memory × Memory × Memory × Table Cmd := (s.mem, s.sp, s.boot.flash, s.boot.sram, s.cmds)

/-- The invariant holds of a state with the same memories and commands. -/
theorem State.Inv.of_kept {s t : State} (h : s.Inv) (e : t.kept = s.kept) : t.Inv := by
  simp only [State.kept, Prod.mk.injEq] at e
  obtain ⟨em, ep, ef, er, ec⟩ := e
  simpa only [State.Inv, State.memWf, State.numbered, em, ep, ef, er, ec] using h

/-- A number at which a command is listed is 1 or more. -/
theorem tsortedFrom_le_of_tfind {α : Type} {t : Table α} {lo k : Nat} {v : α} (h : tsortedFrom lo t = true) (e : tfind t k = some v) :
    lo ≤ k := by
  induction t generalizing lo with
  | nil => simp at e
  | cons x t ih =>
    obtain ⟨j, w⟩ := x
    simp only [tsortedFrom, Bool.and_eq_true, decide_eq_true_eq] at h
    by_cases hk : k = j
    · omega
    · simp only [tfind, hk, if_false] at e
      have := ih h.2 e
      omega

theorem tsortedFrom_filter {α : Type} {t : Table α} {lo : Nat} (p : Nat × α → Bool) (h : tsortedFrom lo t = true) :
    tsortedFrom lo (t.filter p) = true := by
  induction t generalizing lo with
  | nil => rfl
  | cons x t ih =>
    simp only [tsortedFrom, Bool.and_eq_true, decide_eq_true_eq] at h
    have rest := ih h.2
    by_cases hp : p x = true
    · simp [hp, tsortedFrom, h.1, rest]
    · simpa [hp] using tsortedFrom_mono (by omega) rest

theorem tsortedFrom_foldl_tdel {α : Type} {t : Table α} {lo : Nat} (ks : List Nat) (h : tsortedFrom lo t = true) :
    tsortedFrom lo (ks.foldl tdel t) = true := by
  induction ks generalizing t with
  | nil => exact h
  | cons k ks ih => exact ih (tsortedFrom_tdel k h)

namespace State.Inv

variable {s t : State}

/-- A listed command has a number from 1 up. -/
theorem one_le_of_cmd {id : Nat} {x : Cmd} (h : s.Inv) (e : tfind s.cmds id = some x) : 1 ≤ id :=
  tsortedFrom_le_of_tfind h.cmds_rising e

/-- Commands stay in order when one is entered. -/
theorem tput_cmds {id : Nat} (h : s.Inv) (x : Cmd) (k : 1 ≤ id) : tsortedFrom 1 (tput s.cmds id x) = true :=
  tsortedFrom_tput x h.cmds_rising k

/-! ### Rules for compound states -/

theorem ite {a b : State} {c : Prop} {i : Decidable c} (ha : a.Inv) (hb : b.Inv) : (if c then a else b).Inv := by
  split
  · exact ha
  · exact hb

theorem ite_snd {α : Type} {a b : α × State} {c : Prop} {i : Decidable c} (ha : a.2.Inv) (hb : b.2.Inv) :
    (if c then a else b).2.Inv := by
  split
  · exact ha
  · exact hb

theorem foldl {α : Type} {f : State → α → State} {l : List α} (h : s.Inv) (hf : ∀ s a, s.Inv → (f s a).Inv) :
    (l.foldl f s).Inv := by
  induction l generalizing s with
  | nil => exact h
  | cons a l ih => exact ih (hf s a h)

theorem foldl_snd {α β : Type} {f : β × State → α → β × State} {l : List α} {b : β × State} (h : b.2.Inv)
    (hf : ∀ b a, b.2.Inv → (f b a).2.Inv) : (l.foldl f b).2.Inv := by
  induction l generalizing b with
  | nil => exact h
  | cons a l ih => exact ih (hf b a h)

theorem foldl_fst {α β : Type} {f : State × β → α → State × β} {l : List α} {b : State × β} (h : b.1.Inv)
    (hf : ∀ b a, b.1.Inv → (f b a).1.Inv) : (l.foldl f b).1.Inv := by
  induction l generalizing b with
  | nil => exact h
  | cons a l ih => exact ih (hf b a h)

theorem of_fst {α : Type} {p : State × α} {a : α} (e : p = (t, a)) (h : p.1.Inv) : t.Inv := by rwa [e] at h

theorem of_snd {α : Type} {p : α × State} {a : α} (e : p = (a, t)) (h : p.2.Inv) : t.Inv := by rwa [e] at h

theorem of_snd_snd {α β : Type} {p : α × β × State} {a : α} {b : β} (e : p = (a, b, t)) (h : p.2.2.Inv) : t.Inv := by
  rwa [e] at h

end State.Inv

/-- The state that an outcome goes on with keeps the invariant. -/
def Out.Inv (o : Out) : Prop := match o with | .next t => t.Inv | _ => True

/-- The state that is there, if any, keeps the invariant. -/
def OptInv : Option State → Prop
  | some t => t.Inv
  | none => True

/-- The state that an attempt of a SYS instruction leads to keeps the invariant. -/
def SysTry.Inv : SysTry → Prop
  | .done _ _ t => t.Inv
  | .hold t => t.Inv
  | .ask _ _ t => t.Inv
  | .fault _ t => t.Inv

/-- The state in which an agent's turn begins keeps the invariant. -/
def Turn.Inv : Turn → Prop
  | .run _ t => t.Inv
  | .stop t => t.Inv

theorem OptInv.of_eq {o u : Option State} (e : o = u) (h : OptInv o) : OptInv u := e ▸ h

theorem SysTry.Inv.of_eq {a b : SysTry} (e : a = b) (h : a.Inv) : b.Inv := e ▸ h

theorem Turn.Inv.of_eq {a b : Turn} (e : a = b) (h : a.Inv) : b.Inv := e ▸ h

/-! ### The functions of the model -/

section

variable {s : State}

/-! #### Machine/State -/

theorem State.Inv.reset : State.reset.Inv :=
  .intro Memory.wf_nil Memory.wf_nil Memory.wf_nil Memory.wf_nil rfl

/-! #### Machine/Operands -/

theorem State.Inv.setCore (h : s.Inv) {c k} : (s.setCore c k).Inv := h

theorem State.Inv.setPolder (h : s.Inv) {p x} : (s.setPolder p x).Inv := h

theorem State.Inv.setDie (h : s.Inv) {d x} : (s.setDie d x).Inv := h

theorem State.Inv.setHbm (h : s.Inv) {i x} : (s.setHbm i x).Inv := h

theorem State.Inv.setGroup (h : s.Inv) {c sl g} : (s.setGroup c sl g).Inv := h.setCore

theorem State.Inv.setBlock (h : s.Inv) {c b x} : (s.setBlock c b x).Inv := h.setCore

theorem State.Inv.fresh (h : s.Inv) : s.fresh.2.Inv := h

theorem State.Inv.newId (h : s.Inv) : s.newId.2.Inv := h

theorem State.Inv.onGroup (h : s.Inv) {c sl f} : (s.onGroup c sl f).Inv := by
  unfold State.onGroup
  split
  · exact h.setGroup
  · exact h

/-! #### Machine/Dram -/

theorem State.Inv.checkBlock (h : s.Inv) {b} : (s.checkBlock b).Inv := by
  unfold State.checkBlock
  split
  · split
    · exact h
    · split
      · exact h
      · exact .intro (Memory.wf_mwrites _ _ h.mem_wf) h.sp_wf h.flash_wf h.sram_wf h.cmds_rising
  · exact h

theorem State.Inv.activate (h : s.Inv) {stack key} : (s.activate stack key).Inv := .ite h h.setHbm

theorem State.Inv.openRow (h : s.Inv) {b} : (s.openRow b).Inv := by
  unfold State.openRow
  split
  · exact h.activate
  · exact h

theorem State.Inv.readPa (h : s.Inv) {pa len} : (s.readPa pa len).2.2.Inv := h.foldl fun _ _ k => k.openRow.checkBlock

theorem State.Inv.accept (h : s.Inv) {org cmd lane va pa op} : (s.accept org cmd lane va pa op).Inv := by
  unfold State.accept
  split
  · refine h.foldl fun _ _ k => ?_
    exact k
  · exact h

theorem State.Inv.writePa (h : s.Inv) {pa bytes} : (s.writePa pa bytes).Inv := .ite h h.accept

theorem State.Inv.applyPacket (h : s.Inv) {q} : (s.applyPacket q).1.Inv := by
  unfold State.applyPacket
  extract_lets b full t u v w
  have hu : u.Inv := .ite h.openRow h.openRow.checkBlock
  split
  · exact hu
  · exact .intro (Memory.wf_mwrites _ _ hu.mem_wf) hu.sp_wf hu.flash_wf hu.sram_wf hu.cmds_rising

theorem State.Inv.ringBell (h : s.Inv) {slot} : (s.ringBell slot).Inv :=
  .intro h.mem_wf (Memory.wf_mset32 _ _ h.sp_wf) h.flash_wf h.sram_wf h.cmds_rising

theorem State.Inv.notify (h : s.Inv) {p q} : (s.notify p q).Inv := by
  unfold State.notify
  split
  · dsimp only
    split
    · exact h.setPolder.writePa
    · split
      · exact h.setPolder.writePa.ringBell
      · exact h.setPolder.writePa.of_kept rfl
  · exact h

/-! #### Machine/Scratch -/

theorem State.Inv.logBytes (h : s.Inv) {p bytes} : (s.logBytes p bytes).Inv := h

theorem State.Inv.logFor (h : s.Inv) {c b p bytes} : (s.logFor c b p bytes).Inv := by
  unfold State.logFor
  split
  · exact h
  · exact h.logBytes

theorem State.Inv.logRec (h : s.Inv) {c sl g r} : (s.logRec c sl g r).Inv := h.logFor

theorem State.Inv.logOrigin (h : s.Inv) {o r} : (s.logOrigin o r).Inv := h.logFor

theorem State.Inv.audCancel (h : s.Inv) {c b} : (s.audCancel c b).Inv := by
  unfold State.audCancel
  split
  · split
    · exact h
    · exact h
  · exact h

theorem State.Inv.onAudit (h : s.Inv) {c b f} : (s.onAudit c b f).Inv := by
  unfold State.onAudit
  split
  · dsimp only
    split
    · exact h.audCancel
    · exact h
  · exact h

theorem State.Inv.onLog (h : s.Inv) {c b gn f} : (s.onLog c b gn f).Inv := h.onAudit

theorem State.Inv.logCtl (h : s.Inv) {c b gn e} : (s.logCtl c b gn e).Inv := h.onAudit

theorem State.Inv.onRerun (h : s.Inv) {c b f} : (s.onRerun c b f).Inv := by
  unfold State.onRerun
  split
  · exact h
  · exact h

theorem State.Inv.failRun (h : s.Inv) {c b} : (s.failRun c b).Inv := h.onRerun

theorem State.Inv.nextLog (h : s.Inv) {c b gn} : (s.nextLog c b gn).2.Inv := by
  unfold State.nextLog
  split
  · exact h.onRerun
  · exact h.failRun

theorem State.Inv.dropCtl (h : s.Inv) {c b gn} : (s.dropCtl c b gn).Inv := h.onRerun

theorem State.Inv.onEffects (h : s.Inv) {c b gn f} : (s.onEffects c b gn f).Inv := by
  unfold State.onEffects
  split
  · exact h
  · exact h.onRerun

theorem State.Inv.audLog (h : s.Inv) {c g bytes} : (s.audLog c g bytes).Inv := h.onLog

theorem State.Inv.inputWord (h : s.Inv) {c g v} : (s.inputWord c g v).2.Inv := by
  unfold State.inputWord
  split
  · split
    next _ _ t e =>
      have k : t.Inv := .of_snd e h.nextLog
      split
      · exact k
      · exact k.failRun
  · exact h.audLog

theorem State.Inv.audEffect (h : s.Inv) {c g bytes} : (s.audEffect c g bytes).Inv := h.onEffects

theorem State.Inv.audPlan (h : s.Inv) {o i} : (s.audPlan o i).Inv := h.onLog.onEffects

theorem State.Inv.onEntry (h : s.Inv) {o i f} : (s.onEntry o i f).Inv := h.onLog

theorem State.Inv.audFillLog (h : s.Inv) {o i bytes} : (s.audFillLog o i bytes).Inv := h.onEntry

theorem State.Inv.audRecord (h : s.Inv) {o i r} : (s.audRecord o i r).Inv := h.onEntry

theorem State.Inv.audWrite (h : s.Inv) {o i sp a bytes} : (s.audWrite o i sp a bytes).Inv := h.onEntry

theorem State.Inv.audFill (h : s.Inv) {o i kind addr bytes} : (s.audFill o i kind addr bytes).Inv := h.onEffects

theorem State.Inv.audFail (h : s.Inv) {c b} : (s.audFail c b).Inv := by
  unfold State.audFail
  split
  · exact h
  · exact h.failRun

theorem State.Inv.offAudit (h : s.Inv) {c b} : (s.offAudit c b).Inv := .ite h.failRun h.audCancel

theorem State.Inv.fire (h : s.Inv) {after a} : (s.fire after a).Inv := by
  unfold State.fire
  refine .foldl ?_ fun _ _ k => k.notify
  exact h

theorem State.Inv.spBytes (h : s.Inv) {a bytes after} : (s.spBytes a bytes after).Inv := by
  unfold State.spBytes
  refine .foldl ?_ fun _ _ k => k.fire
  exact .intro h.mem_wf (Memory.wf_mwrites _ _ h.sp_wf) h.flash_wf h.sram_wf h.cmds_rising

theorem State.Inv.spWord (h : s.Inv) {a v after} : (s.spWord a v after).Inv := h.spBytes

theorem State.Inv.onFlight (h : s.Inv) {c sl i f} : (s.onFlight c sl i f).Inv := h.onGroup

theorem State.Inv.dropLines (h : s.Inv) {c} : (s.dropLines c).Inv := h.setCore

theorem State.Inv.evictLine (h : s.Inv) {c} : (s.evictLine c).Inv := .ite h h.fresh.setCore

theorem State.Inv.pruneReports (h : s.Inv) : s.pruneReports.Inv := h

theorem State.Inv.writeSent (h : s.Inv) {x} : (s.writeSent x).Inv := by
  unfold State.writeSent
  refine .pruneReports (.spWord ?_)
  exact h

theorem State.Inv.flushDie (h : s.Inv) {c d} : (s.flushDie c d).Inv := h.foldl fun _ _ k => k.writeSent

theorem State.Inv.applyAtom (h : s.Inv) {c sl i t} : (s.applyAtom c sl i t).Inv := by
  unfold State.applyAtom
  split
  · exact .onFlight (.spBytes (.flushDie (.ite h.dropLines h)))
  · exact h

theorem State.Inv.replyLand (h : s.Inv) {c sl i} : (s.replyLand c sl i).Inv := by
  unfold State.replyLand
  split
  · exact h.setCore.onGroup
  · exact h

theorem State.Inv.settleReplies (h : s.Inv) {c but} : (s.settleReplies c but).Inv :=
  h.foldl (fun _ _ k => k.foldl (fun _ _ m => .ite (m.foldl (fun _ _ n => n.applyAtom)).replyLand m.setCore.onFlight))

theorem State.Inv.atHome (h : s.Inv) {c d} : (s.atHome c d).Inv := h.settleReplies.flushDie

theorem State.Inv.spFetch (h : s.Inv) {c p cached a} : (s.spFetch c p cached a).2.Inv := by
  unfold State.spFetch
  dsimp only
  split
  · exact .setCore (.ite h.atHome h.atHome.evictLine)
  · exact h.atHome

theorem State.Inv.loseOn (h : s.Inv) {o lane a} : (s.loseOn o lane a).Inv := by
  unfold State.loseOn
  dsimp only
  split
  · exact .ite h.logOrigin.audFail.setGroup h.logOrigin.audFail
  · exact h.logOrigin.audFail

theorem State.Inv.inputWords (h : s.Inv) {c g ws} : (s.inputWords c g ws).2.Inv := by
  unfold State.inputWords
  split
  · split
    next _ _ t e =>
      have k : t.Inv := .of_snd e h.nextLog
      split
      · exact k
      · exact k.failRun
  · exact h.audLog

theorem State.Inv.loaded (h : s.Inv) {c sl i t r v} : (s.loaded c sl i t r v).Inv := by
  unfold State.loaded
  dsimp only
  split
  · exact .ite h.onFlight.audFillLog h.onFlight
  · exact h.onFlight

theorem State.Inv.doPart (h : s.Inv) {c sl i t} : (s.doPart c sl i t).Inv := by
  unfold State.doPart
  split
  · dsimp only
    split
    · split
      · exact .loaded (.ite h.dropLines h)
      · exact .ite (.loaded (.ite h.dropLines h)) (.ite (.loaded (.loseOn (.fresh (.ite h.dropLines h)))) (.loaded (.spFetch
          (.ite h.dropLines h))))
    · exact .ite h.fresh.fresh.loseOn.onFlight h.settleReplies.applyAtom
  · exact h

theorem State.Inv.pickPart (h : s.Inv) {α : Type} {lane : α → Nat} {xs} : (s.pickPart lane xs).2.Inv := by
  unfold State.pickPart
  split
  · exact h
  · dsimp only
    split
    · exact h
    · exact h.fresh

theorem State.Inv.performPart (h : s.Inv) {c sl i} : (s.performPart c sl i).Inv := by
  unfold State.performPart
  split
  · split
    next _ _ t e =>
      have k : t.Inv := .of_snd e h.pickPart
      exact .ite k k.doPart
    next _ t e =>
      have k : t.Inv := .of_snd e h.pickPart
      exact k
  · exact h

theorem State.Inv.performAll (h : s.Inv) {c sl i} : (s.performAll c sl i).Inv := by
  unfold State.performAll
  split
  · exact h.foldl fun _ _ k => k.doPart
  · exact h

theorem State.Inv.settle (h : s.Inv) {c sl} : (s.settle c sl).Inv := by
  unfold State.settle
  split
  · dsimp only
    split
    · exact (h.foldl (fun _ _ k => k.performAll)).setCore.setGroup
    · exact h.foldl fun _ _ k => k.performAll
  · exact h

/-! #### Machine/Ops -/

theorem State.Inv.progress (h : s.Inv) {c b} : (s.progress c b).Inv := by
  unfold State.progress
  split
  · exact h.setBlock
  · exact h

theorem State.Inv.onSub (h : s.Inv) {c sl f} : (s.onSub c sl f).Inv := h.setCore

theorem State.Inv.endRun (h : s.Inv) {c sl} : (s.endRun c sl).Inv := h.onGroup.onSub

theorem State.Inv.takeFault (h : s.Inv) {c sl f resume} : (s.takeFault c sl f resume).Inv := by
  unfold State.takeFault
  dsimp only
  split
  · exact h.settle.endRun.setGroup.logRec.audFail
  · exact h.settle.endRun

theorem State.Inv.notePoison (h : s.Inv) {c b} : (s.notePoison c b).Inv := by
  unfold State.notePoison
  split
  · exact h.setBlock
  · exact h

theorem State.Inv.begun (h : s.Inv) {v c sl g cl} : (s.begun v c sl g cl).Inv :=
  .ite (.endRun (.ite h.setGroup.notePoison h.setGroup)) (.ite h.setGroup.notePoison h.setGroup)

theorem State.Inv.bumpRoom (h : s.Inv) {p} : (s.bumpRoom p).Inv := h.setPolder

theorem State.Inv.awaitRoom (h : s.Inv) {c sl g sizes} : (s.awaitRoom c sl g sizes).Inv := h.onGroup.bumpRoom

theorem State.Inv.issueWith
    (h : s.Inv) {v} {pre : Nat → Nat → Group → State → Check} {body : Nat → Nat → Group → State → State}
      (hbody : ∀ c sl g s, s.Inv → (body c sl g s).Inv) : Out.Inv (issueWith v pre body s) := by
  unfold Machine.issueWith
  split
  · split
    · split
      · split
        · exact h
        · split
          · exact h.takeFault
          · split
            · exact h
            · exact h.awaitRoom
            · exact h.takeFault
            · exact h.onGroup
            · exact hbody _ _ _ _ h.begun
      · exact h
    · exact h
  · exact h

theorem State.Inv.issue (h : s.Inv) {v} {body : Nat → Nat → Group → State → State} (hbody : ∀ c sl g s, s.Inv →
    (body c sl g s).Inv) : Out.Inv (issue v body s) :=
  h.issueWith hbody

theorem State.Inv.writeLanes (h : s.Inv) {c sl act f fl} : (s.writeLanes c sl act f fl).Inv := h.onGroup

theorem State.Inv.defer (h : s.Inv) {c sl la ws} : (s.defer c sl la ws).Inv := .ite h h.newId.onGroup

theorem State.Inv.deferParts (h : s.Inv) {c sl org la reply ws got todo} : (s.deferParts c sl org la reply ws got todo).Inv :=
  .ite h (.onGroup (.ite h.newId h.newId.audPlan))

theorem State.Inv.jump (h : s.Inv) {c sl next pc} : (s.jump c sl next pc).Inv := .ite h.onGroup h.onGroup.endRun

/-! #### Machine/Local -/

theorem State.Inv.shWord (h : s.Inv) {c a v} : (s.shWord c a v).Inv := h.setCore

theorem State.Inv.shBytes (h : s.Inv) {c a bytes} : (s.shBytes c a bytes).Inv := h.setCore

theorem State.Inv.enqueue (h : s.Inv) {c sl g0 sp p rel ws} : (s.enqueue c sl g0 sp p rel ws).Inv := .ite h h.newId.onGroup

theorem State.Inv.performWord (h : s.Inv) {c e w} : (s.performWord c e w).Inv := by
  unfold State.performWord
  dsimp only
  split
  · exact h.loseOn
  · split
    · exact h.settleReplies.setCore.newId.spWord
    · exact h.settleReplies.of_kept rfl

theorem State.Inv.performEntry (h : s.Inv) {c e} : (s.performEntry c e).2.Inv := by
  unfold State.performEntry
  split
  · exact h.foldl fun _ _ k => k.shWord
  · split
    next _ _ t e1 =>
      have k : t.Inv := .of_snd e1 h.pickPart
      exact k.performWord
    next _ t e1 =>
      have k : t.Inv := .of_snd e1 h.pickPart
      exact k

theorem State.Inv.performLink (h : s.Inv) {i} : (s.performLink i).Inv := by
  unfold State.performLink
  split
  · split
    · exact h
    · split
      · exact h
      · refine .loseOn (.pruneReports ?_)
        exact h
      · exact .ite h.settleReplies.writeSent h.settleReplies
  · exact h

theorem State.Inv.execStorePerform (h : s.Inv) {src} : Out.Inv (execStorePerform src s) := by
  unfold Machine.execStorePerform
  split
  · exact h.performLink
  · split
    · split
      · split
        · exact .ite h.performEntry.onGroup h
        · exact h
      · exact h
    · split
      · exact .ite h.performEntry.setCore h
      · exact h

/-! #### Machine/Batch -/

theorem State.Inv.engFault (h : s.Inv) {o i f} : (s.engFault o i f).Inv := by
  unfold State.engFault
  dsimp only
  split
  · exact h.logOrigin.audFail.setGroup
  · exact h.logOrigin.audFail

theorem State.Inv.noteFault (h : s.Inv) {i lane code cause addr aux} :
    (s.noteFault i lane code cause addr aux).Inv := by
  unfold State.noteFault
  split
  next x e => exact .intro h.mem_wf h.sp_wf h.flash_wf h.sram_wf (h.tput_cmds _ (h.one_le_of_cmd e))
  next => exact h

theorem State.Inv.tellAll (h : s.Inv) {ids} : (s.tellAll ids).Inv := h

theorem State.Inv.popBatches (h : s.Inv) {c sl k n} : (s.popBatches c sl k n).Inv := by
  induction n generalizing s with
  | zero => exact h
  | succ n ih =>
    unfold State.popBatches
    split
    · split
      · split
        · refine ih (.intro ?_ ?_ ?_ ?_ (tsortedFrom_foldl_tdel _ ?_))
          · exact h.mem_wf
          · exact h.sp_wf
          · exact h.flash_wf
          · exact h.sram_wf
          · exact h.cmds_rising
        · exact h
      · exact h
    · exact h

theorem State.Inv.popAll (h : s.Inv) {c sl} : (s.popAll c sl).Inv := h.foldl fun _ _ k => k.popBatches

theorem State.Inv.reap (h : s.Inv) {c sl} : (s.reap c sl).Inv := by
  unfold State.reap
  split
  · exact .ite h.setCore.onSub h
  · exact h

theorem State.Inv.endGroup (h : s.Inv) {c sl} : (s.endGroup c sl).Inv := by
  unfold State.endGroup
  split
  · exact .ite h.setGroup.popAll.reap h
  · exact h

theorem State.Inv.applyPending (h : s.Inv) {c sl cs resume} : (s.applyPending c sl cs resume).Inv := by
  unfold State.applyPending
  split
  · dsimp only
    split
    · split
      · exact h.setGroup
      · exact h.setGroup
      · exact .ite h.setGroup.logRec h.setGroup
    · exact h
  · exact h

theorem State.Inv.wake (h : s.Inv) {c sl} : (s.wake c sl).Inv := by
  unfold State.wake
  split
  · split
    · exact h
    · split
      · exact .ite h.inputWord.setGroup.applyPending h.setGroup
      · exact .ite h.setGroup.applyPending h.setGroup
      · exact h
  · exact h

theorem State.Inv.settleRounds (h : s.Inv) {c sl n} : (State.settleRounds c sl n s).Inv := by
  induction n generalizing s with
  | zero => exact h
  | succ n ih => exact ih h.popAll.wake

theorem State.Inv.settleBatches (h : s.Inv) {c sl} : (s.settleBatches c sl).Inv := h.settleRounds.reap

theorem State.Inv.finish (h : s.Inv) {i} : (s.finish i).Inv := by
  unfold State.finish
  split
  next x e =>
    extract_lets t
    have ht : t.Inv := h.foldl fun _ _ k => k.engFault
    split
    · refine .settleBatches ?_
      exact .intro ht.mem_wf ht.sp_wf ht.flash_wf ht.sram_wf (ht.tput_cmds _ (h.one_le_of_cmd e))
    · exact .intro ht.mem_wf ht.sp_wf ht.flash_wf ht.sram_wf (tsortedFrom_tdel _ ht.cmds_rising)
  next => exact h

theorem State.Inv.giveResult (h : s.Inv) {o i lane r v} : (s.giveResult o i lane r v).Inv := by
  unfold State.giveResult
  split
  · split
    · exact .ite h.setGroup h
    · exact h
  · exact h

theorem State.Inv.opFor (h : s.Inv) {c g op phase} : (s.opFor c g op phase).2.2.Inv := by
  unfold State.opFor
  split
  · split
    next _ _ t e =>
      have k : t.Inv := .of_snd e h.nextLog
      split
      · exact k
      · exact k
  · exact h

theorem State.Inv.launchCmd (h : s.Inv) {c sl g k op mask phase regs writes} :
    (s.launchCmd c sl g k op mask phase regs writes).2.Inv := by
  refine State.Inv.onGroup (.audPlan ?_)
  have ht : (s.opFor c g op phase).2.2.Inv := h.opFor
  exact .intro ht.mem_wf ht.sp_wf ht.flash_wf ht.sram_wf (ht.tput_cmds _ (Nat.le_add_left ..))

theorem State.Inv.onCmd (h : s.Inv) {i f} : (s.onCmd i f).Inv := by
  unfold State.onCmd
  split
  next x e => exact .intro h.mem_wf h.sp_wf h.flash_wf h.sram_wf (h.tput_cmds _ (h.one_le_of_cmd e))
  next => exact h

theorem State.Inv.execFenceComplete (h : s.Inv) {core slot} : Out.Inv (execFenceComplete core slot s) := by
  unfold Machine.execFenceComplete
  split
  · split
    · exact .ite (.ite h.setGroup.setCore h.setGroup) h
    · exact h
  · exact h

/-! #### Machine/Vec -/

theorem State.Inv.vecLanes (h : s.Inv) {v f} : Out.Inv (vecLanes v f s) := h.issue fun _ _ _ _ k => k.writeLanes

theorem State.Inv.vec3 (h : s.Inv) {v d a b c op} : Out.Inv (vec3 v d a b c op s) := h.vecLanes

theorem State.Inv.arith (h : s.Inv) {i d a b c t sat op} : Out.Inv (arith i d a b c t sat op s) := h.vec3

theorem State.Inv.bitwise (h : s.Inv) {i d a b op} : Out.Inv (bitwise i d a b op s) := h.vec3

/-! #### Machine/Fpu -/

theorem State.Inv.fp3 (h : s.Inv) {i d a b c op} : Out.Inv (fp3 i d a b c op s) := h.vec3

theorem State.Inv.packed (h : s.Inv) {i d a b c f op} : Out.Inv (packed i d a b c f op s) := h.vec3

theorem State.Inv.laterLanes (h : s.Inv) {v f} : Out.Inv (laterLanes v f s) := h.issue fun _ _ _ _ k => k.defer

theorem State.Inv.sfu (h : s.Inv) {i f d a rm} : Out.Inv (sfu i f d a rm s) := h.laterLanes

/-! #### Machine/Xl -/

theorem State.Inv.reduceTile (h : s.Inv) {i op d a ty occ sat} : Out.Inv (reduceTile i op d a ty occ sat s) := h.laterLanes

/-! #### Machine/Mem -/

theorem State.Inv.progressIf (h : s.Inv) {c g gd} : (s.progressIf c g gd).Inv := .ite h.progress h

theorem State.Inv.execAtsh (h : s.Inv) {d a b c op sem w64 sc la gd} :
    Out.Inv (execAtsh d a b c op sem w64 sc la gd s) :=
  h.issueWith fun _ _ _ _ k => (State.Inv.foldl_snd k fun _ _ m => m.foldl fun _ _ n => n.shWord).defer.progressIf

theorem State.Inv.execSreg (h : s.Inv) {d r la gd} : Out.Inv (execSreg d r la gd s) :=
  h.issueWith fun _ _ _ _ k => .defer (.ite_snd (.inputWords (.ite k.onGroup k)) (.ite k.onGroup k))

/-! #### Machine/Trans -/

theorem State.Inv.fillCore (h : s.Inv) {c e} : (s.fillCore c e).Inv := .setCore (.ite_snd h h.fresh)

theorem State.Inv.fillDie (h : s.Inv) {d e} : (s.fillDie d e).Inv := .setDie (.ite_snd h h.fresh)

theorem State.Inv.lookup (h : s.Inv) {c p va} : (s.lookup c p va).2.Inv := by
  unfold State.lookup
  split
  · exact h
  · split
    · exact h
    · split
      · exact h.fillCore
      · exact h

theorem State.Inv.onAcc (h : s.Inv) {i f} : (s.onAcc i f).Inv := by
  unfold State.onAcc
  split
  · exact h
  · exact h

theorem State.Inv.queueMiss (h : s.Inv) {i a} : (s.queueMiss i a).Inv := .ite h h.setDie

theorem State.Inv.refillMiss (h : s.Inv) {d} : (s.refillMiss d).Inv := by
  unfold State.refillMiss
  refine h.foldl fun _ _ k => ?_
  split
  · exact k
  · refine k.foldl fun _ _ m => ?_
    split
    · exact .ite m.queueMiss m
    · exact m

theorem State.Inv.unpark (h : s.Inv) {i a} : (s.unpark i a).Inv := h.setCore.setDie.refillMiss

theorem State.Inv.parkAt (h : s.Inv) {c sl f pc} : (s.parkAt c sl f pc).Inv := by
  unfold State.parkAt
  dsimp only
  split
  · exact h.settle.endRun.setGroup.logRec.audFail
  · exact h.settle.endRun

theorem State.Inv.failAccess (h : s.Inv) {i code cause aux} : (s.failAccess i code cause aux).Inv := by
  unfold State.failAccess
  split
  · dsimp only
    split
    · exact .ite h.unpark.onAcc h.unpark.onAcc.noteFault
    · split
      · exact h.unpark.onAcc
      · split
        · split
          · refine .parkAt ?_
            exact h.unpark.of_kept rfl
          · refine .takeFault (.onGroup ?_)
            exact h.unpark.of_kept rfl
        · exact h.unpark.of_kept rfl
  · exact h

theorem State.Inv.park (h : s.Inv) {i a} : (s.park i a).Inv := .ite h.onAcc h.setCore.onAcc.queueMiss

theorem State.Inv.fetchSent (h : s.Inv) {i a} : (s.fetchSent i a).Inv := by
  unfold State.fetchSent
  dsimp only
  split
  · refine .onGroup ?_
    exact h
  · exact h

theorem State.Inv.remoteRead (h : s.Inv) {a pa} : (s.remoteRead a pa).Inv := by
  unfold State.remoteRead
  split
  · exact .ite h.audCancel h
  · exact h

theorem State.Inv.find (h : s.Inv) {i a} : (s.find i a).Inv := by
  unfold State.find
  split
  next _ _ t e =>
    have k : t.Inv := .of_snd e h.lookup
    exact .ite (.ite k.unpark.fetchSent k.unpark.newId.onAcc.remoteRead) k.failAccess
  next _ t e =>
    have k : t.Inv := .of_snd e h.lookup
    exact k.park

theorem State.Inv.try (h : s.Inv) {i} : (s.try i).Inv := by
  unfold State.try
  split
  · exact .ite h (.ite h.failAccess (.ite h.park h.find))
  · exact h

theorem State.Inv.again (h : s.Inv) {i a} : (s.again i a).Inv := h.unpark.onAcc.find

theorem State.Inv.retry (h : s.Inv) {i} : (s.retry i).Inv := by
  unfold State.retry
  split
  · exact .ite h.try h
  · exact h

theorem State.Inv.newAcc (h : s.Inv) {a} : (s.newAcc a).2.Inv := by
  unfold State.newAcc
  refine .try ?_
  exact h

theorem State.Inv.release (h : s.Inv) {d e} : (s.release d e).Inv := by
  unfold State.release
  refine h.foldl fun _ _ k => ?_
  split
  · exact k
  · refine k.foldl fun _ _ m => ?_
    split
    · exact .ite m.again m
    · exact m

theorem State.Inv.logHeld (h : s.Inv) {a f} : (s.logHeld a f).Inv := by
  unfold State.logHeld
  split
  · exact h.logOrigin
  · dsimp only
    split
    · exact h.settle.setGroup.logRec
    · exact h.settle

theorem State.Inv.walkFate (h : s.Inv) {i cause w2} : (s.walkFate i cause w2).Inv := by
  unfold State.walkFate
  split
  · exact .ite h.setDie.onAcc.refillMiss.logHeld h.failAccess
  · exact h

theorem State.Inv.replayAll (h : s.Inv) {p} : (s.replayAll p).Inv := by
  unfold State.replayAll
  refine h.foldl (fun _ _ k => k.foldl (fun _ _ m => ?_))
  split
  · exact .ite (.ite m.onAcc.queueMiss m.again) m
  · exact m

theorem State.Inv.invalidate (h : s.Inv) {d hit pol} : (s.invalidate d hit pol).Inv := h

theorem State.Inv.oldOrNew (h : s.Inv) {c g pa new} : (s.oldOrNew c g pa new).2.Inv := by
  unfold State.oldOrNew
  dsimp only
  split
  · exact h
  · exact h.fresh

theorem State.Inv.fetchWord (h : s.Inv) {c sl g pc} : (s.fetchWord c sl g pc).2.Inv := by
  unfold State.fetchWord
  dsimp only
  split
  · exact h
  · split
    · exact h
    · split
      next _ _ t e =>
        have k : t.Inv := .of_snd e h.lookup
        split
        · exact k
        · split
          · exact k
          · exact k
          · split
            · exact k.readPa.oldOrNew
            · exact k.readPa
      next _ t e =>
        have k : t.Inv := .of_snd e h.lookup
        refine .try ?_
        exact k.newId.onGroup.of_kept rfl

/-! #### Machine/Engine -/

theorem State.Inv.comeBehind (h : s.Inv) {o sp a len} : (s.comeBehind o sp a len).Inv := by
  unfold State.comeBehind
  split
  · exact h
  · exact h
  · exact h.flushDie.flushDie

theorem State.Inv.localWrite (h : s.Inv) {i o sp a bytes} : (s.localWrite i o sp a bytes).Inv := by
  unfold State.localWrite
  dsimp only
  split
  · exact h.audWrite.shBytes
  · exact h.audWrite.comeBehind.onCmd.spBytes

theorem State.Inv.postAcc (h : s.Inv) {i lane op p} : (s.postAcc i lane op p).2.Inv := by
  unfold State.postAcc
  split
  next x e =>
    split
    · exact h
    · exact .intro h.mem_wf h.sp_wf h.flash_wf h.sram_wf (h.tput_cmds _ (h.one_le_of_cmd e))
  next => exact h

theorem State.Inv.sendAcc (h : s.Inv) {i lane op p} : (s.sendAcc i lane op p).Inv := h.postAcc.try

theorem State.Inv.sendReads (h : s.Inv) {i lane ps} : (s.sendReads i lane ps).Inv := h.foldl fun _ _ k => k.sendAcc

theorem State.Inv.dropAccs (h : s.Inv) {i} : (s.dropAccs i).Inv := by
  unfold State.dropAccs
  split
  next x e => exact .intro h.mem_wf h.sp_wf h.flash_wf h.sram_wf (h.tput_cmds _ (h.one_le_of_cmd e))
  next => exact h

theorem State.Inv.weirTake (h : s.Inv) {p n} : OptInv (s.weirTake p n) := by
  unfold State.weirTake
  dsimp only
  split
  · exact h.setPolder
  · split
    · exact h
    · exact trivial

theorem State.Inv.refillOne (h : s.Inv) {p} : (s.refillOne p).Inv := by
  unfold State.refillOne
  split
  · split
    · exact h
    · exact h
  · exact h

theorem State.Inv.execWeirRefill (h : s.Inv) : Out.Inv (execWeirRefill s) := by
  unfold Machine.execWeirRefill
  split
  · refine .foldl ?_ fun _ _ k => k.refillOne
    exact h
  · exact h

/-! #### Machine/Copy -/

theorem State.Inv.checkLayout (h : s.Inv) {c p r} : (s.checkLayout c p r).2.Inv := by
  unfold State.checkLayout
  dsimp only
  split
  · exact h
  · split
    · exact h
    · split
      · exact h
      · exact h.setCore

theorem State.Inv.supply (h : s.Inv) {c b e} : (s.supply c b e).Inv := by
  unfold State.supply
  split
  · exact h.setBlock
  · exact h

theorem State.Inv.execCollectiveStart (h : s.Inv) {core bslot} : Out.Inv (execCollectiveStart core bslot s) := by
  unfold Machine.execCollectiveStart
  split
  · split
    · exact .ite (h.setBlock.foldl (fun _ _ k => k.supply)) h
    · exact h
  · exact h

theorem State.Inv.execCpy (h : s.Inv) {a v o st solo sp gd} : Out.Inv (execCpy a v o st solo sp gd s) := by
  unfold Machine.execCpy
  refine h.issueWith fun _ _ _ _ k => ?_
  split
  · exact .ite k k.supply
  · exact .progress (.ite k.launchCmd.sendReads k.launchCmd.sendReads.supply)

theorem State.Inv.execSealRec (h : s.Inv) {d a rec128 gd} : Out.Inv (execSealRec d a rec128 gd s) := by
  unfold Machine.execSealRec
  refine h.issueWith fun _ _ _ _ k => ?_
  split
  · exact k
  · exact k.launchCmd.progress

theorem State.Inv.execSealComplete (h : s.Inv) {cmd} : Out.Inv (execSealComplete cmd s) := by
  unfold Machine.execSealComplete
  split
  · split
    · exact .ite (h.shBytes.foldl (fun _ _ k => k.giveResult)).finish h
    · exact h
  · exact h

theorem State.Inv.cmdFault (h : s.Inv) {i x code cause addr aux} : (s.cmdFault i x code cause addr aux).Inv := h.noteFault

theorem State.Inv.copyRecord (h : s.Inv) {i x r} : (s.copyRecord i x r).Inv := by
  unfold State.copyRecord
  split
  · split
    next _ _ t e =>
      have k : t.Inv := .of_snd e h.checkLayout
      dsimp only
      split
      · exact k.dropAccs.onCmd.cmdFault
      · exact k.dropAccs.onCmd.cmdFault
      · exact .ite k.dropAccs.onCmd.cmdFault (.ite k.dropAccs.onCmd.cmdFault k.dropAccs.onCmd.onCmd)
  · exact h

theorem State.Inv.copyPiece (h : s.Inv) {i x p} : (s.copyPiece i x p).Inv := by
  unfold State.copyPiece
  split
  · exact .ite h.cmdFault h.comeBehind.postAcc
  · exact h.sendAcc

theorem State.Inv.copyRec (h : s.Inv) {o i op r bytes} : (s.copyRec o i op r bytes).Inv := by
  unfold State.copyRec
  split
  · exact h.audFill
  · exact h

theorem State.Inv.copyEffect (h : s.Inv) {i x} : (copyEffect s i x).Inv := by
  unfold Machine.copyEffect
  split
  · exact h.copyRec.audRecord.audFillLog
  · exact h

theorem State.Inv.execCpyComplete (h : s.Inv) {cmd} : Out.Inv (execCpyComplete cmd s) := by
  unfold Machine.execCpyComplete
  split
  · split
    · exact .ite h (.ite h.copyEffect.finish (.ite h.copyEffect.cmdFault.finish (h.copyEffect.foldl
        (fun _ _ k => k.localWrite)).finish))
    · exact h
  · exact h

/-! #### Machine/Weaver -/

theorem State.Inv.deposit (h : s.Inv) {c p r} : (s.deposit c p r).Inv :=
  .ite (h.setCore.foldl (fun _ _ k => k.writePa)).setPolder h.setCore

theorem State.Inv.takeRecords (h : s.Inv) {c p rs} : (s.takeRecords c p rs).Inv := .ite h.setCore h.setCore.setPolder

theorem State.Inv.doom (h : s.Inv) {p i} : (s.doom p i).Inv := h.setPolder

theorem State.Inv.readBack (h : s.Inv) {c rs} : (s.readBack c rs).2.Inv := by
  unfold State.readBack
  refine .foldl_snd h fun b r k => ?_
  split
  next ok t =>
    extract_lets l idx u
    have hu : u.Inv := State.Inv.foldl k fun _ _ m => m.checkBlock
    clear_value u
    split
    · exact hu
    · exact .ite_snd hu.takeRecords.failRun hu.logBytes.takeRecords.doom

theorem State.Inv.leaveLanes (h : s.Inv) {c sl out n held} : (s.leaveLanes c sl out n held).Inv := by
  unfold State.leaveLanes
  split
  · exact (h.foldl (fun _ _ k => k.deposit)).setGroup
  · exact h

theorem State.Inv.formTaken (h : s.Inv) {c sl r b lanes taken} : (s.formTaken c sl r b lanes taken).Inv :=
  h.newId.takeRecords.setBlock.setGroup.onSub.logCtl

theorem State.Inv.formFrom (h : s.Inv) {c sl rs} : (s.formFrom c sl rs).Inv := by
  unfold State.formFrom
  split
  · exact h
  · split
    · exact h.formTaken
    · exact h

theorem State.Inv.formGroup (h : s.Inv) {c sl rs} : (s.formGroup c sl rs).Inv := h.readBack.formFrom

theorem State.Inv.formLogged (h : s.Inv) {c} : (s.formLogged c).Inv := by
  unfold State.formLogged
  dsimp only
  split
  · split
    · exact .ite h.readBack h.readBack.dropCtl.formTaken
    · exact h
  · exact h

theorem State.Inv.execWeaverFormGroup (h : s.Inv) {core} : Out.Inv (execWeaverFormGroup core s) := by
  unfold Machine.execWeaverFormGroup
  split
  · exact h
  · dsimp only
    split
    · split
      · exact h.setCore.formGroup
      · exact h
    · exact .ite h.setCore.formLogged h

theorem State.Inv.execSetDue (h : s.Inv) {core age} : Out.Inv (execSetDue core age s) := by
  unfold Machine.execSetDue
  dsimp only
  split
  · exact .ite h.setCore h
  · exact h

theorem State.Inv.mergeAll (h : s.Inv) {c sl pc p alloc rs} : (s.mergeAll c sl pc p alloc rs).Inv := by
  induction rs generalizing s with
  | nil => exact h
  | cons r rs ih =>
    unfold State.mergeAll
    split
    · split
      · exact ih h.takeRecords.setGroup.logCtl
      · exact h
    · exact h

theorem State.Inv.endJoin (h : s.Inv) {c sl pc} : (s.endJoin c sl pc).Inv := by
  unfold State.endJoin
  split
  · exact h.setGroup.logCtl
  · exact h

theorem State.Inv.joinLogged (h : s.Inv) {c sl g pc} : (s.joinLogged c sl g pc).Inv := by
  unfold State.joinLogged
  dsimp only
  split
  · split
    · exact .ite h.readBack.failRun h.readBack.takeRecords.setGroup.dropCtl
    · exact h
  · exact h.dropCtl.endJoin
  · exact h.failRun

theorem State.Inv.joinStep (h : s.Inv) {c sl timed} : (s.joinStep c sl timed).Inv := by
  unfold State.joinStep
  split
  · split
    · exact .ite h.joinLogged (.ite h (.ite (.endJoin (.ite h.readBack.mergeAll h)) (.ite h.readBack.mergeAll h)))
    · exact h
  · exact h

theorem State.Inv.execSleepExpire (h : s.Inv) {core slot} : Out.Inv (execSleepExpire core slot s) := by
  unfold Machine.execSleepExpire
  split
  · split
    · exact .ite h.setGroup h
    · exact h
  · exact h

theorem State.Inv.dropFetchOf (h : s.Inv) {g} : (s.dropFetchOf g).Inv := by
  unfold State.dropFetchOf
  split
  · split
    · exact h.unpark.of_kept rfl
    · exact h
  · exact h

theorem State.Inv.evict (h : s.Inv) {c sl} : (s.evict c sl).Inv := by
  unfold State.evict
  split
  · dsimp only
    split
    · exact h
    · refine .endGroup ?_
      split
      · exact h.dropFetchOf.logCtl.settle.leaveLanes.setBlock
      · exact h.dropFetchOf.logCtl.settle.leaveLanes
  · exact h

theorem State.Inv.evictLogged (h : s.Inv) {c sl g} : (s.evictLogged c sl g).Inv :=
  .ite h (.ite h.failRun (.ite h.evict.dropCtl h.evict))

theorem State.Inv.execGroupEvict (h : s.Inv) {core slot} : Out.Inv (execGroupEvict core slot s) := by
  unfold Machine.execGroupEvict
  split
  · exact .ite (.ite h.evictLogged h) (.ite h.evict h)
  · exact h

theorem State.Inv.spawnAll (h : s.Inv) {i} : (s.spawnAll i).Inv := by
  unfold State.spawnAll
  split
  · split
    · exact (h.foldl (fun _ _ k => k.deposit)).finish
    · exact h
  · exact h

theorem State.Inv.execSpawnComplete (h : s.Inv) {cmd} : Out.Inv (execSpawnComplete cmd s) := by
  unfold Machine.execSpawnComplete
  split
  · dsimp only
    split
    · exact .ite h.spawnAll h
    · exact h
  · exact h

theorem State.Inv.execSpillRoomFreed (h : s.Inv) {core} : Out.Inv (execSpillRoomFreed core s) := by
  unfold Machine.execSpillRoomFreed
  dsimp only
  split
  · split
    · exact h.onGroup
    · exact .ite h.spawnAll h
  · exact h

theorem State.Inv.freeHeld (h : s.Inv) {c b gang} : (s.freeHeld c b gang).Inv := by
  unfold State.freeHeld
  dsimp only
  split
  · exact h.setCore.setBlock
  · exact h.setCore

theorem State.Inv.passBarrier (h : s.Inv) {c b gang} : (s.passBarrier c b gang).Inv := h.setCore.freeHeld

theorem State.Inv.gangOrder (h : s.Inv) {bs} : (s.gangOrder bs).Inv :=
  .foldl (h.foldl (fun _ _ k => k.writeSent)) fun _ _ k => k.dropLines

theorem State.Inv.execWatchdogExpire (h : s.Inv) {core bslot} : Out.Inv (execWatchdogExpire core bslot s) := by
  unfold Machine.execWatchdogExpire
  split
  · exact .ite h.setBlock.logFor h
  · exact h

/-! #### Machine/Ctl -/

theorem State.Inv.branch (h : s.Inv) {c sl g f n} : (s.branch c sl g f n).Inv := .jump (.ite h h.settle.leaveLanes)

theorem State.Inv.pushAll (h : s.Inv) {c sl v} : (s.pushAll c sl v).Inv := h.onGroup

theorem State.Inv.endThreads (h : s.Inv) {c sl ls} : (s.endThreads c sl ls).Inv := h.settle.onGroup.endGroup

theorem State.Inv.arrive (h : s.Inv) {i sc w} : Out.Inv (arrive i sc w s) := h.issueWith fun _ _ _ _ k => .ite k k.onGroup

/-! #### Machine/Place -/

theorem State.Inv.setBoard (h : s.Inv) {off v} : (s.setBoard off v).Inv := h.spWord

theorem State.Inv.setSstate (h : s.Inv) {sl v} : (s.setSstate sl v).Inv := h.setBoard

theorem State.Inv.auditPlace (h : s.Inv) {core bslot l b} : (s.auditPlace core bslot l b).Inv := by
  unfold State.auditPlace
  dsimp only
  split
  · exact h
  · split
    · exact h.setPolder
    · split
      · refine .setBlock ?_
        exact h
      · exact h

theorem State.Inv.enterSlot (h : s.Inv) {c sl g} : (s.enterSlot c sl g).Inv := h.setGroup.onSub

theorem State.Inv.beginPast (h : s.Inv) {l} : (s.beginPast l).Inv := by
  unfold State.beginPast
  split
  · exact h
  · exact h

theorem State.Inv.endPast (h : s.Inv) {l} : (s.endPast l).Inv := by
  unfold State.endPast
  split
  · exact h
  · exact h

theorem State.Inv.enterBlock (h : s.Inv) {core bslot x} : (s.enterBlock core bslot x).Inv :=
  h.setCore.setBlock.foldl fun _ _ k => k.newId.enterSlot

theorem State.Inv.placeBlock (h : s.Inv) {core bslot b l slots} : (s.placeBlock core bslot b l slots).Inv :=
  h.beginPast.enterBlock.auditPlace

theorem State.Inv.place (h : s.Inv) {qslot b core} : (s.place qslot b core).2.Inv := by
  unfold State.place
  split
  · exact h
  · dsimp only
    split
    · exact h
    · split
      · exact h
      · exact h.placeBlock

theorem State.Inv.book (h : s.Inv) {c b} : (s.book c b).Inv := by
  unfold State.book
  split
  · exact (h.setBlock.foldl (fun _ _ k => k.setBoard)).setBoard
  · exact h

theorem State.Inv.unbook (h : s.Inv) {c x} : (s.unbook c x).Inv := .ite h (h.foldl (fun _ _ k => k.setBoard)).setBoard

theorem State.Inv.initBoard (h : s.Inv) : s.initBoard.Inv :=
  h.setBoard.foldl (fun _ _ k => (k.foldl (fun _ _ m => m.setBoard)).setBoard)

theorem State.Inv.freeBlock (h : s.Inv) {c b} : (s.freeBlock c b).Inv := by
  unfold State.freeBlock
  split
  · exact (h.takeRecords.foldl (fun _ _ k => k.setCore.onSub)).setCore.unbook.endPast
  · exact h

/-! #### Machine/Walker -/

theorem State.Inv.wakeTbinv (h : s.Inv) : s.wakeTbinv.Inv := h

theorem State.Inv.freeWalker (h : s.Inv) {d w x} : (s.freeWalker d w x).Inv := h.setDie.wakeTbinv

theorem State.Inv.walkFail (h : s.Inv) {d w x cause} : (s.walkFail d w x cause).Inv :=
  (h.setPolder.foldl (fun _ _ k => k.walkFate)).freeWalker.refillMiss

theorem State.Inv.walkError (h : s.Inv) {d w x code aux} : (s.walkError d w x code aux).Inv :=
  h.failAccess.freeWalker.refillMiss

theorem State.Inv.walkRetry (h : s.Inv) {d w x} : (s.walkRetry d w x).Inv := by
  unfold State.walkRetry
  refine .refillMiss (h.freeWalker.foldl (fun _ _ k => ?_))
  split
  · exact k.again
  · exact k

theorem State.Inv.execWalkStart (h : s.Inv) {die walker} : Out.Inv (execWalkStart die walker s) := by
  unfold Machine.execWalkStart
  dsimp only
  split
  · exact h
  · split
    · split
      · split
        · exact .refillMiss (.release (.ite h.setDie h.setDie.fillCore))
        · exact .ite h.setPolder.setDie.walkFail h.setPolder.setDie.refillMiss
      · exact h.setDie
    · exact h

theorem State.Inv.setWalk (h : s.Inv) {d w x} : (s.setWalk d w x).Inv := h.setDie

theorem State.Inv.walkIssue (h : s.Inv) {f : Nat → Nat → Walk → Frame → State → State} (hf : ∀ d w x fr s, s.Inv →
    (f d w x fr s).Inv) : Out.Inv (walkIssue f s) := by
  unfold Machine.walkIssue
  split
  · exact .ite h.walkFail (hf _ _ _ _ _ h)
  · exact h

theorem State.Inv.walkAlu (h : s.Inv) {d v} : Out.Inv (walkAlu d v s) := h.walkIssue fun _ _ _ _ _ k => k.setWalk

theorem State.Inv.walkR (h : s.Inv) {d a b op} : Out.Inv (walkR d a b op s) := h.walkAlu

theorem State.Inv.walkLoad (h : s.Inv) {len d a imm} : Out.Inv (walkLoad len d a imm s) := by
  unfold Machine.walkLoad
  refine h.walkIssue fun _ _ _ _ _ k => ?_
  dsimp only
  split
  · exact k.walkFail
  · split
    · exact k.walkFail
    · split
      · exact .ite k.setWalk k.walkFail
      · exact .ite k.walkFail k.setWalk

theorem State.Inv.walkBranch (h : s.Inv) {a b off c} : Out.Inv (walkBranch a b off c s) :=
  h.walkIssue (fun _ _ _ _ _ k => .ite (.ite k.walkFail k.setWalk) k.setWalk)

theorem State.Inv.dropOverlaps (h : s.Inv) {d e} : (s.dropOverlaps d e).Inv := h

theorem State.Inv.execWldDataReturn (h : s.Inv) {die walker waited} : Out.Inv (execWldDataReturn die walker waited s) := by
  unfold Machine.execWldDataReturn
  split
  · split
    · dsimp only
      split
      · exact h.walkFail
      · split
        · exact h
        · exact h.walkError
        · exact .ite h.readPa.walkError h.readPa.setWalk
    · exact h
  · exact h

theorem State.Inv.execWalkTimelimit (h : s.Inv) {die walker} : Out.Inv (execWalkTimelimit die walker s) := by
  unfold Machine.execWalkTimelimit
  split
  · exact .ite h.walkFail h
  · exact h

/-! #### Machine/Sys -/

theorem State.Inv.touch (h : s.Inv) {c va len} : (s.touch c va len).Inv :=
  h.foldl (fun _ _ k => k.foldl (fun _ _ m => m.openRow.checkBlock))

theorem State.Inv.sysRange (h : s.Inv) {c va len write l} {ok : State → SysTry} (hok : ∀ s, s.Inv → (ok s).Inv) :
    (sysRange c va len write l s ok).Inv := by
  unfold Machine.sysRange
  split
  · exact h
  · dsimp only
    split
    · exact h
    · split
      · split
        · exact h
        · split
          · exact h
          · exact hok _ h
      · split
        · exact h
        · split
          · exact h
          · exact hok _ h.touch

theorem State.Inv.sysAsk (h : s.Inv) {c sl l va write} : (s.sysAsk c sl l va write).Inv := by
  unfold State.sysAsk
  refine .try ?_
  refine .of_kept (.onGroup ?_) rfl
  exact h

theorem State.Inv.sysResult (h : s.Inv) {c sl v g d w} : (s.sysResult c sl v g d w).Inv := h.writeLanes.onGroup

theorem State.Inv.sysIssue (h : s.Inv) {v} {act : Nat → Nat → Group → Nat → State → SysTry}
    (hact : ∀ c sl g l s, s.Inv → (act c sl g l s).Inv) : Out.Inv (sysIssue v act s) := by
  unfold Machine.sysIssue
  split
  · split
    · split
      · split
        · exact h
        · split
          · exact h.takeFault
          · split
            · exact h.begun
            · split
              · exact h
              · split
                next t e => exact SysTry.Inv.of_eq e (hact _ _ _ _ _ h)
                next va w t e => exact State.Inv.sysAsk (SysTry.Inv.of_eq e (hact _ _ _ _ _ h))
                next f t e => exact State.Inv.takeFault (SysTry.Inv.of_eq e (hact _ _ _ _ _ h))
                next d w t e => exact (State.Inv.begun (SysTry.Inv.of_eq e (hact _ _ _ _ _ h))).sysResult
      · exact h
    · exact h
  · exact h

theorem State.Inv.onBoard (h : s.Inv) {c l} {k : SysTry} (hk : k.Inv) : (onBoard c l s k).Inv := by
  unfold Machine.onBoard
  split
  · exact hk
  · exact h
  · exact h

theorem State.Inv.mapSlot (h : s.Inv) {c sl va desc} : (s.mapSlot c sl va desc).Inv := by
  unfold State.mapSlot
  refine .ringBell (.setBoard (.setBoard (.setBoard (.setSstate ?_))))
  exact h

theorem State.Inv.freeResult (h : s.Inv) : (freeResult s).Inv := h.fresh

theorem State.Inv.execQmap (h : s.Inv) {d a b gd} : Out.Inv (execQmap d a b gd s) := by
  unfold Machine.execQmap
  refine h.sysIssue fun _ _ _ _ _ k => ?_
  dsimp only
  split
  · exact k.freeResult
  · refine k.sysRange fun _ m => m.onBoard ?_
    split
    · exact m
    · split
      · exact m
      · exact m.mapSlot

theorem State.Inv.unmapSlot (h : s.Inv) {sl x pending} : (s.unmapSlot sl x pending).Inv := by
  unfold State.unmapSlot
  extract_lets y t
  have ht : t.Inv := by
    unfold t
    split
    · exact h.setPolder
    · exact h
  refine .setSstate ?_
  exact ht

theorem State.Inv.execQunmap (h : s.Inv) {d a gd} : Out.Inv (execQunmap d a gd s) := by
  unfold Machine.execQunmap
  refine h.sysIssue fun _ _ _ _ _ k => ?_
  dsimp only
  split
  · exact k.freeResult
  · split
    · exact k
    · exact k.sysRange fun _ m => m.onBoard m.unmapSlot

theorem State.Inv.execPlace (h : s.Inv) {d a gd} : Out.Inv (execPlace d a gd s) := by
  unfold Machine.execPlace
  refine h.sysIssue fun _ _ _ _ _ k => ?_
  dsimp only
  split
  · exact k
  · split
    · exact k
    · split
      · exact k
      · exact k
      · exact k.place

/-! #### Machine/Image -/

theorem State.Inv.failHeld (h : s.Inv) {c b} : (s.failHeld c b).Inv := by
  unfold State.failHeld
  refine h.foldl fun _ _ k => ?_
  split
  · split
    · exact .ite k.failAccess k
    · exact k
  · exact k

theorem State.Inv.beginStop (h : s.Inv) {c b} : (s.beginStop c b).Inv := by
  unfold State.beginStop
  split
  · exact .ite h h.setBlock.failHeld
  · exact h

theorem State.Inv.abandonWalks (h : s.Inv) {d i} : (s.abandonWalks d i).Inv := h.foldl fun _ _ k => .ite k.walkRetry k

theorem State.Inv.dropFetch (h : s.Inv) {c sl i} : (s.dropFetch c sl i).Inv := by
  unfold State.dropFetch
  refine .onGroup ?_
  split
  · exact h.abandonWalks.unpark.of_kept rfl
  · exact h.abandonWalks

theorem State.Inv.settleSlot (h : s.Inv) {c sl} : (s.settleSlot c sl).Inv := by
  unfold State.settleSlot
  extract_lets t u
  have hu : u.Inv := h.settle.onGroup.settleBatches
  split
  · split
    · exact .ite hu.joinStep hu
    · exact .ite hu.setGroup hu
    · exact hu.dropFetch
    · exact hu
  · exact hu

theorem State.Inv.pushImage (h : s.Inv) {l idx va} : (s.pushImage l idx va).Inv := by
  unfold State.pushImage
  split
  · split
    · exact h
    · exact h
  · exact h

theorem State.Inv.saveBlock (h : s.Inv) {c b core va x} : (s.saveBlock c b core va x).2.Inv := by
  unfold State.saveBlock
  extract_lets t u y bytes ps w sv p v v'
  have ht : t.Inv := h.foldl fun _ _ k => k.settleSlot
  have hw : w.Inv := .foldl_fst ht.readBack fun _ _ k => k.writePa
  clear_value w
  exact hw.pushImage.setPolder.freeBlock

theorem State.Inv.endStop (h : s.Inv) {c b} : (s.endStop c b).Inv := by
  unfold State.endStop
  split
  · exact .ite h h.setBlock
  · exact h

theorem State.Inv.execCtxsave (h : s.Inv) {d a b gd} : Out.Inv (execCtxsave d a b gd s) := by
  refine h.sysIssue fun c sl g l t k => ?_
  dsimp only
  split
  · exact k
  next x _ =>
    split
    next va w u e => exact State.Inv.endStop (SysTry.Inv.of_eq e (k.sysRange fun _ m => m))
    next f u e => exact State.Inv.endStop (SysTry.Inv.of_eq e (k.sysRange fun _ m => m))
    next d w u e => exact SysTry.Inv.of_eq e (k.sysRange fun _ m => m)
    next =>
      split
      · exact k.beginStop
      · exact k.beginStop.saveBlock

theorem State.Inv.popImage (h : s.Inv) {va} : (s.popImage va).Inv := h

theorem State.Inv.restoreGroups (h : s.Inv) {core bslot l slots im} : (s.restoreGroups core bslot l slots im).Inv :=
  h.foldl fun _ _ k => .ite k.newId k.newId.enterSlot

theorem State.Inv.restoreBlock (h : s.Inv) {core bslot l slots im} : (s.restoreBlock core bslot l slots im).Inv := by
  unfold State.restoreBlock
  refine .foldl (.setCore ?_) fun _ _ k => k.deposit
  split
  · exact h.beginPast.setCore.setBlock.restoreGroups.setBlock
  · exact h.beginPast.setCore.setBlock.restoreGroups

theorem State.Inv.wakeBlock (h : s.Inv) {core slots} : (s.wakeBlock core slots).Inv := h.foldl fun _ _ k => k.settleBatches

theorem State.Inv.restore (h : s.Inv) {va core im} : (s.restore va core im).2.Inv := by
  unfold State.restore
  split
  · exact h
  · dsimp only
    split
    · exact h
    · split
      · exact h
      · exact h.restoreBlock.popImage.setPolder.wakeBlock

theorem State.Inv.execCtxrest (h : s.Inv) {d a b gd} : Out.Inv (execCtxrest d a b gd s) := by
  unfold Machine.execCtxrest
  refine h.sysIssue (fun _ _ _ _ _ k => k.sysRange (fun _ m => ?_))
  dsimp only
  split
  · exact m
  · exact m.sysRange fun _ n => n.restore

/-! #### Machine/Gather -/

theorem State.Inv.gatherIssue
    (h : s.Inv) {i} {pre : Nat → Nat → Group → State → Check} {n r ix o gd} {body : Nat → Nat → Group → Nat → GOps → State →
      State} (hbody : ∀ c sl g l k s, s.Inv → (body c sl g l k s).Inv) : Out.Inv (gatherIssue i pre n r ix o gd body s) := by
  unfold Machine.gatherIssue
  refine h.issueWith fun _ _ _ _ k => ?_
  split
  · exact k
  · exact (hbody _ _ _ _ _ _ k).progress

theorem State.Inv.execGat (h : s.Inv) {n r i o isp rsp gd} : Out.Inv (execGat n r i o isp rsp gd s) := by
  refine h.gatherIssue fun c sl g l _ t k => ?_
  extract_lets org rc lost u idx op
  have hu : u.Inv := .ite k k.comeBehind
  clear_value u lost
  split
  next id v e =>
    have hv : v.Inv := .of_snd e hu.launchCmd
    refine .foldl (.audFill ?_) fun _ _ m => m.sendReads
    cases lost with
    | none => exact hv
    | some a => exact hv.noteFault

theorem State.Inv.execSct (h : s.Inv) {n r i o isp rsp cb f gd} :
    Out.Inv (execSct n r i o isp rsp cb f gd s) := by
  refine h.gatherIssue fun c sl g l _ t k => ?_
  extract_lets org rc lost u list idx area
  have hu : u.Inv := .ite k k.comeBehind.comeBehind
  clear_value u lost
  split
  next id v e =>
    have hv : v.Inv := .of_snd e hu.launchCmd
    refine .foldl (.audFillLog (.audFill ?_)) fun _ _ m => m.foldl fun _ _ n => n.postAcc
    cases lost with
    | none => exact hv
    | some a => exact hv.noteFault

theorem State.Inv.endGather (h : s.Inv) {i x recA miss} : (s.endGather i x recA miss).Inv := h.localWrite.onCmd.finish

theorem State.Inv.execGatComplete (h : s.Inv) {cmd} : Out.Inv (execGatComplete cmd s) := by
  unfold Machine.execGatComplete
  split
  · split
    · exact .ite h (.endGather (.ite h.cmdFault (h.foldl (fun _ _ k => k.localWrite))))
    · exact h
  · exact h

theorem State.Inv.execSctComplete (h : s.Inv) {cmd} : Out.Inv (execSctComplete cmd s) := by
  unfold Machine.execSctComplete
  split
  · split
    · exact .ite h.endGather h
    · exact h
  · exact h

theorem State.Inv.execMatom (h : s.Inv) {d a b c op w64 gd} : Out.Inv (execMatom d a b c op w64 gd s) := by
  refine h.issueWith fun _ _ _ _ k => ?_
  dsimp only
  split
  · exact k
  · exact .progress (.foldl k.offAudit.launchCmd fun _ _ m => .ite m.noteFault m.sendAcc)

theorem State.Inv.execMatomReply (h : s.Inv) {cmd lane} : Out.Inv (execMatomReply cmd lane s) := by
  unfold Machine.execMatomReply
  split
  · split
    · split
      · exact h
      · dsimp only
        split
        · refine .finish (.onCmd ?_)
          exact .of_kept (h.foldl (fun _ _ k => k.giveResult)) rfl
        · refine .onCmd ?_
          exact .of_kept (h.foldl (fun _ _ k => k.giveResult)) rfl
    · exact h
  · exact h

theorem State.Inv.execMredAccept (h : s.Inv) {cmd} : Out.Inv (execMredAccept cmd s) := by
  unfold Machine.execMredAccept
  split
  · exact .ite h.finish h
  · exact h

/-! #### Machine/BankRun -/

theorem State.Inv.execBkrun (h : s.Inv) {a gd} : Out.Inv (execBkrun a gd s) := by
  refine h.issueWith fun c sl g t k => ?_
  split
  · exact k
  next l _ =>
    extract_lets o at0 d x n list slabs
    split
    next rid u e =>
      have hu : u.Inv := .of_snd e k.newId
      split
      next id v e' =>
        have hv : v.Inv := .of_snd e' hu.launchCmd
        extract_lets v' w accs w'
        have hw : w.Inv := State.Inv.foldl hv.audFill fun _ _ m => m.sendAcc
        refine .progress (.ite hw ?_)
        exact hw

theorem State.Inv.onRun (h : s.Inv) {i f} : (s.onRun i f).Inv := by
  unfold State.onRun
  split
  · exact h
  · exact h

theorem State.Inv.execBankRunPacket (h : s.Inv) {run stack} : Out.Inv (execBankRunPacket run stack s) := by
  unfold Machine.execBankRunPacket
  split
  · split
    · dsimp only
      split
      · exact h
      · split
        · exact h
        · exact h.onRun
        · exact .ite h (h.foldl (fun _ _ k => k.comeBehind)).setHbm.onRun
    · exact h
  · exact h

theorem State.Inv.execBankItemStart (h : s.Inv) {run pc item} : Out.Inv (execBankItemStart run pc item s) := by
  unfold Machine.execBankItemStart
  split
  · split
    · split
      · split
        · exact h
        · split
          · exact h
          · exact h.onRun
          · exact h.activate.onRun
      · exact h
    · exact h
  · exact h

theorem State.Inv.execBankRunComplete (h : s.Inv) {run} : Out.Inv (execBankRunComplete run s) := by
  unfold Machine.execBankRunComplete
  split
  · split
    · split
      · exact h
      · dsimp only
        split
        · exact h
        · refine .finish ?_
          exact .of_kept (.foldl (.ite (h.foldl (fun _ _ k => k.cmdFault)).cmdFault (h.foldl (fun _ _ k => k.cmdFault)))
            (fun _ _ k => k.localWrite)) rfl
    · exact h
  · exact h

/-! #### Machine/Phys -/

theorem State.Inv.lateFault (h : s.Inv) {q} : (s.lateFault q).Inv := by
  unfold State.lateFault
  dsimp only
  split
  · split
    · exact h.noteFault
    · split
      · split
        · exact h.setGroup
        · exact h
      · refine .engFault (.noteFault ?_)
        split
        · exact h.setGroup
        · exact h
  · split
    · split
      · exact h.setGroup
      · exact h
    · refine .engFault ?_
      split
      · refine .setGroup ?_
        exact h
      · exact h

theorem State.Inv.applyOne (h : s.Inv) {q} : (s.applyOne q).Inv := .ite h.applyPacket h.applyPacket.lateFault

theorem State.Inv.execQueueApply (h : s.Inv) {u} : Out.Inv (execQueueApply u s) := by
  unfold Machine.execQueueApply
  split
  · exact .ite h h.applyOne
  · exact h

theorem State.Inv.execRemoteWriteAck (h : s.Inv) {seq} : Out.Inv (execRemoteWriteAck seq s) := by
  unfold Machine.execRemoteWriteAck
  split
  · exact .ite h.applyOne.pruneReports h
  · exact h

theorem State.Inv.drainStack (h : s.Inv) {st} : (s.drainStack st).Inv := h.foldl fun _ _ k => k.applyOne

theorem State.Inv.failSent (h : s.Inv) {at' aux} : (s.failSent at' aux).Inv := by
  unfold State.failSent
  refine h.foldl fun _ _ k => ?_
  split
  · exact .ite k.failAccess k
  · exact k

theorem State.Inv.failWalks (h : s.Inv) {at' aux} : (s.failWalks at' aux).Inv := by
  unfold State.failWalks
  refine h.foldl (fun _ _ k => k.foldl (fun _ _ m => ?_))
  split
  · exact .ite m.walkError m
  · exact m

theorem State.Inv.failUnstarted (h : s.Inv) {st} : (s.failUnstarted st).Inv := h

theorem State.Inv.isolate (h : s.Inv) {st} : (s.isolate st).Inv := h.drainStack.setHbm.failSent.failWalks.failUnstarted

theorem State.Inv.startStack (h : s.Inv) {st} : (s.startStack st).Inv := .ite h (.ite h.setHbm h.setHbm)

theorem State.Inv.execTrainingComplete (h : s.Inv) {stack fail} : Out.Inv (execTrainingComplete stack fail s) := by
  unfold Machine.execTrainingComplete
  dsimp only
  split
  · exact h
  · split
    · exact h.setHbm
    · exact .ite h.setHbm h

theorem State.Inv.unisolate (h : s.Inv) {st} : (s.unisolate st).Inv := .ite h h.setHbm

theorem State.Inv.clearErr (h : s.Inv) {st} : (s.clearErr st).Inv := h.setHbm

theorem State.Inv.loseBlocks (h : s.Inv) : s.loseBlocks.Inv :=
  .intro h.mem_wf h.sp_wf h.flash_wf h.sram_wf (tsortedFrom_filter _ h.cmds_rising)

theorem State.Inv.execThermalTrip (h : s.Inv) {die} : Out.Inv (execThermalTrip die s) := by
  unfold Machine.execThermalTrip
  split
  · exact h
  · exact h.loseBlocks.of_kept rfl

theorem State.Inv.execRailPowerGood (h : s.Inv) : Out.Inv (execRailPowerGood s) := by
  unfold Machine.execRailPowerGood
  dsimp only
  split
  · exact h
  · split
    · exact h
    · split
      · exact h
      · exact h

theorem State.Inv.execRailStepTimeout (h : s.Inv) : Out.Inv (execRailStepTimeout s) := by
  unfold Machine.execRailStepTimeout
  dsimp only
  split
  · exact h
  · exact h

theorem State.Inv.setPort (h : s.Inv) {p x} : (s.setPort p x).Inv := h

theorem State.Inv.execFlitCrcError (h : s.Inv) {link} : Out.Inv (execFlitCrcError link s) := by
  unfold Machine.execFlitCrcError
  dsimp only
  split
  · exact h
  · exact h

theorem State.Inv.loseSent (h : s.Inv) {x} : (s.loseSent x).Inv := by
  unfold State.loseSent
  refine .pruneReports (.loseOn ?_)
  exact h

theorem State.Inv.failLink (h : s.Inv) {l} : (s.failLink l).Inv := by
  unfold State.failLink
  refine .foldl (.foldl (h.foldl (fun _ _ k => ?_)) (fun _ _ k => k.foldl (fun _ _ m => ?_))) fun _ _ k => k.loseSent
  · split
    · exact .ite k.failAccess k
    · exact k
  · split
    · exact .ite m.walkError m
    · exact m

theorem State.Inv.execDieLinkRetrainEnd (h : s.Inv) {link ok} : Out.Inv (execDieLinkRetrainEnd link ok s) := by
  unfold Machine.execDieLinkRetrainEnd
  dsimp only
  split
  · exact h
  · split
    · exact h
    · refine .failLink ?_
      exact h

theorem State.Inv.execCxlLinkDown (h : s.Inv) {port} : Out.Inv (execCxlLinkDown port s) := by
  unfold Machine.execCxlLinkDown
  split
  · exact h
  · refine .failWalks (.failSent ?_)
    exact h

theorem State.Inv.setTrainsel (h : s.Inv) {st v} : (s.setTrainsel st v).Inv := .ite h h.setHbm

theorem State.Inv.ctlWrite (h : s.Inv) {off v} : (ctlWrite s off v).Inv := by
  unfold Machine.ctlWrite
  split
  · exact h
  · split
    · exact .ite (.ite (.startStack (.ite (.ite h h.isolate) h.unisolate)) (.ite (.ite h h.isolate) h.unisolate))
        (.ite h.setTrainsel (.ite h.clearErr h))
    · exact .ite h.setPort h
    · exact h

theorem State.Inv.ackWrite (h : s.Inv) {p n v} : (s.ackWrite p n v).Inv := .ite h h.setPolder

theorem State.Inv.lockFeatures (h : s.Inv) {p} : (s.lockFeatures p).Inv := .ite h h.setPolder

theorem State.Inv.notifyWrite (h : s.Inv) {p q} : (s.notifyWrite p q).Inv := .ite h h.notify

theorem State.Inv.pageWrite (h : s.Inv) {p off v} : (pageWrite s p off v).Inv := .ite h.ackWrite (.ite h.notifyWrite h)

theorem State.Inv.plainWrite (h : s.Inv) {r v} : (s.plainWrite r v).Inv := by
  unfold State.plainWrite
  dsimp only
  split
  · exact .ite h.setPort h
  · exact .ite h.setPort h
  · exact .ite h.setPort h
  · exact h.setTrainsel
  · exact .ite h.setPolder h
  · exact .ite h.setPolder h
  · exact .ite h.setPolder h
  · exact .ite h.setPolder h
  · exact .ite h.setPolder h
  · exact .ite h.setPolder h
  · exact .ite h.setPolder h
  · exact .ite h.setPolder h
  · exact .ite h.setPolder h
  · exact .ite h.setPolder h
  · exact h.pageWrite

/-! #### Machine/Pred -/

theorem State.Inv.startPred (h : s.Inv) {c} : (s.startPred c).Inv := by
  unfold State.startPred
  split
  · exact .ite h.onCmd.sendReads h
  · exact h

theorem State.Inv.predIssue (h : s.Inv) {i r x o gd mk} : Out.Inv (predIssue i r x o gd mk s) := by
  unfold Machine.predIssue
  refine h.issueWith fun _ _ _ _ k => ?_
  split
  · exact k
  · exact k.launchCmd.startPred.progress

theorem State.Inv.checkPred (h : s.Inv) {c p r} : (s.checkPred c p r).2.Inv := by
  unfold State.checkPred
  dsimp only
  split
  · exact h
  · split
    · exact h.setCore
    · exact h

theorem State.Inv.predRecord (h : s.Inv) {i x r} : (s.predRecord i x r).Inv := by
  unfold State.predRecord
  split
  · split
    next _ _ t e =>
      have k : t.Inv := .of_snd e h.checkPred
      dsimp only
      split
      · exact k.dropAccs.onCmd.cmdFault
      · split
        · exact k.dropAccs.onCmd.cmdFault
        · split
          · split
            · exact k.dropAccs.onCmd.cmdFault
            · split
              · exact k.dropAccs.onCmd.cmdFault
              · split
                · exact k.dropAccs.onCmd.onCmd
                · exact k.dropAccs.onCmd.onCmd
          · split
            · exact k.dropAccs.onCmd.cmdFault
            · split
              · exact k.dropAccs.onCmd.cmdFault
              · split
                · exact k.dropAccs.onCmd.onCmd
                · exact k.dropAccs.onCmd.onCmd

theorem State.Inv.pchkPlan (h : s.Inv) {i} : (s.pchkPlan i).Inv := by
  unfold State.pchkPlan
  split
  · split
    · exact h
    · dsimp only
      split
      · exact h.onCmd.cmdFault
      · exact h.onCmd.onCmd
  · exact h

theorem State.Inv.predEffect (h : s.Inv) {o i op r} : (s.predEffect o i op r).Inv := h.audFill

theorem State.Inv.areaWrite (h : s.Inv) {i x ws} : (s.areaWrite i x ws).Inv :=
  h.predEffect.audRecord.foldl fun _ _ k => k.localWrite

theorem State.Inv.writePred (h : s.Inv) {i x} : (s.writePred i x).Inv := h.areaWrite.setPolder

theorem State.Inv.writePchk (h : s.Inv) {i x} : (s.writePchk i x).Inv := .ite h.cmdFault h.areaWrite.setPolder

theorem State.Inv.execPredComplete (h : s.Inv) {cmd} : Out.Inv (execPredComplete cmd s) := by
  unfold Machine.execPredComplete
  dsimp only
  split
  · split
    · exact h.pchkPlan
    · split
      · exact h.pchkPlan.finish.startPred
      · split
        · exact h.pchkPlan
        · refine .startPred (.finish ?_)
          split
          · exact h.pchkPlan.writePred
          · exact h.pchkPlan.writePchk
  · exact h.pchkPlan

/-! #### Machine/Packets -/

theorem State.Inv.packet (h : s.Inv) {i kind} {serve : Access → Nat → State → State} (hserve : ∀ a pa s, s.Inv →
    (serve a pa s).Inv) : Out.Inv (packet i kind serve s) := by
  unfold Machine.packet
  dsimp only
  split
  · split
    · split
      · exact h.retry
      · exact h.retry.failAccess
      · exact hserve _ _ _ h.retry
    · exact h.retry
  · exact h.retry

theorem State.Inv.serve (h : s.Inv) {i data bad} : (s.serve i data bad).Inv := h.onAcc

theorem State.Inv.packetRecord (h : s.Inv) {i x r} : (s.packetRecord i x r).Inv := by
  unfold State.packetRecord
  split
  · exact .ite h.dropAccs.onCmd.sendReads (.onCmd (.dropAccs
      (.ite h.checkLayout.checkLayout.lockFeatures h.checkLayout.checkLayout)))
  · exact h

theorem State.Inv.packetLine (h : s.Inv) {i x a} : (s.packetLine i x a).Inv := by
  unfold State.packetLine
  split
  · exact h.foldl (fun _ _ k => k.foldl (fun _ _ m => m.postAcc))
  · exact h

theorem State.Inv.acceptOpen (h : s.Inv) {org cmd lane va pa op} : (s.acceptOpen org cmd lane va pa op).Inv := by
  unfold State.acceptOpen
  split
  · exact .ite (h.foldl (fun _ _ k => k.accept)) h.accept
  · exact .ite h h.accept

theorem State.Inv.readServed (h : s.Inv) {i bytes good} : (s.readServed i bytes good).Inv := by
  unfold State.readServed
  split
  · split
    · split
      · exact .ite h.copyRecord h
      · exact .ite h.predRecord h
      · exact .ite h.predRecord h
      · exact .ite h.packetRecord h
      · exact .ite h.packetRecord h
      · exact h.packetLine
      · exact h
    · exact h
  · exact h

theorem State.Inv.execReadPacket (h : s.Inv) {acc} : Out.Inv (execReadPacket acc s) := by
  unfold Machine.execReadPacket
  refine h.packet fun _ _ _ k => ?_
  split
  · exact k.failAccess
  · refine .readServed ?_
    split
    · exact (k.foldl (fun _ _ m => m.openRow.checkBlock)).serve.noteFault
    · exact (k.foldl (fun _ _ m => m.openRow.checkBlock)).serve

theorem State.Inv.regFault (h : s.Inv) {i a} : (s.regFault i a).Inv := h.failAccess

theorem State.Inv.regAtomic (h : s.Inv) {i a op w64 b rd} {wr : Word → State} (hwr : ∀ v, (wr v).Inv) :
    (s.regAtomic i a op w64 b rd wr).Inv := by
  unfold State.regAtomic
  split
  · exact h.regFault
  · split
    · exact h.regFault
    · dsimp only
      split
      · exact .serve (.ite h (hwr _))
      · exact (hwr _).serve
      · exact h.regFault

theorem State.Inv.memAtomic (h : s.Inv) {i a pa op w64 b c} : (s.memAtomic i a pa op w64 b c).Inv :=
  .ite h.readPa.serve.noteFault h.readPa.acceptOpen.serve

theorem State.Inv.execAtomicPacket (h : s.Inv) {acc} : Out.Inv (execAtomicPacket acc s) := by
  unfold Machine.execAtomicPacket
  refine h.packet fun _ _ _ k => ?_
  split
  · split
    · exact k.regAtomic fun _ => k.ctlWrite
    · exact k.regAtomic fun _ => k.pageWrite
    · exact .ite k k.memAtomic
  · exact k

theorem State.Inv.execWeirChunk (h : s.Inv) {cmd} : Out.Inv (execWeirChunk cmd s) := by
  unfold Machine.execWeirChunk
  dsimp only
  split
  · split
    · exact h.pchkPlan
    · split
      · exact h.pchkPlan
      · split
        · exact h.pchkPlan
        next t e =>
          have ht : t.Inv := OptInv.of_eq e h.pchkPlan.weirTake
          exact ht.onCmd.foldl fun _ _ k => k.copyPiece
  · exact h.pchkPlan

/-! #### Machine/Queue -/

theorem State.Inv.qRange (h : s.Inv) {c sl va len write} {bad : FaultAt → State → State} {ok : State → State}
    (hbad : ∀ f s, s.Inv → (bad f s).Inv) (hok : ∀ s, s.Inv → (ok s).Inv) : (s.qRange c sl va len write bad ok).Inv := by
  unfold State.qRange
  dsimp only
  split
  · split
    · exact hbad _ _ h
    · exact .ite h (.ite (hbad _ _ h) (hok _ (.ite h h.touch)))
  · split
    · split
      · refine hbad _ _ ?_
        exact h
      · exact h
      · exact h.retry
    · exact h.newAcc

theorem State.Inv.logReeve (h : s.Inv) {c f} : (s.logReeve c f).Inv := h.logBytes

theorem State.Inv.setDesc (h : s.Inv) {c x off v} : (s.setDesc c x off v).Inv := by
  unfold State.setDesc
  split
  · exact h.writePa
  · exact h

theorem State.Inv.onSlot (h : s.Inv) {sl f} : (s.onSlot sl f).Inv := by
  unfold State.onSlot
  split
  · exact h
  · exact h

theorem State.Inv.stopQueue (h : s.Inv) {c sl x} : (s.stopQueue c sl x).Inv := h.setDesc.onSlot.setSstate.of_kept rfl

theorem State.Inv.onQueue (h : s.Inv) {p q f} : (s.onQueue p q f).Inv := by
  unfold State.onQueue
  split
  · exact h.setPolder
  · exact h

theorem State.Inv.killSlot (h : s.Inv) {c sl x f} : (s.killSlot c sl x f).Inv := h.logReeve.setSstate.onQueue.onSlot.of_kept rfl

theorem State.Inv.withDesc (h : s.Inv) {c sl x} {bad : State → State} {k : List Byte → State → State} (hbad : ∀ s, s.Inv →
    (bad s).Inv) (hk : ∀ bs s, s.Inv → (k bs s).Inv) : (s.withDesc c sl x bad k).Inv :=
  h.qRange (fun _ _ m => hbad _ m.killSlot) (fun _ m => m.qRange (fun _ _ n => hbad _ n.killSlot) (fun _ n => hk _ _ n))

theorem State.Inv.withPacket (h : s.Inv) {c sl desc i} {bad : State → State} {k : List Byte → State → State}
    (hbad : ∀ s, s.Inv → (bad s).Inv) (hk : ∀ bs s, s.Inv → (k bs s).Inv) : (s.withPacket c sl desc i bad k).Inv :=
  h.qRange (fun _ _ m => hbad _ m.logReeve) fun _ m => hk _ _ m

theorem State.Inv.makeReady (h : s.Inv) {sl cls} : (s.makeReady sl cls).Inv := h.setBoard.setSstate

theorem State.Inv.tick (h : s.Inv) : s.tick.Inv := h.setBoard.setBoard

theorem State.Inv.headTo (h : s.Inv) {c sl x desc next skip} {fin : State → State} (hfin : ∀ s, s.Inv → (fin s).Inv) :
    (s.headTo c sl x desc next skip fin).Inv :=
  .ite (hfin _ h).onSlot.setDesc.setSstate.tick (.ite (hfin _ h).onSlot.setDesc.stopQueue.tick (h.withPacket (fun _ k =>
    (hfin _ k).onSlot.setDesc.stopQueue.tick) (fun _ _ k => (hfin _ k).onSlot.setDesc.makeReady.tick)))

theorem State.Inv.complete (h : s.Inv) {c sl x desc} {fin : State → State} (hfin : ∀ s, s.Inv → (fin s).Inv) :
    (s.complete c sl x desc fin).Inv :=
  h.headTo fun _ k => hfin _ k

theorem State.Inv.withWord (h : s.Inv) {c p r} {bad : State → State} {ok : State → State} (hbad : ∀ s, s.Inv → (bad s).Inv)
    (hok : ∀ s, s.Inv → (ok s).Inv) : (s.withWord c p r bad ok).Inv := by
  unfold State.withWord
  split
  · exact h
  · exact hbad _ h.logReeve
  · exact hok _ h

theorem State.Inv.acquireAll (h : s.Inv) {p} : (s.acquireAll p).Inv := h

theorem State.Inv.endWait (h : s.Inv) {x} : (s.endWait x).Inv := h.onQueue.of_kept rfl

theorem State.Inv.testWait (h : s.Inv) {c sl x desc r} {pre : State → State} (hpre : ∀ s, s.Inv → (pre s).Inv) :
    (s.testWait c sl x desc r pre).Inv := by
  unfold State.testWait
  split
  · exact h.complete (fun _ k => (hpre _ k).endWait.acquireAll.setDesc)
  · split
    · exact .ite (h.complete (fun _ k => (hpre _ k).endWait.setDesc)) (hpre _ h).setSstate.tick
    · exact (hpre _ h).setSstate.tick

theorem State.Inv.clearBell (h : s.Inv) {sl} : (s.clearBell sl).Inv := h.setBoard

theorem State.Inv.takeNote (h : s.Inv) {c x} : (s.takeNote c x).Inv := h.setDesc.onQueue

theorem State.Inv.idleTest (h : s.Inv) {c sl x desc} : (s.idleTest c sl x desc).Inv :=
  .ite h.takeNote.clearBell (.ite h.takeNote.clearBell.stopQueue (h.withPacket (fun _ k => k.takeNote.clearBell.stopQueue)
    (fun _ _ k => k.takeNote.clearBell.makeReady)))

theorem State.Inv.serveBell (h : s.Inv) {c sl} : (s.serveBell c sl).Inv := by
  unfold State.serveBell
  split
  · exact h.clearBell
  · exact .ite h.clearBell (h.withDesc (fun _ k => k.clearBell) (fun _ _ k => .ite k.clearBell (.ite k.idleTest (.ite
      (k.withPacket (fun _ m => m.takeNote.clearBell.stopQueue) (fun _ _ m => .ite (m.testWait
        (fun _ n => n.takeNote.clearBell)) (m.withWord (fun _ n => n.takeNote.clearBell.stopQueue) (fun _ n => n.testWait
          (fun _ p => p.takeNote.clearBell))))) k.clearBell))))

theorem State.Inv.serveBells (h : s.Inv) {c} : (s.serveBells c).Inv := h.foldl fun _ _ k => k.serveBell

theorem State.Inv.clearHead (h : s.Inv) : s.clearHead.Inv := h.setBoard.foldl fun _ _ k => k.setBoard

theorem State.Inv.tidyHead (h : s.Inv) : s.tidyHead.Inv := .ite h.clearHead h

theorem State.Inv.queueStep
    (h : s.Inv) {c sl kind} {begins : HwSlot → List Byte → List Byte → State → State} {goesOn : HwSlot → List Byte → List Byte
      → State → State} (hbegins : ∀ x desc r s, s.Inv → (begins x desc r s).Inv) (hgoesOn : ∀ x desc r s, s.Inv →
        (goesOn x desc r s).Inv) : Out.Inv (queueStep c sl kind begins goesOn s) := by
  unfold Machine.queueStep
  split
  · exact h
  · dsimp only
    split
    · exact h.serveBells
    · split
      · exact h.serveBells.tidyHead
      · exact .ite h.serveBells.tidyHead (h.serveBells.tidyHead.withDesc (fun _ k => k.tick)
          (fun _ _ k => .ite k.setSstate.tick (.ite k.stopQueue.tick (k.withPacket (fun _ m => m.stopQueue.tick)
            (fun _ _ m => .ite (.ite (hgoesOn _ _ _ _ m) m) (.ite m.stopQueue.tick (.ite (hbegins _ _ _ _ m) m)))))))

theorem State.Inv.idleOn (h : s.Inv) {n0 n1 n2} : (idleOn n0 n1 n2 s).Inv := h

theorem State.Inv.summary (h : s.Inv) {sl l} : (s.summary sl l).Inv := h.spBytes

theorem State.Inv.admitLaunch (h : s.Inv) {sl x l} : (s.admitLaunch sl x l).Inv :=
  h.lockFeatures.setPolder.onSlot.setBoard.summary.setSstate.tick

theorem State.Inv.execLaunch (h : s.Inv) {slot core} : Out.Inv (execLaunch slot core s) := by
  refine h.queueStep (fun x _ _ t k => ?_) fun x _ _ t k => ?_
  · exact .ite k.stopQueue.tick (k.qRange (fun _ _ m => m.logReeve.stopQueue.tick) fun _ m => m.admitLaunch)
  · split
    · exact .ite (k.complete fun _ m => m) k
    · exact k

theorem State.Inv.withImages (h : s.Inv) {c sl p} {bad : State → State} {ok : List Nat → State → State} {ids vas}
    (hbad : ∀ s, s.Inv → (bad s).Inv) (hok : ∀ ids s, s.Inv → (ok ids s).Inv) : (s.withImages c sl p bad ok ids vas).Inv := by
  induction vas generalizing s ids with
  | nil => exact hok _ _ h
  | cons va r ih =>
    refine h.qRange (fun _ _ k => hbad _ k.logReeve) fun t k => ?_
    refine .ite (hbad _ k) (k.qRange (fun _ _ m => hbad _ m.logReeve) fun u m => ?_)
    exact .ite (hbad _ m) (ih m)

theorem State.Inv.execResume (h : s.Inv) {slot core} : Out.Inv (execResume slot core s) := by
  refine h.queueStep (fun x _ _ t k => ?_) fun x _ _ t k => .ite (k.complete fun _ m => m) k
  refine .ite k.stopQueue.tick (k.qRange (fun _ _ m => m.logReeve.stopQueue.tick) fun _ m => ?_)
  exact m.withImages (fun _ n => n.stopQueue.tick) fun _ _ n => n.lockFeatures.onSlot.setSstate.tick

theorem State.Inv.withArms (h : s.Inv) {c sl desc} {bad ok : State → State} {n i}
    (hbad : ∀ s, s.Inv → (bad s).Inv) (hok : ∀ s, s.Inv → (ok s).Inv) : (s.withArms c sl desc bad ok n i).Inv := by
  induction n generalizing s i with
  | zero => exact hok _ h
  | succ n ih => exact h.withPacket hbad fun _ _ k => .ite (hbad _ k) (ih k)

theorem State.Inv.execPredicate (h : s.Inv) {slot core} : Out.Inv (execPredicate slot core s) := by
  refine h.queueStep (fun x _ _ t k => ?_) fun _ _ _ _ k => k.idleOn
  refine .ite k.stopQueue.tick (k.withArms (fun _ m => m.stopQueue.tick) fun _ m => ?_)
  refine m.withWord (fun _ n => n.stopQueue.tick) fun _ n => .ite (.ite ?_ (n.headTo fun _ q => q)) (n.headTo fun _ q => q)
  split
  · exact n.headTo fun _ q => q
  · exact n.headTo fun _ q => q

theorem State.Inv.watchWord (h : s.Inv) {x r} : (s.watchWord x r).Inv := by
  unfold State.watchWord
  split
  · exact h
  · exact h

theorem State.Inv.execWaitPacketTimeout (h : s.Inv) {slot} : Out.Inv (execWaitPacketTimeout slot s) := by
  unfold Machine.execWaitPacketTimeout
  split
  · split
    · split
      · split
        next _ _ t e =>
          have k : t.Inv := .of_snd e h.ringBell.fresh
          split
          · exact k.serveBell
          · exact k
      · exact h
    · exact h
  · exact h

theorem State.Inv.signalWord (h : s.Inv) {p r} : (s.signalWord p r).Inv := h.spBytes

theorem State.Inv.trySignal (h : s.Inv) {c sl x desc r} : (s.trySignal c sl x desc r).Inv :=
  .ite (h.withWord (fun _ k => k.stopQueue.tick) (fun _ k => k.complete (fun _ m => m.signalWord))) h.setSstate

theorem State.Inv.startCopy (h : s.Inv) {core sl x r} : (s.startCopy core sl x r).Inv := by
  refine .tick (.setSstate (.sendReads (.onSlot ?_)))
  exact .intro h.mem_wf h.sp_wf h.flash_wf h.sram_wf (h.tput_cmds _ (Nat.le_add_left ..))

theorem State.Inv.execCopy (h : s.Inv) {slot core} : Out.Inv (execCopy slot core s) := by
  unfold Machine.execCopy
  refine h.queueStep (fun _ _ _ _ k => .ite k.stopQueue.tick k.startCopy) fun _ _ _ _ k => ?_
  split
  · split
    · exact .ite k.finish.stopQueue.tick (.ite (k.complete (fun _ m => m.finish)) k)
    · exact k.complete fun _ m => m
  · exact k

theorem State.Inv.execWatchReportArrival (h : s.Inv) {p q v} : Out.Inv (execWatchReportArrival p q v s) := by
  unfold Machine.execWatchReportArrival
  split
  · exact h.onQueue.notify
  · exact h

theorem State.Inv.keepDigest (h : s.Inv) {x} : (s.keepDigest x).Inv := by
  unfold State.keepDigest
  split
  · exact h.writePa.of_kept rfl
  · exact h

theorem State.Inv.countRetired (h : s.Inv) {l} : (s.countRetired l).Inv := by
  unfold State.countRetired
  split
  · exact h.onSlot
  · exact h

theorem State.Inv.endAborted (h : s.Inv) {c l} : (s.endAborted c l).Inv := by
  unfold State.endAborted
  split
  · dsimp only
    split
    · exact (h.setPolder.foldl (fun _ _ k => k.popImage)).stopQueue
    · exact h.setPolder.foldl fun _ _ k => k.popImage
  · exact h

theorem State.Inv.dropBlock (h : s.Inv) {c b x} : (s.dropBlock c b x).Inv := by
  unfold State.dropBlock
  refine .freeBlock (h.audCancel.foldl (fun _ _ k => ?_))
  split
  · split
    · exact k.dropFetch
    · exact k
  · exact k

theorem State.Inv.discardBlock (h : s.Inv) {c b x} : (s.discardBlock c b x).Inv := h.dropBlock.endAborted

theorem State.Inv.dropRun (h : s.Inv) {c b x} : (s.dropRun c b x).Inv := by
  unfold State.dropRun
  extract_lets k t
  have ht : t.Inv := h.setCore
  clear_value t
  have hd : (t.dropBlock c b x).Inv := ht.dropBlock
  exact .intro hd.mem_wf hd.sp_wf hd.flash_wf hd.sram_wf (tsortedFrom_filter _ hd.cmds_rising)

theorem State.Inv.abandonRun (h : s.Inv) {c b} : (s.abandonRun c b).Inv := by
  unfold State.abandonRun
  split
  · refine .dropRun ?_
    split
    · exact h
    · exact h
  · exact h

theorem State.Inv.abandonOn (h : s.Inv) {cs p} : (s.abandonOn cs p).Inv :=
  h.foldl (fun _ _ k => k.foldl (fun _ _ m => m.abandonRun))

theorem State.Inv.keepRun (h : s.Inv) {i c d} : (s.keepRun i c d).Inv := by
  unfold State.keepRun
  split
  · exact h
  · exact h

theorem State.Inv.rerunEnd (h : s.Inv) {c b x} : (s.rerunEnd c b x).Inv := by
  unfold State.rerunEnd
  split
  · exact .ite h.dropRun.keepRun (.ite h.dropRun.keepRun h)
  · exact h.dropRun

theorem State.Inv.execBlockRetire (h : s.Inv) {core bslot} : Out.Inv (execBlockRetire core bslot s) := by
  unfold Machine.execBlockRetire
  split
  · exact .ite h.rerunEnd (.ite h (.ite (.ite h.discardBlock h) (.ite h (.ite h.discardBlock (.countRetired (.freeBlock
      (.keepDigest (.ite h.setPolder h))))))))
  · exact h

/-! #### Machine/Service -/

theorem State.Inv.reply (h : s.Inv) {p code status data} : (s.reply p code status data).Inv := h

theorem State.Inv.dropJob (h : s.Inv) : s.dropJob.Inv := h

theorem State.Inv.ordered (h : s.Inv) {p i} {f : Polder → State → Option State}
    (hf : ∀ x s, s.Inv → OptInv (f x s)) : Out.Inv (ordered p i f s) := by
  have hn := hf (s.polder p) s h
  unfold Machine.ordered
  dsimp only
  split
  · exact h.dropJob
  · split
    · split
      next t e =>
        have ht : t.Inv := OptInv.of_eq e hn
        exact .ite ht.setPolder ht
      next => exact h
    · split
      · exact h
      · cases e : f (s.polder p) s with
        | none => exact h
        | some t => exact OptInv.of_eq e hn

theorem State.Inv.request (h : s.Inv) {p i} {f : Polder → State → State} (hf : ∀ y s, s.Inv → (f y s).Inv) :
    Out.Inv (request p i f s) :=
  h.ordered fun _ _ k => hf _ _ k

theorem State.Inv.setPmask (h : s.Inv) {p cores on} : (s.setPmask p cores on).Inv := h.foldl fun _ _ k => k.setBoard

theorem State.Inv.restartQueue (h : s.Inv) {p q x} : (s.restartQueue p q x).Inv := by
  unfold State.restartQueue
  extract_lets tail st t u w
  have hw : w.Inv := State.Inv.onQueue (.writePa h.writePa)
  clear_value w
  split
  · exact hw.onSlot.setSstate
  · exact hw

theorem State.Inv.execQueueReq (h : s.Inv) {p q entries maxprio desc ring} :
    Out.Inv (execQueueReq p q entries maxprio desc ring s) := by
  unfold Machine.execQueueReq
  refine h.ordered fun _ _ k => ?_
  split
  · exact k.reply
  · split
    · split
      · exact trivial
      · exact k.reply
      · exact .ite k.restartQueue.reply k.reply
    · dsimp only
      split
      · exact k.reply
      · split
        · exact k.reply
        · split
          · exact trivial
          · refine .reply ?_
            exact k.setPolder.writePa.of_kept rfl

theorem State.Inv.placeImage (h : s.Inv) {p i} : (s.placeImage p i).Inv := by
  unfold State.placeImage
  dsimp only
  split
  · split
    · exact h.acceptOpen
    · exact h
  · exact h.spBytes

theorem State.Inv.execLoadReq (h : s.Inv) {p imgs} : Out.Inv (execLoadReq p imgs s) := by
  unfold Machine.execLoadReq
  refine h.ordered fun _ _ k => ?_
  split
  · exact k.reply
  · split
    · exact k.reply
    · split
      · exact k.reply
      · split
        · exact trivial
        · exact (k.foldl (fun _ _ m => m.placeImage)).setPolder.reply

theorem State.Inv.execWatchReq (h : s.Inv) {p word peer q} : Out.Inv (execWatchReq p word peer q s) := by
  unfold Machine.execWatchReq
  refine h.ordered fun _ _ k => ?_
  split
  · exact k.reply
  · split
    · exact trivial
    · exact k.reply
    · exact k.reply
    · refine .reply ?_
      exact k

theorem State.Inv.execUnwatchReq (h : s.Inv) {p handle} : Out.Inv (execUnwatchReq p handle s) := by
  unfold Machine.execUnwatchReq
  refine h.request fun _ _ k => ?_
  split
  · split
    · refine .reply ?_
      exact k
    · exact k.reply
  · exact k.reply

theorem State.Inv.unmapQuiet (h : s.Inv) {p} : (s.unmapQuiet p).Inv :=
  .ite h (h.foldl (fun _ _ k => .ite k.endWait.unmapSlot.tick k))

theorem State.Inv.destroy (h : s.Inv) {p} : (s.destroy p).Inv := by
  unfold State.destroy
  refine .reply ?_
  exact (h.abandonOn.foldl (fun _ _ k => k.invalidate.setDie)).setPmask.of_kept rfl

theorem State.Inv.closeOn (h : s.Inv) {p} : (s.closeOn p).Inv := .ite h.unmapQuiet.destroy h.unmapQuiet

theorem State.Inv.abortBlock (h : s.Inv) {c b} : (s.abortBlock c b).Inv := by
  unfold State.abortBlock
  split
  · exact .ite h h.setBlock.failHeld
  · exact h

theorem State.Inv.abortAll (h : s.Inv) {p} : (s.abortAll p).Inv :=
  (h.foldl (fun _ _ k => k.abortBlock)).setPolder.foldl (fun _ _ k => .ite k (.ite k.onSlot k.onSlot.setSstate))

theorem State.Inv.execCloseGraceExpire (h : s.Inv) {p} : Out.Inv (execCloseGraceExpire p s) := by
  unfold Machine.execCloseGraceExpire
  split
  · exact .ite h.abortAll.closeOn h.closeOn
  · exact h.closeOn
  · exact h

theorem State.Inv.execInvalReq (h : s.Inv) {p page} : Out.Inv (execInvalReq p page s) := by
  unfold Machine.execInvalReq
  refine h.request fun _ _ k => ?_
  split
  · split
    · exact k.reply
    · exact .of_kept (k.foldl (fun _ _ m => m.invalidate)) rfl
  · split
    · exact k.reply
    · exact .of_kept (k.foldl (fun _ _ m => m.invalidate)) rfl

theorem State.Inv.rmaError (h : s.Inv) {p k} : (s.rmaError p k).Inv := h.reply

theorem State.Inv.rmaAt (h : s.Inv) {p k a} {ok : State} (hok : ok.Inv) : OptInv (s.rmaAt p k a ok) := by
  unfold State.rmaAt
  split
  · exact trivial
  · exact h.rmaError
  · exact hok

theorem State.Inv.execRmaRead (h : s.Inv) {p r addr len} : Out.Inv (execRmaRead p r addr len s) := by
  unfold Machine.execRmaRead
  refine h.ordered fun _ _ k => ?_
  split
  · split
    · exact k.rmaError
    · exact k.reply
  · split
    · exact k.rmaAt (.ite k.readPa.reply k.readPa.rmaError)
    · exact k.rmaError
  · split
    · exact k.rmaError
    · exact k.rmaAt k.reply

theorem State.Inv.execRmaWrite (h : s.Inv) {p r addr bytes} : Out.Inv (execRmaWrite p r addr bytes s) := by
  unfold Machine.execRmaWrite
  refine h.ordered fun _ _ k => ?_
  split
  · split
    · exact k.rmaError
    · exact k.pageWrite.reply
  · split
    · exact k.rmaAt k.acceptOpen.reply
    · exact k.rmaError
  · split
    · exact k.rmaError
    · exact k.rmaAt k.spBytes.reply

theorem State.Inv.execRmaAtomic (h : s.Inv) {p r addr op w64 b c} : Out.Inv (execRmaAtomic p r addr op w64 b c s) := by
  unfold Machine.execRmaAtomic
  refine h.ordered fun _ _ k => ?_
  dsimp only
  split
  · split
    · split
      · exact k.rmaError
      · exact k.rmaAt (.ite k.readPa.rmaError k.readPa.acceptOpen.reply)
    · split
      · exact k.rmaError
      · exact k.rmaAt (.ite k.readPa.rmaError k.readPa.acceptOpen.reply)
  · exact k.rmaError

/-! #### Machine/Units -/

theorem State.Inv.freeResv (h : s.Inv) {cs} : (s.freeResv cs).Inv := h.foldl fun _ _ k => k.setBoard

theorem State.Inv.passNext (h : s.Inv) {l idx} : (s.passNext l idx).Inv := by
  unfold State.passNext
  split
  · exact .ite h.setBoard h
  · exact h

theorem State.Inv.endUnit (h : s.Inv) {u} : (s.endUnit u).Inv := by
  unfold State.endUnit
  refine .setBoard ?_
  exact h

theorem State.Inv.setUnit (h : s.Inv) {u} : (s.setUnit u).Inv := h

theorem State.Inv.passPlaced (h : s.Inv) {u} : (s.passPlaced u).Inv := by
  unfold State.passPlaced
  refine h.foldl fun _ _ k => ?_
  split
  · exact k.passNext
  · exact k

theorem State.Inv.beginVictims (h : s.Inv) {u bs} : (s.beginVictims u bs).Inv := (h.foldl (fun _ _ k => k.beginStop)).setUnit

theorem State.Inv.backfill (h : s.Inv) {u x} : (s.backfill u x).Inv := by
  unfold State.backfill
  dsimp only
  split
  · exact h.setBoard.fresh.setUnit
  · exact h.setBoard.fresh.endUnit

theorem State.Inv.exhausted (h : s.Inv) {u x} : (s.exhausted u x).Inv := by
  unfold State.exhausted
  split
  · split
    · exact h.beginVictims
    · refine .backfill ?_
      split
      · exact h
      · exact h
  · exact h.endUnit

theorem State.Inv.listStep (h : s.Inv) {u x} : (s.listStep u x).Inv := by
  unfold State.listStep
  dsimp only
  split
  · exact h.setUnit
  · exact h.exhausted

theorem State.Inv.casStep (h : s.Inv) {u} : (s.casStep u).Inv := by
  unfold State.casStep
  split
  · dsimp only
    split
    · exact h.setBoard.setUnit
    · split
      · exact h
      · exact h.freeResv.setUnit
  · split
    · exact h.setPmask.abandonOn.beginVictims
    · exact h.setUnit

theorem State.Inv.commit (h : s.Inv) {u} : (s.commit u).Inv := by
  unfold State.commit
  refine .endUnit ?_
  split
  · exact h.passPlaced.freeResv.setBoard
  · exact .ite h.passPlaced.freeResv.clearHead h.passPlaced.freeResv

theorem State.Inv.withdraw (h : s.Inv) {u} : (s.withdraw u).Inv :=
  (h.passPlaced.freeResv.foldl (fun _ _ k => k.beginStop)).setUnit

theorem State.Inv.rejectSet (h : s.Inv) {u} : (s.rejectSet u).Inv := (h.foldl (fun _ _ k => k.abortBlock)).setUnit

theorem State.Inv.discardStep (h : s.Inv) {u x} : (s.discardStep u x).Inv := by
  unfold State.discardStep
  split
  · split
    · exact .ite h.dropBlock.setUnit h
    · exact h.setUnit
  · exact h.freeResv.stopQueue.endUnit

theorem State.Inv.writePlacement (h : s.Inv) {qslot b c} : (s.writePlacement qslot b c).Inv := h.spBytes

theorem State.Inv.placedOn (h : s.Inv) {u x c} {r : Word × State} (hr : r.2.Inv) : (s.placedOn u x c r).Inv :=
  .ite hr.book.setUnit (.ite h.rejectSet h.withdraw)

theorem State.Inv.placeStep (h : s.Inv) {u x} : (s.placeStep u x).Inv := by
  unfold State.placeStep
  split
  · exact h.commit
  · exact h.placedOn h.writePlacement.place
  · exact h.qRange (fun _ _ k => k.logReeve.rejectSet) (fun _ k => .ite k.rejectSet (k.qRange
      (fun _ _ m => m.logReeve.rejectSet) (fun _ m => m.placedOn m.restore)))

theorem State.Inv.withHeads (h : s.Inv) {u} {bad k : State → State} {vas}
    (hbad : ∀ s, s.Inv → (bad s).Inv) (hk : ∀ s, s.Inv → (k s).Inv) : (s.withHeads u bad k vas).Inv := by
  induction vas generalizing s with
  | nil => exact hk _ h
  | cons va r ih => exact h.qRange (fun _ _ m => hbad _ m.logReeve) fun _ m => ih m

theorem State.Inv.moveWatches (h : s.Inv) {r} : (s.moveWatches r).Inv := h

theorem State.Inv.resizeStep (h : s.Inv) {u r} : (s.resizeStep u r).Inv :=
  .ite (.ite h h.freeResv.endUnit) (.ite h.setPmask.freeResv.endUnit (.ite h (.ite (h.moveWatches.setPolder.setPmask.foldl
    (fun _ _ k => k.invalidate)) h.moveWatches.setPolder.setPmask)))

theorem State.Inv.startTest (h : s.Inv) {c} : (s.startTest c).Inv := h.abandonOn.setCore

theorem State.Inv.preempted (h : s.Inv) {u} : (s.preempted u).Inv := by
  unfold State.preempted
  split
  · exact h.resizeStep
  · exact h.endUnit
  · exact h.startTest.endUnit
  · exact h.setUnit

theorem State.Inv.preemptStep (h : s.Inv) {u va} : (s.preemptStep u va).Inv := by
  unfold State.preemptStep
  split
  · exact h.preempted
  · dsimp only
    split
    · exact h.setUnit
    · exact .ite h.beginStop.setUnit (.ite h.beginStop (h.beginStop.qRange (fun _ _ k => k.logReeve)
        (fun _ k => k.saveBlock.setUnit)))

theorem State.Inv.takeTicket (h : s.Inv) {core slot goal stage listed} : (s.takeTicket core slot goal stage listed).1.Inv :=
  h.setBoard.setUnit

theorem State.Inv.beginUnit (h : s.Inv) {c} : (s.beginUnit c).Inv := by
  unfold State.beginUnit
  split
  · exact h
  · dsimp only
    split
    · exact h.serveBells
    · split
      · exact h.serveBells.tidyHead.tick
      · split
        · exact .ite h.serveBells.tidyHead.takeTicket h.serveBells.tidyHead
        · exact h.serveBells.tidyHead

theorem State.Inv.unitOn (h : s.Inv) {u va} : (s.unitOn u va).Inv := by
  unfold State.unitOn
  split
  · exact h.preemptStep
  · exact h.casStep
  · exact h.withHeads (fun _ k => k.rejectSet) fun _ k => k.listStep
  · exact h.placeStep
  · exact h.discardStep
  · exact h.withdraw

theorem State.Inv.parkReeve (h : s.Inv) {c} : (s.parkReeve c).Inv := by
  unfold State.parkReeve
  split
  · exact h.parkAt
  · exact h

theorem State.Inv.unitStep (h : s.Inv) {c va} : (s.unitStep c va).Inv := by
  unfold State.unitStep
  split
  · exact h.beginUnit
  · split
    · exact h
    · split
      · exact h.unitOn
      · exact h
      · exact h.parkReeve

theorem State.Inv.rescue (h : s.Inv) {c} : (s.rescue c).Inv := by
  unfold State.rescue
  split
  · exact h
  · refine .setUnit ?_
    refine .of_kept (h.freeResv.foldl (fun _ _ k => ?_)) rfl
    split
    · exact k.passNext.beginStop
    · exact k

theorem State.Inv.resize (h : s.Inv) {r} : (s.resize r).Inv := .ite h.takeTicket h

theorem State.Inv.vacate (h : s.Inv) {c} : (s.vacate c).Inv := .ite h.takeTicket.beginVictims h

theorem State.Inv.mapReady (h : s.Inv) {c sl va} : (s.mapReady c sl va).Inv := by
  unfold State.mapReady
  split
  · exact h
  · exact .ite h (h.qRange (fun _ _ k => k.logReeve) (fun _ k => .ite k k.mapSlot.tick))

theorem State.Inv.waitExpired (h : s.Inv) {p q} : (s.waitExpired p q).Inv := by
  unfold State.waitExpired
  split
  · split
    · exact h
    · exact h
  · exact h

/-! #### Machine/Audits -/

theorem State.Inv.halveDue (h : s.Inv) : s.halveDue.Inv := h

theorem State.Inv.addSeepage (h : s.Inv) {c n} : (s.addSeepage c n).Inv := h.setCore

theorem State.Inv.quarantine (h : s.Inv) {c} : (s.quarantine c).Inv := h

theorem State.Inv.judge (h : s.Inv) : s.judge.Inv := h.foldl (fun _ _ k => .ite (.ite k.setCore k.quarantine) k)

theorem State.Inv.endAudit (h : s.Inv) {i a} : (s.endAudit i a).Inv := h

theorem State.Inv.auditEntry (h : s.Inv) {i a cause c1 c2 c3 gain seep} : (s.auditEntry i a cause c1 c2 c3 gain seep).Inv :=
  h.logBytes.endAudit

theorem State.Inv.outcome (h : s.Inv) {i a r1 r2 r3} : (s.outcome i a r1 r2 r3).Inv := by
  unfold State.outcome
  split
  · exact h.addSeepage.auditEntry.judge
  · exact h.addSeepage.addSeepage.addSeepage.auditEntry.judge

theorem State.Inv.execAuditOutcome (h : s.Inv) {polder aid} : Out.Inv (execAuditOutcome polder aid s) := by
  unfold Machine.execAuditOutcome
  split
  · split
    · exact h
    · split
      · exact .ite h.setPolder.endAudit (.ite h.auditEntry h)
      · exact h.halveDue.outcome
      · exact h
  · exact h

theorem State.Inv.startRerun (h : s.Inv) {i a t} : (s.startRerun i a t).Inv := by
  unfold State.startRerun
  dsimp only
  split
  · refine .tick (.book (.enterBlock ?_))
    exact h
  · exact h

theorem State.Inv.auditRun (h : s.Inv) {c i t} : (s.auditRun c i t).Inv := by
  unfold State.auditRun
  split
  · exact h
  · dsimp only
    split
    · exact h.serveBells
    · split
      · exact .ite h.serveBells.tidyHead (.ite (h.serveBells.tidyHead.foldl (fun _ _ k => k.checkBlock)).auditEntry.tick
          (h.serveBells.tidyHead.foldl (fun _ _ k => k.checkBlock)).startRerun)
      · exact h.serveBells.tidyHead

theorem State.Inv.replayEffect (h : s.Inv) {i o op e} : (s.replayEffect i o op e).Inv := by
  unfold State.replayEffect
  split
  · exact h.copyRec
  · exact h.copyRec
  · exact h.predEffect
  · exact h.predEffect
  · exact h

theorem State.Inv.replay (h : s.Inv) {i} : (s.replay i).Inv := by
  unfold State.replay
  split
  · split
    · exact .ite h (h.replayEffect.foldl (fun _ _ k => k.localWrite)).finish
    · exact h
  · exact h

theorem State.Inv.defect (h : s.Inv) {c b gn} : (s.defect c b gn).Inv := h.fresh.onEffects

theorem State.Inv.execSelfTestEnd (h : s.Inv) {core pass} : Out.Inv (execSelfTestEnd core pass s) := by
  unfold Machine.execSelfTestEnd
  dsimp only
  split
  · exact h
  · exact h

/-! #### Machine/Bank -/

theorem State.Inv.bankIns (h : s.Inv) {body : State → BankRun → BankItem → Nat → BankItem × BNext × State}
    (hbody : ∀ s x1 x2 x3, s.Inv → (body s x1 x2 x3).2.2.Inv) : Out.Inv (bankIns body s) := by
  unfold Machine.bankIns
  split
  · split
    · split
      · split
        · exact h
        · exact (hbody _ _ _ _ h).onRun
      · exact h
    · exact h
  · exact h

theorem State.Inv.bankLocal (h : s.Inv) {body} : Out.Inv (bankLocal body s) := h.bankIns fun _ _ _ _ k => k

theorem State.Inv.bankMac (h : s.Inv) {k n f ok input after} : Out.Inv (bankMac k n f ok input after s) := by
  unfold Machine.bankMac
  refine h.bankIns fun _ _ _ _ m => ?_
  dsimp only
  split
  · exact m
  · split
    · exact m.checkBlock
    · exact m.checkBlock

theorem State.Inv.execBemit (h : s.Inv) {k n m ic} : Out.Inv (execBemit k n m ic s) := by
  unfold Machine.execBemit
  refine h.bankIns fun _ _ _ _ p => ?_
  dsimp only
  split
  · exact p
  · exact p

theorem State.Inv.execNeighbourRefresh (h : s.Inv) {stack pc bank row} :
    Out.Inv (execNeighbourRefresh stack pc bank row s) := by
  unfold Machine.execNeighbourRefresh
  dsimp only
  split
  · exact h
  · split
    · exact h
    · exact h.setHbm

/-! #### Machine/Boot -/

theorem State.Inv.startReeve (h : s.Inv) {c entry} : (s.startReeve c entry).Inv := h.newId.setBlock.enterSlot

theorem State.Inv.startFront (h : s.Inv) {f entry} : (s.startFront f entry).Inv := h.newId.setBlock.enterSlot

theorem State.Inv.installOwner (h : s.Inv) {slot sig} : (s.installOwner slot sig).Inv := by
  unfold State.installOwner
  split
  · exact .intro h.mem_wf h.sp_wf (Memory.wf_mwrites _ _ h.flash_wf) h.sram_wf h.cmds_rising
  · exact h

theorem State.Inv.installCert (h : s.Inv) {cert} : (s.installCert cert).Inv :=
  .intro h.mem_wf h.sp_wf (Memory.wf_mwrites _ _ h.flash_wf) h.sram_wf h.cmds_rising

theorem State.Inv.halt (h : s.Inv) {code} : (s.halt code).Inv := h

theorem State.Inv.startImage (h : s.Inv) {im} : (s.startImage im).Inv := by
  refine .foldl (.foldl (.initBoard ?_) fun _ _ k => k.startReeve) fun _ _ k => k.startFront
  exact .intro h.mem_wf h.sp_wf h.flash_wf (Memory.wf_mwrites _ _ Memory.wf_nil) h.cmds_rising

theorem State.Inv.portZeroUp (h : s.Inv) : s.portZeroUp.Inv := h

theorem State.Inv.recover (h : s.Inv) : s.recover.Inv := by
  unfold State.recover
  dsimp only
  split
  · exact h.portZeroUp.halt
  · split
    · exact h.portZeroUp.halt
    · exact h.portZeroUp.of_kept rfl

theorem State.Inv.rom (h : s.Inv) : s.rom.Inv := .ite h.halt (.ite h.startImage h.recover)

/-- The flash after an interruption keeps its canonical form. -/
theorem wf_tornFlash {b : Boot} (h : b.flash.wf = true) : b.tornFlash.wf = true := by
  unfold Boot.tornFlash
  split
  · exact Memory.wf_mwrites _ _ (Memory.wf_mwrites _ _ h)
  · exact h

theorem State.Inv.afterReset (h : s.Inv) : s.afterReset.Inv :=
  .intro h.mem_wf Memory.wf_nil (wf_tornFlash h.flash_wf) Memory.wf_nil rfl

theorem State.Inv.recovered (h : s.Inv) : s.recovered.Inv := by
  unfold State.recovered
  split
  · refine .rom ?_
    exact .intro h.mem_wf h.sp_wf (Memory.wf_mwrites _ _ h.flash_wf) h.sram_wf h.cmds_rising
  · exact h

theorem State.Inv.execPowerLoss (h : s.Inv) : Out.Inv (execPowerLoss s) :=
  State.Inv.intro Memory.wf_nil Memory.wf_nil (wf_tornFlash h.flash_wf) Memory.wf_nil rfl

/-! #### Machine/Mx -/

theorem State.Inv.busyMx (h : s.Inv) {c sl n} : (s.busyMx c sl n).Inv := h.onSub

theorem State.Inv.mxIssue (h : s.Inv) {i} {own : Nat → Group → State → Check} {gd d a af z steps clocks la w} :
    Out.Inv (mxIssue i own gd d a af z steps clocks la w s) :=
  h.issueWith fun _ _ _ _ k => k.busyMx.defer

theorem State.Inv.mxRead (h : s.Inv) {c a} : (s.mxRead c a).2.Inv := by
  unfold State.mxRead
  dsimp only
  split
  · exact h
  · exact h.fresh

theorem State.Inv.mxImage (h : s.Inv) {c a n} : (s.mxImage c a n).2.Inv :=
  .foldl_snd h fun _ _ k => k.mxRead

theorem State.Inv.execMmas (h : s.Inv) {d a b af wf z st la g} : Out.Inv (execMmas d a b af wf z st la g s) := by
  unfold Machine.execMmas
  exact h.issueWith fun _ _ _ _ k => k.mxImage.busyMx.defer

theorem State.Inv.execLdfrag (h : s.Inv) {d a cnt off la g} : Out.Inv (execLdfrag d a cnt off la g s) := by
  unfold Machine.execLdfrag
  exact h.issueWith fun _ _ _ _ k => k.mxImage.busyMx.defer

/-! #### Machine/Ready -/

theorem State.Inv.roomWaits (h : s.Inv) {c sub} : (s.roomWaits c sub).Inv := by
  unfold State.roomWaits
  refine h.foldl fun _ _ k => ?_
  split
  · split
    · exact k
    · split
      · exact k.awaitRoom
      · exact k
  · exact k

theorem State.Inv.roomTurn (h : s.Inv) {c sl} : (s.roomTurn c sl).Inv := by
  unfold State.roomTurn
  split
  · split
    · exact h.setGroup
    · exact h
  · exact h

/-! #### Machine/Steps -/

theorem State.Inv.fetchWords (h : s.Inv) {c sl g pc n} : (s.fetchWords c sl g pc n).2.Inv := by
  induction n generalizing s pc with
  | zero => exact h
  | succ n ih =>
    unfold State.fetchWords
    split
    next t e => exact .of_snd e h.fetchWord
    next f t e => exact .of_snd e h.fetchWord
    next w t e =>
      have ht : t.Inv := .of_snd e h.fetchWord
      split
      next ws u e' => exact .of_snd e' (ih ht)
      next => exact ih ht

theorem State.Inv.enterClause (h : s.Inv) {c sl x pc ws} : (s.enterClause c sl x pc ws).Inv := h.onGroup

theorem State.Inv.startRun (h : s.Inv) {c sl x} : (s.startRun c sl x).Inv := by
  unfold State.startRun
  split
  · exact .ite h.endRun h
  · exact h

theorem State.Inv.headerWait (h : s.Inv) {c sl x pc ws} : (s.headerWait c sl x pc ws).Inv := by
  unfold State.headerWait
  split
  · exact h.enterClause
  · extract_lets t
    have ht : t.Inv := h.onGroup.settleBatches
    split
    · exact .ite ht.enterClause ht
    · exact ht

theorem State.Inv.execClauseHeader (h : s.Inv) {x} : Out.Inv (execClauseHeader x s) := by
  unfold Machine.execClauseHeader
  split
  · split
    · split
      · exact h
      · dsimp only
        split
        · exact h.startRun
        · split
          · exact h.startRun.takeFault
          · split
            next _ _ t e =>
              have k : t.Inv := .of_snd e h.startRun.fetchWords
              exact k.headerWait
            next _ t e =>
              have k : t.Inv := .of_snd e h.startRun.fetchWords
              exact k
            next _ _ t e =>
              have k : t.Inv := .of_snd e h.startRun.fetchWords
              exact k.parkAt
    · exact h
  · exact h

theorem State.Inv.groupTurn (h : s.Inv) {c sl} : (s.groupTurn c sl).Inv := by
  unfold State.groupTurn
  dsimp only
  split
  · split
    · exact h.roomTurn
    · split
      · split
        · exact h.roomTurn.of_kept rfl
        · refine .takeFault ?_
          exact h.roomTurn.of_kept rfl
      · split
        · exact h.roomTurn
        · split
          next _ t e =>
            have k : t.Inv := .of_snd e h.roomTurn.fetchWord
            exact k
          next _ _ t e =>
            have k : t.Inv := .of_snd e h.roomTurn.fetchWord
            exact k.parkAt
          next _ _ t e =>
            have k : t.Inv := .of_snd e h.roomTurn.fetchWord
            split
            · exact k
            · refine .takeFault ?_
              exact k
  · exact h.roomTurn

theorem State.Inv.walkerTurn (h : s.Inv) {d w} : (s.walkerTurn d w).Inv := by
  unfold State.walkerTurn
  split
  · split
    · exact h.walkFail
    · split
      · exact h.walkFail
      · dsimp only
        split
        · exact h
        · refine .walkFail ?_
          exact h
  · exact h

theorem State.Inv.itemTurn (h : s.Inv) {run pc i} : (s.itemTurn run pc i).Inv := by
  unfold State.itemTurn
  split
  · split
    · split
      · exact h
      · dsimp only
        split
        · exact h
        · exact h
    · exact h
  · exact h

theorem State.Inv.turn (h : s.Inv) : s.turn.Inv := by
  unfold State.turn
  split
  · exact h.groupTurn
  · exact h.walkerTurn
  · exact h.itemTurn
  · exact h

theorem State.Inv.execIssueCycle (h : s.Inv) {core sub} : Out.Inv (execIssueCycle core sub s) := by
  unfold Machine.execIssueCycle
  refine State.Inv.ite h ?_
  extract_lets t
  have ht : t.Inv := h.roomWaits
  clear_value t
  exact .ite ht ht

theorem State.Inv.execLongLatencyResult (h : s.Inv) {core slot i} : Out.Inv (execLongLatencyResult core slot i s) := by
  unfold Machine.execLongLatencyResult
  split
  · split
    · exact h.setGroup
    · exact h
  · exact h

theorem State.Inv.execAtspReply (h : s.Inv) {core slot i} : Out.Inv (execAtspReply core slot i s) := by
  unfold Machine.execAtspReply
  split
  · exact .ite h.replyLand h
  · exact h

/-! #### Machine/Dispatch -/

theorem State.Inv.exec (h : s.Inv) {i} : Out.Inv (exec i s) := by
  unfold Machine.exec
  cases i
  case nop => exact h.issue fun _ _ _ _ k => k
  case bra | brx => exact h.issueWith fun _ _ _ _ k => k.branch
  case call => exact h.issueWith fun _ _ _ _ k => k.pushAll.jump
  case callx => exact h.issueWith fun _ _ _ _ k => k.pushAll.branch
  case ret => exact h.issueWith fun _ _ _ _ k => k.onGroup.branch
  case join => exact h.issue fun _ _ _ _ k => k.settle.onGroup
  case exit => exact h.issueWith fun _ _ _ _ k => .ite k k.endThreads.progress
  case yield => exact h.issueWith fun _ _ _ _ k => .ite k.evict k
  case sleep | fence => exact h.issue fun _ _ _ _ k => .ite k.onGroup k
  case trap | brk | wflush => exact h.issueWith fun _ _ _ _ k => k
  case spawn =>
    exact h.issueWith (fun _ _ _ _ m => .ite m (.progress (.ite (m.launchCmd.bumpRoom.foldl
      (fun _ _ n => n.noteFault)).offAudit (m.launchCmd.bumpRoom.foldl (fun _ _ n => n.noteFault)))))
  case reord => exact h.issueWith (fun _ _ _ _ m => .ite m (m.settle.foldl (fun _ _ n => n.deposit)).endThreads)
  case tile => exact h.issue fun _ _ _ _ k => k.onGroup
  case iadd | iaddImm | isub | imul | imulImm | imulhi | imad | iabs | imin | imax => exact h.arith
  case and | andImm | or | orImm | xor | xorImm | not | shl | shr | sar | popc | clz | brev | bfx | mov => exact h.bitwise
  case bfi | idp4 | fmin | fmax | frnd | cvt => exact h.vec3
  case sel | cmp | addc | lea | movP2r | movR2p | movi | fcmp => exact h.vecLanes
  case fadd | faddImm | fsub | fmul | fmulImm | ffma => exact h.fp3
  case hadd2 | hmul2 | hfma2 => exact h.packed
  case frcp | frsq | fsqrt | fexp2 | flog2 | fsin | fcos | ftanh => exact h.sfu
  case qswap | qbcast | shfl | vote | scan => exact h.laterLanes
  case redadd | redmax | redmin => exact h.reduceTile
  case mma | mmaw | mmasp => exact h.mxIssue
  case mmas => exact h.execMmas
  case ldfrag => exact h.execLdfrag
  case fxpose => exact h.issueWith fun _ _ _ _ k => k.busyMx.defer
  case ldsh | ldc => exact h.issueWith fun _ _ _ _ k => k.defer
  case stsh => exact h.issueWith fun _ _ _ _ k => k.enqueue.progressIf
  case atsh => exact h.execAtsh
  case ldsp => exact h.issueWith (fun _ _ _ _ k => .ite k.inputWords.defer (.deferParts (.ite k.audLog k)))
  case stsp => exact h.issueWith (fun _ _ _ _ k => .progressIf (.audEffect (.ite k k.enqueue)))
  case atsp =>
    exact h.issueWith (fun _ _ _ _ k => .ite (.progressIf (.ite k k.offAudit)) (.progressIf (.deferParts (.ite k k.offAudit))))
  case sreg => exact h.execSreg
  case sregClr => exact h.issueWith (fun _ _ _ _ k => .defer (.inputWords (.ite k k.onGroup)))
  case cpy => exact h.execCpy
  case sealRec => exact h.execSealRec
  case gat => exact h.execGat
  case sct => exact h.execSct
  case matom => exact h.execMatom
  case mred =>
    exact h.issueWith (fun _ _ _ _ k => .ite k (k.launchCmd.onGroup.foldl
      (fun _ _ m => .ite m.audEffect.noteFault m.audEffect.sendAcc)).progress)
  case bkrun => exact h.execBkrun
  case pred | pchk => exact h.predIssue
  case batch => exact h.issueWith fun _ _ _ _ k => .ite k.onGroup.settleBatches k
  case wait => exact h.issue fun _ _ _ _ k => .ite k.onGroup.settleBatches k
  case bar | barMx | gsync => exact h.arrive
  case sregw | cinvRec => exact h.sysIssue fun _ _ _ _ _ k => k.setCore
  case sregwRd => exact h.sysIssue fun _ _ _ _ _ k => k
  case qmap => exact h.execQmap
  case qunmap => exact h.execQunmap
  case place => exact h.execPlace
  case ctxsave => exact h.execCtxsave
  case ctxrest => exact h.execCtxrest
  case tbinv => exact h.sysIssue (fun _ _ _ _ _ m => m.foldl (fun _ _ n => n.invalidate))
  case cinvSprd => exact h.sysIssue fun _ _ _ _ _ k => k.dropLines
  case wkload => exact h.sysIssue (fun _ _ _ _ _ k => k.sysRange (fun _ m => m.setDie))
  case clauseHeader => exact h.execClauseHeader
  case issueCycle => exact h.execIssueCycle
  case longLatencyResult => exact h.execLongLatencyResult
  case storePerform => exact h.execStorePerform
  case atspReply => exact h.execAtspReply
  case collectiveStart => exact h.execCollectiveStart
  case cpyComplete => exact h.execCpyComplete
  case sealComplete => exact h.execSealComplete
  case gatComplete => exact h.execGatComplete
  case sctComplete => exact h.execSctComplete
  case matomReply => exact h.execMatomReply
  case mredAccept => exact h.execMredAccept
  case predComplete => exact h.execPredComplete
  case spawnComplete => exact h.execSpawnComplete
  case fenceComplete => exact h.execFenceComplete
  case spillRoomFreed => exact h.execSpillRoomFreed
  case setDue => exact h.execSetDue
  case groupEvict => exact h.execGroupEvict
  case weaverFormGroup => exact h.execWeaverFormGroup
  case joinMerge | joinTimeout => exact h.joinStep
  case sleepExpire => exact h.execSleepExpire
  case barrierComplete => exact .ite h (.ite h.passBarrier.setCore h.passBarrier)
  case gangBarrierComplete => exact .ite (h.foldl (fun _ _ k => k.passBarrier)).gangOrder h
  case blockRetire => exact h.execBlockRetire
  case weirChunk => exact h.execWeirChunk
  case weirRefill => exact h.execWeirRefill
  case watchdogExpire => exact h.execWatchdogExpire
  case walkStart => exact h.execWalkStart
  case wldDataReturn => exact h.execWldDataReturn
  case walkTimelimit => exact h.execWalkTimelimit
  case wadd | wsub | wand | wor | wxor | wshl | wshr | wmul | wmulhu | wsltu | wslt | whash => exact h.walkR
  case waddi | wandi | wori | wxori | wshli | wshri | wins | wbfx => exact h.walkAlu
  case wld | wldw => exact h.walkLoad
  case wlds | wsts => exact h.walkIssue fun _ _ _ _ _ k => .ite k.walkFail k.setWalk
  case wbeq | wbne | wbltu | wbgeu | wblt | wbge => exact h.walkBranch
  case wmap =>
    exact h.walkIssue (fun _ _ _ _ _ k => .ite k.walkFail (.ite k.walkFail (.ite k.walkRetry
      (.ite k.dropOverlaps.fillDie.fillCore.freeWalker.release.refillMiss k.dropOverlaps.fillDie.setWalk))))
  case wnone => exact h.walkIssue fun _ _ _ _ _ k => k.walkFail
  case readPacket => exact h.execReadPacket
  case writePacket | reducePacket => exact h.packet (fun _ _ _ k => .ite k.failAccess (.ite k k.acceptOpen.serve))
  case atomicPacket => exact h.execAtomicPacket
  case queueApply => exact h.execQueueApply
  case bankRunPacket => exact h.execBankRunPacket
  case bankItemStart => exact h.execBankItemStart
  case bankRunComplete => exact h.execBankRunComplete
  case bnop | bend | bldi | baddi | bloop | bbeq | bzero | bmov | baddv | bmaxv | bred | bscl | brelu => exact h.bankLocal
  case bmac | bmacs => exact h.bankMac
  case bemit => exact h.execBemit
  case hotAssert => exact .ite h (.ite (.ite h h.drainStack.setHbm) (.setHbm (.ite h h.drainStack.setHbm)))
  case hotClear => exact .ite h (.setHbm (.ite h.isolate h))
  case stackIsolate => exact .ite h.isolate h
  case launch => exact h.execLaunch
  case resume => exact h.execResume
  case predicate => exact h.execPredicate
  case waitPacket =>
    exact h.queueStep (fun _ _ _ _ k => .ite k.stopQueue.tick (.ite (k.testWait (fun _ m => m.endWait.watchWord.onSlot))
      (k.withWord (fun _ m => m.stopQueue.tick) (fun _ m => m.testWait (fun _ n => n.endWait.watchWord.onSlot)))))
        fun _ _ _ _ k => k.idleOn
  case waitPacketTimeout => exact h.execWaitPacketTimeout
  case signal => exact h.queueStep (fun _ _ _ _ k => .ite k.stopQueue.tick k.trySignal) fun _ _ _ _ k => k.trySignal
  case copy => exact h.execCopy
  case nopPacket =>
    exact h.queueStep (fun _ _ _ _ k => .ite k.stopQueue.tick (k.complete (fun _ m => m))) fun _ _ _ _ k => k.idleOn
  case notifyWrite => exact h.notifyWrite
  case featackWrite => exact h.ackWrite
  case registerWrite => exact h.plainWrite
  case railseqEnable | uudDrop | railseqDisable => exact h
  case stackStart => exact h.startStack
  case trainingComplete => exact h.execTrainingComplete
  case stackIsolateSet => exact .ite h h.isolate
  case portEnable | portTrainTimeout | portLinkUp | portDisable => exact .ite h.setPort h
  case moduleReset => exact h.afterReset.rom
  case openReq => exact .ite h.dropJob (.ite h.reply (.ite h.reply (.ite h.reply h.setPolder.setPmask.reply)))
  case queueReq => exact h.execQueueReq
  case loadReq => exact h.execLoadReq
  case walkReq => exact h.request (fun _ _ k => .ite k.reply (k.foldl (fun _ _ m => m.setDie)).setPolder.reply)
  case mapReq => exact h.request (fun _ _ m => .ite m.reply (.ite m.reply (.ite m.reply m.setPolder.replayAll.reply)))
  case watchReq => exact h.execWatchReq
  case unwatchReq => exact h.execUnwatchReq
  case quoteReq => exact h.request fun _ _ k => .ite k.reply k.reply
  case closeReq => exact h.request fun _ _ k => k.setPolder.closeOn
  case closeGraceExpire => exact h.execCloseGraceExpire
  case invalReq => exact h.execInvalReq
  case rmaRead => exact h.execRmaRead
  case rmaWrite => exact h.execRmaWrite
  case rmaAtomic => exact h.execRmaAtomic
  case railStepTimeout => exact h.execRailStepTimeout
  case seepageHalving => exact .ite h.halveDue.judge h
  case selfTestEnd => exact h.execSelfTestEnd
  case quarantineRelease => exact .ite h.setCore h
  case dieLinkRetrainEnd => exact h.execDieLinkRetrainEnd
  case cxlLinkDown => exact h.execCxlLinkDown
  case watchReportArrival => exact h.execWatchReportArrival
  case powerLoss => exact h.execPowerLoss
  case unadmittedJobDrop => exact h.dropJob
  case auditOutcome => exact h.execAuditOutcome
  case railPowerGood => exact h.execRailPowerGood
  case precharge => exact .ite h h.setHbm
  case neighbourRefresh => exact h.execNeighbourRefresh
  case flitCrcError => exact h.execFlitCrcError
  case thermalThrottle => exact .ite h h.setDie
  case thermalTrip => exact h.execThermalTrip
  case stackIsolateClear => exact h.unisolate
  case stackerrClear => exact .ite h.clearErr h
  case remoteWriteAck => exact h.execRemoteWriteAck

/-! #### Machine/Firmware -/

theorem State.Inv.abortLaunches (h : s.Inv) {p ids} : (s.abortLaunches p ids).Inv :=
  .ite h (.foldl (.foldl (h.foldl (fun _ _ k => k.doom)) (fun _ _ k => k.abortBlock)) (fun _ _ k => k.endAborted))

theorem State.Inv.abortParked (h : s.Inv) {c sl} : (s.abortParked c sl).Inv := by
  unfold State.abortParked
  split
  · exact .ite h.abortLaunches h
  · exact h

theorem State.Inv.abortDoomed (h : s.Inv) {p} : (s.abortDoomed p).Inv := h.abortLaunches

theorem State.Inv.unmapDead (h : s.Inv) {sl} : (s.unmapDead sl).Inv := by
  unfold State.unmapDead
  split
  · exact .ite h.endWait.unmapSlot.tick h
  · exact h

theorem State.Inv.releaseParked (h : s.Inv) {c sl} : (s.releaseParked c sl).Inv := by
  unfold State.releaseParked
  split
  · exact .ite h.setGroup h
  · exact h

theorem State.Inv.askStack (h : s.Inv) {c sl p va op} : (s.askStack c sl p va op).Inv := .ite h h.newAcc

theorem State.Inv.stackWrite (h : s.Inv) {c sl lane} : (s.stackWrite c sl lane).Inv := by
  unfold State.stackWrite
  split
  · split
    · dsimp only
      split
      · exact h
      · exact h.askStack
      · exact h
      · exact .ite h.acceptOpen.onGroup h
    · exact h
  · exact h

theorem State.Inv.stackRead (h : s.Inv) {c sl lane} : (s.stackRead c sl lane).Inv := by
  unfold State.stackRead
  split
  · split
    · dsimp only
      split
      · exact h
      · split
        · exact h.askStack
        · exact h
        · split
          · exact h
          · refine .onGroup ?_
            split
            · exact h.readPa
            · exact h.readPa.fresh
    · exact h
  · exact h

theorem State.Inv.bitError (h : s.Inv) {block symbol x} : (s.bitError block symbol x).Inv := by
  unfold State.bitError
  dsimp only
  split
  · exact h
  · exact h

theorem State.Inv.goodFlit (h : s.Inv) {link} : (s.goodFlit link).Inv := h

theorem State.Inv.remoteFail (h : s.Inv) {acc} : (s.remoteFail acc).Inv := by
  unfold State.remoteFail
  split
  · split
    · exact .ite h.failAccess h
    · exact h
  · exact h

theorem State.Inv.remoteWalkFail (h : s.Inv) {d w} : (s.remoteWalkFail d w).Inv := by
  unfold State.remoteWalkFail
  split
  · split
    · exact .ite h.walkError h
    · exact h
  · exact h

theorem State.Inv.remoteFetchFail (h : s.Inv) {c sl word} : (s.remoteFetchFail c sl word).Inv := by
  unfold State.remoteFetchFail
  split
  · dsimp only
    split
    · exact h
    · split
      · exact .ite h.parkAt h
      · exact h
  · exact h

theorem State.Inv.fecCorrected (h : s.Inv) {p n} : (s.fecCorrected p n).Inv := .ite h.setPort h

theorem State.Inv.tierSize (h : s.Inv) {p size} : (s.tierSize p size).Inv := by
  unfold State.tierSize
  split
  · exact h
  · exact h

theorem State.Inv.ownRange (h : s.Inv) {k r} : (s.ownRange k r).Inv := .ite h.setPolder h

theorem State.Inv.ownKeys (h : s.Inv) {sealKey nonce shSize} : (s.ownKeys sealKey nonce shSize).Inv := .ite h.setPolder h

theorem State.Inv.sendRod (h : s.Inv) {p op} : (s.sendRod p op).Inv := .ite h.setPolder h

theorem State.Inv.badRequest (h : s.Inv) {p code} : (s.badRequest p code).Inv := .ite h.dropJob (.ite h h.reply)

theorem State.Inv.plainSend (h : s.Inv) {p} : (s.plainSend p).Inv := .ite h h.dropJob

theorem State.Inv.keyed (h : s.Inv) {p keys} : (s.keyed p keys).Inv := .ite h h.dropJob

theorem State.Inv.runProc (h : s.Inv) {p} : (runProc p s).Inv := by
  unfold Machine.runProc
  split
  · exact h.unitStep
  · exact h.rescue
  · exact h.mapReady
  · exact h.waitExpired
  · exact h.resize
  · exact h.vacate
  · exact h.judge
  · exact h.auditRun
  · exact h.replay
  · exact h.defect
  · exact h.abortParked
  · exact h.releaseParked
  · exact h.abortDoomed
  · exact h.unmapDead
  · exact h.stackWrite
  · exact h.stackRead
  · exact h.bitError
  · exact h.goodFlit
  · exact h
  · exact h.remoteFail
  · exact h.remoteWalkFail
  · exact h.remoteFetchFail
  · exact h.fecCorrected
  · exact h.tierSize
  · exact h.ownRange
  · exact h.ownKeys
  · exact h.sendRod
  · exact h.badRequest
  · exact h.plainSend
  · exact h.keyed
  · exact h.installOwner
  · exact h.installCert
  · exact h.recovered

/-! #### Machine/Schedule -/

theorem State.Inv.nextMove (h : s.Inv) : s.nextMove.2.2.Inv := by
  unfold State.nextMove
  split
  · exact h
  · exact h

/-! #### Machine/Step -/

theorem State.Inv.runAgent (h : s.Inv) {a} : Out.Inv (runAgent a s) := by
  have hc : State.Inv { s with cur := a } := h
  unfold Machine.runAgent
  split
  next i t e => exact State.Inv.exec (Turn.Inv.of_eq e hc.turn)
  next t e => exact Turn.Inv.of_eq e hc.turn

theorem State.Inv.runAct (h : s.Inv) {a} : Out.Inv (runAct a s) := by
  unfold Machine.runAct
  split
  · refine State.Inv.exec ?_
    exact h
  · exact h.runAgent
  · exact h.runAgent
  · refine .performPart ?_
    exact h
  · refine .runProc ?_
    exact h

theorem State.Inv.step (h : s.Inv) : Out.Inv (step s) := by
  unfold Machine.step
  split
  · refine State.Inv.runAgent ?_
    exact h
  · dsimp only
    split
    · refine State.Inv.runAct ?_
      exact h.nextMove.of_kept rfl
    · exact h.nextMove.of_kept rfl

end

/-- Settles O60: `step` is composed of functions that each keep the invariant. -/
theorem invariantKept : Obligations.InvariantKept := by
  unfold Obligations.InvariantKept
  intro s t h e
  have ht : Out.Inv (step s) := h.step
  rwa [e] at ht

end Sys2Proof.Machine
end

section

/-!
# A remote read of no bytes

`blocksOf pa 0` is the block of `pa` where `pa` does not begin a block, though a read of no bytes has no byte in it. The clause of
O50 about a block that is uncorrectable quantifies over `blocksOf`, so it speaks of this read too; the model (R288, R324) answers it
with status 0, for no byte of it is bad.
-/

namespace Sys2Proof.Machine

/-- A service that has exposed the first 64 bytes of stack 0 to session 1, with the block that they fill uncorrectable. -/
def lostBlock : State :=
  { State.reset.setHbm 0 { Stack.reset with isolate := false } with
    polders := [(1, { Polder.reset with alive := true, visible := [{ va := 0, size := 64, frame := 0 }] })]
    poison := [0] }

/-- The stack and the block can be reached, the block is lost, and a read of no bytes at address 1 touches it. -/
theorem lostBlock_meets_hypotheses :
    lostBlock.session 1 = true ∧ (lostBlock.polder 1).rod = [] ∧ (lostBlock.polder 1).frameOf 1 0 = some 1
      ∧ lostBlock.avail 4 1 = .yes ∧ 0 ∈ blocksOf 1 0 ∧ (lostBlock.view 0).2 = true := by
  decide +kernel

/-- No byte of a read of no bytes is bad. -/
theorem State.readPa_zero_bad (s : State) (pa : Nat) : (s.readPa pa 0).2.1 = [] := rfl

/-- Of a state with nothing sent over ROD, an exposed range that can be reached and no bad byte in it: the read answers the bytes. -/
theorem execRmaRead_mem_of_good {s : State} {p addr len pa : Nat} (hs : s.session p = true) (hrod : (s.polder p).rod = [])
    (hf : (s.polder p).frameOf addr len = some pa) (ha : s.avail 4 pa = .yes) (hb : (s.readPa pa len).2.1 = []) :
    exec (.rmaRead p .mem addr len) s
      = .next ((s.readPa pa len).2.2.reply p (rmaCode 0) stOk (s.readPa pa len).1) := by
  change execRmaRead p .mem addr len s = _
  simp [execRmaRead, ordered, hs, hrod, hf, ha, hb, State.rmaAt]

/-- The read of no bytes at address 1 answers status 0. -/
theorem exec_rmaRead_lostBlock : exec (.rmaRead 1 .mem 1 0) lostBlock
    = .next ((lostBlock.readPa 1 0).2.2.reply 1 (rmaCode 0) stOk (lostBlock.readPa 1 0).1) := by
  obtain ⟨hs, hrod, hf, ha, -, -⟩ := lostBlock_meets_hypotheses
  exact execRmaRead_mem_of_good hs hrod hf ha (State.readPa_zero_bad _ _)

/-- Refutes O50: a read of no bytes at an address inside an uncorrectable block answers status 0, no transport error. -/
theorem not_remoteAccess : ¬ Obligations.RemoteAccess := by
  unfold Obligations.RemoteAccess
  intro h
  obtain ⟨hs, hrod, hf, ha, hb, hv⟩ := lostBlock_meets_hypotheses
  obtain ⟨-, -, hfree⟩ := h lostBlock 1 hs
  obtain ⟨-, -, -, -, -, -, -, hbad, -⟩ := hfree hrod
  obtain ⟨t, ht, -, hsaid⟩ := hbad 1 0 1 0 hf ha hb hv
  injection exec_rmaRead_lostBlock.symm.trans ht with ht
  subst ht
  exact absurd hsaid (by decide +kernel)

end Sys2Proof.Machine
end

section

/-!
# A walk begins while a parked access has no place in the miss queue

As a walk takes the head miss of a polder's queue, a parked access that had no place in it joins the queue at once (R265). So what is
left of the queue after the walk has begun need not be what stood behind the head, as the last clause of O39 says.
-/

namespace Sys2Proof.Machine

/-- A read of session 1 by core 0 that is parked, at an address. -/
def parkedRead (va : Nat) : Access :=
  { polder := 1, core := 0, cmd := 1, lane := 0, src := 1, op := .read, va := va, len := 64, off := 0, st := .parked 0, data := []
    bad := [], aux := 0 }

/-- Die 0 with the miss of access 1 queued, while access 2, of another region, is parked without a place in the queue: what an
access is that finds the queue full (R265). -/
def oneUnqueued : State :=
  { State.reset with
    accs := [(1, parkedRead 0), (2, parkedRead 65536)]
    cores := [(0, { Core.reset with parkedA := [1, 2] })]
    dies := [(0, { Die.reset with missQ := [(1, [1])], ptr := 1, deficit := [(1, 1)], routines := [(1, ([], 0))] })] }

/-- The deficit of session 1 lets it go first (R278). -/
theorem drr_oneUnqueued :
    (drr (fun q => (oneUnqueued.polder q).walkWt.toNat) (oneUnqueued.die 0).waiting drrFuel (oneUnqueued.die 0).ptr
      (oneUnqueued.die 0).deficit).1 = 1 := by
  decide +kernel

/-- Access 2 takes the place in the queue that the head miss gives up. -/
theorem exec_walkStart_oneUnqueued : ∃ t, exec (.walkStart 0 0) oneUnqueued = .next t ∧ tget [] (t.die 0).missQ 1 = [2] :=
  ⟨_, rfl, by decide +kernel⟩

/-- Refutes O39: as a walk begins, a parked access joins the queue that its head miss has left. -/
theorem not_walksEnd : ¬ Obligations.WalksEnd := by
  unfold Obligations.WalksEnd
  intro h
  obtain ⟨-, -, hstart⟩ := h 0 0 0 0 oneUnqueued 0 0 default default (by decide)
  have hw := hstart (by decide) (by decide) rfl (by decide)
  simp only [drr_oneUnqueued] at hw
  obtain ⟨t, ht, -, hq, -⟩ := hw 1 [] (parkedRead 0) ([], 0) (by decide +kernel) rfl (by decide +kernel) rfl
  obtain ⟨u, hu, hu2⟩ := exec_walkStart_oneUnqueued
  injection hu.symm.trans ht with e
  subst e
  simp [hq] at hu2

end Sys2Proof.Machine
end

section

/-!
# A polder closes over a stale walk of a re-execution

CLOSE destroys a polder that has come to rest although re-executions of its audited blocks are under way: it abandons them (R348). With
the fetch of such a re-execution goes the walk that the fetch started, and where an INVAL had made that walk stale, the reply to the
INVAL no longer waits for it (R276, R290). The replies before CLOSE's own are then not what they were, as the clauses of O48 say.
-/

namespace Sys2Proof.Machine

/-- A group in a re-execution that waits for its fetch, access 7. -/
def fetchingGroup : Group := { Group.reset with bslot := 5, waiting := .fetch 7 }

/-- Session 1 with a re-execution of an audited block on core 0. The walk that its fetch started is stale: an INVAL came, whose reply
waits for the walk to end (R275, R276). -/
def staleRerun : State :=
  { State.reset with
    polders := [(1, { Polder.reset with alive := true })]
    accs := [(7, { polder := 1, core := 0, cmd := 0, lane := 3, src := 0, op := .fetch, va := 0, len := 64, off := 0, st := .parked 0
                   data := [], bad := [], aux := 0 })]
    cores := [(0, { Core.reset with
      parkedA := [7], groups := [(3, fetchingGroup)]
      blocks := [(5, { (default : Block) with launch := { (default : Launch) with polder := 1 }, slots := [3], rerun := some 0 })] })]
    audits := [(0, { (default : Audit) with polder := 1, rerun := some default })]
    dies := [(0, { Die.reset with walks := [(0, { (default : Walk) with polder := 1, acc := 7, stale := true })] })]
    replies := [{ polder := 1, code := 10, status := 0, data := [], after := [0] }] }

/-- As CLOSE abandons the re-execution, the walk ends, and the reply to the INVAL waits no longer. -/
theorem exec_closeReq_staleRerun : ∃ t, exec (.closeReq 1 0) staleRerun = .next t ∧ t.replies.map (·.after) = [[], []] :=
  ⟨_, rfl, by decide +kernel⟩

/-- Refutes O48: CLOSE abandons the re-executions of its polder (R348), and with a stale walk of one the reply to an INVAL changes. -/
theorem not_polderLife : ¬ Obligations.PolderLife := by
  unfold Obligations.PolderLife
  intro h
  obtain ⟨-, hclose, -⟩ := h staleRerun rfl
  obtain ⟨hgone, -⟩ := hclose 1 0 (by decide +kernel) rfl
  obtain ⟨t, ht, -, -, -, hsaid, -⟩ := hgone (by decide) (by decide +kernel)
  obtain ⟨u, hu, hafter⟩ := exec_closeReq_staleRerun
  injection hu.symm.trans ht with e
  subst e
  simp [hsaid, staleRerun] at hafter

end Sys2Proof.Machine
end

section

/-!
# Writes of control-page and training registers

What a control page reads is a function of its polder. Each plain register is one field: `Polder.blank` takes it away, and no other word
of the page sees the difference.
-/

namespace Sys2Proof.Machine

/-! ### What a control page reads -/

/-- A control page is its polder's alone. -/
theorem pageRead_congr {s t : State} {p q : Nat} (h : t.polder p = s.polder q) (off : Nat) : pageRead t p off = pageRead s q off := by
  unfold pageRead
  rw [h]

/-- A polder without the plain register at an offset, and without what a write of it also moves. -/
def Polder.blank (off : Nat) (x : Polder) : Polder :=
  { x with
    weirRate := if off = 0x100 then 0 else x.weirRate
    weirDepth := if off = 0x104 then 0 else x.weirDepth
    weirDebtLim := if off = 0x108 then 0 else x.weirDebtLim
    borrow := true
    ageLim := if off = 0x130 then 0 else x.ageLim
    auditF := if off = 0x134 then 0 else x.auditF
    preempt := if off = 0x138 then 0 else x.preempt
    walkLim := if off = 0x150 then 0 else x.walkLim
    walkWt := if off = 0x154 then 0 else x.walkWt
    fltPol0 := if off = 0x160 then 0 else x.fltPol0
    fltPol1 := if off = 0x164 then 0 else x.fltPol1 }

/-- No other word of the page reads the register. -/
theorem pageRead_setPolder_blank (s : State) (p : Nat) {off o : Nat} (h : o ≠ off) :
    pageRead (s.setPolder p ((s.polder p).blank off)) p o = pageRead s p o := by
  unfold pageRead
  simp only [State.polder_setPolder_same]
  split_ifs
  iterate 5 rfl
  split <;> simp [Polder.blank, h.symm]

/-- Two polders that agree but for one plain register read alike at every other offset. -/
theorem pageRead_eq_of_blank {s t : State} {p off o : Nat} (h : (t.polder p).blank off = (s.polder p).blank off) (ho : o ≠ off) :
    pageRead t p o = pageRead s p o :=
  calc pageRead t p o
    _ = pageRead (t.setPolder p ((t.polder p).blank off)) p o := (pageRead_setPolder_blank t p ho).symm
    _ = pageRead (s.setPolder p ((s.polder p).blank off)) p o := pageRead_congr (by simp [h]) o
    _ = pageRead s p o := pageRead_setPolder_blank s p ho

/-! ### Writes of plain registers -/

/-- A change of polders alone leaves every memory as it is. -/
theorem SameMemory.setPolder (s : State) (p : Nat) (x : Polder) : SameMemory s (s.setPolder p x) := ⟨rfl, rfl, fun _ => rfl⟩

/-- The write that changes one plain register of a polder sets it, and every other register keeps what it read. -/
theorem registerWrite_sets {s : State} {p off : Nat} {r : PlainReg} {v w : Word} {x : Polder}
    (hr : s.plainWrite r v = s.setPolder p x) (hb : x.blank off = (s.polder p).blank off)
    (hw : pageRead (s.setPolder p x) p off = w) :
    Completes (.registerWrite r v) s fun t => SameMemory s t ∧ t.cores = s.cores ∧ pageRead t p off = w
      ∧ (∀ o, o ≠ off → pageRead t p o = pageRead s p o) ∧ ∀ q, q ≠ p → t.polder q = s.polder q :=
  ⟨_, by rw [exec_registerWrite, execRegisterWrite, hr], .setPolder s p x, rfl, hw,
    fun _ ho => pageRead_eq_of_blank (by simpa using hb) ho, fun _ hq => State.polder_setPolder_ne s x hq⟩

/-- The low bits of a word, as a narrow field holds them and a wide word reads them. -/
theorem ofNat_toNat_setWidth {n : Nat} (v mask : Word) (h : ∀ i < 32, mask.getLsbD i = decide (i < n)) :
    BitVec.ofNat 32 (v.setWidth n).toNat = v &&& mask := by
  rw [BitVec.ofNat_toNat]
  ext i hi
  simp [← BitVec.getLsbD_eq_getElem, hi, h i hi, Bool.and_comm]

/-- The low bits of a word as a number. -/
theorem wordLow_eq_toNat_and {n : Nat} (v mask : Word) (h : mask.toNat = 2 ^ n - 1) : wordLow v n = (v &&& mask).toNat := by
  rw [BitVec.toNat_and, h, Nat.and_two_pow_sub_one_eq_mod, wordLow]

/-- A value in the range of its register is what a write leaves there (R159, R254, R279). -/
theorem plainWrite_ageLim {s : State} {p : Nat} {v : Word} (hp : p < 64) (hv : v.setWidth 8 ≠ (0 : BitVec 8)) :
    s.plainWrite (.ageLim p) v = s.setPolder p { s.polder p with ageLim := v.setWidth 8 } := by
  simp only [State.plainWrite, if_pos hp, if_neg hv]

theorem plainWrite_walkWt {s : State} {p : Nat} {v : Word} (hp : p < 64) (hv : v.setWidth 8 ≠ (0 : BitVec 8)) :
    s.plainWrite (.walkWt p) v = s.setPolder p { s.polder p with walkWt := v.setWidth 8 } := by
  simp only [State.plainWrite, if_pos hp, if_neg hv]

theorem plainWrite_auditF {s : State} {p : Nat} {v : Word} (hp : p < 64) (hv : (v &&& 0x7FF).toNat ≤ 1024) :
    s.plainWrite (.auditF p) v = s.setPolder p { s.polder p with auditF := v.setWidth 11 } := by
  have hlow := wordLow_eq_toNat_and (n := 11) v 0x7FF (by decide)
  simp only [State.plainWrite, if_pos hp, hlow, gt_iff_lt, if_neg (Nat.not_lt.2 hv)]

theorem plainWrite_walkLim {s : State} {p : Nat} {v : Word} (hp : p < 64) (hlo : 64 ≤ (v &&& 0x7FFF).toNat)
    (hhi : (v &&& 0x7FFF).toNat ≤ 16384) :
    s.plainWrite (.walkLim p) v = s.setPolder p { s.polder p with walkLim := v.setWidth 15 } := by
  have hlow := wordLow_eq_toNat_and (n := 15) v 0x7FFF (by decide)
  have hin : ¬((v &&& 0x7FFF).toNat < 64 ∨ (v &&& 0x7FFF).toNat > 16384) := by omega
  simp only [State.plainWrite, if_pos hp, hlow, Bool.or_eq_true, decide_eq_true_eq, if_neg hin]

/-- TRAINSEL keeps what is written to it, but for a stack that is in training (R301). -/
theorem setTrainsel_of_idle {s : State} {st : Nat} (v : Word) (h : st < 24) (hi : (s.hbm st).state ≠ 1) :
    s.setTrainsel st v = s.setHbm st { s.hbm st with trainsel := v.setWidth 8 } := by
  have hno : ¬(24 ≤ st ∨ (s.hbm st).state = 1) := not_or.2 ⟨by omega, hi⟩
  simp only [State.setTrainsel, ge_iff_le, Bool.or_eq_true, decide_eq_true_eq, hno, if_false]

theorem setTrainsel_of_training {s : State} {st : Nat} (v : Word) (h : (s.hbm st).state = 1) : s.setTrainsel st v = s := by
  simp [State.setTrainsel, h]

@[simp] theorem State.port_setPort_same (s : State) (k : Nat) (x : Port) : (s.setPort k x).port k = x := by
  simp [State.port, State.setPort]

/-- A write that changes one register of a port sets it. -/
theorem registerWrite_port {s : State} {k : Nat} {r : PlainReg} {v : Word} {x : Port} (hr : s.plainWrite r v = s.setPort k x) :
    Completes (.registerWrite r v) s fun t => t.port k = x :=
  ⟨_, by rw [exec_registerWrite, execRegisterWrite, hr], State.port_setPort_same s k x⟩

/-! ### Writes of FEATACK (R18, R19) -/

/-- FEATACK before LOCKED takes the offered features that are written, and BASE. -/
theorem ackWrite_of_unlocked {s : State} {p n : Nat} (v : Word) (hl : (s.polder p).locked = false) (hn : n < 4) :
    ∃ a, s.ackWrite p n v = s.setPolder p { s.polder p with
      featack := tset 0 (s.polder p).featack n ((v &&& featOf n) ||| if n = 0 then 1 else 0), ackAt := a } := by
  simp only [State.ackWrite, hl, Bool.false_or, decide_eq_true_eq, Nat.not_le.2 hn, if_false]
  exact ⟨_, rfl⟩

theorem ackWrite_of_locked {s : State} {p : Nat} (n : Nat) (v : Word) (hl : (s.polder p).locked = true) : s.ackWrite p n v = s := by
  simp [State.ackWrite, hl]

/-- The words of FEATACK on the control page. -/
theorem pageRead_featack (s : State) (p : Nat) {n : Nat} (h : n < 4) : pageRead s p (0x10 + 4 * n) = tget 0 (s.polder p).featack n := by
  have hd : (0x10 + 4 * n) / 4 - 4 = n := by omega
  unfold pageRead
  rw [if_neg (by omega), if_pos (by omega), hd]

/-- No other word of the control page reads what a write of FEATACK moves. -/
theorem pageRead_setPolder_featack (s : State) (p : Nat) (f : Table Word) (a : Option (Nat × Table Word)) {off : Nat}
    (h : off < 0x10 ∨ 0x20 ≤ off) :
    pageRead (s.setPolder p { s.polder p with featack := f, ackAt := a }) p off = pageRead s p off := by
  unfold pageRead
  simp only [State.polder_setPolder_same]
  rcases h with h | h
  · simp only [if_pos h]
  · have h1 : ¬off < 0x10 := by omega
    simp only [if_neg h1, if_neg (Nat.not_lt.2 h)]

/-- Settles O51: each register is a field of its polder, stack or port, and a write changes that field alone. -/
theorem controlPages : Obligations.ControlPages := by
  unfold Obligations.ControlPages
  intro s p v
  refine ⟨fun n hn hl => ?_, fun n hl => ?_, ⟨fun hp => ?_, fun hv hp => ?_, fun hp => ?_, fun hv hp => ?_, fun hv hp => ?_,
    fun hp => ?_, fun hlo hhi hp => ?_, fun hv hp => ?_, fun hp => ?_, fun hp => ?_⟩, fun st hst hi => ?_, fun st ht => ?_,
    fun k hk => ?_, fun k hk he => ?_, fun k hk he hv => ?_, fun k hk he => ?_⟩
  · obtain ⟨a, ha⟩ := ackWrite_of_unlocked v hl hn
    refine ⟨_, by rw [exec_featackWrite, execFeatackWrite, ha], .setPolder s p _, rfl, ?_, fun m hm hne => ?_, fun off ho => ?_,
      fun q hq => State.polder_setPolder_ne s _ hq⟩
    · simp [pageRead_featack _ _ hn, featOf]
    · simp [pageRead_featack _ _ hm, hne]
    · exact pageRead_setPolder_featack s p _ a ho
  · rw [exec_featackWrite, execFeatackWrite, ackWrite_of_locked n v hl]
  · exact registerWrite_sets (if_pos hp) rfl (by simp [pageRead])
  · exact registerWrite_sets (if_pos hp) rfl (by simp [pageRead, Nat.max_eq_right hv])
  · exact registerWrite_sets (if_pos hp) rfl (by simp [pageRead])
  · exact registerWrite_sets (plainWrite_ageLim hp hv) rfl (by simpa [pageRead] using ofNat_toNat_setWidth (n := 8) v 0xFF (by decide))
  · exact registerWrite_sets (plainWrite_auditF hp hv) rfl (by simpa [pageRead] using ofNat_toNat_setWidth (n := 11) v 0x7FF (by decide))
  · exact registerWrite_sets (if_pos hp) rfl (by simpa [pageRead] using ofNat_toNat_setWidth (n := 4) v 0xF (by decide))
  · exact registerWrite_sets (plainWrite_walkLim hp hlo hhi) rfl
      (by simpa [pageRead] using ofNat_toNat_setWidth (n := 15) v 0x7FFF (by decide))
  · exact registerWrite_sets (plainWrite_walkWt hp hv) rfl (by simpa [pageRead] using ofNat_toNat_setWidth (n := 8) v 0xFF (by decide))
  · exact registerWrite_sets (if_pos hp) rfl (by simp [pageRead])
  · exact registerWrite_sets (if_pos hp) rfl (by simp [pageRead])
  · refine ⟨s.setHbm st { s.hbm st with trainsel := v.setWidth 8 }, ?_, ⟨rfl, rfl, fun _ => rfl⟩, State.hbm_setHbm_same ..,
      fun k hk => State.hbm_setHbm_ne s _ hk⟩
    rw [exec_registerWrite, execRegisterWrite, State.plainWrite, setTrainsel_of_idle v hst hi]
  · rw [exec_registerWrite, execRegisterWrite, State.plainWrite, setTrainsel_of_training v ht]
  · exact registerWrite_port (if_pos hk)
  · exact registerWrite_port (by simp [State.plainWrite, hk, he])
  · refine registerWrite_port ?_
    simp only [State.plainWrite, if_pos hk, he, Bool.false_or, decide_eq_true_eq, if_neg hv]
  · exact registerWrite_port (by simp [State.plainWrite, hk, he])

end Sys2Proof.Machine
end

section

/-!
# A queue is restarted whose descriptor crosses the end of a tier

A device on a tier port reports its size, and the addresses of its window beyond that size are unmapped (R286). The size need not be a
multiple of 64, so a queue descriptor, which is aligned to 64 bytes, can begin below the end and have HEAD past it. The service reaches
the descriptor by its first byte, and a QUEUE request restarts the stopped queue (R343), but the write of HEAD := TAIL goes nowhere.
-/

namespace Sys2Proof.Machine

/-- The descriptor's block: the last of tier port 0, of which the attached device has 12 bytes. -/
def lastBlock : Nat := 0x100000000000 + 10 ^ 12 - 64

/-- The stopped queue (R342): its descriptor is at the end of the tier. -/
def endQueue : Queue := { descPa := lastBlock, waitDue := none, skip := none, reports := [], dead := true, noted := none }

/-- Session 1 with queue 0 stopped. TAIL, at 16 of the descriptor, holds 1, and HEAD, at 12, holds 0. -/
def pastTierEnd : State :=
  { State.reset with
    tiers := [(0, { up := true, size := 10 ^ 12 - 52 })]
    polders := [(1, { Polder.reset with alive := true, queues := [(0, endQueue)] })]
    mem := mwrites [] (lastBlock + 16) [1] }

/-- The descriptor's block begins below the end of the tier, so the service reaches it from the port die (R286). -/
theorem descAvail_pastTierEnd : pastTierEnd.descAvail lastBlock = .yes := by decide +kernel

/-- No block of the state holds an error. -/
theorem sound_pastTierEnd : pastTierEnd.sound lastBlock 64 := by
  unfold State.sound
  decide +kernel

/-- HEAD lies past the end: the restart's write of it ends with UNAVAIL and changes nothing, so HEAD stays 0. -/
theorem exec_queueReq_pastTierEnd : ∃ t, exec (.queueReq 1 0 16 0 0 0) pastTierEnd = .next t
    ∧ t.coherent (lastBlock + 12) ≠ pastTierEnd.coherent (lastBlock + 16) :=
  ⟨_, rfl, by decide +kernel⟩

/-- Refutes O49: the restart of a queue whose descriptor crosses the end of a tier's addresses leaves HEAD behind TAIL. -/
theorem not_serviceRequests : ¬ Obligations.ServiceRequests := by
  unfold Obligations.ServiceRequests
  intro h
  obtain ⟨-, hrestart, -⟩ := h pastTierEnd 1 (by decide +kernel) rfl rfl
  obtain ⟨t, ht, -, -, -, hhead, -⟩ :=
    hrestart 0 16 0 0 0 endQueue (by decide) rfl (by decide) sound_pastTierEnd rfl descAvail_pastTierEnd
  obtain ⟨u, hu, hne⟩ := exec_queueReq_pastTierEnd
  injection hu.symm.trans ht with e
  subst e
  exact hne (hhead 0 (by decide)).1

end Sys2Proof.Machine
end

section

/-!
# What an instruction's own-group frame keeps

An instruction that acts on its own group alone (`OwnGroup`) leaves the launch of every block, what an audit and a re-execution are
known by, every polder and every record as they were. The proofs of the execution model use these facts by name.
-/

namespace Sys2Proof.Machine

namespace OwnGroup

variable {s t : State} {c sl : Nat}

theorem mem_eq (h : OwnGroup s t c sl) : t.mem = s.mem := (congrArg State.mem h.others : t.rest.mem = s.rest.mem)
theorem sp_eq (h : OwnGroup s t c sl) : t.sp = s.sp := (congrArg State.sp h.others : t.rest.sp = s.rest.sp)
theorem clock_eq (h : OwnGroup s t c sl) : t.clock = s.clock := (congrArg State.clock h.others : t.rest.clock = s.rest.clock)
theorem linkQ_eq (h : OwnGroup s t c sl) : t.linkQ = s.linkQ := (congrArg State.linkQ h.others : t.rest.linkQ = s.rest.linkQ)
theorem polders_eq (h : OwnGroup s t c sl) : t.polders = s.polders :=
  (congrArg State.polders h.others : t.rest.polders = s.rest.polders)
theorem polder (h : OwnGroup s t c sl) (p : Nat) : t.polder p = s.polder p := by
  unfold State.polder; rw [h.polders_eq]
theorem sh_eq (h : OwnGroup s t c sl) (d : Nat) : (t.core d).sh = (s.core d).sh :=
  (congrArg Core.sh (h.cores d) : (t.core d).rest.sh = (s.core d).rest.sh)
theorem records_eq (h : OwnGroup s t c sl) (d : Nat) : (t.core d).records = (s.core d).records :=
  (congrArg Core.records (h.cores d) : (t.core d).rest.records = (s.core d).rest.records)
theorem ageCtr_eq (h : OwnGroup s t c sl) (d : Nat) : (t.core d).ageCtr = (s.core d).ageCtr :=
  (congrArg Core.ageCtr (h.cores d) : (t.core d).rest.ageCtr = (s.core d).rest.ageCtr)

/-- Any part of a block but its poison flag and its progress marks is as before. -/
theorem block_map {α : Type} (h : OwnGroup s t c sl) (f : Block → α) (hf : ∀ x, f x.rest = f x) (d b : Nat) :
    (t.block d b).map f = (s.block d b).map f := by
  have := congrArg (Option.map f) (h.blocks d b)
  simpa [Option.map_map, Function.comp_def, hf] using this

theorem launch (h : OwnGroup s t c sl) (d b : Nat) : (t.block d b).map Block.launch = (s.block d b).map Block.launch :=
  h.block_map Block.launch (fun _ => rfl) d b

theorem coherent (h : OwnGroup s t c sl) (a : Nat) : t.coherent a = s.coherent a :=
  (congrArg (fun u : State => u.coherent a) h.others : t.rest.coherent a = s.rest.coherent a)

end OwnGroup

/-- The launch of a group's block, as a part of its block. -/
theorem State.launchOf_eq (s : State) (c : Nat) (g : Group) :
    s.launchOf c g = ((s.block c g.bslot).map Block.launch).getD default := by
  unfold State.launchOf; cases s.block c g.bslot <;> rfl

theorem OwnGroup.launchOf {s t : State} {c sl : Nat} (h : OwnGroup s t c sl) (d : Nat) (g : Group) :
    t.launchOf d g = s.launchOf d g := by
  rw [State.launchOf_eq, State.launchOf_eq, h.launch]

theorem State.inRerun_eq (s : State) (c b : Nat) :
    s.inRerun c b = (((s.block c b).map Block.rerun).getD none).isSome := by
  unfold State.inRerun; cases s.block c b <;> rfl

theorem OwnGroup.inRerun {s t : State} {c sl : Nat} (h : OwnGroup s t c sl) (d b : Nat) : t.inRerun d b = s.inRerun d b := by
  rw [State.inRerun_eq, State.inRerun_eq, h.block_map Block.rerun fun _ => rfl]

theorem OwnGroup.spBase {s t : State} {c sl : Nat} (h : OwnGroup s t c sl) (p : Nat) : t.spBase p = s.spBase p := by
  unfold State.spBase; rw [h.polder]

/-- A block's argument to an instruction's body reads as it does before issue. -/
theorem OwnGroup.block_some {s t : State} {c sl d b : Nat} (h : OwnGroup s t c sl) {x : Block} (hx : s.block d b = some x) :
    ∃ y, t.block d b = some y ∧ y.rest = x.rest := by
  have := h.blocks d b
  rw [hx] at this
  cases hy : t.block d b with
  | none => rw [hy] at this; cases this
  | some y => rw [hy] at this; exact ⟨y, rfl, Option.some.inj this⟩

end Sys2Proof.Machine
end

section

/-!
# Matrix instructions (R35, R110 to R122)
-/

namespace Sys2Proof.Machine

/-- A matrix instruction of a group of 32 threads whose matrix unit is free passes where its own check does. -/
theorem mxPre_ok {own : Nat → Group → State → Check} {c sl : Nat} {g : Group} {s : State} (hocc : ∀ l < 32, g.occ l = true)
    (hown : own c g s = .ok) (hbusy : s.mxBusy c sl = false) : mxPre own c sl g s = .ok := by
  have : mxFull g = .ok := by
    unfold mxFull
    exact if_pos (by simpa [lanes32] using hocc)
  simp [mxPre, this, hown, hbusy]

/-- A matrix instruction of a group with an empty or helper lane finds the fault of R315, whatever its own check finds. -/
theorem mxPre_converge {own : Nat → Group → State → Check} {c sl : Nat} {g : Group} {s : State} (hocc : ∃ l < 32, g.occ l = false) :
    mxPre own c sl g s = .fault { code := 2, cause := 1, lanes := ~~~g.occMask, aux := g.occMask } := by
  have : mxFull g = .fault { code := 2, cause := 1, lanes := ~~~g.occMask, aux := g.occMask } := by
    unfold mxFull
    obtain ⟨l, hl, ho⟩ := hocc
    refine if_neg fun h => ?_
    simp only [lanes32, List.all_eq_true, List.mem_range] at h
    simp [h l hl] at ho
  simp [mxPre, this]

/-- Where an instruction issues and its check finds a fault, the fault is taken (R310, R311). -/
theorem issueWith_fault {i : Instr} {s : State} {c sl : Nat} {g : Group} {cl : Clause} (h : Issues i s c sl g cl)
    (pre : Nat → Nat → Group → State → Check) (body : Nat → Nat → Group → State → State) {f : FaultAt}
    (hp : pre c sl g s = .fault f) : issueWith (issueOf i) pre body s = .next (s.takeFault c sl f (resumeOf g)) := by
  simp [issueWith, h.agent, h.group, h.clause, h.ready, h.legal, hp]

@[simp] theorem State.group_busyMx (s : State) (c sl n d i : Nat) : (s.busyMx c sl n).group d i = s.group d i :=
  State.group_onSub ..

/-- Results entered behind an instruction's marks, while the matrix unit works (R60, R114). -/
theorem later_of_busyMx {i : Instr} {s u : State} {c sl : Nat} {g : Group} {cl : Clause} (n : Nat) (ws : List LWrite)
    (hu : OwnGroup (s.begun (issueOf i) c sl g cl) u c sl)
    (hg : u.group c sl = (s.begun (issueOf i) c sl g cl).group c sl) (hn : u.next = s.next) :
    Later i s ((u.busyMx c sl n).defer c sl ((issueOf i).la.getD 0) ws) c sl g ws :=
  later_of_defer ws (hu.trans (.busyMx u c sl n)) (by rw [State.group_busyMx, hg]) hn

/-- An accumulating instruction with its weights in registers enters the sums of R117. -/
theorem mxIssue_later {i : Instr} {s : State} {c sl : Nat} {g : Group} {cl : Clause} (h : Issues i s c sl g cl)
    {own : Nat → Group → State → Check} (hocc : ∀ l < 32, g.occ l = true) (hown : own c g s = .ok) (hbusy : s.mxBusy c sl = false)
    (gd : Guard) (d a : Reg) (af : AFmt) (z : Bool) (steps clocks : Nat) (w : Group → Nat → Nat → Option FVal) :
    ∃ t, mxIssue i own gd d a af z steps clocks ((issueOf i).la.getD 0) w s = .next t
      ∧ Later i s t c sl g (mxResults g gd d z steps (fun m => aElem af (g.reg m) a.toNat) (w g)) :=
  ⟨_, issueWith_next h _ _ (mxPre_ok hocc hown hbusy), later_of_busyMx _ _ (.refl ..) rfl (State.next_begun ..)⟩

/-- No mask of an active lane has more ones than the instruction admits (R120). -/
theorem sparsePre_ok {e : Src} {n : BitVec 4} {st : BitVec 2} {gd : Guard} {c : Nat} {g : Group} {s : State}
    (h : ∀ l < 32, g.active gd l = true → ∀ j < st.toNat + 1, onesBelow (g.reg l (e.reg.toNat + j)).toNat 24 ≤ n.toNat + 1) :
    sparsePre e n st gd c g s = .ok := by
  unfold sparsePre sparseCheck
  have hnone : (List.range (st.toNat + 1)).find? (fun j => (lanes32.filter (g.active gd)).any fun i =>
      decide (onesBelow (g.reg i (e.reg.toNat + j)).toNat 24 > n.toNat + 1)) = none := by
    simp only [List.find?_eq_none, List.mem_range, List.any_eq_true, List.mem_filter, lanes32, decide_eq_true_eq, not_exists, not_and]
    rintro j hj l ⟨hl, ha⟩
    exact Nat.not_lt.2 (h l hl ha j hj)
  simp only [hnone]

/-! ### The matrix path (R119) -/

/-- The words that the matrix path may find at an address. -/
def State.mxWords (s : State) (c a : Nat) : List Word := mget32 (s.core c).sh a :: tget [] (s.core c).mxHist a

/-- The state with another count of free choices. -/
def State.withChoices (s : State) (k : Nat) : State := { s with choices := k }

/-- A read along the matrix path gives one of these words, and uses up at most one free choice. -/
theorem State.mxRead_spec (s : State) (c a : Nat) :
    (s.mxRead c a).1 ∈ s.mxWords c a ∧ ∃ k, (s.mxRead c a).2 = s.withChoices k := by
  unfold State.mxRead State.mxWords
  cases h : tget [] (s.core c).mxHist a with
  | nil => simp only [h]; exact ⟨by simp, s.choices, rfl⟩
  | cons w old =>
    simp only [h, State.fresh]
    refine ⟨?_, s.choices + 1, rfl⟩
    rw [List.getD_eq_getElem _ _ (by simpa using Nat.mod_lt _ (Nat.succ_pos _))]
    exact List.getElem_mem _

/-- The first `m` words of an image. -/
def State.mxFold (s : State) (c a m : Nat) : List Word × State :=
  (List.range m).foldl (init := ([], s)) fun (ws, s) i =>
    let (w, s) := s.mxRead c (a + 4 * i)
    (ws ++ [w], s)

theorem State.mxFold_succ (s : State) (c a m : Nat) : s.mxFold c a (m + 1)
    = ((s.mxFold c a m).1 ++ [((s.mxFold c a m).2.mxRead c (a + 4 * m)).1], ((s.mxFold c a m).2.mxRead c (a + 4 * m)).2) := by
  simp only [State.mxFold, List.range_succ, List.foldl_append, List.foldl_cons, List.foldl_nil]

/-- Each word of an image is one that the matrix path may find at its address; nothing but free choices is used up. -/
theorem State.mxFold_spec (s : State) (c a m : Nat) :
    (s.mxFold c a m).1.length = m ∧ (∀ i < m, ∃ v ∈ s.mxWords c (a + 4 * i), (s.mxFold c a m).1[i]? = some v)
      ∧ ∃ k, (s.mxFold c a m).2 = s.withChoices k := by
  induction m with
  | zero => exact ⟨rfl, fun i h => absurd h (Nat.not_lt_zero i), s.choices, rfl⟩
  | succ m ih =>
    obtain ⟨hlen, hmem, k, hk⟩ := ih
    obtain ⟨hw, k', hk'⟩ := State.mxRead_spec (s.mxFold c a m).2 c (a + 4 * m)
    rw [State.mxFold_succ]
    refine ⟨by simp [hlen], fun i hi => ?_, k', by rw [hk', hk]; rfl⟩
    rcases Nat.lt_succ_iff_lt_or_eq.1 hi with h | rfl
    · obtain ⟨v, hv, he⟩ := hmem i h
      exact ⟨v, hv, by rw [List.getElem?_append_left (hlen.symm ▸ h), he]⟩
    · rw [hk] at hw
      exact ⟨_, hw, by rw [List.getElem?_append_right hlen.le, hlen, hk, Nat.sub_self]; rfl⟩

theorem OwnGroup.choices (s : State) (c sl k : Nat) : OwnGroup s (s.withChoices k) c sl :=
  ⟨fun _ => rfl, fun _ => rfl, fun _ _ => rfl, fun _ _ _ => rfl, fun _ _ => rfl, fun _ => rfl, rfl⟩

/-- A fragment image that is aligned and lies in the block's shared memory passes (R119). -/
theorem imagePre_ok {a : Src} {off n c : Nat} {g : Group} {s : State} {x : Block} (hx : s.block c g.bslot = some x)
    (hal : ((g.reg 0 a.reg.toNat).toNat + off) % 128 = 0) (hin : (g.reg 0 a.reg.toNat).toNat + off + 128 * n ≤ x.shSize) :
    imagePre a off n c g s = .ok := by
  simp [imagePre, imageCheck, hx, hal, Nat.not_lt.2 hin]

/-- An instruction that reads a fragment image along the matrix path and enters results from it: each word of the image is one that
the path may find (R119). `b` is the image's address in the block. -/
theorem image_later {i : Instr} {s : State} {c sl : Nat} {g : Group} {cl : Clause} (h : Issues i s c sl g cl) {x : Block}
    (hx : s.block c g.bslot = some x) (pre : Nat → Nat → Group → State → Check) (hpre : pre c sl g s = .ok) (b regs clocks : Nat)
    (body : Nat → Nat → Group → State → State) (out : List Word → List LWrite)
    (hbody : ∀ u : State, u.block c g.bslot ≠ none → body c sl g u
      = (((u.mxFold c (u.shBaseOf c g + b) (32 * regs)).2.busyMx c sl clocks).defer c sl ((issueOf i).la.getD 0)
          (out (u.mxFold c (u.shBaseOf c g + b) (32 * regs)).1))) :
    ∃ t, issueWith (issueOf i) pre body s = .next t ∧ ∃ ws : List Word,
      Later i s t c sl g (out ws) ∧ ws.length = 32 * regs
      ∧ ∀ j < 32 * regs, ∃ v ∈ s.mxWords c (x.shBase + b + 4 * j), ws[j]? = some v := by
  have hf := OwnGroup.begun (issueOf i) s c sl g cl
  obtain ⟨y, hy, hrest⟩ := hf.block_some hx
  have hbase : (s.begun (issueOf i) c sl g cl).shBaseOf c g = x.shBase := by
    unfold State.shBaseOf; rw [hy]; exact (congrArg Block.shBase hrest : y.rest.shBase = x.rest.shBase)
  refine ⟨_, issueWith_next h _ _ hpre, ?_⟩
  rw [hbody _ (by simp [hy]), hbase]
  obtain ⟨hlen, hmem, k, hk⟩ := State.mxFold_spec (s.begun (issueOf i) c sl g cl) c (x.shBase + b) (32 * regs)
  refine ⟨_, later_of_busyMx (cl := cl) _ _ ?_ ?_ ?_, hlen, ?_⟩
  · rw [hk]; exact .choices ..
  · rw [hk]; rfl
  · rw [hk]; exact State.next_begun ..
  · intro j hj
    have hsh := hf.sh_eq c
    have hhist : ((s.begun (issueOf i) c sl g cl).core c).mxHist = (s.core c).mxHist :=
      (congrArg Core.mxHist (hf.cores c) : (Core.rest _).mxHist = (s.core c).rest.mxHist)
    simpa [State.mxWords, hsh, hhist] using hmem j hj

/-- The first half of O6, instruction by instruction: each passes its check and enters its results behind its marks. -/
theorem matrix_results : Claims.Matrix := by
  intro d a w e af wf nf xf z sat st bsel n cnt off rm la gd s c sl g cl hocc hbusy
  dsimp only [Completes]
  refine ⟨fun h => ?_, fun h => ?_, fun h hm => ?_, fun x hx h hal hin => ?_, fun x hx h hal hin => ?_, fun h => ?_⟩
  · rw [exec_mma]
    exact mxIssue_later h hocc rfl hbusy gd d a.reg af z _ _ _
  · rw [exec_mmaw]
    exact mxIssue_later h hocc rfl hbusy gd d a.reg af z _ _ _
  · rw [exec_mmasp]
    exact mxIssue_later h hocc (sparsePre_ok hm) hbusy gd d a.reg af z _ _ _
  · simp only [exec_mmas, execMmas]
    exact image_later h hx _ (mxPre_ok hocc (imagePre_ok (off := 0) (n := 6 * (st.toNat + 1)) hx hal hin) hbusy) _ _ _ _
      (fun ws => mxResults g gd d z (st.toNat + 1) (fun m => aElem af (g.reg m) a.reg.toNat)
        fun n k => some (wElem wf (fun r => ws.getD (32 * r + n) 0) 0 k)) fun u _ => rfl
  · simp only [exec_ldfrag, execLdfrag]
    refine image_later h hx _ (mxPre_ok hocc (imagePre_ok hx hal hin) hbusy) _ _ ((cnt.toNat + 1 + 7) / 8) _
      (fun ws => (lanes32.filter (g.active gd)).flatMap fun l => (List.range (cnt.toNat + 1)).map fun i =>
        { lane := l, loc := .reg (d.toNat + i), val := ws.getD (32 * i + l) 0, flags := 0 }) fun u _ => ?_
    rw [← Nat.add_assoc]
    rfl
  · simp only [exec_fxpose, execFxpose]
    exact ⟨_, issueWith_next h _ _ (mxPre_ok hocc rfl hbusy),
      later_of_busyMx _ _ (.refl ..) rfl (State.next_begun ..)⟩

/-- The second half of O6: the need of every lane is the first thing that a matrix instruction checks. -/
theorem matrix_needs_threads : Claims.MatrixNeedsThreads := by
  intro d a w e af wf nf xf z sat st bsel n cnt off rm la gd s c sl g cl i hi h hocc
  simp only [List.mem_cons, List.not_mem_nil, or_false] at hi
  rcases hi with rfl | rfl | rfl | rfl | rfl | rfl
  · rw [exec_mma, execMma, mxIssue]; exact issueWith_fault h _ _ (mxPre_converge hocc)
  · rw [exec_mmaw, execMmaw, mxIssue]; exact issueWith_fault h _ _ (mxPre_converge hocc)
  · rw [exec_mmas, execMmas]; exact issueWith_fault h _ _ (mxPre_converge hocc)
  · rw [exec_mmasp, execMmasp, mxIssue]; exact issueWith_fault h _ _ (mxPre_converge hocc)
  · rw [exec_ldfrag, execLdfrag]; exact issueWith_fault h _ _ (mxPre_converge hocc)
  · rw [exec_fxpose, execFxpose]; exact issueWith_fault h _ _ (mxPre_converge hocc)

/-- Settles O6, by its two halves. -/
theorem matrix : Obligations.Matrix := by
  unfold Obligations.Matrix
  exact ⟨matrix_results, matrix_needs_threads⟩

end Sys2Proof.Machine
end

section

/-!
# The frame of the audit's bookkeeping (R257 to R261)

What an audit logs of a block, and what a re-execution takes from a log, changes audits, the audit marks of blocks and the audit
counters of polders, and nothing else.
-/

namespace Sys2Proof.Machine

/-- A polder without its audit counters. -/
def Polder.offAudit (x : Polder) : Polder := { x with audCan := 0, audRingUse := 0 }

/-- A block without its audit. -/
def Block.offAudit (x : Block) : Block := { x with audit := none }

/-- A core without its blocks. -/
def Core.offBlocks (k : Core) : Core := { k with blocks := [] }

/-- A state without its cores, its polders and its audits. -/
def State.offAudits (s : State) : State := { s with cores := [], polders := [], audits := [] }

/-- Nothing but audits, audit marks of blocks and audit counters of polders has changed. -/
structure AuditOnly (s t : State) : Prop where
  others  : t.offAudits = s.offAudits
  cores   : ∀ d, (t.core d).offBlocks = (s.core d).offBlocks
  blocks  : ∀ d b, (t.block d b).map Block.offAudit = (s.block d b).map Block.offAudit
  polders : ∀ p, (t.polder p).offAudit = (s.polder p).offAudit

namespace AuditOnly

variable {s t u : State}

theorem refl (s : State) : AuditOnly s s := ⟨rfl, fun _ => rfl, fun _ _ => rfl, fun _ => rfl⟩

theorem trans (h : AuditOnly s t) (k : AuditOnly t u) : AuditOnly s u :=
  ⟨k.others.trans h.others, fun d => (k.cores d).trans (h.cores d), fun d b => (k.blocks d b).trans (h.blocks d b),
    fun p => (k.polders p).trans (h.polders p)⟩

theorem audits (s : State) (x : Table Audit) : AuditOnly s { s with audits := x } :=
  ⟨rfl, fun _ => rfl, fun _ _ => rfl, fun _ => rfl⟩

theorem setPolder (s : State) (p : Nat) (x : Polder) (h : x.offAudit = (s.polder p).offAudit) : AuditOnly s (s.setPolder p x) :=
  ⟨rfl, fun _ => rfl, fun _ _ => rfl, fun q => by
    by_cases e : q = p
    · subst e; rw [State.polder_setPolder_same, h]
    · rw [State.polder_setPolder_ne _ _ e]⟩

theorem setBlock (s : State) (c b : Nat) {x y : Block} (hx : s.block c b = some x) (h : y.offAudit = x.offAudit) :
    AuditOnly s (s.setBlock c b y) where
  others := rfl
  cores d := by
    by_cases e : d = c
    · subst e; simp [State.setBlock, Core.offBlocks]
    · simp [State.setBlock, e]
  blocks d i := by
    by_cases e : d = c
    · subst e
      by_cases ei : i = b
      · subst ei; simp [hx, h]
      · rw [State.block_setBlock_ne _ _ _ ei]
    · simp [State.block, State.setBlock, e]
  polders _ := rfl

theorem audCancel (s : State) (c b : Nat) : AuditOnly s (s.audCancel c b) := by
  unfold State.audCancel
  split
  · next x hx =>
    split
    · refine .trans (.setPolder s x.launch.polder _ ?_) (.trans (.setBlock _ c b (x := x) ?_ ?_) (.audits _ _))
      · rfl
      · exact hx
      · rfl
    · exact .refl s
  · exact .refl s

theorem onAudit (s : State) (c b : Nat) (f : Audit → Audit) : AuditOnly s (s.onAudit c b f) := by
  unfold State.onAudit
  split
  · dsimp only
    split
    · exact .audCancel s c b
    · exact .audits s _
  · exact .refl s

theorem onLog (s : State) (c b gn : Nat) (f : List LogEntry → List LogEntry) : AuditOnly s (s.onLog c b gn f) := .onAudit s c b _

theorem logCtl (s : State) (c b gn : Nat) (e : Ctl) : AuditOnly s (s.logCtl c b gn e) := .onAudit s c b _

theorem audLog (s : State) (c : Nat) (g : Group) (bytes : List Byte) : AuditOnly s (s.audLog c g bytes) := .onLog s ..

theorem onRerun (s : State) (c b : Nat) (f : Rerun → Rerun) : AuditOnly s (s.onRerun c b f) := by
  unfold State.onRerun
  split
  · exact .audits s _
  · exact .refl s

theorem failRun (s : State) (c b : Nat) : AuditOnly s (s.failRun c b) := .onRerun s c b _

theorem nextLog (s : State) (c b gn : Nat) : AuditOnly s (s.nextLog c b gn).2 := by
  unfold State.nextLog
  split
  · exact .onRerun s c b _
  · exact .failRun s c b

theorem onEffects (s : State) (c b gn : Nat) (f : Entries → Entries) : AuditOnly s (s.onEffects c b gn f) := by
  unfold State.onEffects
  split
  · exact .audits s _
  · exact .onRerun s c b _

theorem audPlan (s : State) (o : Origin) (id : Nat) : AuditOnly s (s.audPlan o id) := (onLog s ..).trans (.onEffects _ ..)

theorem inputWords (s : State) (c : Nat) (g : Group) (ws : List LWrite) : AuditOnly s (s.inputWords c g ws).2 := by
  unfold State.inputWords
  split
  · dsimp only
    split
    · exact .nextLog s ..
    · exact (nextLog s ..).trans (.failRun _ ..)
  · exact .audLog s ..

theorem group (h : AuditOnly s t) (d i : Nat) : t.group d i = s.group d i :=
  (congrArg (fun k : Core => tfind k.groups i) (h.cores d) : tfind (t.core d).offBlocks.groups i = tfind (s.core d).offBlocks.groups i)

end AuditOnly

/-- A block that is not audited logs nothing (R257). -/
theorem State.onAudit_of_unaudited {s : State} {c b : Nat} (h : ∀ x, s.block c b = some x → x.audit = none) (f : Audit → Audit) :
    s.onAudit c b f = s := by
  have : s.auditOf c b = none := by
    unfold State.auditOf
    cases hb : s.block c b with
    | none => rfl
    | some x => simp [h x hb]
  simp [State.onAudit, this]

/-- A word that is an input of a block that is neither audited nor a re-execution is as it is read. -/
theorem State.inputWords_plain {s : State} {c : Nat} {g : Group} {x : Block} (hx : s.block c g.bslot = some x) (ha : x.audit = none)
    (hr : x.rerun = none) (ws : List LWrite) : s.inputWords c g ws = (ws, s) := by
  have hlog : s.audLog c g (loggedWords ws) = s :=
    State.onAudit_of_unaudited (fun y hy => by rw [hx] at hy; cases hy; exact ha) _
  simp [State.inputWords, State.inRerun, hx, hr, hlog]

/-- In a re-execution the log changes the values of results, not where they go (R261). -/
theorem State.inputWords_locs (s : State) (c : Nat) (g : Group) (ws : List LWrite) :
    (s.inputWords c g ws).1.map (fun w => (w.lane, w.loc)) = ws.map fun w => (w.lane, w.loc) := by
  unfold State.inputWords
  split
  · dsimp only
    split
    · rw [List.map_map]
      conv_rhs => rw [← List.zipIdx_map_fst 0 ws, List.map_map]
      rfl
    · rfl
  · rfl

end Sys2Proof.Machine
end

section

/-!
# Special registers, and where loads complete (R24, R79, R108, R109, R136 to R142)
-/

namespace Sys2Proof.Machine

/-! ### Results entered behind an instruction's marks -/

/-- The group behind its instruction's marks has passed the instruction, and no register or predicate of it has changed. -/
theorem group_begun_passed (i : Instr) (s : State) (c sl : Nat) (g : Group) (cl : Clause) :
    ∃ h, (s.begun (issueOf i) c sl g cl).group c sl = some h ∧ Passed i g h ∧ (∀ l < 32, ∀ r, h.raw l r = g.raw l r)
      ∧ (∀ l < 32, ∀ p, h.rawPred l p = g.rawPred l p) ∧ h.fstat = markedFstat i g := by
  obtain ⟨-, h, hg, hp, hr, hq, hf, -⟩ :=
    later_of_defer (i := i) (s := s) (g := g) (cl := cl) [] (.refl _ c sl) rfl (State.next_begun ..)
  exact ⟨h, hg, hp, hr, hq, hf⟩

/-- Results entered for a group that differs from the one that issued: `g` says what it is but for the marks of its instruction. -/
theorem later_of_group {i : Instr} {s u : State} {c sl : Nat} {g k : Group} (ws : List LWrite) (hu : OwnGroup s u c sl)
    (hk : u.group c sl = some k) (hn : u.next = s.next) (hp : Passed i g k) (hr : ∀ l < 32, ∀ r, k.raw l r = g.raw l r)
    (hq : ∀ l < 32, ∀ p, k.rawPred l p = g.rawPred l p) (hf : k.fstat = markedFstat i g) :
    Later i s (u.defer c sl ((issueOf i).la.getD 0) ws) c sl g ws := by
  refine ⟨hu.trans (OwnGroup.defer ..), _, State.group_defer hk _ _, ?_⟩
  by_cases hw : ws = []
  · rw [if_pos hw]
    exact ⟨hp, hr, hq, hf, fun h => absurd hw h⟩
  · rw [if_neg hw]
    refine ⟨⟨hp.pc, hp.rest, hp.lanes⟩, hr, hq, hf, fun _ => ⟨_, List.mem_append_right _ (List.mem_singleton.2 rfl), ?_⟩⟩
    exact ⟨congrArg (· + 1) hn, rfl, rfl⟩

/-! ### Special registers -/

/-- A read of FSTAT waits for every result; a read of another special register waits for none (R79). -/
theorem sregPre_ok {fstat : Bool} {c sl : Nat} {g : Group} {s : State} (h : fstat = true → g.inflight = []) :
    sregPre fstat c sl g s = .ok := by
  cases fstat with
  | false => rfl
  | true => simp [sregPre, h rfl]

/-- A special register's value in each active lane, as the results of a load of one register. -/
theorem sregResults_eq_loaded {s : State} {c sl : Nat} {g : Group} {r : SReg} {value : Nat → Nat}
    (h : ∀ i, sregVal s c sl g r i = value i) (gd : Guard) (d : Reg) :
    sregResults s c sl g gd d r = loaded g gd d 1 fun k _ => BitVec.ofNat 32 (value k) := by
  simp only [sregResults, h]
  exact List.map_eq_flatMap ..

/-- What a special register's value depends on: the launch, the index and the home core of the group's block, and the clock. -/
theorem sregVal_begun {s : State} {c sl : Nat} {g : Group} {x : Block} (hx : s.block c g.bslot = some x) (v : Issue) (cl : Clause)
    (r : SReg) (i : Nat) : sregVal (s.begun v c sl g cl) c sl g r i = sregVal s c sl g r i := by
  have hf := OwnGroup.begun v s c sl g cl
  obtain ⟨y, hy, hrest⟩ := hf.block_some hx
  have hidx : y.idx = x.idx := (congrArg Block.idx hrest : y.rest.idx = x.rest.idx)
  have hhome : y.homeCore = x.homeCore := (congrArg Block.homeCore hrest : y.rest.homeCore = x.rest.homeCore)
  simp only [sregVal, hf.launchOf, hf.clock_eq, hx, hy, hidx, hhome]

/-- An unaudited block's group reads a special register: its value comes as a result, and nothing is logged. -/
theorem inputs_unlogged {s : State} {c : Nat} {g : Group} {x : Block} (hx : s.block c g.bslot = some x) (ha : x.audit = none)
    (hr : x.rerun = none) (logged : Bool) (ws : List LWrite) :
    (if logged then s.inputWords c g ws else (ws, s)) = (ws, s) := by
  cases logged with
  | false => rfl
  | true => exact State.inputWords_plain hx ha hr ws

/-- A block that is neither audited nor a re-execution stays so behind its group's operations. -/
theorem OwnGroup.plain {s t : State} {c sl d b : Nat} (h : OwnGroup s t c sl) {x : Block} (hx : s.block d b = some x)
    (ha : x.audit = none) (hr : x.rerun = none) : ∃ y, t.block d b = some y ∧ y.audit = none ∧ y.rerun = none := by
  obtain ⟨y, hy, hrest⟩ := h.block_some hx
  exact ⟨y, hy, (congrArg Block.audit hrest : y.rest.audit = x.rest.audit).trans ha,
    (congrArg Block.rerun hrest : y.rest.rerun = x.rest.rerun).trans hr⟩

/-- The group whose active lanes have latched the high half of the clock (R109). -/
def Group.latched (g : Group) (gd : Guard) (clock : Nat) : Group :=
  g.mapLanes fun k ln => if g.active gd k then { ln with clkHi := some (BitVec.ofNat 32 (clock / 2 ^ 32)) } else ln

/-- The latch changes no lane but for CLOCK.HI. -/
theorem lane_latched (g h : Group) (gd : Guard) (clock : Nat) {l : Nat} (hl : l < 32) :
    (h.latch gd clock g).lane l
      = if g.active gd l then { h.lane l with clkHi := some (BitVec.ofNat 32 (clock / 2 ^ 32)) } else h.lane l :=
  lane_mapLanes h (fun i ln => if g.active gd i then { ln with clkHi := some (BitVec.ofNat 32 (clock / 2 ^ 32)) } else ln) hl

/-- A latch after an instruction's marks is the latch before them, seen through the marks. -/
theorem passed_latched {i : Instr} {g h : Group} (gd : Guard) (clock : Nat) (hp : Passed i g h) :
    Passed i (g.latched gd clock) (h.latch gd clock g) where
  pc := hp.pc
  rest := hp.rest
  lanes l hl := by
    have hlane := hp.lanes l hl
    rw [lane_latched _ _ _ _ hl]
    refine (?_ : _ = (Lane.rest ((g.latch gd clock g).lane l)))
    rw [lane_latched _ _ _ _ hl]
    split
    · exact congrArg (fun ln : Lane => { ln with clkHi := some (BitVec.ofNat 32 (clock / 2 ^ 32)) }) hlane
    · exact hlane

theorem raw_latch (g h : Group) (gd : Guard) (clock : Nat) {l : Nat} (hl : l < 32) (r : Nat) :
    (h.latch gd clock g).raw l r = h.raw l r := by
  unfold Group.raw; rw [lane_latched _ _ _ _ hl]; split <;> rfl

theorem rawPred_latch (g h : Group) (gd : Guard) (clock : Nat) {l : Nat} (hl : l < 32) (p : Nat) :
    (h.latch gd clock g).rawPred l p = h.rawPred l p := by
  unfold Group.rawPred; rw [lane_latched _ _ _ _ hl]; split <;> rfl

/-- A read of a special register other than CLOCK.LO enters its value (R108, R141). -/
theorem sreg_later {d : Reg} {r : SReg} {la : BitVec 4} {gd : Guard} {s : State} {c sl : Nat} {g : Group} {cl : Clause}
    (h : Issues (.sreg d r la gd) s c sl g cl) {x : Block} (hx : s.block c g.bslot = some x) (ha : x.audit = none)
    (hr : x.rerun = none) (hw : r = .fstat → g.inflight = []) (hclk : r ≠ .clockLo) :
    Completes (.sreg d r la gd) s fun t => Later (.sreg d r la gd) s t c sl g (sregResults s c sl g gd d r) := by
  have hf := OwnGroup.begun (issueOf (.sreg d r la gd)) s c sl g cl
  obtain ⟨y, hy, hya, hyr⟩ := hf.plain hx ha hr
  refine ⟨_, (exec_sreg ..).trans (issueWith_next h _ _ (sregPre_ok (by simpa using hw))), ?_⟩
  simp only [hclk, if_false, inputs_unlogged hy hya hyr]
  have hv : sregResults (s.begun (issueOf (.sreg d r la gd)) c sl g cl) c sl g gd d r = sregResults s c sl g gd d r := by
    simp only [sregResults, sregVal_begun hx]
  rw [hv]
  exact later_of_defer (cl := cl) _ (.refl ..) rfl (State.next_begun ..)

/-- A read of CLOCK.LO enters the low half and latches the high half in the lanes that read (R109). -/
theorem sreg_clockLo_later {d : Reg} {la : BitVec 4} {gd : Guard} {s : State} {c sl : Nat} {g : Group} {cl : Clause}
    (h : Issues (.sreg d .clockLo la gd) s c sl g cl) {x : Block} (hx : s.block c g.bslot = some x) (ha : x.audit = none)
    (hr : x.rerun = none) :
    Completes (.sreg d .clockLo la gd) s fun t =>
      Later (.sreg d .clockLo la gd) s t c sl (g.latched gd s.clock) (sregResults s c sl g gd d .clockLo) := by
  have hf := OwnGroup.begun (issueOf (.sreg d .clockLo la gd)) s c sl g cl
  have hu := hf.trans (.onGroup _ c sl fun k => k.latch gd s.clock g)
  obtain ⟨y, hy, hya, hyr⟩ := hu.plain hx ha hr
  obtain ⟨k, hk, hp, hraw, hpred, hfs⟩ := group_begun_passed (.sreg d .clockLo la gd) s c sl g cl
  refine ⟨_, (exec_sreg ..).trans (issueWith_next h _ _ (sregPre_ok (by simp))), ?_⟩
  simp only [if_true, hf.clock_eq, inputs_unlogged hy hya hyr]
  have hv : sregResults (s.begun (issueOf (.sreg d .clockLo la gd)) c sl g cl) c sl g gd d .clockLo
      = sregResults s c sl g gd d .clockLo := by
    simp only [sregResults, sregVal_begun hx]
  rw [hv]
  refine later_of_group _ hu (State.group_onGroup hk _) ?_ (passed_latched gd s.clock hp) (fun l hl r => ?_) (fun l hl p => ?_) hfs
  · rw [State.next_onGroup, State.next_begun]
  · rw [raw_latch _ _ _ _ hl, hraw l hl]; exact (raw_latch g g gd s.clock hl r).symm
  · rw [rawPred_latch _ _ _ _ hl, hpred l hl]; exact (rawPred_latch g g gd s.clock hl p).symm

/-- Of a group without outstanding results an instruction that reads neither register nor predicate makes no poison read. -/
theorem badRead_of_noUses {v : Issue} {g : Group} (hi : g.inflight = []) (hu : v.uses = []) (hp : v.puses = []) :
    badRead v g = false := by
  simp [badRead, Group.hidden, hi, hu, hp]

/-- `sreg.clr` enters FSTAT and clears it where a lane is active (R77, R79). -/
theorem sregClr_later {d : Reg} {la : BitVec 4} {gd : Guard} {s : State} {c sl : Nat} {g : Group} {cl : Clause}
    (h : Issues (.sregClr d la gd) s c sl g cl) {x : Block} (hx : s.block c g.bslot = some x) (ha : x.audit = none)
    (hr : x.rerun = none) (hi : g.inflight = []) :
    Completes (.sregClr d la gd) s fun t => Later (.sregClr d la gd) s t c sl
      (if lanes32.any (g.active gd) then { g with fstat := 0 } else g) (sregResults s c sl g gd d .fstat) := by
  have hf := OwnGroup.begun (issueOf (.sregClr d la gd)) s c sl g cl
  obtain ⟨k, hk, hp, hraw, hpred, hfs⟩ := group_begun_passed (.sregClr d la gd) s c sl g cl
  have hv : sregResults (s.begun (issueOf (.sregClr d la gd)) c sl g cl) c sl g gd d .fstat
      = sregResults s c sl g gd d .fstat := by
    simp only [sregResults, sregVal_begun hx]
  have hany : sregResults s c sl g gd d .fstat = [] ↔ ¬ lanes32.any (g.active gd) = true := by
    simp [sregResults, List.filter_eq_nil_iff]
  refine ⟨_, (exec_sregClr ..).trans (issueWith_next h _ _ (sregPre_ok fun _ => hi)), ?_⟩
  simp only [hv, hany]
  by_cases hl : lanes32.any (g.active gd) = true
  · have hu := hf.trans (.onGroup _ c sl fun k => { k with fstat := 0 })
    obtain ⟨y, hy, hya, hyr⟩ := hu.plain hx ha hr
    simp only [hl, not_true, if_false, if_true, State.inputWords_plain hy hya hyr]
    refine later_of_group _ hu (State.group_onGroup hk _) ?_ ⟨hp.pc, hp.rest, hp.lanes⟩ hraw hpred ?_
    · rw [State.next_onGroup, State.next_begun]
    · rw [markedFstat, badRead_of_noUses (by exact hi) rfl rfl]; rfl
  · obtain ⟨y, hy, hya, hyr⟩ := hf.plain hx ha hr
    simp only [hl, not_false_eq_true, if_true, if_false, State.inputWords_plain hy hya hyr, Bool.false_eq_true]
    exact later_of_defer (cl := cl) _ (.refl ..) rfl (State.next_begun ..)

/-- The first half of O10. -/
theorem special_registers : Claims.SpecialRegisters := by
  intro d r la gd s c sl g cl x hx ha hr
  dsimp only
  refine ⟨?_, ?_⟩
  · rintro i rfl h hw
    have hlaunch : s.launchOf c g = x.launch := by simp [State.launchOf, hx]
    rw [← sregResults_eq_loaded (s := s) (c := c) (sl := sl) (r := r) fun i => by
      cases r <;> simp only [sregVal, hx, hlaunch, grpIndex, ngrpOf, blkX, blkY, blkZ, dieOf, allocOf]]
    by_cases hclk : r = .clockLo
    · subst hclk
      exact sreg_clockLo_later h hx ha hr
    · rw [if_neg hclk]
      exact sreg_later h hx ha hr hw hclk
  · rintro i rfl h hi
    have := sregClr_later h hx ha hr hi
    have hv : ∀ i, sregVal s c sl g .fstat i = g.fstat.toNat := fun _ => rfl
    rwa [sregResults_eq_loaded hv, BitVec.ofNat_toNat] at this

/-! ### Where loads complete -/

/-- An access that is aligned and lies in its space, in every lane that works, finds no fault (R142). -/
theorem accessCheck_ok {g : Group} {gd : Guard} {addr : Nat → Int} {space size w : Nat} (h : Fits g gd addr w size) (ir : Word) :
    accessCheck space size w (g.works gd) addr ir = .ok := by
  have hmis : lowest (fun l => g.works gd l && misaligned w (addr l)) = none := by
    simp only [lowest, List.head?_eq_none_iff, List.filter_eq_nil_iff, lanes32, List.mem_range, Bool.and_eq_true, not_and]
    intro l hl hw
    simp [misaligned, (h l hl hw).1]
  have hout : lowest (fun l => g.works gd l && outside w size (addr l)) = none := by
    simp only [lowest, List.head?_eq_none_iff, List.filter_eq_nil_iff, lanes32, List.mem_range, Bool.and_eq_true, not_and]
    intro l hl hw
    obtain ⟨-, h0, h1⟩ := h l hl hw
    simp [outside, h0, h1]
  simp [accessCheck, hmis, hout]

/-- Links that carry traffic hold back no scratchpad access (R329). -/
theorem linkCheck_ok {s : State} {c : Nat} {g : Group} {gd : Guard} {addr : Nat → Int} (h : Linked s c g gd addr) :
    linkCheck s c (s.launchOf c g).polder (g.works gd) addr = .ok := by
  have hdead : lowest (fun l => g.works gd l && decide
      (s.linkAvail (dieOf c) (homeDie (s.spBase (s.launchOf c g).polder + (addr l).toNat)) = .no)) = none := by
    simp only [lowest, List.head?_eq_none_iff, List.filter_eq_nil_iff, lanes32, List.mem_range, Bool.and_eq_true, not_and]
    intro l hl hw
    simp [h l hl hw]
  have hwait : (lanes32.any fun l => g.works gd l && decide
      (s.linkAvail (dieOf c) (homeDie (s.spBase (s.launchOf c g).polder + (addr l).toNat)) = .wait)) = false := by
    simp only [List.any_eq_false, lanes32, List.mem_range, Bool.and_eq_true, not_and]
    intro l hl hw
    simp [h l hl hw]
  simp [linkCheck, hdead, hwait]

/-- A result is on its way to each of some registers in every active lane. -/
def Covers (g : Group) (gd : Guard) (regs : List Nat) (ws : List (Nat × Loc)) : Prop :=
  ∀ l < 32, g.active gd l = true → ∀ r ∈ regs, (l, Loc.reg r) ∈ ws

/-- The results of a load go to its registers in every active lane, whatever their values. -/
theorem covers_loadResults (g : Group) (gd : Guard) (d n : Nat) (quiet : Nat → Bool) (rd : Nat → Nat → Word) :
    Covers g gd ((List.range n).map (d + ·)) ((loadResults g gd d n quiet rd).map fun w => (w.lane, w.loc)) := by
  intro l hl ha r hr
  obtain ⟨i, hi, rfl⟩ := List.mem_map.1 hr
  exact List.mem_map.2 ⟨_, List.mem_flatMap.2 ⟨l, List.mem_filter.2 ⟨List.mem_range.2 hl, ha⟩, List.mem_map.2 ⟨i, hi, rfl⟩⟩, rfl⟩

/-- Results that have been entered are on their way, under their window. -/
theorem enters_of_entry {g h : Group} {gd : Guard} {la : Nat} {regs : List Nat} {ws : List LWrite} {f : InFlight}
    (hc : Covers g gd regs (ws.map fun w => (w.lane, w.loc))) (hf : ws ≠ [] → f ∈ h.inflight ∧ f.window = la ∧ f.writes = ws) :
    ∀ l < 32, g.active gd l = true → ∀ r ∈ regs, ∃ f ∈ h.inflight, f.window = la ∧ ∃ w ∈ f.writes, w.lane = l ∧ w.loc = .reg r := by
  intro l hl ha r hr
  obtain ⟨w, hw, he⟩ := List.mem_map.1 (hc l hl ha r hr)
  obtain ⟨hmem, hwin, hws⟩ := hf (List.ne_nil_of_mem hw)
  exact ⟨f, hmem, hwin, w, hws ▸ hw, congrArg Prod.fst he, congrArg Prod.snd he⟩

/-- A load whose results are entered in a state that keeps its group. -/
theorem enters_defer {s u : State} {c sl : Nat} {g k : Group} {gd : Guard} {la : Nat} {regs : List Nat} {ws : List LWrite} {pc : Word}
    (hk : s.group c sl = some k) (hpc : k.pc = pc) (hu : u.group c sl = s.group c sl)
    (hc : Covers g gd regs (ws.map fun w => (w.lane, w.loc))) :
    ∃ h, (u.defer c sl la ws).group c sl = some h ∧ h.pc = pc ∧ ∀ l < 32, g.active gd l = true → ∀ r ∈ regs,
      ∃ f ∈ h.inflight, f.window = la ∧ ∃ w ∈ f.writes, w.lane = l ∧ w.loc = .reg r := by
  have hg := State.group_defer (hu.trans hk) la ws
  by_cases hw : ws = []
  · rw [if_pos hw] at hg
    exact ⟨k, hg, hpc, enters_of_entry (f := default) hc fun e => absurd hw e⟩
  · rw [if_neg hw] at hg
    exact ⟨_, hg, hpc, enters_of_entry hc fun _ => ⟨List.mem_append_right _ (List.mem_singleton.2 rfl), rfl, rfl⟩⟩

/-- The group after a scratchpad access has been entered (R220). -/
theorem State.group_deferParts {s : State} {c sl : Nat} {k : Group} (hk : s.group c sl = some k) (org : Origin) (la : Nat)
    (reply : Bool) {ws : List LWrite} (got : List LWrite) (todo : List SpTodo) (hw : ws ≠ []) :
    (s.deferParts c sl org la reply ws got todo).group c sl = some { k with inflight := k.inflight ++
      [{ id := s.next + 1, window := la, writes := ws, reply := reply, lines := [], todo := todo, got := got, org := org }] } := by
  have hnew : s.newId.2.group c sl = some k := hk
  simp only [State.deferParts, hw, decide_false, Bool.false_and, Bool.false_eq_true, if_false]
  refine State.group_onGroup ?_ _
  split
  · exact hnew
  · exact ((AuditOnly.audPlan _ _ _).group c sl).trans hnew

theorem State.deferParts_nothing (s : State) (c sl : Nat) (org : Origin) (la : Nat) (reply : Bool) (got : List LWrite) :
    s.deferParts c sl org la reply [] got [] = s := by
  simp [State.deferParts]

/-- A scratchpad load that has no result to write has no word to read. -/
theorem loadTodo_eq_nil {g : Group} {gd : Guard} {d n base : Nat} {acq cached : Bool} {quiet : Nat → Bool} {addr : Nat → Int}
    {rd : Nat → Nat → Word} (h : loadResults g gd d n quiet rd = []) : loadTodo g gd d n base acq cached quiet addr = [] := by
  simp only [loadResults, List.flatMap_eq_nil_iff, List.map_eq_nil_iff, List.mem_filter] at h
  simp only [loadTodo, List.flatMap_eq_nil_iff, List.map_eq_nil_iff, List.mem_filter, Bool.and_eq_true]
  exact fun l hl => h l ⟨hl.1, hl.2.1⟩

/-- A scratchpad load whose words are entered in a state that keeps its group. -/
theorem enters_deferParts {s u : State} {c sl : Nat} {g k : Group} {gd : Guard} {la : Nat} {regs : List Nat} {ws : List LWrite}
    {pc : Word} (org : Origin) (reply : Bool) (got : List LWrite) {todo : List SpTodo}
    (hk : s.group c sl = some k) (hpc : k.pc = pc) (hu : u.group c sl = s.group c sl)
    (hc : Covers g gd regs (ws.map fun w => (w.lane, w.loc))) (ht : ws = [] → todo = []) :
    ∃ h, (u.deferParts c sl org la reply ws got todo).group c sl = some h ∧ h.pc = pc
      ∧ ∀ l < 32, g.active gd l = true → ∀ r ∈ regs, ∃ f ∈ h.inflight, f.window = la ∧ ∃ w ∈ f.writes, w.lane = l ∧ w.loc = .reg r := by
  by_cases hw : ws = []
  · rw [ht hw]
    subst hw
    rw [State.deferParts_nothing]
    exact ⟨k, hu.trans hk, hpc, enters_of_entry (f := default) hc fun e => absurd rfl e⟩
  · exact ⟨_, State.group_deferParts (hu.trans hk) org la reply got todo hw, hpc,
      enters_of_entry hc fun _ => ⟨List.mem_append_right _ (List.mem_singleton.2 rfl), rfl, rfl⟩⟩

/-- `ldsh` completes where no access of its group is on its way and its addresses fit (R136, R142, R222). -/
theorem ldsh_enters (d : Reg) (a : Src) (sem : LdSem) (w : Wid) (off : BitVec 20) (sc : Scope) (la : BitVec 4) (gd : Guard) :
    Enters (.ldsh d a sem w off sc la gd) gd la ((List.range (widRegs w)).map (d.toNat + ·)) fun s c _ g => g.accessing = false
      ∧ Fits g gd (effAddr g a off.toInt) (widBytes w) (s.shSizeOf c g) := by
  rintro s c sl g cl h ⟨hacc, hfits⟩
  obtain ⟨k, hk, hp, -⟩ := group_begun_passed (.ldsh d a sem w off sc la gd) s c sl g cl
  refine ⟨_, (exec_ldsh ..).trans (issueWith_next h _ _ ?_), enters_defer hk hp.pc rfl (covers_loadResults _ _ _ _ _ _)⟩
  simp [ldshPre, accessCheck_ok hfits, holdOr, hacc]

/-- `ldc` completes where its addresses lie in the argument block (R136, R140, R142). -/
theorem ldc_enters (d : Reg) (a : Src) (w : Wid) (off : BitVec 20) (la : BitVec 4) (gd : Guard) :
    Enters (.ldc d a w off la gd) gd la ((List.range (widRegs w)).map (d.toNat + ·)) fun _ _ _ g =>
      Fits g gd (effAddr g a off.toInt) (widBytes w) 4096 := by
  rintro s c sl g cl h hfits
  obtain ⟨k, hk, hp, -⟩ := group_begun_passed (.ldc d a w off la gd) s c sl g cl
  refine ⟨_, (exec_ldc ..).trans (issueWith_next h _ _ ?_), enters_defer hk hp.pc rfl (covers_loadResults _ _ _ _ _ _)⟩
  simp [ldcPre, accessCheck_ok hfits]

/-- `ldsp` completes where, besides, its home dies are reached; in a re-execution the log gives its words (R136, R222, R261, R329). -/
theorem ldsp_enters (d : Reg) (a : Src) (sem : LdSem) (w : Wid) (off : BitVec 20) (sc : Scope) (la : BitVec 4) (gd : Guard) :
    Enters (.ldsp d a sem w off sc la gd) gd la ((List.range (widRegs w)).map (d.toNat + ·)) fun s c _ g => g.accessing = false
      ∧ Fits g gd (effAddr g a off.toInt) (widBytes w) (s.polder (s.launchOf c g).polder).spSize
      ∧ Linked s c g gd (effAddr g a off.toInt) := by
  rintro s c sl g cl h ⟨hacc, hfits, hlinked⟩
  obtain ⟨k, hk, hp, -⟩ := group_begun_passed (.ldsp d a sem w off sc la gd) s c sl g cl
  have hpre : ldspPre a w off gd c sl g s = .ok := by
    simp [ldspPre, spCheck, accessCheck_ok hfits, linkCheck_ok hlinked, Check.andThen, holdOr, hacc]
  refine ⟨_, (exec_ldsp ..).trans (issueWith_next h _ _ hpre), ?_⟩
  dsimp only
  split
  · refine enters_defer hk hp.pc ((AuditOnly.inputWords ..).group c sl) ?_
    rw [State.inputWords_locs]
    exact covers_loadResults _ _ _ _ _ _
  · refine enters_deferParts _ _ _ hk hp.pc ?_ (covers_loadResults _ _ _ _ _ _) loadTodo_eq_nil
    split
    · exact (AuditOnly.audLog ..).group c sl
    · rfl

/-- The second half of O10. -/
theorem loads_complete : Claims.LoadsComplete := fun d a sem w off sc la gd =>
  ⟨ldsh_enters d a sem w off sc la gd, ldsp_enters d a sem w off sc la gd, ldc_enters d a w off la gd⟩

/-- Settles O10, by its two halves. -/
theorem specialRegisters : Obligations.SpecialRegisters := by
  unfold Obligations.SpecialRegisters
  exact ⟨special_registers, loads_complete⟩

end Sys2Proof.Machine
end


section

/-!
# `join` where a result goes to no thread

The marks that an instruction leaves in its group pass over the 32 thread positions and drop what the state lists beyond them. A result on
its way to a lane that is listed beyond position 31 adds its flags to FSTAT where it lands before the marks; a `join` lands it after them.
-/

namespace Sys2Proof.Machine

/-- A module whose core 0 runs the group `g` of polder 1 in slot 0. -/
def runs (g : Group) : State :=
  let x := { Polder.reset with alive := true, cores := 1, spBase := 65536, spSize := 65536, featack := [(0, 0x7FF)] }
  { ((State.reset.setPolder 1 x).setBlock 0 0 (launchBlock (loadLaunch 1 255 false) 0 0 0 [0] 0)).setGroup 0 0 g with cur := .group 0 0 }

/-- A clause of CTL. -/
def ctlClause : Clause := loadClause 0 true 0 0

/-- The result of an instruction for thread position 40, with the inexact flag. -/
def flagBeyond : InFlight :=
  { (default : InFlight) with id := 1, window := 3, writes := [{ lane := 40, loc := .reg 5, val := 0, flags := 1 }] }

/-- A bound group of 32 threads that lists one more at position 40 and awaits a result for it. -/
def beyondLanes : Group :=
  let g := loadGroup 0 32 ctlClause
  { g with bound := true, lanes := g.lanes ++ [(40, { Lane.reset with st := .occupied })], inflight := [flagBeyond] }

/-- The group is about to issue the `join`. -/
theorem issues_join_beyondLanes : Issues (.join 0 0) (runs beyondLanes) 0 0 beyondLanes ctlClause :=
  ⟨rfl, rfl, rfl, by decide +kernel, by decide +kernel⟩

/-- The `join` lands the result after the lane of position 40 is gone. -/
theorem exec_join_beyondLanes :
    ∃ t, exec (.join 0 0) (runs beyondLanes) = .next t ∧ ∀ h, t.group 0 0 = some h → h.fstat = 0 := by
  refine ⟨_, rfl, ?_⟩
  decide +kernel

/-- Where the result lands first, its flag is in FSTAT. -/
theorem landed_beyondLanes : beyondLanes.landed.fstat = 1 := by decide +kernel

/-- Refutes O13: FSTAT after a `join` lacks the flags of a result whose lane no thread position names. -/
theorem not_controlInstructions : ¬ Obligations.ControlInstructions := by
  unfold Obligations.ControlInstructions
  intro h
  obtain ⟨-, -, -, hjoin, -⟩ := h 0 0 0 .w8 noGuard (runs beyondLanes) 0 0 beyondLanes ctlClause
  obtain ⟨t, ht, -, k, hk, -, -, -, -, -, -, hf⟩ :=
    hjoin (by unfold Group.quietLines; decide) rfl issues_join_beyondLanes
  obtain ⟨u, hu, hu0⟩ := exec_join_beyondLanes
  injection hu.symm.trans ht with e
  subst e
  rw [hu0 k hk] at hf
  simp only [markedFstat, landed_beyondLanes] at hf
  split at hf <;> simp at hf

end Sys2Proof.Machine
end


section

/-!
# `spawn` to a block that the table of blocks lists twice

A `spawn` with a block operand looks for its block after its marks. A poison read among the marks enters the block of the group anew,
and a table whose block slots do not rise then lists it twice; where another slot holds the same block of the launch, the
child goes to the slot that now comes first.
-/

namespace Sys2Proof.Machine

/-- The `spawn` of a child with one register, in the block of the launch that v0 names. -/
def spawnOther : Instr := .spawn 0 true { reg := 1, last := false, keep := false } 1 0 noGuard

/-- A group in block slot 3 with one thread, in which v1 is dead. -/
def deadPayload : Group :=
  { loadGroup 3 1 ctlClause with lanes := [(0, { Lane.reset with st := .occupied, dead := [1] })] }

/-- A core whose table of blocks lists block 0 of the group's launch at slot 5 and, behind it, at slot 3. -/
def blockTwice : State :=
  let s := runs deadPayload
  let b := launchBlock (loadLaunch 1 255 false) 0 3 0 [0] 0
  s.setCore 0 { s.core 0 with blocks := [(5, b), (3, b)] }

/-- The group is about to issue the `spawn`. -/
theorem issues_spawn_blockTwice : Issues spawnOther blockTwice 0 0 deadPayload ctlClause :=
  ⟨rfl, rfl, rfl, by decide +kernel, by decide +kernel⟩

/-- The block slots of the children of a `spawn`. -/
def CmdOp.childBlocks : CmdOp → List Nat
  | .spawn _ ch => ch.map (·.1)
  | _ => []

/-- The block slots of the children of a `spawn` command. -/
def Cmd.childBlocks (x : Cmd) : List Nat := x.op.childBlocks

/-- The `spawn` sends its child to block slot 3. -/
theorem exec_spawn_blockTwice : ∃ t, exec spawnOther blockTwice = .next t
    ∧ ∀ x, tfind t.cmds blockTwice.newId.1 = some x → x.childBlocks = [3] :=
  ⟨_, rfl, by decide +kernel⟩

/-- Refutes O15: the statement finds the block at slot 5, where the table lists it before the marks. -/
theorem not_relaunchAndSpawn : ¬ Obligations.RelaunchAndSpawn := by
  unfold Obligations.RelaunchAndSpawn
  rintro ⟨-, h⟩
  obtain ⟨t, ht, ⟨-, ⟨x, hx, hface, -⟩, -, -⟩, -⟩ :=
    h 0 true { reg := 1, last := false, keep := false } 1 0 noGuard blockTwice 0 0 deadPayload ctlClause
      issues_spawn_blockTwice (by decide +kernel) (by decide +kernel) (by decide +kernel)
  obtain ⟨u, hu, hu3⟩ := exec_spawn_blockTwice
  injection hu.symm.trans ht with e
  subst e
  have hop := congrArg (fun y => y.2.1.childBlocks) hface
  exact absurd ((hu3 x hx).symm.trans hop) (by decide +kernel)

end Sys2Proof.Machine
end


section

/-!
# Blocks end (R47, R318, R349)

What a retiring block gives back: its slots leave their groups and the age orders, and its reeve adds its needs to the five words of the
dispatch board. Everything else of the state is kept, part by part.
-/

namespace Sys2Proof.Machine

/-! ### Words of a memory -/

theorem mreads_congr {m n : Memory} {a k : Nat} (h : ∀ i, a ≤ i → i < a + k → mget m i = mget n i) : mreads m a k = mreads n a k := by
  induction k generalizing a with
  | zero => rfl
  | succ k ih =>
    rw [mreads, mreads, h a (Nat.le_refl a) (by omega), ih fun i hl hr => h i (by omega) (by omega)]

/-- A word is what it was where the write of another word does not touch it. -/
theorem mget32_mset32_ne (m : Memory) (a b : Nat) (w : Word) (h : a + 4 ≤ b ∨ b + 4 ≤ a) : mget32 (mset32 m b w) a = mget32 m a := by
  unfold mget32
  rw [mreads_congr (n := m) fun i hl hr => mget_mset32_ne m b i w (by omega)]

/-! ### Packets, and words at their home die -/

/-- What every step of a fold keeps, the fold keeps. -/
theorem foldl_keeps {σ α β : Type} (f : σ → β) {g : σ → α → σ} (h : ∀ s a, f (g s a) = f s) (l : List α) (s : σ) :
    f (l.foldl g s) = f s := by
  induction l generalizing s with
  | nil => rfl
  | cons a l ih => rw [List.foldl_cons, ih, h]

/-- Packets that enter the queues change nothing but the queues and the numbers given out. -/
def State.offQueue (s : State) : State := { s with queue := [], next := 0 }

theorem State.offQueue_accept_write (s : State) (org : Origin) (cmd lane va pa : Nat) (data : List Byte) :
    (s.accept org cmd lane va pa (.write data)).offQueue = s.offQueue := by
  refine foldl_keeps State.offQueue ?_ _ _
  exact fun _ _ => rfl

theorem State.offQueue_writePa (s : State) (pa : Nat) (bytes : List Byte) : (s.writePa pa bytes).offQueue = s.offQueue := by
  unfold State.writePa
  split
  · rfl
  · exact s.offQueue_accept_write ..

/-- A write that no service image waits for reports to watches at most. -/
theorem State.spWord_eq (s : State) (a : Nat) (v : Word) (after : List Nat) (h : s.lwatches = []) :
    ∃ r, s.spWord a v after = { s with sp := mset32 s.sp a v, reports := r } := by
  have key (ws : List Nat) (u : State) (hu : u.lwatches = []) : ∃ r, ws.foldl (fun s w => s.fire after w) u = { u with reports := r } := by
    induction ws generalizing u with
    | nil => exact ⟨_, rfl⟩
    | cons w ws ih =>
      obtain ⟨r, hr⟩ := ih (u.fire after w) (by simp [State.fire, hu])
      exact ⟨r, by rw [List.foldl_cons, hr]; simp [State.fire, hu]⟩
  exact key _ { s with sp := mset32 s.sp a v } h

theorem State.setBoard_eq (s : State) (off : Nat) (v : Word) (h : s.lwatches = []) :
    ∃ r, s.setBoard off v = { s with sp := mset32 s.sp ((s.polder 0).spBase + off) v, reports := r } := s.spWord_eq _ _ _ h

/-! ### The board takes a block's needs back (R248) -/

/-- A word of the board has grown by what a block needed of it. -/
def boardAdd (base : Nat) (m : Memory) (off : Nat) (n : Nat) : Memory := mset32 m (base + off) (mget32 m (base + off) + BitVec.ofNat 32 n)

/-- The scratchpad after the five words of core c have grown by the needs of a block. -/
def boardAdds (base c : Nat) (x : Block) (m : Memory) : Memory :=
  boardAdd base ((List.range 4).foldl (fun m j => boardAdd base m (scFreeAt c j) (x.scNeed j)) m) (shFreeAt c) x.shSize

theorem State.setBoard_add (s : State) (off n : Nat) (h : s.lwatches = []) :
    ∃ r, s.setBoard off (s.board off + BitVec.ofNat 32 n) = { s with sp := boardAdd (s.polder 0).spBase s.sp off n, reports := r } :=
  s.setBoard_eq off _ h

theorem State.unbook_eq (s : State) (c : Nat) (x : Block) (h : s.lwatches = []) (hx : x.booked = true) :
    ∃ r, s.unbook c x = { s with sp := boardAdds (s.polder 0).spBase c x s.sp, reports := r } := by
  have fold (js : List Nat) (u : State) (hu : u.lwatches = []) :
      ∃ r, js.foldl (fun s j => s.setBoard (scFreeAt c j) (s.board (scFreeAt c j) + BitVec.ofNat 32 (x.scNeed j))) u
        = { u with sp := js.foldl (fun m j => boardAdd (u.polder 0).spBase m (scFreeAt c j) (x.scNeed j)) u.sp, reports := r } := by
    induction js generalizing u with
    | nil => exact ⟨_, rfl⟩
    | cons j js ih =>
      obtain ⟨r, hr⟩ := u.setBoard_add (scFreeAt c j) (x.scNeed j) hu
      rw [List.foldl_cons, hr]
      exact ih { u with sp := _, reports := r } hu
  unfold State.unbook
  rw [if_neg (by simp [hx])]
  obtain ⟨r, hr⟩ := fold (List.range 4) s h
  simp only [hr]
  exact State.setBoard_add _ _ _ h

/-- The write of a board word reaches its four bytes. -/
theorem mget_boardAdd_ne (base : Nat) (m : Memory) (off n a : Nat) (h : a < base + off ∨ base + off + 4 ≤ a) :
    mget (boardAdd base m off n) a = mget m a := mget_mset32_ne _ _ _ _ h

theorem mget32_boardAdd_same (base : Nat) (m : Memory) (off n : Nat) :
    mget32 (boardAdd base m off n) (base + off) = mget32 m (base + off) + BitVec.ofNat 32 n := mget32_mset32 ..

theorem mget32_boardAdd_ne (base : Nat) (m : Memory) (off n : Nat) {a : Nat} (h : a + 4 ≤ off ∨ off + 4 ≤ a) :
    mget32 (boardAdd base m off n) (base + a) = mget32 m (base + a) := mget32_mset32_ne _ _ _ _ (by omega)

theorem mget_boardAdds_ne (base c : Nat) (x : Block) (m : Memory) (a : Nat)
    (h : ¬(base + 0x100 + 64 * c ≤ a ∧ a < base + 0x100 + 64 * c + 20)) : mget (boardAdds base c x m) a = mget m a := by
  simp only [boardAdds, scFreeAt, shFreeAt, List.range, List.range.loop, List.foldl]
  repeat rw [mget_boardAdd_ne _ _ _ _ _ (by omega)]

theorem mget32_boardAdds_shared (base c : Nat) (x : Block) (m : Memory) :
    mget32 (boardAdds base c x m) (base + shFreeAt c) = mget32 m (base + shFreeAt c) + BitVec.ofNat 32 x.shSize := by
  simp only [boardAdds, List.range, List.range.loop, List.foldl]
  rw [mget32_boardAdd_same]
  repeat rw [mget32_boardAdd_ne _ _ _ _ (by simp [scFreeAt, shFreeAt])]

theorem mget32_boardAdds_slots (base c : Nat) (x : Block) (m : Memory) {j : Nat} (h : j < 4) :
    mget32 (boardAdds base c x m) (base + scFreeAt c j) = mget32 m (base + scFreeAt c j) + BitVec.ofNat 32 (x.scNeed j) := by
  have hne (k : Nat) (n : Memory) (v : Nat) (hk : k ≠ j) :
      mget32 (boardAdd base n (scFreeAt c k) v) (base + scFreeAt c j) = mget32 n (base + scFreeAt c j) :=
    mget32_boardAdd_ne _ _ _ _ (by simp only [scFreeAt]; omega)
  simp only [boardAdds, List.range, List.range.loop, List.foldl]
  rw [mget32_boardAdd_ne _ _ _ _ (by simp only [scFreeAt, shFreeAt]; omega)]
  match j, h with
  | 0, _ => rw [hne 3 _ _ (by decide), hne 2 _ _ (by decide), hne 1 _ _ (by decide), mget32_boardAdd_same]
  | 1, _ => rw [hne 3 _ _ (by decide), hne 2 _ _ (by decide), mget32_boardAdd_same, hne 0 _ _ (by decide)]
  | 2, _ => rw [hne 3 _ _ (by decide), mget32_boardAdd_same, hne 1 _ _ (by decide), hne 0 _ _ (by decide)]
  | 3, _ => rw [mget32_boardAdd_same, hne 2 _ _ (by decide), hne 1 _ _ (by decide), hne 0 _ _ (by decide)]

/-! ### A block gives its slots back (R47) -/

/-- A state without its cores. -/
def State.offCores (s : State) : State := { s with cores := [] }

/-- A core without its groups and its issue ports. -/
def Core.offSlots (k : Core) : Core := { k with groups := [], subs := [] }

/-- A slot of a core is given back: its group has gone, and it has left the age order. -/
def State.emptySlot (c : Nat) (s : State) (sl : Nat) : State :=
  (s.setCore c { s.core c with groups := tdel (s.core c).groups sl }).onSub c sl fun y =>
    { y.leave sl with order := y.order.filter (· ≠ sl) }

/-- Only slots of `js` of core `c` have been given back. -/
structure SlotsFreed (c : Nat) (js : List Nat) (s t : State) : Prop where
  others : t.offCores = s.offCores
  cores  : ∀ d, d ≠ c → t.core d = s.core d
  core   : (t.core c).offSlots = (s.core c).offSlots
  groups : ∀ j, j ∉ js → t.group c j = s.group c j

theorem SlotsFreed.emptySlot (c : Nat) (s : State) (sl : Nat) : SlotsFreed c [sl] s (State.emptySlot c s sl) where
  others := rfl
  cores d h := by simp [State.emptySlot, State.onSub, h]
  core := by simp [State.emptySlot, State.onSub, Core.offSlots]
  groups j h := by
    have hj : j ≠ sl := by simpa using h
    simp [State.emptySlot, State.onSub, State.group, hj]

theorem SlotsFreed.foldl (c : Nat) (js : List Nat) (s : State) : SlotsFreed c js s (js.foldl (State.emptySlot c) s) := by
  induction js generalizing s with
  | nil => exact ⟨rfl, fun _ _ => rfl, rfl, fun _ _ => rfl⟩
  | cons j js ih =>
    obtain ⟨ho, hd, hc, hg⟩ := SlotsFreed.emptySlot c s j
    obtain ⟨ho', hd', hc', hg'⟩ := ih (State.emptySlot c s j)
    refine ⟨ho'.trans ho, fun d h => (hd' d h).trans (hd d h), hc'.trans hc, fun i h => ?_⟩
    rw [List.mem_cons, not_or] at h
    exact (hg' i h.2).trans (hg i (by simpa using h.1))

/-- A block without records leaves its core. -/
def State.withoutBlock (s : State) (c b : Nat) (x : Block) : State :=
  let t := x.slots.foldl (State.emptySlot c) (s.setCore c (s.core c))
  t.setCore c { t.core c with blocks := tdel (t.core c).blocks b }

theorem State.freeBlock_of_noRecords {s : State} {c b : Nat} {x : Block} (hx : s.block c b = some x)
    (hr : ∀ r ∈ (s.core c).records, r.bslot ≠ b) :
    s.freeBlock c b = ((s.withoutBlock c b x).unbook c x).endPast x.launch := by
  have hnone : (s.core c).records.filter (fun r => r.bslot = b) = [] := by simpa [List.filter_eq_nil_iff] using hr
  have htake (p : Nat) : s.takeRecords c p [] = s.setCore c (s.core c) := by simp [State.takeRecords, total]
  unfold State.freeBlock
  simp only [hx, hnone, htake]
  rfl

theorem State.offCores_withoutBlock (s : State) (c b : Nat) (x : Block) : (s.withoutBlock c b x).offCores = s.offCores :=
  ((SlotsFreed.foldl c x.slots _).others : _)

theorem State.sh_withoutBlock (s : State) (c b : Nat) (x : Block) (d : Nat) :
    ((s.withoutBlock c b x).core d).sh = (s.core d).sh := by
  obtain ⟨-, hd, hc, -⟩ := SlotsFreed.foldl c x.slots (s.setCore c (s.core c))
  unfold State.withoutBlock
  by_cases h : d = c
  · subst h
    have hsh := congrArg Core.sh hc
    simpa [Core.offSlots] using hsh
  · simp [h, hd]

theorem State.group_withoutBlock (s : State) (c b : Nat) (x : Block) {d j : Nat} (h : ¬(d = c ∧ j ∈ x.slots)) :
    (s.withoutBlock c b x).group d j = s.group d j := by
  obtain ⟨-, hd, -, hg⟩ := SlotsFreed.foldl c x.slots (s.setCore c (s.core c))
  unfold State.withoutBlock
  by_cases e : d = c
  · subst e
    simpa [State.group] using hg j fun hj => h ⟨rfl, hj⟩
  · simp [State.group, e, hd]

theorem State.block_withoutBlock (s : State) (c b : Nat) (x : Block) : (s.withoutBlock c b x).block c b = none := by
  simp [State.withoutBlock, State.block]

/-! ### A block retires (R47, R318) -/

/-- A state without its queues, audits and numbers given out. -/
def State.offDigest (s : State) : State := { s with queue := [], next := 0, audits := [] }

theorem State.offDigest_keepDigest (s : State) (x : Block) : (s.keepDigest x).offDigest = s.offDigest := by
  unfold State.keepDigest
  split
  · have h (pa : Nat) (bytes : List Byte) := congrArg State.offDigest (s.offQueue_writePa pa bytes)
    exact h _ _
  · rfl

/-- A state without the hardware queue slots and what is kept for fetches of launches. -/
def State.offEnd (s : State) : State := { s with slots := [], past := [] }

theorem State.offEnd_endPast (s : State) (l : Launch) : (s.endPast l).offEnd = s.offEnd := by
  unfold State.endPast
  split <;> rfl

theorem State.slots_endPast (s : State) (l : Launch) : (s.endPast l).slots = s.slots := by
  unfold State.endPast
  split <;> rfl

theorem State.offEnd_countRetired (s : State) (l : Launch) : (s.countRetired l).offEnd = s.offEnd := by
  unfold State.countRetired State.onSlot
  repeat' split
  all_goals rfl

/-- A state without what words of the board change. -/
def State.offBoard (s : State) : State := { s with sp := [], reports := [] }

theorem State.offBoard_unbook (s : State) (c : Nat) (x : Block) (h : s.lwatches = []) : (s.unbook c x).offBoard = s.offBoard := by
  cases hx : x.booked with
  | false => simp [State.unbook, hx]
  | true =>
    obtain ⟨r, hr⟩ := s.unbook_eq c x h hx
    rw [hr]
    rfl

/-- The slot of a launch counts one block more that has retired. -/
theorem State.slot_countRetired {s : State} {l : Launch} {e : Nat × HwSlot} (he : s.launchSlot l = some e)
    (hs : tfind s.slots e.1 = some e.2) :
    tfind (s.countRetired l).slots e.1 = some { e.2 with retired := e.2.retired + 1 } := by
  simp [State.countRetired, State.onSlot, he, hs]

/-- A block of which nothing is left counts in POISONBLK. -/
def State.poisonCounted (s : State) (x : Block) : State :=
  if x.poisoned then
    s.setPolder x.launch.polder
      { s.polder x.launch.polder with poisonBlk := (s.polder x.launch.polder).poisonBlk + 1 }
  else s

theorem State.offPolders_poisonCounted (s : State) (x : Block) :
    { s.poisonCounted x with polders := [] } = { s with polders := [] } := by
  unfold State.poisonCounted
  split <;> rfl

theorem State.spBase_poisonCounted (s : State) (x : Block) (q : Nat) : ((s.poisonCounted x).polder q).spBase = (s.polder q).spBase := by
  unfold State.poisonCounted
  split
  · by_cases h : q = x.launch.polder
    · subst h; simp
    · simp [h]
  · rfl

theorem State.poisonBlk_poisonCounted (s : State) (x : Block) :
    ((s.poisonCounted x).polder x.launch.polder).poisonBlk
      = (s.polder x.launch.polder).poisonBlk + (if x.poisoned then 1 else 0) := by
  unfold State.poisonCounted
  split <;> simp

/-- The state of a drained block, counted and its digest kept, before it gives back its slots. -/
def State.digested (s : State) (x : Block) : State := (s.poisonCounted x).keepDigest x

/-- The state after a drained block has retired. -/
def State.retired (s : State) (c b : Nat) (x : Block) : State :=
  ((((s.digested x).withoutBlock c b x).unbook c x).endPast x.launch).countRetired x.launch

/-- The cores of a block's state, before the block gives back its slots. -/
theorem State.cores_keepDigest (s : State) (x : Block) : ((s.poisonCounted x).keepDigest x).cores = s.cores :=
  (congrArg State.cores ((s.poisonCounted x).offDigest_keepDigest x) : _).trans
    (congrArg State.cores (s.offPolders_poisonCounted x) : _)

theorem State.core_of_cores {s t : State} (h : t.cores = s.cores) (d : Nat) : t.core d = s.core d := by
  unfold State.core; rw [h]

theorem exec_blockRetire_drained {s : State} {c b : Nat} {x : Block} (hx : s.block c b = some x) (hsram : x.launch.sram = false)
    (hrun : x.rerun = none) (hrej : s.rejecting c b = false) (hdoom : s.isDoomed x = false) (hdry : s.drainedBlock c b x = true) :
    exec (.blockRetire c b) s = .next (s.retired c b x) := by
  have habort : x.abort = false := by simp [State.isDoomed] at hdoom; exact hdoom.1
  have hcores := State.core_of_cores (s.cores_keepDigest x)
  have hrecs : ∀ r ∈ (s.core c).records, r.bslot ≠ b := by
    simp [State.drainedBlock] at hdry
    exact hdry.1.1.2
  have hfree := State.freeBlock_of_noRecords (s := (s.poisonCounted x).keepDigest x) (c := c) (b := b) (x := x)
    (by unfold State.block; rw [hcores]; exact hx) (by rw [hcores]; exact hrecs)
  show execBlockRetire c b s = _
  simp only [execBlockRetire, hx, hrun, hsram, hrej, habort, hdry, hdoom, Option.isSome_none, Bool.or_false, Bool.not_true,
    Bool.false_eq_true, if_false]
  exact congrArg (fun u : State => Host.Outcome.next (u.countRetired x.launch)) hfree

theorem State.polders_digested (s : State) (x : Block) : (s.digested x).polders = (s.poisonCounted x).polders :=
  (congrArg State.polders ((s.poisonCounted x).offDigest_keepDigest x) :)

/-- The last of the state's cores and memories as a retiring block leaves them: nothing after the board touches them. -/
theorem State.offEnd_retired (s : State) (c b : Nat) (x : Block) :
    (s.retired c b x).offEnd = (((s.digested x).withoutBlock c b x).unbook c x).offEnd :=
  (State.offEnd_countRetired ..).trans (State.offEnd_endPast ..)

/-- A state without its cores, its polders and what the kept digest changes. -/
def State.offCounted (s : State) : State := { s.offDigest with cores := [], polders := [] }

theorem State.offCounted_digested (s : State) (x : Block) : (s.digested x).offCounted = s.offCounted :=
  have hd := congrArg State.offCounted ((s.poisonCounted x).offDigest_keepDigest x)
  have hp := congrArg State.offCounted (s.offPolders_poisonCounted x)
  (hd : (s.digested x).offCounted = (s.poisonCounted x).offCounted).trans hp

theorem State.offCounted_withoutBlock (s : State) (c b : Nat) (x : Block) :
    ((s.digested x).withoutBlock c b x).offCounted = s.offCounted :=
  have hv := congrArg State.offCounted ((s.digested x).offCores_withoutBlock c b x)
  (hv : ((s.digested x).withoutBlock c b x).offCounted = (s.digested x).offCounted).trans (s.offCounted_digested x)

theorem State.lwatches_withoutBlock (s : State) (c b : Nat) (x : Block) :
    ((s.digested x).withoutBlock c b x).lwatches = s.lwatches := (congrArg State.lwatches (s.offCounted_withoutBlock c b x) :)

theorem State.sp_withoutBlock (s : State) (c b : Nat) (x : Block) :
    ((s.digested x).withoutBlock c b x).sp = s.sp := (congrArg State.sp (s.offCounted_withoutBlock c b x) :)

theorem State.mem_withoutBlock (s : State) (c b : Nat) (x : Block) :
    ((s.digested x).withoutBlock c b x).mem = s.mem := (congrArg State.mem (s.offCounted_withoutBlock c b x) :)

theorem State.slots_withoutBlock (s : State) (c b : Nat) (x : Block) :
    ((s.digested x).withoutBlock c b x).slots = s.slots := (congrArg State.slots (s.offCounted_withoutBlock c b x) :)

theorem State.polders_withoutBlock (s : State) (c b : Nat) (x : Block) :
    ((s.digested x).withoutBlock c b x).polders = (s.poisonCounted x).polders :=
  (congrArg State.polders ((s.digested x).offCores_withoutBlock c b x) :).trans (s.polders_digested x)

theorem State.polder_of_polders {s t : State} (h : t.polders = s.polders) (p : Nat) : t.polder p = s.polder p := by
  unfold State.polder; rw [h]

theorem State.core_digested (s : State) (x : Block) (d : Nat) : (s.digested x).core d = s.core d :=
  State.core_of_cores (s.cores_keepDigest x) d

theorem State.offBoard_retired (s : State) (c b : Nat) (x : Block) (h : s.lwatches = []) :
    (s.retired c b x).offEnd.offBoard = ((s.digested x).withoutBlock c b x).offEnd.offBoard := by
  rw [s.offEnd_retired]
  exact congrArg State.offEnd (State.offBoard_unbook _ c x ((s.lwatches_withoutBlock c b x).trans h))

theorem State.core_retired (s : State) (c b : Nat) (x : Block) (h : s.lwatches = []) (d : Nat) :
    (s.retired c b x).core d = ((s.digested x).withoutBlock c b x).core d :=
  (congrArg (fun u : State => u.core d) (s.offBoard_retired c b x h) :)

theorem State.polder_retired (s : State) (c b : Nat) (x : Block) (h : s.lwatches = []) (p : Nat) :
    (s.retired c b x).polder p = (s.poisonCounted x).polder p :=
  State.polder_of_polders ((congrArg State.polders (s.offBoard_retired c b x h) :).trans (s.polders_withoutBlock c b x)) p

/-- The scratchpad of a block that has retired: nothing but its needs on the board has changed. -/
theorem State.sp_retired (s : State) (c b : Nat) (x : Block) (h : s.lwatches = []) :
    (s.retired c b x).sp = if x.booked then boardAdds (s.polder 0).spBase c x s.sp else s.sp := by
  have he : (s.retired c b x).sp = (((s.digested x).withoutBlock c b x).unbook c x).sp :=
    (congrArg State.sp (s.offEnd_retired c b x) :)
  have hbase : (((s.digested x).withoutBlock c b x).polder 0).spBase = (s.polder 0).spBase := by
    rw [State.polder_of_polders (s.polders_withoutBlock c b x), s.spBase_poisonCounted]
  rw [he]
  cases hx : x.booked with
  | false => simp [State.unbook, hx, s.sp_withoutBlock]
  | true =>
    obtain ⟨r, hr⟩ := State.unbook_eq _ c x ((s.lwatches_withoutBlock c b x).trans h) hx
    simp [hr, hbase, s.sp_withoutBlock]

theorem State.board_retired (s : State) (c b : Nat) (x : Block) (h : s.lwatches = []) (hx : x.booked = true) (off : Nat) :
    (s.retired c b x).board off = mget32 (boardAdds (s.polder 0).spBase c x s.sp) ((s.polder 0).spBase + off) := by
  unfold State.board
  rw [s.polder_retired c b x h, s.spBase_poisonCounted, s.sp_retired c b x h, if_pos hx]

theorem State.launchSlot_congr {s t : State} (h : t.slots = s.slots) (l : Launch) : t.launchSlot l = s.launchSlot l := by
  unfold State.launchSlot; rw [h]

theorem State.slot_retired {s : State} {c b : Nat} {x : Block} (h : s.lwatches = []) {e : Nat × HwSlot}
    (he : s.launchSlot x.launch = some e) (hs : tfind s.slots e.1 = some e.2) :
    tfind (s.retired c b x).slots e.1 = some { e.2 with retired := e.2.retired + 1 } := by
  have hslots : ((((s.digested x).withoutBlock c b x).unbook c x).endPast x.launch).slots = s.slots := by
    rw [State.slots_endPast]
    have hb := State.offBoard_unbook _ c x ((s.lwatches_withoutBlock c b x).trans h)
    exact (congrArg State.slots hb :).trans (s.slots_withoutBlock c b x)
  exact State.slot_countRetired ((State.launchSlot_congr hslots _).trans he) (by rw [hslots]; exact hs)

theorem State.board_retired_spec {s : State} {c b : Nat} {x : Block} (h : s.lwatches = []) (hx : x.booked = true) :
    (s.retired c b x).board (shFreeAt c) = s.board (shFreeAt c) + BitVec.ofNat 32 x.shSize
      ∧ ∀ j < 4, (s.retired c b x).board (scFreeAt c j) = s.board (scFreeAt c j) + BitVec.ofNat 32 (x.scNeed j) := by
  refine ⟨?_, fun j hj => ?_⟩
  · rw [s.board_retired c b x h hx, mget32_boardAdds_shared]; rfl
  · rw [s.board_retired c b x h hx, mget32_boardAdds_slots _ _ _ _ hj]; rfl

theorem State.sp_retired_ne {s : State} {c b : Nat} {x : Block} (h : s.lwatches = []) {a : Nat}
    (ha : ¬(x.booked = true ∧ (s.polder 0).spBase + 0x100 + 64 * c ≤ a ∧ a < (s.polder 0).spBase + 0x100 + 64 * c + 20)) :
    mget (s.retired c b x).sp a = mget s.sp a := by
  rw [s.sp_retired c b x h]
  split
  · next hx => exact mget_boardAdds_ne _ _ _ _ _ fun k => ha ⟨hx, k⟩
  · rfl

/-! ### The watchdog (R349) -/

theorem State.logFor_rerun {s : State} {c b : Nat} (p : Nat) (bytes : List Byte) (h : s.inRerun c b = true) :
    s.logFor c b p bytes = { s with notices := s.notices ++ [.runEntry c bytes] } := by
  simp [State.logFor, h]

theorem State.logFor_log {s : State} {c b : Nat} (p : Nat) (bytes : List Byte) (h : s.inRerun c b = false) :
    s.logFor c b p bytes = s.logBytes p bytes := by
  simp [State.logFor, h]

/-- A block's watchdog counter starts again. -/
def State.wound (s : State) (c b : Nat) (x : Block) : State :=
  s.setBlock c b { x with progress := s.clock, idle := x.idle + 1 }

theorem State.sh_wound (s : State) (c b : Nat) (x : Block) (d : Nat) : ((s.wound c b x).core d).sh = (s.core d).sh := by
  by_cases h : d = c
  · subst h; simp [State.wound, State.setBlock]
  · simp [State.wound, State.setBlock, h]

theorem State.group_wound (s : State) (c b : Nat) (x : Block) (d j : Nat) : (s.wound c b x).group d j = s.group d j := by
  by_cases h : d = c
  · subst h; exact State.group_setBlock ..
  · simp [State.wound, State.setBlock, State.group, h]

theorem exec_watchdogExpire_due {s : State} {c b : Nat} {x : Block} (hx : s.block c b = some x)
    (hw : (s.core c).wdogint.toNat ≠ 0) (hdue : x.progress + (s.core c).wdogint.toNat ≤ s.clock) :
    exec (.watchdogExpire c b) s = .next ((s.wound c b x).logFor c b x.launch.polder
      (entryBytes (watchWords s c b x) x.launch.id x.idx c 0xFF 0xFFFF s.clock)) := by
  show execWatchdogExpire c b s = _
  simp only [execWatchdogExpire, hx]
  rw [if_pos ⟨hw, hdue⟩]
  rfl

theorem exec_watchdogExpire_idle {s : State} {c b : Nat} {x : Block} (hx : s.block c b = some x)
    (h : (s.core c).wdogint.toNat = 0 ∨ s.clock < x.progress + (s.core c).wdogint.toNat) :
    exec (.watchdogExpire c b) s = .next s := by
  show execWatchdogExpire c b s = _
  simp only [execWatchdogExpire, hx]
  rw [if_neg (by omega)]

/-- Settles O35: a drained block retires with what `State.retired` gives back, and the watchdog's entry goes into the fault log or, of a
re-execution, to the service. -/
theorem blocksEnd : Obligations.BlocksEnd := by
  unfold Obligations.BlocksEnd
  intro s c b x hx
  refine ⟨?_, ?_, ?_, ?_⟩
  · intro hsram hrun hrej hdoom hdry hw
    refine ⟨_, exec_blockRetire_drained hx hsram hrun hrej hdoom hdry, ?_, fun d => ?_, fun a ha => s.sp_retired_ne hw ha,
      State.board_retired_spec hw, ?_, fun d j h => ?_, ?_, fun e he hs => State.slot_retired hw he hs⟩
    · exact (congrArg State.mem (s.offBoard_retired c b x hw) :).trans (s.mem_withoutBlock c b x)
    · rw [s.core_retired c b x hw, State.sh_withoutBlock, s.core_digested]
    · show tfind ((s.retired c b x).core c).blocks b = none
      rw [s.core_retired c b x hw]
      exact State.block_withoutBlock _ c b x
    · show tfind ((s.retired c b x).core d).groups j = _
      rw [s.core_retired c b x hw]
      refine (State.group_withoutBlock _ c b x h).trans ?_
      unfold State.group
      rw [s.core_digested]
    · rw [s.polder_retired c b x hw, s.poisonBlk_poisonCounted]
  · intro hsram hrun habort hwet
    show execBlockRetire c b s = _
    simp [execBlockRetire, hx, hsram, hrun, habort, hwet]
  · intro hw hdue
    refine ⟨_, exec_watchdogExpire_due hx hw hdue, ?_⟩
    have hrr : (s.wound c b x).inRerun c b = x.rerun.isSome := by
      simp [State.inRerun, State.wound]
    cases hr : x.rerun.isSome with
    | true =>
      rw [State.logFor_rerun _ _ (hrr.trans hr)]
      exact ⟨⟨rfl, rfl, s.sh_wound c b x⟩, State.block_setBlock_same .., s.group_wound c b x, rfl, by simp⟩
    | false =>
      rw [State.logFor_log _ _ (hrr.trans hr)]
      refine ⟨⟨rfl, rfl, s.sh_wound c b x⟩, State.block_setBlock_same .., s.group_wound c b x, ?_⟩
      simp [State.logBytes, State.wound, State.polder, State.setPolder]
  · intro h
    exact exec_watchdogExpire_idle hx h

end Sys2Proof.Machine
end


section

/-!
# Records of the weaver

Records are read back from a spill area without errors as they stand (R36), leave the weaver by their AGE, and a thread that is taken from
one holds what the record holds (R38).
-/

namespace Sys2Proof.Machine

/-! ### Blocks without errors (R323, R324) -/

/-- A packet does not make a good block uncorrectable. -/
theorem QPacket.apply_good (q : QPacket) {v : BlockView} (h : v.2 = false) : (q.apply v).2 = false := by
  unfold QPacket.apply
  split
  · split <;> simp [h]
  · simp [h]
  · exact h

theorem foldl_apply_good (qs : List QPacket) {v : BlockView} (h : v.2 = false) : (qs.foldl (fun v q => q.apply v) v).2 = false := by
  induction qs generalizing v with
  | nil => exact h
  | cons q qs ih => exact ih (q.apply_good h)

theorem State.blockCheck_clean {s : State} {b : Nat} (hf : tget [] s.flaws b = []) : s.blockCheck b = .clean := by
  simp [State.blockCheck, hf]

theorem State.lost_good {s : State} {b : Nat} (hf : tget [] s.flaws b = []) (hp : b ∉ s.poison) : s.lost b = false := by
  simp [State.lost, State.blockCheck_clean hf, hp]

theorem State.view_good {s : State} {b : Nat} (hf : tget [] s.flaws b = []) (hp : b ∉ s.poison) : (s.view b).2 = false :=
  foldl_apply_good _ (State.lost_good hf hp)

theorem State.checkBlock_good {s : State} {b : Nat} (hf : tget [] s.flaws b = []) (hp : b ∉ s.poison) : s.checkBlock b = s := by
  unfold State.checkBlock
  split
  · simp [State.lost_good hf hp, State.blockCheck_clean hf]
  · rfl

/-! ### Reading back (R36) -/

@[simp] theorem Launch.polder_default : (default : Launch).polder = 0 := rfl

/-- Sound records come back as they are, and nothing changes. -/
theorem State.readBack_sound {s : State} {c : Nat} {rs : List Record}
    (h : ∀ r ∈ rs, SoundRecords s (s.blockPolder c r.bslot) [r]) : s.readBack c rs = (rs, s) := by
  unfold State.readBack
  suffices key : ∀ (ok : List Record), rs.foldl _ (ok, s) = (ok ++ rs, s) from key []
  induction rs with
  | nil => simp
  | cons r rs ih =>
    intro ok
    have hr := h r (List.mem_cons_self ..)
    have hcheck : r.place.foldl (fun t i => t.checkBlock (t.placePa (s.blockPolder c r.bslot) i / 64)) s = s := by
      refine List.foldlRecOn r.place _ (motive := (· = s)) rfl fun t ht i hi => ?_
      obtain ⟨hf, hp⟩ := hr r (by simp) i hi
      rw [ht, State.checkBlock_good hf hp]
    have hlost : s.recordLost (s.blockPolder c r.bslot) r = none := by
      refine List.find?_eq_none.2 fun i hi => ?_
      obtain ⟨hf, hp⟩ := hr r (by simp) i hi
      simp only [State.placePa] at hf hp ⊢
      rw [State.view_good hf hp]
      decide
    refine (congrArg (fun a => List.foldl _ a rs) ?_).trans <|
      (ih (fun x hx => h x (List.mem_cons_of_mem _ hx)) (ok ++ [r])).trans (by simp)
    unfold State.blockPolder at hcheck hlost
    cases hb : s.block c r.bslot with
    | none =>
      simp only [hb] at hcheck hlost
      simp only [hb, Launch.polder_default, hcheck, hlost]
    | some x =>
      simp only [hb] at hcheck hlost
      simp only [hb, hcheck, hlost]

/-! ### Records that leave the weaver -/

theorem State.core_takeRecords (s : State) (c p : Nat) (rs : List Record) (d : Nat) :
    (s.takeRecords c p rs).core d
      = (s.setCore c { s.core c with records := (s.core c).records.filter fun r => !(rs.any fun x => x.age = r.age) }).core d := by
  dsimp only [State.takeRecords]
  split <;> rfl

/-- A state without its cores and its polders. -/
def State.offTaken (s : State) : State := { s with cores := [], polders := [] }

theorem State.offTaken_takeRecords (s : State) (c p : Nat) (rs : List Record) : (s.takeRecords c p rs).offTaken = s.offTaken := by
  dsimp only [State.takeRecords]
  split <;> rfl

@[simp] theorem State.mem_takeRecords (s : State) (c p : Nat) (rs : List Record) : (s.takeRecords c p rs).mem = s.mem :=
  (congrArg State.mem (s.offTaken_takeRecords c p rs) :)

@[simp] theorem State.sp_takeRecords (s : State) (c p : Nat) (rs : List Record) : (s.takeRecords c p rs).sp = s.sp :=
  (congrArg State.sp (s.offTaken_takeRecords c p rs) :)

@[simp] theorem State.records_takeRecords (s : State) (c p : Nat) (rs : List Record) :
    ((s.takeRecords c p rs).core c).records = (s.core c).records.filter fun r => !(rs.any fun x => x.age = r.age) := by
  simp [s.core_takeRecords]

@[simp] theorem State.sh_takeRecords (s : State) (c p : Nat) (rs : List Record) (d : Nat) :
    ((s.takeRecords c p rs).core d).sh = (s.core d).sh := by
  by_cases h : d = c
  · subst h; simp [s.core_takeRecords]
  · simp [s.core_takeRecords, h]

@[simp] theorem State.groups_takeRecords (s : State) (c p : Nat) (rs : List Record) (d : Nat) :
    ((s.takeRecords c p rs).core d).groups = (s.core d).groups := by
  by_cases h : d = c
  · subst h; simp [s.core_takeRecords]
  · simp [s.core_takeRecords, h]

@[simp] theorem State.blocks_takeRecords (s : State) (c p : Nat) (rs : List Record) (d : Nat) :
    ((s.takeRecords c p rs).core d).blocks = (s.core d).blocks := by
  by_cases h : d = c
  · subst h; simp [s.core_takeRecords]
  · simp [s.core_takeRecords, h]

@[simp] theorem State.group_takeRecords (s : State) (c p : Nat) (rs : List Record) (d i : Nat) :
    (s.takeRecords c p rs).group d i = s.group d i := by
  simp [State.group]

@[simp] theorem State.block_takeRecords (s : State) (c p : Nat) (rs : List Record) (d b : Nat) :
    (s.takeRecords c p rs).block d b = s.block d b := by
  simp [State.block]

/-! ### Threads taken from records (R38) -/

/-- Registers written from v`i` upward. -/
theorem tget_foldl_tset_zipIdx (ws : List Word) (i : Nat) (t : Table Word) (j : Nat) :
    tget 0 ((ws.zipIdx i).foldl (fun t e => tset 0 t e.2 e.1) t) j
      = if i ≤ j ∧ j < i + ws.length then ws.getD (j - i) 0 else tget 0 t j := by
  induction ws generalizing i t with
  | nil => simp
  | cons w ws ih =>
    rw [List.zipIdx_cons, List.foldl_cons, ih]
    by_cases h : j = i
    · subst h; simp
    · by_cases hj : i ≤ j ∧ j < i + (w :: ws).length
      · have hle : i + 1 ≤ j ∧ j < i + 1 + ws.length := by simp at hj; omega
        have hidx : j - i = (j - (i + 1)) + 1 := by omega
        rw [if_pos hle, if_pos hj, hidx, List.getD_cons_succ]
      · have hle : ¬(i + 1 ≤ j ∧ j < i + 1 + ws.length) := by simp at hj; omega
        rw [if_neg hle, if_neg hj, tget_tset_ne _ _ _ h]

theorem holds_toLane (r : Record) (alloc homeGrp homeLane : Nat) : Holds (r.toLane alloc homeGrp homeLane) r alloc homeGrp homeLane where
  st := rfl
  home := ⟨rfl, rfl⟩
  preds := rfl
  stack := ⟨rfl, rfl, rfl⟩
  live j hj := by
    refine ⟨(tget_foldl_tset_zipIdx r.regs 0 [] j).trans (by simp [hj]), ?_⟩
    simp [Record.toLane, hj]
  dead j hlo hhi := by
    have h1 : j < alloc := by omega
    have h2 : j < 255 := by omega
    simp [Record.toLane, hlo, h1, h2]

end Sys2Proof.Machine
end


section

/-!
# Joins, sleeps and barriers end (R43, R178, R180, R181, R319)
-/

namespace Sys2Proof.Machine

/-! ### Joins -/

/-- A control entry of a block that is not audited is not logged. -/
theorem State.logCtl_of_unaudited {s : State} {c b : Nat} (h : ∀ x, s.block c b = some x → x.audit = none) (gn : Nat) (e : Ctl) :
    s.logCtl c b gn e = s := State.onAudit_of_unaudited h _

/-- The records that a join takes: spill records of the block at its target that may be taken, oldest first. -/
def State.joinSet (s : State) (c b : Nat) (pc : Word) : List Record :=
  sortBy (·.age) ((s.core c).records.filter fun r => r.kind = .spill && r.bslot = b && r.pc = pc && s.eligible c r)

/-- A join after its merge. -/
def State.joinMerged (s : State) (c sl : Nat) (g : Group) (pc : Word) (since : Nat) : State :=
  if (s.core c).joinsFirst g.bslot pc since sl then
    let r := s.readBack c (s.joinSet c g.bslot pc)
    r.2.mergeAll c sl pc (s.launchOf c g).polder (allocOf (s.launchOf c g)) r.1
  else s

/-- Every lane of the group in a slot holds a thread. -/
def State.slotFull (s : State) (c sl : Nat) : Bool :=
  match s.group c sl with | some h => lanes32.all fun i => (h.lane i).st ≠ .empty | none => false

/-- A join of a block that is no re-execution merges what has arrived, and then may end. -/
theorem State.joinStep_eq {s : State} {c sl : Nat} {g : Group} {pc : Word} {since dl : Nat} (timed : Bool)
    (hg : s.group c sl = some g) (hw : g.waiting = .join pc since dl) (hr : s.inRerun c g.bslot = false)
    (ht : (timed && decide (s.clock < dl)) = false) :
    s.joinStep c sl timed =
      let t := s.joinMerged c sl g pc since
      if timed || t.slotFull c sl || (t.core c).joinAlone g.bslot sl then t.endJoin c sl pc else t := by
  unfold State.joinStep
  simp only [hg, hw, hr, ht, Bool.false_eq_true, if_false]
  rfl

/-- Where nothing has arrived, nothing is merged. -/
theorem State.joinMerged_nil {s : State} {c sl : Nat} {g : Group} {pc : Word} (since : Nat) (h : s.joinSet c g.bslot pc = []) :
    s.joinMerged c sl g pc since = s := by
  unfold State.joinMerged
  rw [h]
  split <;> rfl

/-- The group after one thread has joined it. -/
def Group.joinedBy (g : Group) (l : Nat) (ln : Lane) : Group := { g with lanes := tput g.lanes l ln, cache := [] }

/-- One sound record is merged: it leaves the weaver, and its thread enters the group. -/
theorem State.joinMerged_one {s : State} {c sl : Nat} {g : Group} {pc : Word} {since l : Nat} {r : Record}
    (hg : s.group c sl = some g) (haud : ∀ x, s.block c g.bslot = some x → x.audit = none)
    (hset : s.joinSet c g.bslot pc = [r]) (hfirst : (s.core c).joinsFirst g.bslot pc since sl = true)
    (hlane : g.mergeLane r.homeLane = some l) (hsound : SoundRecords s (s.blockPolder c r.bslot) [r]) :
    s.joinMerged c sl g pc since = (s.takeRecords c (s.launchOf c g).polder [r]).setGroup c sl
      (g.joinedBy l (r.toLane (allocOf (s.launchOf c g)) r.homeGrp r.homeLane)) := by
  unfold State.joinMerged
  rw [if_pos hfirst, hset, State.readBack_sound (by simpa using hsound)]
  simp only [State.mergeAll, hg, hlane]
  exact State.logCtl_of_unaudited (b := g.bslot) (by simpa using haud) ..

/-- The end of a join of a block that is not audited. -/
theorem State.endJoin_eq {s : State} {c sl : Nat} {g : Group} (pc : Word) (hg : s.group c sl = some g)
    (haud : ∀ x, s.block c g.bslot = some x → x.audit = none) :
    s.endJoin c sl pc = s.setGroup c sl { g with waiting := .none, pc := pc } := by
  unfold State.endJoin
  simp only [hg]
  exact State.logCtl_of_unaudited (b := g.bslot) (by simpa using haud) ..

/-- Whether a group is alone does not depend on its own slot's group. -/
theorem Core.joinAlone_congr {j k : Core} {b sl : Nat} {g : Group} (hr : j.records = k.records) (hg : j.groups = tput k.groups sl g) :
    j.joinAlone b sl = k.joinAlone b sl := by
  have hput (f : Nat × Group → Bool) (hf : ∀ x, f (sl, x) = true) (t : Table Group) : (tput t sl g).all f = t.all f := by
    induction t with
    | nil => simp [tput, hf]
    | cons e t ih =>
      obtain ⟨i, x⟩ := e
      by_cases h : sl = i
      · subst h; simp [tput, hf]
      · by_cases h' : sl < i
        · simp [tput, h, h', hf]
        · simp [tput, h, h', ih]
  unfold Core.joinAlone
  rw [hr, hg, hput _ (by simp)]

theorem State.slotFull_iff {s : State} {c sl : Nat} {g : Group} (h : s.group c sl = some g) :
    s.slotFull c sl = true ↔ ∀ i < 32, (g.lane i).st ≠ .empty := by
  simp [State.slotFull, h, lanes32]

/-- The spill records of a group's block at a PC that may be taken now. -/
def State.joinDue (s : State) (c b : Nat) (pc : Word) : List Record :=
  (s.core c).records.filter fun r => decide (r.kind = .spill) && decide (r.bslot = b) && decide (r.pc = pc) && s.eligible c r

theorem State.joinSet_eq (s : State) (c b : Nat) (pc : Word) : s.joinSet c b pc = sortBy (·.age) (s.joinDue c b pc) := rfl

theorem Unaudited.inRerun {s : State} {c : Nat} {g : Group} (h : Unaudited s c g) : s.inRerun c g.bslot = false := by
  unfold State.inRerun
  cases hb : s.block c g.bslot with
  | none => rfl
  | some x => simp [(h x hb).2]

section
variable {s : State} {c sl : Nat} {g : Group} {pc : Word} {since dl : Nat}

/-- A join at which nothing has arrived ends or goes on waiting. -/
theorem State.joinStep_nil (timed : Bool) (hg : s.group c sl = some g) (hw : g.waiting = .join pc since dl) (hu : Unaudited s c g)
    (ht : (timed && decide (s.clock < dl)) = false) (hdue : s.joinDue c g.bslot pc = []) :
    s.joinStep c sl timed =
      if timed || s.slotFull c sl || (s.core c).joinAlone g.bslot sl then s.setGroup c sl { g with waiting := .none, pc := pc } else s := by
  rw [State.joinStep_eq timed hg hw hu.inRerun ht, State.joinMerged_nil since (by rw [State.joinSet_eq, hdue]; rfl)]
  simp only [State.endJoin_eq pc hg fun x hx => (hu x hx).1]

/-- Before its time a timeout does nothing. -/
theorem State.joinStep_early (hg : s.group c sl = some g) (hw : g.waiting = .join pc since dl) (hu : Unaudited s c g)
    (ht : s.clock < dl) : s.joinStep c sl true = s := by
  simp [State.joinStep, hg, hw, hu.inRerun, ht]

/-- The state in which the thread of a record has joined a group. -/
def State.joinedBy (s : State) (c sl : Nat) (g : Group) (l : Nat) (r : Record) : State :=
  (s.takeRecords c (s.launchOf c g).polder [r]).setGroup c sl
    (g.joinedBy l (r.toLane (allocOf (s.launchOf c g)) r.homeGrp r.homeLane))

/-- A group of a join goes on at the target where the wait has ended. -/
def State.joinOn (s : State) (c sl : Nat) (g : Group) (pc : Word) : State :=
  if s.slotFull c sl || (s.core c).joinAlone g.bslot sl then s.setGroup c sl { g with waiting := .none, pc := pc } else s

theorem State.joinStep_one {r : Record} {l : Nat} (hg : s.group c sl = some g) (hw : g.waiting = .join pc since dl)
    (hu : Unaudited s c g) (hdue : s.joinDue c g.bslot pc = [r]) (hfirst : (s.core c).joinsFirst g.bslot pc since sl = true)
    (hlane : g.mergeLane r.homeLane = some l) (hsound : SoundRecords s (s.blockPolder c r.bslot) [r]) :
    s.joinStep c sl false =
      (s.joinedBy c sl g l r).joinOn c sl (g.joinedBy l (r.toLane (allocOf (s.launchOf c g)) r.homeGrp r.homeLane)) pc := by
  have haud : ∀ x, s.block c g.bslot = some x → x.audit = none := fun x hx => (hu x hx).1
  rw [State.joinStep_eq false hg hw hu.inRerun (by simp),
    State.joinMerged_one hg haud (by rw [State.joinSet_eq, hdue]; rfl) hfirst hlane hsound]
  simp only [Bool.false_or]
  rw [State.endJoin_eq pc (State.group_setGroup_same ..) (by simpa [Group.joinedBy] using haud)]
  rfl

end

/-- What one thread that joins leaves of a state. -/
theorem State.joinedBy_keeps (s : State) (c sl : Nat) (g : Group) (l : Nat) (r : Record) :
    SameMemory s (s.joinedBy c sl g l r)
      ∧ ((s.joinedBy c sl g l r).core c).records = (s.core c).records.filter (fun x => decide (x.age ≠ r.age))
      ∧ ∀ d j, ¬(d = c ∧ j = sl) → (s.joinedBy c sl g l r).group d j = s.group d j := by
  unfold State.joinedBy
  refine ⟨⟨by simp, by simp, fun d => ?_⟩, ?_, fun d j h => ?_⟩
  · by_cases e : d = c
    · subst e; simp [State.setGroup]
    · simp [State.setGroup, e]
  · simp [State.setGroup, eq_comm]
  · by_cases e : d = c
    · subst e; rw [State.group_setGroup_ne _ _ _ fun hj => h ⟨rfl, hj⟩, State.group_takeRecords]
    · simp [State.setGroup, State.group, e]

/-- Going on at the target changes the group's PC and ends its wait, and nothing else. -/
theorem State.joinOn_keeps (s : State) (c sl : Nat) (g : Group) (pc : Word) :
    SameMemory s (s.joinOn c sl g pc) ∧ ((s.joinOn c sl g pc).core c).records = (s.core c).records
      ∧ (∀ d j, ¬(d = c ∧ j = sl) → (s.joinOn c sl g pc).group d j = s.group d j)
      ∧ ((s.joinOn c sl g pc).core c).joinAlone g.bslot sl = (s.core c).joinAlone g.bslot sl := by
  unfold State.joinOn
  split
  · refine ⟨⟨rfl, rfl, fun d => ?_⟩, by simp [State.setGroup], fun d j h => ?_, ?_⟩
    · by_cases e : d = c
      · subst e; simp [State.setGroup]
      · simp [State.setGroup, e]
    · by_cases e : d = c
      · subst e; exact State.group_setGroup_ne _ _ _ fun hj => h ⟨rfl, hj⟩
      · simp [State.setGroup, State.group, e]
    · exact Core.joinAlone_congr (by simp [State.setGroup]) (by simp [State.setGroup]; rfl)
  · exact ⟨⟨rfl, rfl, fun _ => rfl⟩, rfl, fun _ _ _ => rfl, rfl⟩

/-- The group of a join after it has gone on, or not. -/
theorem State.group_joinOn {s : State} {c sl : Nat} {g : Group} (pc : Word) (hg : s.group c sl = some g) :
    ∃ h, (s.joinOn c sl g pc).group c sl = some h ∧ (∀ i, h.lane i = g.lane i)
      ∧ ((s.slotFull c sl = true ∨ (s.core c).joinAlone g.bslot sl = true) → h.waiting = .none ∧ h.pc = pc)
      ∧ (¬(s.slotFull c sl = true ∨ (s.core c).joinAlone g.bslot sl = true) → h.waiting = g.waiting ∧ h.pc = g.pc) := by
  unfold State.joinOn
  by_cases h : s.slotFull c sl = true ∨ (s.core c).joinAlone g.bslot sl = true
  · rw [if_pos (by simpa using h)]
    exact ⟨_, State.group_setGroup_same .., fun _ => rfl, fun _ => ⟨rfl, rfl⟩, fun k => absurd h k⟩
  · rw [if_neg (by simpa using h)]
    exact ⟨g, hg, fun _ => rfl, fun k => absurd k h, fun _ => ⟨rfl, rfl⟩⟩

theorem Group.lane_joinedBy_same (g : Group) (l : Nat) (ln : Lane) : (g.joinedBy l ln).lane l = ln := tget_tput_same ..

theorem Group.lane_joinedBy_ne (g : Group) {l i : Nat} (ln : Lane) (h : i ≠ l) : (g.joinedBy l ln).lane i = g.lane i :=
  tget_tput_ne _ _ _ h

/-- R43: one record is merged at a join, and the group goes on where it is full or alone. -/
theorem joinMerge_one {s : State} {c sl : Nat} {g : Group} {pc : Word} {since dl : Nat} {r : Record} {l : Nat}
    (hg : s.group c sl = some g) (hw : g.waiting = .join pc since dl) (hu : Unaudited s c g)
    (hdue : s.joinDue c g.bslot pc = [r]) (hfirst : (s.core c).joinsFirst g.bslot pc since sl = true)
    (hlane : g.mergeLane r.homeLane = some l) (hsound : SoundRecords s (s.blockPolder c r.bslot) [r]) :
    let full (h : Group) : Prop := ∀ i < 32, (h.lane i).st ≠ .empty
    Completes (.joinMerge c sl) s fun t => SameMemory s t
      ∧ (t.core c).records = (s.core c).records.filter (fun x => decide (x.age ≠ r.age))
      ∧ (∀ d j, ¬(d = c ∧ j = sl) → t.group d j = s.group d j)
      ∧ ∃ h, t.group c sl = some h ∧ Holds (h.lane l) r (allocOf (s.launchOf c g)) r.homeGrp r.homeLane
        ∧ (∀ i, i ≠ l → h.lane i = g.lane i)
        ∧ ((full h ∨ (t.core c).joinAlone g.bslot sl = true) → h.waiting = .none ∧ h.pc = pc)
        ∧ (¬(full h ∨ (t.core c).joinAlone g.bslot sl = true) → h.waiting = g.waiting ∧ h.pc = g.pc) := by
  intro full
  let ln := r.toLane (allocOf (s.launchOf c g)) r.homeGrp r.homeLane
  let u := s.joinedBy c sl g l r
  have hu' : u.group c sl = some (g.joinedBy l ln) := State.group_setGroup_same ..
  obtain ⟨hmem, hrec, hoth⟩ := s.joinedBy_keeps c sl g l r
  obtain ⟨hmem', hrec', hoth', halone⟩ := u.joinOn_keeps c sl (g.joinedBy l ln) pc
  obtain ⟨h, hh, hlanes, hon, hstay⟩ := State.group_joinOn pc hu'
  have hfull : u.slotFull c sl = true ↔ full h := by
    rw [State.slotFull_iff hu']
    simp only [full, hlanes]
  rw [hfull] at hon hstay
  refine ⟨_, congrArg Host.Outcome.next (State.joinStep_one hg hw hu hdue hfirst hlane hsound), ?_, hrec'.trans hrec,
    fun d j hd => (hoth' d j hd).trans (hoth d j hd), h, hh, ?_, fun i hi => ?_, ?_, ?_⟩
  · exact ⟨hmem'.memory.trans hmem.memory, hmem'.scratch.trans hmem.scratch, fun d => (hmem'.shared d).trans (hmem.shared d)⟩
  · rw [hlanes, Group.lane_joinedBy_same]
    exact holds_toLane ..
  · rw [hlanes, Group.lane_joinedBy_ne _ _ hi]
  · exact fun k => hon (k.imp id fun a => halone.symm.trans a)
  · exact fun k => hstay fun a => k (a.imp id fun b => halone.trans b)

/-! ### Barriers (R180, R181) -/

theorem tfind_map {α β : Type} (f : α → β) (t : Table α) (k : Nat) : tfind (t.map fun e => (e.1, f e.2)) k = (tfind t k).map f := by
  induction t with
  | nil => rfl
  | cons e t ih =>
    obtain ⟨i, x⟩ := e
    by_cases h : k = i
    · simp [tfind, h]
    · simp [tfind, h, ih]

theorem mem_of_tfind {α : Type} {t : Table α} {k : Nat} {v : α} (h : tfind t k = some v) : (k, v) ∈ t := by
  induction t with
  | nil => cases h
  | cons e t ih =>
    obtain ⟨i, x⟩ := e
    by_cases hk : k = i
    · simp [tfind, hk] at h
      simp [hk, h]
    · simp [tfind, hk] at h
      exact List.mem_cons_of_mem _ (ih h)

/-- A group waits at a barrier of block `b`: at `gsync`, or at a `bar`. -/
def Group.waitsAt (b : Nat) (gang : Bool) (g : Group) : Bool :=
  g.bslot = b && g.occs ≠ [] && if gang then g.waiting = .gsync else g.atBar

/-- A group as a barrier of block `b` lets it go on. -/
def Group.letOn (b : Nat) (gang : Bool) (g : Group) : Group := if g.waitsAt b gang then { g with waiting := .none } else g

/-- What a barrier of a block, or of its gang, holds back. -/
def barrierHold (gang : Bool) : Hold := if gang then .gang else .bar

theorem free_ne_barrierHold (gang : Bool) : Hold.free ≠ barrierHold gang := by cases gang <;> simp [barrierHold]

/-- A record as a barrier of block `b` lets it form again. -/
def Record.letOn (b : Nat) (gang : Bool) (r : Record) : Record :=
  if r.bslot = b && r.held = barrierHold gang then { r with held := .free } else r

theorem State.offCores_passBarrier (s : State) (c b : Nat) (gang : Bool) : (s.passBarrier c b gang).offCores = s.offCores := by
  dsimp only [State.passBarrier, State.freeHeld]
  split <;> rfl

theorem State.core_passBarrier_ne (s : State) (c b : Nat) (gang : Bool) {d : Nat} (h : d ≠ c) :
    (s.passBarrier c b gang).core d = s.core d := by
  dsimp only [State.passBarrier, State.freeHeld]
  split <;> simp [State.setBlock, h]

theorem State.core_passBarrier (s : State) (c b : Nat) (gang : Bool) :
    ∃ bs, (s.passBarrier c b gang).core c = { s.core c with
      groups := (s.core c).groups.map fun e => (e.1, e.2.letOn b gang)
      records := (s.core c).records.map (Record.letOn b gang), blocks := bs } := by
  have hgroup (e : Nat × Group) : (if e.2.waitsAt b gang then (e.1, { e.2 with waiting := .none }) else e) = (e.1, e.2.letOn b gang) := by
    unfold Group.letOn
    split <;> rfl
  have hgroups := (s.core c).groups.map_congr_left fun e (_ : e ∈ _) => hgroup e
  dsimp only [State.passBarrier, State.freeHeld]
  split
  all_goals
    simp only [State.setBlock, State.core_setCore_same]
    rw [← hgroups]
    exact ⟨_, rfl⟩

theorem State.group_passBarrier (s : State) (c b : Nat) (gang : Bool) (d j : Nat) :
    (s.passBarrier c b gang).group d j = if d = c then (s.group c j).map (Group.letOn b gang) else s.group d j := by
  unfold State.group
  by_cases h : d = c
  · subst h
    obtain ⟨bs, hbs⟩ := s.core_passBarrier d b gang
    rw [hbs, if_pos rfl]
    exact tfind_map ..
  · rw [s.core_passBarrier_ne c b gang h, if_neg h]

theorem State.sh_passBarrier (s : State) (c b : Nat) (gang : Bool) (d : Nat) :
    ((s.passBarrier c b gang).core d).sh = (s.core d).sh := by
  by_cases h : d = c
  · subst h
    obtain ⟨bs, hbs⟩ := s.core_passBarrier d b gang
    rw [hbs]
  · rw [s.core_passBarrier_ne c b gang h]

theorem Record.held_letOn (b : Nat) (gang : Bool) (r : Record) (h : (r.letOn b gang).bslot = b) :
    (r.letOn b gang).held ≠ barrierHold gang := by
  by_cases hr : r.bslot = b ∧ r.held = barrierHold gang
  · simp [Record.letOn, hr, free_ne_barrierHold]
  · have hsame : r.letOn b gang = r := by simpa [Record.letOn] using fun hb hh => absurd ⟨hb, hh⟩ hr
    rw [hsame] at h ⊢
    exact fun hh => hr ⟨h, hh⟩

/-- A barrier of a block shows the matrix path every performed store (R180). -/
def State.barMx (s : State) (c b : Nat) : Bool :=
  (s.threads c b).any (fun e => e.2.waiting = .bar true) || match s.block c b with | some x => x.evictedMx | none => false

/-- The state once the block barrier of `b` has completed. -/
def State.barPassed (s : State) (c b : Nat) : State :=
  let t := s.passBarrier c b false
  if s.barMx c b then t.setCore c { t.core c with mxHist := [] } else t

theorem mem_threads {s : State} {c sl : Nat} {g : Group} (h : s.group c sl = some g) (ho : g.occs ≠ []) :
    (sl, g) ∈ s.threads c g.bslot := by
  simp [State.threads, mem_of_tfind h, ho]

theorem exec_barrierComplete_all {s : State} {c sl : Nat} {g : Group} (hg : s.group c sl = some g) (ho : g.occs ≠ [])
    (hall : ∀ e ∈ s.threads c g.bslot, e.2.atBar = true) :
    exec (.barrierComplete c g.bslot) s = .next (s.barPassed c g.bslot) := by
  have hne : s.threads c g.bslot ≠ [] := List.ne_nil_of_mem (mem_threads hg ho)
  have hall' : (s.threads c g.bslot).all (fun e => e.2.atBar) = true := List.all_eq_true.2 hall
  show execBarrierComplete c g.bslot s = _
  simp only [execBarrierComplete, hne, hall', decide_false, Bool.false_and, Bool.not_true, Bool.or_false, Bool.false_eq_true, if_false]
  rfl

theorem exec_barrierComplete_some {s : State} {c b : Nat} (h : ∃ e ∈ s.threads c b, e.2.atBar = false) :
    exec (.barrierComplete c b) s = .next s := by
  have hall : (s.threads c b).all (fun e => e.2.atBar) = false := by
    obtain ⟨e, he, hbar⟩ := h
    exact List.all_eq_false.2 ⟨e, he, by simp [hbar]⟩
  show execBarrierComplete c b s = _
  simp [execBarrierComplete, hall]

theorem State.group_barPassed (s : State) (c b d j : Nat) :
    (s.barPassed c b).group d j = (s.passBarrier c b false).group d j := by
  unfold State.barPassed State.group
  cases s.barMx c b
  · rfl
  · by_cases h : d = c
    · subst h; simp
    · simp [h]

theorem State.sameMemory_barPassed (s : State) (c b : Nat) : SameMemory s (s.barPassed c b) := by
  have ho := s.offCores_passBarrier c b false
  have hm : SameMemory s (s.passBarrier c b false) :=
    ⟨(congrArg State.mem ho :), (congrArg State.sp ho :), s.sh_passBarrier c b false⟩
  unfold State.barPassed
  cases s.barMx c b
  · exact hm
  · refine ⟨hm.memory, hm.scratch, fun d => ?_⟩
    by_cases h : d = c
    · subst h; simpa using hm.shared d
    · simpa [h] using hm.shared d

theorem State.records_barPassed (s : State) (c b : Nat) :
    ((s.barPassed c b).core c).records = (s.core c).records.map (Record.letOn b false) := by
  obtain ⟨bs, hbs⟩ := s.core_passBarrier c b false
  unfold State.barPassed
  cases s.barMx c b
  · simp [hbs]
  · simp [hbs]

theorem State.mxHist_barPassed {s : State} {c b : Nat}
    (h : (∃ e ∈ s.threads c b, e.2.waiting = .bar true) ∨ ∃ x, s.block c b = some x ∧ x.evictedMx = true) :
    ((s.barPassed c b).core c).mxHist = [] := by
  have hmx : s.barMx c b = true := by
    rcases h with ⟨e, he, hw⟩ | ⟨x, hx, hev⟩
    · exact Bool.or_eq_true_iff.2 (.inl (List.any_eq_true.2 ⟨e, he, by simp [hw]⟩))
    · exact Bool.or_eq_true_iff.2 (.inr (by rw [hx]; exact hev))
  unfold State.barPassed
  rw [if_pos hmx]
  simp

/-! ### The barrier of a gang (R181, R228) -/

/-- The groups of a gang's blocks have gone on from `gsync`. -/
def State.gangPassed (s : State) (bs : List (Nat × Nat)) : State := bs.foldl (fun s y => s.passBarrier y.1 y.2 true) s

theorem State.offCores_gangPassed (s : State) (bs : List (Nat × Nat)) : (s.gangPassed bs).offCores = s.offCores :=
  foldl_keeps State.offCores (fun s (y : Nat × Nat) => s.offCores_passBarrier y.1 y.2 true) bs s

theorem State.sh_gangPassed (s : State) (bs : List (Nat × Nat)) (d : Nat) : ((s.gangPassed bs).core d).sh = (s.core d).sh :=
  foldl_keeps (fun s : State => (s.core d).sh) (fun s (y : Nat × Nat) => s.sh_passBarrier y.1 y.2 true d) bs s

theorem Group.letOn_of_not {b : Nat} {gang : Bool} {g : Group} (h : g.waitsAt b gang = false) : g.letOn b gang = g := by
  simp [Group.letOn, h]

/-- A group that waits for nothing stays as it is. -/
theorem State.group_gangPassed_none {s : State} {bs : List (Nat × Nat)} {d j : Nat} {h : Group} (hg : s.group d j = some h)
    (hw : h.waiting = .none) : (s.gangPassed bs).group d j = some h := by
  induction bs generalizing s with
  | nil => exact hg
  | cons y bs ih =>
    refine ih ?_
    have hnot : h.waitsAt y.2 true = false := by simp [Group.waitsAt, hw]
    rw [State.group_passBarrier]
    split
    · next e => subst e; rw [hg, Option.map_some, Group.letOn_of_not hnot]
    · exact hg

/-- A group at the gang's barrier goes on. -/
theorem State.group_gangPassed {s : State} {bs : List (Nat × Nat)} {d j : Nat} {h : Group} (hg : s.group d j = some h)
    (hw : h.waiting = .gsync) (ho : h.occs ≠ []) (hb : (d, h.bslot) ∈ bs) :
    (s.gangPassed bs).group d j = some { h with waiting := .none } := by
  induction bs generalizing s with
  | nil => cases hb
  | cons y bs ih =>
    by_cases hy : y = (d, h.bslot)
    · subst hy
      have hat : h.waitsAt h.bslot true = true := by simp [Group.waitsAt, hw, ho]
      refine State.group_gangPassed_none (bs := bs) (h := { h with waiting := .none }) ?_ rfl
      simp [State.group_passBarrier, hg, Group.letOn, hat]
    · refine ih ?_ ((List.mem_cons.1 hb).resolve_left fun e => hy e.symm)
      rw [State.group_passBarrier]
      split
      · next e =>
        subst e
        have hnot : h.waitsAt y.2 true = false := by
          have : h.bslot ≠ y.2 := fun e => hy (by rw [e])
          simp [Group.waitsAt, this]
        rw [hg, Option.map_some, Group.letOn_of_not hnot]
      · exact hg

/-- A word that no service image waits for is written at its home die. -/
theorem State.writeSent_eq (s : State) (x : Sent) (h : s.lwatches = []) : ∃ r, s.writeSent x
    = { s with linkQ := s.linkQ.filter (·.id ≠ x.id), sp := mset32 s.sp x.word.addr x.word.val, reports := r } := by
  obtain ⟨r, hr⟩ := State.spWord_eq { s with linkQ := s.linkQ.filter (·.id ≠ x.id) } x.word.addr x.word.val
    (State.promoAfter { s with linkQ := s.linkQ.filter (·.id ≠ x.id) } x.entry.owner x.entry.polder x.entry.after x.entry.rel x.id) h
  exact ⟨_, (congrArg State.pruneReports hr).trans rfl⟩

/-- Words of links without those of `xs`. -/
def withoutSent (q : List Sent) (xs : List Sent) : List Sent := xs.foldl (fun q x => q.filter (·.id ≠ x.id)) q

theorem mem_withoutSent {q xs : List Sent} {x : Sent} (h : x ∈ withoutSent q xs) : x ∈ q ∧ ∀ y ∈ xs, x.id ≠ y.id := by
  induction xs generalizing q with
  | nil => exact ⟨h, fun y hy => absurd hy (List.not_mem_nil)⟩
  | cons y xs ih =>
    obtain ⟨hq, hne⟩ := ih h
    obtain ⟨hq, hy⟩ := List.mem_filter.1 hq
    exact ⟨hq, List.forall_mem_cons.2 ⟨by simpa using hy, hne⟩⟩

theorem State.foldl_writeSent_eq (xs : List Sent) (s : State) (h : s.lwatches = []) : ∃ r, xs.foldl State.writeSent s
    = { s with linkQ := withoutSent s.linkQ xs, sp := xs.foldl (fun m x => mset32 m x.word.addr x.word.val) s.sp, reports := r } := by
  induction xs generalizing s with
  | nil => exact ⟨_, rfl⟩
  | cons x xs ih =>
    obtain ⟨r, hr⟩ := s.writeSent_eq x h
    rw [List.foldl_cons, hr]
    exact ih { s with linkQ := _, sp := _, reports := r } h

/-- The read caches of a gang's cores are empty. -/
def State.linesDropped (s : State) (bs : List (Nat × Nat)) : State := bs.foldl (fun s y => s.dropLines y.1) s

theorem State.offCores_linesDropped (s : State) (bs : List (Nat × Nat)) : (s.linesDropped bs).offCores = s.offCores :=
  foldl_keeps State.offCores (g := fun s (y : Nat × Nat) => s.dropLines y.1) (fun _ _ => rfl) bs s

/-- A core without the lines of its read cache. -/
def Core.offLines (k : Core) : Core := { k with rcache := [] }

theorem State.offLines_dropLines (s : State) (c d : Nat) : ((s.dropLines c).core d).offLines = (s.core d).offLines := by
  by_cases h : d = c
  · subst h; simp [State.dropLines, Core.offLines]
  · simp [State.dropLines, h]

theorem State.offLines_linesDropped (s : State) (bs : List (Nat × Nat)) (d : Nat) :
    ((s.linesDropped bs).core d).offLines = (s.core d).offLines :=
  foldl_keeps (fun s : State => (s.core d).offLines) (fun s (y : Nat × Nat) => s.offLines_dropLines y.1 d) bs s

theorem State.rcache_linesDropped {s : State} {bs : List (Nat × Nat)} {d : Nat} (h : (s.core d).rcache = [] ∨ ∃ y ∈ bs, y.1 = d) :
    ((s.linesDropped bs).core d).rcache = [] := by
  induction bs generalizing s with
  | nil => exact h.resolve_right (by simp)
  | cons y bs ih =>
    refine ih ?_
    by_cases hy : d = y.1
    · exact .inl (by simp [State.dropLines, hy])
    · refine h.imp (fun hc => by simp [State.dropLines, hy, hc]) ?_
      rintro ⟨z, hz, rfl⟩
      exact ⟨z, (List.mem_cons.1 hz).resolve_left fun e => hy (by rw [e]), rfl⟩

/-- The state once the barrier of a gang has completed. -/
def State.gangDone (s : State) (bs : List (Nat × Nat)) : State := (s.gangPassed bs).gangOrder bs

theorem State.gangOrder_eq (s : State) (bs : List (Nat × Nat)) :
    s.gangOrder bs = State.linesDropped ((s.gangWords bs).foldl State.writeSent s) bs := rfl

theorem State.lwatches_gangPassed (s : State) (bs : List (Nat × Nat)) : (s.gangPassed bs).lwatches = s.lwatches :=
  (congrArg State.lwatches (s.offCores_gangPassed bs) :)

theorem State.linkQ_gangPassed (s : State) (bs : List (Nat × Nat)) : (s.gangPassed bs).linkQ = s.linkQ :=
  (congrArg State.linkQ (s.offCores_gangPassed bs) :)

theorem State.gangWords_gangPassed (s : State) (bs : List (Nat × Nat)) : (s.gangPassed bs).gangWords bs = s.gangWords bs := by
  unfold State.gangWords
  rw [s.linkQ_gangPassed]

/-- The words written by a gang's barrier, over the state in which its groups have gone on. -/
theorem State.gangDone_eq (s : State) (bs : List (Nat × Nat)) (h : s.lwatches = []) : ∃ r, s.gangDone bs
    = State.linesDropped { s.gangPassed bs with
        linkQ := withoutSent s.linkQ (s.gangWords bs)
        sp := (s.gangWords bs).foldl (fun m x => mset32 m x.word.addr x.word.val) s.sp, reports := r } bs := by
  obtain ⟨r, hr⟩ := State.foldl_writeSent_eq (s.gangWords bs) (s.gangPassed bs) ((s.lwatches_gangPassed bs).trans h)
  refine ⟨r, ?_⟩
  have hsp : (s.gangPassed bs).sp = s.sp := (congrArg State.sp (s.offCores_gangPassed bs) :)
  rw [State.gangDone, State.gangOrder_eq, s.gangWords_gangPassed, hr, s.linkQ_gangPassed, hsp]

theorem exec_gangBarrierComplete_all {s : State} {c b : Nat} (hhere : s.gangHere c b = true)
    (hall : ∀ y ∈ s.gang c b, ∀ e ∈ s.threads y.1 y.2, e.2.waiting = .gsync)
    (hlinks : ∀ x ∈ s.linkQ, (s.gang c b).any (fun y => y.1 = x.core) = true → s.linkAvail (dieOf x.core) (homeDie x.word.addr) = .yes) :
    exec (.gangBarrierComplete c b) s = .next (s.gangDone (s.gang c b)) := by
  have hstuck : (s.linkQ.any fun x => x.ofGang (s.gang c b) && decide (s.linkAvail (dieOf x.core) x.die ≠ .yes)) = false := by
    refine List.any_eq_false.2 fun x hx => ?_
    simp only [Bool.and_eq_true, decide_eq_true_eq, not_and, not_not]
    exact hlinks x hx
  have hgs : ((s.gang c b).all fun y => (s.threads y.1 y.2).all fun e => e.2.waiting = .gsync) = true :=
    List.all_eq_true.2 fun y hy => List.all_eq_true.2 fun e he => decide_eq_true (hall y hy e he)
  show execGangBarrierComplete c b s = _
  simp only [execGangBarrierComplete, hhere, hstuck, hgs, Bool.not_false, Bool.and_self, if_true]
  rfl

theorem exec_gangBarrierComplete_absent {s : State} {c b : Nat} (h : s.gangHere c b = false) :
    exec (.gangBarrierComplete c b) s = .next s := by
  show execGangBarrierComplete c b s = _
  simp [execGangBarrierComplete, h]

/-- No word of a gang's cores is left on the links. -/
theorem ofGang_withoutSent {s : State} {bs : List (Nat × Nat)} {x : Sent} (h : x ∈ withoutSent s.linkQ (s.gangWords bs)) :
    x.ofGang bs = false := by
  obtain ⟨hq, hne⟩ := mem_withoutSent h
  by_contra hmine
  refine hne x (List.mem_filter.2 ⟨hq, List.any_eq_true.2 ⟨x, hq, ?_⟩⟩) rfl
  simpa using hmine

/-- R180, R181: what the barrier of a gang does. -/
theorem gangDone_spec {s : State} {bs : List (Nat × Nat)} (hw : s.lwatches = [])
    (hall : ∀ y ∈ bs, ∀ e ∈ s.threads y.1 y.2, e.2.waiting = .gsync) :
    (s.gangDone bs).mem = s.mem ∧ (∀ d, ((s.gangDone bs).core d).sh = (s.core d).sh)
      ∧ (∀ d j h, s.group d j = some h → (d, h.bslot) ∈ bs → h.occs ≠ [] →
        (s.gangDone bs).group d j = some { h with waiting := .none })
      ∧ (∀ a, mget (s.gangDone bs).sp a = mget ((s.gangWords bs).foldl (fun m x => mset32 m x.word.addr x.word.val) s.sp) a)
      ∧ (∀ x ∈ (s.gangDone bs).linkQ, x.ofGang bs = false) ∧ ∀ y ∈ bs, ((s.gangDone bs).core y.1).rcache = [] := by
  obtain ⟨r, hr⟩ := s.gangDone_eq bs hw
  rw [hr]
  generalize hu : ({ s.gangPassed bs with linkQ := _, sp := _, reports := r } : State) = u
  have hoff := u.offCores_linesDropped bs
  have hcore (d : Nat) : u.core d = (s.gangPassed bs).core d := by rw [← hu]; rfl
  refine ⟨?_, fun d => ?_, fun d j h hg hb ho => ?_, fun a => ?_, fun x hx => ?_, fun y hy => ?_⟩
  · refine (congrArg State.mem hoff :).trans ?_
    rw [← hu]
    exact (congrArg State.mem (s.offCores_gangPassed bs) :)
  · refine (congrArg Core.sh (u.offLines_linesDropped bs d) :).trans ?_
    show (u.core d).sh = _
    rw [hcore, s.sh_gangPassed]
  · refine (congrArg (fun k : Core => tfind k.groups j) (u.offLines_linesDropped bs d) :).trans ?_
    show tfind (u.core d).groups j = _
    rw [hcore]
    exact State.group_gangPassed hg (hall _ hb _ (mem_threads hg ho)) ho hb
  · have hsp : (u.linesDropped bs).sp = u.sp := (congrArg State.sp hoff :)
    rw [hsp, ← hu]
  · have hq : (u.linesDropped bs).linkQ = u.linkQ := (congrArg State.linkQ hoff :)
    rw [hq, ← hu] at hx
    exact ofGang_withoutSent hx
  · exact State.rcache_linesDropped (.inr ⟨y, hy, rfl⟩)

/-- R178: a sleep ends in time. -/
theorem exec_sleepExpire_at {s : State} {c sl : Nat} {g : Group} {till : Nat} (hg : s.group c sl = some g) (hw : g.waiting = .sleep till) :
    exec (.sleepExpire c sl) s = .next (if till ≤ s.clock then s.setGroup c sl { g with waiting := .none } else s) := by
  show execSleepExpire c sl s = _
  simp [execSleepExpire, hg, hw]

/-- R180: what the barrier of a block does to the groups. -/
theorem group_barPassed {s : State} {c b : Nat} {d j : Nat} {h : Group} (hg : s.group d j = some h) :
    (s.barPassed c b).group d j = some (if d = c then h.letOn b false else h) := by
  rw [State.group_barPassed, State.group_passBarrier]
  split
  · next e => subst e; rw [hg]; rfl
  · exact hg

/-- Settles O34: joins by `joinStep`, barriers by the groups, records and words that they let go. -/
theorem joinsAndBarriers : Obligations.JoinsAndBarriers := by
  unfold Obligations.JoinsAndBarriers
  intro s c sl g hg
  refine ⟨fun pc since dl hw hu => ⟨?_, ?_, ?_, ?_, ?_⟩, fun till hw => exec_sleepExpire_at hg hw, fun ho hall => ?_,
    fun ho hsome => exec_barrierComplete_some hsome, ⟨fun hhere hall hlw hlinks => ?_, exec_gangBarrierComplete_absent⟩⟩
  · intro hdue hend
    simp only [← State.slotFull_iff hg] at hend
    refine congrArg Host.Outcome.next ((State.joinStep_nil false hg hw hu (by simp) hdue).trans (if_pos ?_))
    simpa using hend
  · intro hdue hend
    simp only [← State.slotFull_iff hg] at hend
    refine congrArg Host.Outcome.next ((State.joinStep_nil false hg hw hu (by simp) hdue).trans (if_neg ?_))
    simpa using hend
  · intro r l hdue hfirst hlane hsound
    exact joinMerge_one hg hw hu hdue hfirst hlane hsound
  · intro htime hdue
    exact congrArg Host.Outcome.next ((State.joinStep_nil true hg hw hu (by simp [htime]) hdue).trans (if_pos (by simp)))
  · intro htime
    exact congrArg Host.Outcome.next (State.joinStep_early hg hw hu htime)
  · have hat : g.atBar = true := hall _ (mem_threads hg ho)
    refine ⟨_, exec_barrierComplete_all hg ho hall, s.sameMemory_barPassed c g.bslot, ?_, fun d j h hh hnot => ?_, fun r hr hb => ?_,
      fun h => State.mxHist_barPassed (.inl h), fun h => State.mxHist_barPassed (.inr h)⟩
    · simp [group_barPassed hg, Group.letOn, Group.waitsAt, ho, hat]
    · rw [group_barPassed hh]
      split
      · next e =>
        refine congrArg some (Group.letOn_of_not ?_)
        simp only [Group.waitsAt]
        by_cases hb : h.bslot = g.bslot
        · have hocc : h.occs = [] := by
            by_contra hocc
            exact hnot ⟨e, hb, hocc⟩
          simp [hocc]
        · simp [hb]
      · rfl
    · rw [s.records_barPassed] at hr
      obtain ⟨r0, -, rfl⟩ := List.mem_map.1 hr
      exact Record.held_letOn _ _ _ hb
  · exact ⟨_, exec_gangBarrierComplete_all hhere hall hlinks, gangDone_spec hlw hall⟩

end Sys2Proof.Machine
end


section

/-!
# Records enter the weaver (R36, R38)

A deposited record takes the next AGE. Where spawn memory is full it is written into the polder's spill area, and a coherent read finds
every byte outside the record's places as before.
-/

namespace Sys2Proof.Machine

/-! ### What a read finds of a block (R194, R195) -/

theorem length_splice_take {bs new : List Byte} {off : Nat} (h : bs.length = 64) (ho : off < 64) :
    ((splice bs off new).take 64).length = 64 := by
  simp [splice, h]
  omega

theorem QPacket.length_apply (q : QPacket) {v : BlockView} (h : v.1.length = 64) : (q.apply v).1.length = 64 := by
  have ho : q.pa % 64 < 64 := Nat.mod_lt _ (by decide)
  unfold QPacket.apply
  split
  · split
    · assumption
    · split
      · exact h
      · exact length_splice_take h ho
  · split
    · exact h
    · exact length_splice_take h ho
  · exact h

theorem length_foldl_apply (qs : List QPacket) {v : BlockView} (h : v.1.length = 64) :
    (qs.foldl (fun v q => q.apply v) v).1.length = 64 := by
  induction qs generalizing v with
  | nil => exact h
  | cons q qs ih => exact ih (q.length_apply h)

theorem ErrPat.length_apply (e : ErrPat) (bs : List Byte) : (ErrPat.apply e bs).length = bs.length := by
  unfold ErrPat.apply
  split <;> simp

theorem State.length_view (s : State) (b : Nat) : (s.view b).1.length = 64 := by
  refine length_foldl_apply _ ?_
  simp [State.arrayBytes, ErrPat.length_apply]

theorem getD_splice_take {bs new : List Byte} {off j : Nat} (h : bs.length = 64) (hn : off + new.length ≤ 64)
    (hj : j < off ∨ off + new.length ≤ j) : ((splice bs off new).take 64).getD j 0 = bs.getD j 0 := by
  have hlen : (splice bs off new).length = 64 := by simp [splice, h]; omega
  rw [List.take_of_length_le (by omega)]
  unfold splice
  simp only [List.getD_eq_getElem?_getD]
  congr 1
  rcases hj with hj | hj
  · rw [List.append_assoc, List.getElem?_append_left (by simp; omega), List.getElem?_take_of_lt hj]
  · rw [List.getElem?_append_right (by simp; omega), List.getElem?_drop]
    congr 1
    simp
    omega

/-- A byte that the write does not reach stays as it is. -/
theorem QPacket.getD_apply_write {q : QPacket} {data : List Byte} {v : BlockView} {j : Nat} (hq : q.op = .write data)
    (hn : q.pa % 64 + data.length ≤ 64) (h : v.1.length = 64) (hj : j < q.pa % 64 ∨ q.pa % 64 + data.length ≤ j) :
    (q.apply v).1.getD j 0 = v.1.getD j 0 := by
  unfold QPacket.apply
  rw [hq]
  dsimp only
  split
  · next hd =>
    have hj64 : 64 ≤ j := by omega
    simp [List.getD_eq_getElem?_getD, hd, h, hj64]
  · split
    · rfl
    · exact getD_splice_take h hn hj

/-- A state with one more packet in its queues. -/
def State.enqueued (s : State) (q : QPacket) : State := { s.newId.2 with queue := s.queue ++ [q] }

theorem State.view_enqueued (s : State) (q : QPacket) (b : Nat) :
    (s.enqueued q).view b = if q.pa / 64 = b then q.apply (s.view b) else s.view b := by
  have hview : (s.enqueued q).view b
      = ((s.queue ++ [q]).filter fun q => q.pa / 64 = b).foldl (fun v q => q.apply v) (s.arrayBytes b, s.lost b) := rfl
  rw [hview, List.filter_append, List.foldl_append]
  by_cases h : q.pa / 64 = b
  · simp [h, State.view, State.queued]
  · simp [h, State.view, State.queued]

/-- A packet that lies in a block and does not reach a byte leaves it. -/
theorem State.coherent_enqueued {s : State} {q : QPacket} {data : List Byte} {a : Nat} (hq : q.op = .write data)
    (hn : q.pa % 64 + data.length ≤ 64) (ha : a < q.pa ∨ q.pa + data.length ≤ a) : (s.enqueued q).coherent a = s.coherent a := by
  unfold State.coherent
  rw [State.view_enqueued]
  split
  · next hb =>
    refine QPacket.getD_apply_write hq hn (s.length_view _) ?_
    omega
  · rfl

theorem le_of_mem_blocksOf {pa len b : Nat} (h : b ∈ blocksOf pa len) : pa / 64 ≤ b := by
  obtain ⟨i, -, rfl⟩ := List.mem_map.1 h
  omega

theorem State.coherent_accept_write {s : State} {org : Origin} {cmd lane va pa a : Nat} {data : List Byte}
    (ha : a < pa ∨ pa + data.length ≤ a) : (s.accept org cmd lane va pa (.write data)).coherent a = s.coherent a := by
  refine List.foldlRecOn (Machine.blocksOf pa data.length) _ (motive := fun t : State => t.coherent a = s.coherent a) rfl fun t ht b hb => ?_
  refine Eq.trans ?_ ht
  have hle := le_of_mem_blocksOf hb
  refine State.coherent_enqueued (s := t) rfl ?_ ?_
  · simp only [List.length_take, List.length_drop]
    omega
  · simp only [List.length_take, List.length_drop]
    omega

theorem State.coherent_writePa {s : State} {pa a : Nat} {bytes : List Byte} (ha : a < pa ∨ pa + bytes.length ≤ a) :
    (s.writePa pa bytes).coherent a = s.coherent a := by
  unfold State.writePa
  split
  · rfl
  · exact State.coherent_accept_write ha

/-! ### The frame of records that enter -/

/-- Records `rs` have entered the weaver of core `c`, for polder `p`, and nothing else that a thread or a read sees has changed. -/
structure Recorded (s t : State) (c p : Nat) (rs : List Record) : Prop where
  memory   : t.mem = s.mem
  scratch  : t.sp = s.sp
  shared   : ∀ d, (t.core d).sh = (s.core d).sh
  clock    : t.clock = s.clock
  groups   : ∀ d j, t.group d j = s.group d j
  blocks   : ∀ d b, t.block d b = s.block d b
  records  : (t.core c).records = (s.core c).records ++ rs
  ageCtr   : (t.core c).ageCtr = (s.core c).ageCtr + rs.length
  spillPa  : ∀ q, (t.polder q).spillPa = (s.polder q).spillPa
  coherent : ∀ a, OutsideRecords s p rs a → t.coherent a = s.coherent a

theorem OutsideRecords.congr {s t : State} {p : Nat} {rs : List Record} {a : Nat} (h : OutsideRecords s p rs a)
    (hp : (t.polder p).spillPa = (s.polder p).spillPa) : OutsideRecords t p rs a := by
  intro r hr i hi
  have := h r hr i hi
  simpa [State.placePa, hp] using this

namespace Recorded

variable {s t u : State} {c p : Nat} {rs xs : List Record}

theorem refl (s : State) (c p : Nat) : Recorded s s c p [] :=
  ⟨rfl, rfl, fun _ => rfl, rfl, fun _ _ => rfl, fun _ _ => rfl, (List.append_nil _).symm, rfl, fun _ => rfl, fun _ _ => rfl⟩

theorem trans (h : Recorded s t c p rs) (k : Recorded t u c p xs) : Recorded s u c p (rs ++ xs) where
  memory := k.memory.trans h.memory
  scratch := k.scratch.trans h.scratch
  shared d := (k.shared d).trans (h.shared d)
  clock := k.clock.trans h.clock
  groups d j := (k.groups d j).trans (h.groups d j)
  blocks d b := (k.blocks d b).trans (h.blocks d b)
  records := by rw [k.records, h.records, List.append_assoc]
  ageCtr := by rw [k.ageCtr, h.ageCtr, List.length_append, Nat.add_assoc]
  spillPa q := (k.spillPa q).trans (h.spillPa q)
  coherent a ha := by
    have hs : OutsideRecords s p rs a := fun r hr => ha r (List.mem_append_left _ hr)
    have ht : OutsideRecords s p xs a := fun r hr => ha r (List.mem_append_right _ hr)
    exact (k.coherent a (ht.congr (h.spillPa p))).trans (h.coherent a hs)

end Recorded

/-! ### A deposit -/

theorem mem_chunks {α : Type} {k n : Nat} {xs ys : List α} (h : ys ∈ chunks k n xs) : ys.length ≤ k := by
  induction n generalizing xs with
  | zero => cases h
  | succ n ih =>
    cases xs with
    | nil => cases h
    | cons x xs =>
      rcases List.mem_cons.1 h with rfl | h
      · simp
      · exact ih h

/-- A record is written into the places of the spill area that it holds. -/
def State.spillWrites (s : State) (p : Nat) (es : List (Nat × List Byte)) : State :=
  es.foldl (fun s e => s.writePa (s.placePa p e.1) e.2) s

theorem State.offQueue_spillWrites (s : State) (p : Nat) (es : List (Nat × List Byte)) : (s.spillWrites p es).offQueue = s.offQueue :=
  foldl_keeps State.offQueue (fun s (e : Nat × List Byte) => s.offQueue_writePa (s.placePa p e.1) e.2) es s

theorem State.coherent_spillWrites {s : State} {p a : Nat} {es : List (Nat × List Byte)} (hlen : ∀ e ∈ es, e.2.length ≤ spillUnit)
    (ha : ∀ e ∈ es, ¬(s.placePa p e.1 ≤ a ∧ a < s.placePa p e.1 + spillUnit)) : (s.spillWrites p es).coherent a = s.coherent a := by
  induction es generalizing s with
  | nil => rfl
  | cons e es ih =>
    let u := s.writePa (s.placePa p e.1) e.2
    have hpa (i : Nat) : u.placePa p i = s.placePa p i :=
      (congrArg (fun x : State => x.placePa p i) (s.offQueue_writePa (s.placePa p e.1) e.2) :)
    refine (ih (s := u) (fun x hx => hlen x (List.mem_cons_of_mem _ hx)) fun x hx => ?_).trans (State.coherent_writePa ?_)
    · rw [hpa]
      exact ha x (List.mem_cons_of_mem _ hx)
    · have hl := hlen e (List.mem_cons_self ..)
      have hne := ha e (List.mem_cons_self ..)
      simp only [spillUnit] at hl hne
      omega

/-- The record that a deposit enters. -/
def State.depositRec (s : State) (c p : Nat) (r : Record) : Record :=
  let sp : Bool := (s.core c).spawnUse + r.size > spawnMem
  { r with age := (s.core c).ageCtr, spilled := sp, place := if sp then s.spillPlaces p r.size else [] }

/-- The core's weaver holds one more record. -/
def State.recordAdded (s : State) (c : Nat) (r : Record) : State :=
  s.setCore c { s.core c with records := (s.core c).records ++ [r], ageCtr := (s.core c).ageCtr + 1 }

theorem State.recorded_recordAdded (s : State) (c p : Nat) (r : Record) : Recorded s (s.recordAdded c r) c p [r] where
  memory := rfl
  scratch := rfl
  shared d := by by_cases h : d = c <;> simp [State.recordAdded, h]
  clock := rfl
  groups d j := by by_cases h : d = c <;> simp [State.recordAdded, State.group, h]
  blocks d b := by by_cases h : d = c <;> simp [State.recordAdded, State.block, h]
  records := by simp [State.recordAdded]
  ageCtr := by simp [State.recordAdded]
  spillPa _ := rfl
  coherent _ _ := rfl

/-- The bytes of a record by the places that hold them. -/
def Record.pieces (r : Record) : List (Nat × List Byte) := r.place.zip (chunks spillUnit r.place.length (recBytes r))

theorem State.deposit_eq {s : State} {c : Nat} (p : Nat) (r : Record) (h : (s.core c).ageCtr < 2 ^ 32 - 1) :
    s.deposit c p r =
      let x := s.depositRec c p r
      let t := s.recordAdded c x
      if x.spilled then
        let u := t.spillWrites p x.pieces
        u.setPolder p { u.polder p with spillUse := (u.polder p).spillUse + r.size }
      else t := by
  have hren : (s.core c).renumber = s.core c := if_pos h
  unfold State.deposit
  simp only [hren]
  rfl

/-- The spill area's use counts a record's bytes. -/
theorem Recorded.setPolder {s t : State} {c p : Nat} {rs : List Record} (h : Recorded s t c p rs) (x : Polder)
    (hx : x.spillPa = (t.polder p).spillPa) : Recorded s (t.setPolder p x) c p rs where
  memory := h.memory
  scratch := h.scratch
  shared := h.shared
  clock := h.clock
  groups := h.groups
  blocks := h.blocks
  records := h.records
  ageCtr := h.ageCtr
  spillPa q := by
    by_cases e : q = p
    · subst e; rw [State.polder_setPolder_same, hx, h.spillPa]
    · rw [State.polder_setPolder_ne _ _ e, h.spillPa]
  coherent := h.coherent

/-- Bytes written into the places of a record that has entered. -/
theorem Recorded.spillWrites {s t : State} {c p : Nat} {r : Record} (h : Recorded s t c p [r]) :
    Recorded s (t.spillWrites p r.pieces) c p [r] := by
  have hoff := t.offQueue_spillWrites p r.pieces
  have hcore (d : Nat) : (t.spillWrites p r.pieces).core d = t.core d := (congrArg (fun u : State => u.core d) hoff :)
  refine
    { memory := (congrArg State.mem hoff :).trans h.memory
      scratch := (congrArg State.sp hoff :).trans h.scratch
      shared := fun d => by rw [hcore, h.shared]
      clock := (congrArg State.clock hoff :).trans h.clock
      groups := fun d j => (congrArg (fun u : State => u.group d j) hoff :).trans (h.groups d j)
      blocks := fun d b => (congrArg (fun u : State => u.block d b) hoff :).trans (h.blocks d b)
      records := by rw [hcore, h.records]
      ageCtr := by rw [hcore, h.ageCtr]
      spillPa := fun q => (congrArg (fun u : State => (u.polder q).spillPa) hoff :).trans (h.spillPa q)
      coherent := fun a ha => ?_ }
  refine (State.coherent_spillWrites ?_ ?_).trans (h.coherent a ha)
  · rintro ⟨i, bs⟩ he
    exact mem_chunks (List.of_mem_zip he).2
  · rintro ⟨i, bs⟩ he
    exact ha.congr (h.spillPa p) r (by simp) i (List.of_mem_zip he).1

/-- A deposit before the counter would wrap enters the record with the next AGE (R38). -/
theorem State.recorded_deposit {s : State} {c : Nat} (p : Nat) (r : Record) (h : (s.core c).ageCtr < 2 ^ 32 - 1) :
    Recorded s (s.deposit c p r) c p [s.depositRec c p r] := by
  rw [State.deposit_eq p r h]
  have hadd := s.recorded_recordAdded c p (s.depositRec c p r)
  dsimp only
  split
  · exact hadd.spillWrites.setPolder _ rfl
  · exact hadd

theorem State.bare_depositRec (s : State) (c p : Nat) (r : Record) :
    (s.depositRec c p r).bare = { r.bare with age := (s.core c).ageCtr } := rfl

/-- Deposits one by one give the records rising AGEs. -/
theorem recorded_foldl_deposit {α : Type} (f : State → α → Record) {c p : Nat} (xs : List α) (s : State)
    (hf : ∀ t x, t.clock = s.clock → f t x = f s x) (h : (s.core c).ageCtr + xs.length < 2 ^ 32) :
    ∃ rs, Recorded s (xs.foldl (fun t x => t.deposit c p (f t x)) s) c p rs
      ∧ rs.map Record.bare = xs.zipIdx.map fun e => { (f s e.1).bare with age := (s.core c).ageCtr + e.2 } := by
  induction xs generalizing s with
  | nil => exact ⟨[], .refl s c p, rfl⟩
  | cons x xs ih =>
    simp only [List.length_cons] at h
    have h1 := s.recorded_deposit p (f s x) (c := c) (by omega)
    have hclock := h1.clock
    obtain ⟨rs, hrs, hbare⟩ := ih (s.deposit c p (f s x))
      (fun t y ht => (hf t y (ht.trans hclock)).trans (hf _ y hclock).symm) (by rw [h1.ageCtr]; simp; omega)
    refine ⟨_, h1.trans hrs, ?_⟩
    rw [List.map_append, hbare, List.map_singleton, State.bare_depositRec, List.zipIdx_cons, List.map_cons, List.singleton_append,
      Nat.zero_add, List.zipIdx_succ, List.map_map]
    congr 1
    refine List.map_congr_left fun e _ => ?_
    simp only [Function.comp_apply, h1.ageCtr, List.length_singleton, hf _ e.1 hclock]
    congr 1
    omega

end Sys2Proof.Machine
end


section

/-!
# A group divides (R33, R34, R61)

The group's results are written first. What writing them gives does not depend on where the group stands; then the leaving lanes become
records, and the group goes on at the PC that it keeps.
-/

namespace Sys2Proof.Machine

/-! ### Results written to a group (R60, R61) -/

/-- Results written to a group one by one. -/
def Group.landAll (g : Group) (ws : List LWrite) : Group := ws.foldl Group.landOne g

/-- A group apart from where it stands and from its instructions under way. -/
def Group.unplaced (g : Group) : Group := { g with pc := 0, clause := none, run := 0, issued := 0, inflight := [] }

theorem Group.landAll_inflight (g : Group) (ws : List LWrite) (x : List InFlight) :
    ({ g with inflight := x } : Group).landAll ws = { g.landAll ws with inflight := x } := by
  induction ws generalizing g with
  | nil => rfl
  | cons w ws ih => exact ih (g.landOne w)

theorem Group.inflight_landAll (g : Group) (ws : List LWrite) : (g.landAll ws).inflight = g.inflight :=
  foldl_keeps Group.inflight (g := Group.landOne) (fun _ _ => rfl) ws g

theorem Group.unplaced_landAll (g : Group) (ws : List LWrite) : (g.landAll ws).unplaced = g.unplaced.landAll ws := by
  induction ws generalizing g with
  | nil => rfl
  | cons w ws ih => exact ih (g.landOne w)

theorem Group.foldl_land (fs : List InFlight) (g : Group) : fs.foldl Group.land g
    = { g.landAll (fs.flatMap (·.writes)) with inflight := g.inflight.filter fun f => fs.all fun x => f.id ≠ x.id } := by
  induction fs generalizing g with
  | nil => simp [Group.landAll]
  | cons f fs ih =>
    have hland : g.land f = { g.landAll f.writes with inflight := g.inflight.filter (·.id ≠ f.id) } := by
      rw [← g.inflight_landAll f.writes]; rfl
    rw [List.foldl_cons, ih, hland, Group.landAll_inflight, List.filter_filter, List.flatMap_cons]
    simp only [Group.landAll, List.foldl_append, List.all_cons, Bool.and_comm]

theorem Group.landed_eq (g : Group) : g.landed = { g.landAll (g.inflight.flatMap (·.writes)) with inflight := [] } := by
  have hnone : (g.inflight.filter fun f => g.inflight.all fun x => f.id ≠ x.id) = [] :=
    List.filter_eq_nil_iff.2 fun f hf h => by simpa using List.all_eq_true.1 h f hf
  rw [Group.landed, Group.foldl_land, hnone]

theorem Group.inflight_landed (g : Group) : g.landed.inflight = [] := by rw [g.landed_eq]

/-- Where two groups differ only in where they stand, so do they once their results are written. -/
theorem Group.unplaced_landed {g k : Group} (h : g.unplaced = k.unplaced)
    (hw : g.inflight.map (·.writes) = k.inflight.map (·.writes)) : g.landed.unplaced = k.landed.unplaced := by
  have key (x : Group) : x.landed.unplaced = x.unplaced.landAll (x.inflight.map (·.writes)).flatten := by
    rw [x.landed_eq, ← List.flatMap_def, ← Group.unplaced_landAll]; rfl
  rw [key, key, h, hw]

/-! ### Settling a group of which nothing else is under way -/

theorem State.heldFlight_quiet {s : State} {c : Nat} {f : InFlight} (h : f.todo = []) : s.heldFlight c f = false := by
  simp [State.heldFlight, h]

theorem State.linkHolds_quiet {s : State} {c : Nat} {g : Group} (h : g.quietLines) : s.linkHolds c g = false :=
  List.any_eq_false.2 fun f hf => by simp [State.heldFlight_quiet (h f hf).2]

theorem State.performAll_quiet {s : State} {c sl : Nat} {g : Group} (hg : s.group c sl = some g) (h : g.quietLines) (id : Nat) :
    s.performAll c sl id = s := by
  unfold State.performAll State.flight
  rw [hg]
  simp only [Option.bind_some]
  split
  · next f hf => rw [(h f (List.mem_of_find?_eq_some hf)).2]; rfl
  · rfl

theorem Core.cacheWords_nil (k : Core) : k.cacheWords [] = k := rfl

/-- A quiet group is settled by writing its results. -/
theorem State.settle_quiet {s : State} {c sl : Nat} {g : Group} (hg : s.group c sl = some g) (h : g.quietLines) :
    s.settle c sl = (s.setCore c (s.core c)).setGroup c sl g.landed := by
  have hall : (g.inflight.filter fun f => !s.heldFlight c f) = g.inflight :=
    List.filter_eq_self.2 fun f hf => by simp [State.heldFlight_quiet (h f hf).2]
  have hperf : g.inflight.foldl (fun s f => s.performAll c sl f.id) s = s :=
    List.foldlRecOn g.inflight _ (motive := (· = s)) rfl fun t ht f _ => by rw [ht, State.performAll_quiet hg h]
  have hlines : g.inflight.flatMap (·.lines) = [] := List.flatMap_eq_nil_iff.2 fun f hf => (h f hf).1
  unfold State.settle
  simp only [hg, hall, hperf, hlines, Core.cacheWords_nil]
  refine congrArg (State.setGroup _ c sl) ?_
  show ({ g.landed with inflight := g.landed.inflight.map _ } : Group) = g.landed
  rw [g.inflight_landed, List.map_nil, ← g.inflight_landed]

theorem OwnGroup.settle {s : State} {c sl : Nat} {g : Group} (hg : s.group c sl = some g) (h : g.quietLines) :
    OwnGroup s (s.settle c sl) c sl := by
  rw [State.settle_quiet hg h]
  exact (OwnGroup.of_setCore s c sl _ rfl (fun _ _ => rfl) fun _ => rfl).trans (OwnGroup.setGroup ..)

theorem State.group_settle {s : State} {c sl : Nat} {g : Group} (hg : s.group c sl = some g) (h : g.quietLines) :
    (s.settle c sl).group c sl = some g.landed := by
  rw [State.settle_quiet hg h, State.group_setGroup_same]

/-! ### Lanes that leave (R33, R34, R37) -/

/-- Lanes become empty. -/
def Group.without (g : Group) (out : List (Nat × Word)) : Group :=
  g.mapLanes fun i ln => if out.any (·.1 = i) then Lane.reset else ln

/-- What lanes that leave become: records with rising AGEs. -/
theorem State.leaveLanes_recorded {s : State} {c sl : Nat} {g : Group} (out : List (Nat × Word)) (n : Nat) (held : Hold)
    (hg : s.group c sl = some g) (hage : (s.core c).ageCtr + out.length < 2 ^ 32) :
    ∃ t rs, Recorded s t c (s.launchOf c g).polder rs ∧ s.leaveLanes c sl out n held = t.setGroup c sl (g.without out)
      ∧ rs.map Record.bare = out.zipIdx.map fun e =>
        { (spillRec s.clock sl (s.storesOf g) g e.1.1 n e.1.2 held).bare with age := (s.core c).ageCtr + e.2 } := by
  obtain ⟨rs, hrs, hbare⟩ := recorded_foldl_deposit (c := c) (p := (s.launchOf c g).polder)
    (fun t (e : Nat × Word) => spillRec t.clock sl (s.storesOf g) g e.1 n e.2 held) out s (fun t x ht => by rw [ht]) hage
  refine ⟨_, rs, hrs, ?_, hbare⟩
  unfold State.leaveLanes
  rw [hg]
  rfl

theorem Group.lane_without (g : Group) (out : List (Nat × Word)) {l : Nat} (h : l < 32) :
    (g.without out).lane l = if l ∈ out.map Prod.fst then Lane.reset else g.lane l := by
  unfold Group.without
  rw [lane_mapLanes _ _ h]
  simp only [List.any_eq_true, decide_eq_true_eq, List.mem_map]

theorem OwnGroup.jump (s : State) (c sl : Nat) (next pc : Word) : OwnGroup s (s.jump c sl next pc) c sl := by
  unfold State.jump
  dsimp only
  split
  · exact .onGroup ..
  · exact (OwnGroup.onGroup ..).trans (.endRun ..)

theorem State.group_jump {s : State} {c sl : Nat} {g : Group} (next pc : Word) (h : s.group c sl = some g) :
    ∃ r, (s.jump c sl next pc).group c sl = some { g with pc := pc, clause := none, run := r } := by
  have hg := State.group_onGroup h fun g => { g with pc := pc, clause := none }
  unfold State.jump
  dsimp only
  split
  · exact ⟨_, hg⟩
  · exact ⟨_, State.group_endRun hg⟩

/-! ### A division -/

/-- The record of a thread depends on its lane and on its group's identity alone. -/
theorem bare_spillRec_congr {g k : Group} (h : g.unplaced = k.unplaced) (clock sl n l : Nat) (stores : List Nat) (pc : Word) (held : Hold) :
    (spillRec clock sl stores g l n pc held).bare = (spillRec clock sl stores k l n pc held).bare :=
  (congrArg (fun x : Group => (spillRec clock sl stores x l n pc held).bare) h :)

theorem State.storesOf_congr {s t : State} {g k : Group} (hq : t.linkQ = s.linkQ) (h : g.unplaced = k.unplaced) :
    t.storesOf g = s.storesOf k := by
  have hk : t.storesOf g = t.storesOf k := (congrArg (fun x : Group => t.storesOf x) h :)
  rw [hk]
  unfold State.storesOf
  rw [hq]

/-- A branch on which lanes leave divides its group. `u` is the state behind the instruction's marks and what it does to the stacks, and
`k` the group there, wherever it stands. -/
theorem branch_divided {s u : State} {c sl n : Nat} {g g1 k : Group} {f : Fork} (hu : OwnGroup s u c sl) (hg : u.group c sl = some g1)
    (hk : g1.unplaced = k.unplaced) (hw : g1.inflight.map (·.writes) = k.inflight.map (·.writes)) (hq : g1.quietLines)
    (hout : f.leave ≠ []) (hage : (s.core c).ageCtr + f.leave.length < 2 ^ 32) :
    Divided s (u.branch c sl g f n) c sl n k.landed f.leave f.stay := by
  have hland : g1.landed.unplaced = k.landed.unplaced := Group.unplaced_landed hk hw
  have hv := hu.trans (OwnGroup.settle hg hq)
  have hvg := State.group_settle hg hq
  generalize hv' : u.settle c sl = v at hv hvg
  obtain ⟨t, rs, hrec, hleave, hbare⟩ := State.leaveLanes_recorded f.leave n .free hvg (by rw [hv.ageCtr_eq]; exact hage)
  have hpol : (v.launchOf c g1.landed).polder = (s.launchOf c k.landed).polder := by
    rw [hv.launchOf]
    exact (congrArg (fun x : Group => (s.launchOf c x).polder) hland :)
  have hbranch : u.branch c sl g f n = (t.setGroup c sl (g1.landed.without f.leave)).jump c sl (fallthrough g) f.stay := by
    unfold State.branch
    rw [if_neg hout, hv', hleave]
  rw [hbranch]
  have hlast := (OwnGroup.setGroup t c sl (g1.landed.without f.leave)).trans (.jump _ c sl (fallthrough g) f.stay)
  obtain ⟨r, hr⟩ := State.group_jump (fallthrough g) f.stay (State.group_setGroup_same t c sl (g1.landed.without f.leave))
  generalize (t.setGroup c sl (g1.landed.without f.leave)).jump c sl (fallthrough g) f.stay = w at hlast hr
  refine ⟨⟨rs, ?_, fun a ha => ?_, hbare.trans ?_⟩, ⟨_, hr, rfl, rfl, ?_, ?_, fun l hl => ?_⟩, ⟨?_, ?_, fun d => ?_⟩, fun d j h => ?_⟩
  · rw [hlast.records_eq, hrec.records, hv.records_eq]
  · rw [hlast.coherent]
    refine (hrec.coherent a ?_).trans (hv.coherent a)
    rw [hpol]
    exact ha.congr (by rw [hv.polder])
  · refine List.map_congr_left fun e _ => ?_
    rw [bare_spillRec_congr hland, State.storesOf_congr hv.linkQ_eq hland, hv.clock_eq, hv.ageCtr_eq]
    rfl
  · exact (congrArg Group.rest hland :)
  · exact (congrArg Group.fstat hland :)
  · refine (Group.lane_without g1.landed f.leave hl).trans ?_
    have hlane : g1.landed.lane l = k.landed.lane l := (congrArg (fun x : Group => x.lane l) hland :)
    rw [hlane]
  · rw [hlast.mem_eq, hrec.memory, hv.mem_eq]
  · rw [hlast.sp_eq, hrec.scratch, hv.sp_eq]
  · rw [hlast.sh_eq, hrec.shared, hv.sh_eq]
  · rw [hlast.groups d j h, hrec.groups, hv.groups d j h]

end Sys2Proof.Machine
end


section

/-!
# Branches on which lanes disagree (R33 to R37, R169 to R173, R192, R310, R316)
-/

namespace Sys2Proof.Machine

/-! ### The group that a branch divides -/

/-- What an instruction does to the stack of every thread. -/
def Group.stacked (g : Group) (f : Lane → Lane) : Group := g.mapLanes fun _ ln => if ln.st = .occupied then f ln else ln

theorem Group.stacked_id {g : Group} (h : g.lanes = lanes32.map fun l => (l, g.lane l)) : g.stacked id = g := by
  simp only [Group.stacked, id, ite_self]
  exact congrArg (fun x => ({ g with lanes := x } : Group)) h.symm

theorem Group.lanes_mapLanes (g : Group) (f : Nat → Lane → Lane) :
    (g.mapLanes f).lanes = lanes32.map fun l => (l, (g.mapLanes f).lane l) :=
  List.map_congr_left fun l hl => by rw [lane_mapLanes _ _ (List.mem_range.1 hl)]

theorem Group.stacked_marked_id (g : Group) (v : Issue) : (g.marked v).stacked id = g.marked v := by
  refine Group.stacked_id ?_
  dsimp only [Group.marked]
  exact g.lanes_mapLanes _

/-- A group in a state that stands elsewhere than `k` and is quiet, with the same results on their way. -/
structure StandsAs (u : State) (c sl : Nat) (k g1 : Group) : Prop where
  group  : u.group c sl = some g1
  same   : g1.unplaced = k.unplaced
  writes : g1.inflight.map (·.writes) = k.inflight.map (·.writes)
  quiet  : g1.quietLines

theorem standsAs_begun (v : Issue) (s : State) (c sl : Nat) {g : Group} (cl : Clause) (hq : g.quietLines) :
    ∃ g1, StandsAs (s.begun v c sl g cl) c sl (g.marked v) g1 := by
  refine ⟨_, State.group_begun v s c sl g cl, rfl, ?_, ?_⟩
  · simp [Group.advance, Group.marked]
  · intro f hf
    obtain ⟨f1, hf1, rfl⟩ := List.mem_map.1 hf
    obtain ⟨f0, hf0, rfl⟩ := List.mem_map.1 hf1
    exact hq f0 hf0

theorem StandsAs.stacked {u : State} {c sl : Nat} {k g1 : Group} (h : StandsAs u c sl k g1) (f : Lane → Lane) :
    StandsAs (u.onGroup c sl fun g => g.stacked f) c sl (k.stacked f) (g1.stacked f) where
  group := State.group_onGroup h.group _
  same := (congrArg (fun g : Group => g.stacked f) h.same :)
  writes := h.writes
  quiet := h.quiet

/-! ### What a branch requires (R35, R36, R148) -/

theorem forkCheck_ok {s : State} {c cause n : Nat} {g : Group} {f : Fork} {after : Lane → Lane} (hb : g.bound = false) (hq : g.quietLines)
    (hpend : ∀ e ∈ f.leave, s.pendBusy (g.lane e.1) = false)
    (hfits : s.fits c (s.launchOf c g).polder (f.leave.map fun e => recSize (after (g.lane e.1)).rstk.length n) = true) :
    forkCheck s c g cause f after n = .ok := by
  have hbusy : anyBusy s c g (f.leave.map (·.1)) = false := by
    simpa [anyBusy, State.linkHolds_quiet hq] using fun l w h => hpend (l, w) h
  have hsizes : spillSizes g after (f.leave.map (·.1)) n = f.leave.map fun e => recSize (after (g.lane e.1)).rstk.length n := by
    simp [spillSizes]
  unfold forkCheck leaveCheck
  simp [hb, hbusy, hsizes, hfits]

theorem forkCheck_bound {s : State} {c cause n : Nat} {g : Group} {f : Fork} {after : Lane → Lane} (hb : g.bound = true)
    (hout : f.leave ≠ []) : forkCheck s c g cause f after n = convergeFault g cause f := by
  simp [forkCheck, hb, hout]

theorem maskOf_congr {p q : Nat → Bool} (h : ∀ l < 32, p l = q l) : maskOf p = maskOf q := by
  unfold maskOf
  rw [List.map_congr_left fun l hl => by rw [h l (List.mem_range.1 hl)]]

/-- The lanes that a fault of convergence names are those that would have left. -/
theorem convergeFault_eq (g : Group) (cause : Nat) (f : Fork) : convergeFault g cause f
    = .fault { code := 2, cause := cause, lanes := maskOf fun l => decide (l ∈ f.leave.map (·.1)), aux := g.occMask } := by
  unfold convergeFault
  rw [maskOf_congr fun l _ => ?_]
  rw [Bool.eq_iff_iff]
  simp only [List.any_eq_true, decide_eq_true_eq, List.mem_map]

/-! ### How a group divides (R33, R34) -/

theorem mem_occs {g : Group} {l : Nat} : l ∈ g.occs ↔ l < 32 ∧ g.occ l = true := by
  simp [Group.occs, lanes32]

theorem occs_sorted (g : Group) : g.occs.Pairwise (· < ·) := List.pairwise_lt_range.filter _

theorem length_occs_le (g : Group) : g.occs.length ≤ 32 := by
  exact List.length_filter_le g.occ lanes32

/-- How many of some lanes have a target. -/
def laneCount (ls : List Nat) (dest : Nat → Word) (w : Word) : Nat := (ls.filter fun l => dest l = w).length

/-- The largest set of lanes with one target has target `stay`, by lane `l`: the lowest of such lanes. -/
def Most (ls : List Nat) (dest : Nat → Word) (stay : Word) : Prop :=
  ∃ l ∈ ls, dest l = stay ∧ ∀ m ∈ ls, laneCount ls dest (dest m) < laneCount ls dest stay
    ∨ (laneCount ls dest (dest m) = laneCount ls dest stay ∧ l ≤ m)

theorem foldl_max_eq {xs : List Nat} {a m : Nat} (hm : m ∈ a :: xs) (h : ∀ x ∈ a :: xs, x ≤ m) : xs.foldl max a = m := by
  induction xs generalizing a with
  | nil => exact (List.mem_singleton.1 hm).symm
  | cons x xs ih =>
    have ha := h a (List.mem_cons_self ..)
    have hx := h x (by simp)
    refine ih ?_ fun y hy => ?_
    · rcases List.mem_cons.1 hm with rfl | hm
      · simp [Nat.max_eq_left hx]
      · rcases List.mem_cons.1 hm with rfl | hm
        · simp [Nat.max_eq_right ha]
        · exact List.mem_cons_of_mem _ hm
    · rcases List.mem_cons.1 hy with rfl | hy
      · exact Nat.max_le.2 ⟨ha, hx⟩
      · exact h y (by simp [hy])

/-- The lanes of the largest set stay, and the others leave. -/
theorem fork_most {ls : List Nat} {dest : Nat → Word} {stay : Word} (next : Word) (hs : ls.Pairwise (· < ·)) (h : Most ls dest stay) :
    fork (ls.map fun l => (l, dest l)) next
      = { stay := stay, leave := (ls.filter fun l => dest l ≠ stay).map fun l => (l, dest l) } := by
  obtain ⟨l, hl, hstay, hmost⟩ := h
  have hcnt (w : Word) : ((ls.map fun l => (l, dest l)).filter fun e => e.2 = w).length = laneCount ls dest w := by
    simp [laneCount, List.filter_map, Function.comp_def]
  have htop : ((ls.map fun l => (l, dest l)).map fun e => laneCount ls dest e.2).foldl max 0 = laneCount ls dest stay := by
    rw [List.map_map]
    refine foldl_max_eq (List.mem_cons_of_mem _ (List.mem_map.2 ⟨l, hl, by simp [hstay]⟩)) fun x hx => ?_
    rcases List.mem_cons.1 hx with rfl | hx
    · exact Nat.zero_le _
    · obtain ⟨m, hm, rfl⟩ := List.mem_map.1 hx
      rcases hmost m hm with h | h
      · exact Nat.le_of_lt h
      · exact Nat.le_of_eq h.1
  have hfind : (ls.map fun l => (l, dest l)).find? (fun e => laneCount ls dest e.2 = laneCount ls dest stay) = some (l, stay) := by
    obtain ⟨as, bs, hab⟩ := List.append_of_mem hl
    refine List.find?_eq_some_iff_append.2 ⟨by simp, as.map fun l => (l, dest l), bs.map fun l => (l, dest l), ?_, ?_⟩
    · simp [hab, hstay]
    · intro e he
      obtain ⟨m, hm, rfl⟩ := List.mem_map.1 he
      have hlt : m < l := by
        rw [hab] at hs
        exact (List.pairwise_append.1 hs).2.2 m hm l (List.mem_cons_self ..)
      rcases hmost m (by rw [hab]; exact List.mem_append_left _ hm) with h | h
      · simp [Nat.ne_of_lt h]
      · omega
  unfold fork
  simp only [hcnt, htop, hfind]
  simp [List.filter_map, Function.comp_def]

/-- The lanes that leave are those with another target. -/
theorem lanes_fork_most {ls : List Nat} {dest : Nat → Word} {stay : Word} (next : Word) (hs : ls.Pairwise (· < ·)) (h : Most ls dest stay) :
    (fork (ls.map fun l => (l, dest l)) next).leave.map (·.1) = ls.filter fun l => dest l ≠ stay := by
  rw [fork_most next hs h]
  simp [Function.comp_def]

theorem Group.tops_eq (g : Group) :
    g.tops = (g.occs.filter fun l => (g.lane l).top.isSome).map fun l => (l, regTarget ((g.lane l).top.getD 0)) := by
  unfold Group.tops
  induction g.occs with
  | nil => rfl
  | cons l ls ih => cases h : (g.lane l).top <;> simp [h, ih]

/-! ### Loose groups -/

section
variable {s : State} {c sl n : Nat} {g : Group} {cl : Clause}

/-- The room and the results that lanes need before they leave a loose group (R36, R61, R148). -/
structure MayLeave (s : State) (c n : Nat) (g : Group) (after : Lane → Lane) (out : List (Nat × Word)) : Prop where
  loose : g.bound = false
  quiet : g.quietLines
  some  : out ≠ []
  calm  : ∀ e ∈ out, s.pendBusy (g.lane e.1) = false
  fits  : s.fits c (s.launchOf c g).polder (out.map fun e => recSize (after (g.lane e.1)).rstk.length n) = true
  ages  : (s.core c).ageCtr + 32 < 2 ^ 32

theorem MayLeave.forkCheck {after : Lane → Lane} {f : Fork} (h : MayLeave s c n g after f.leave) (cause : Nat) :
    forkCheck s c g cause f after n = .ok := forkCheck_ok h.loose h.quiet h.calm h.fits

/-- A branch behind what its instruction does to the stacks divides the group. -/
theorem MayLeave.divided {after : Lane → Lane} {f : Fork} {u : State} {k g1 : Group} (h : MayLeave s c n g after f.leave)
    (hlen : f.leave.length ≤ 32) (hu : OwnGroup s u c sl) (hk : StandsAs u c sl k g1) :
    Divided s (u.branch c sl g f n) c sl n k.landed f.leave f.stay :=
  branch_divided hu hk.group hk.same hk.writes hk.quiet h.some (by have := h.ages; omega)

/-- A branch that leaves the stacks alone. -/
theorem completes_branch {i : Instr} {cause : Nat} {fo : Group → Fork} {f : Fork} (hi : Issues i s c sl g cl)
    (hx : exec i s = issueWith (issueOf i) (fun c _ g s => forkCheck s c g cause (fo g) id n)
      (fun c sl g s => s.branch c sl g (fo g) n) s)
    (hf : fo g = f) (h : MayLeave s c n g id f.leave) (hlen : f.leave.length ≤ 32) :
    Completes i s fun u => Divided s u c sl n ((g.marked (issueOf i)).stacked id).landed f.leave f.stay := by
  subst hf
  obtain ⟨g1, hg1⟩ := standsAs_begun (issueOf i) s c sl cl h.quiet
  refine ⟨_, hx.trans (issueWith_next hi _ _ (h.forkCheck cause)), ?_⟩
  rw [g.stacked_marked_id]
  exact h.divided hlen (.begun ..) hg1

theorem bra_divides {off : BitVec 20} {gd : Guard} {n : BitVec 8} {f : Fork} (hi : Issues (.bra n off gd) s c sl g cl)
    (hf : braOf off gd g = f) (h : MayLeave s c n.toNat g id f.leave) (hlen : f.leave.length ≤ 32) :
    Completes (.bra n off gd) s fun u =>
      Divided s u c sl n.toNat ((g.marked (issueOf (.bra n off gd))).stacked id).landed f.leave f.stay :=
  completes_branch (cause := 2) (fo := braOf off gd) hi (exec_bra ..) hf h hlen

theorem brx_divides {t : Src} {gd : Guard} {n : BitVec 8} {f : Fork} (hi : Issues (.brx n t gd) s c sl g cl)
    (hf : brxOf t gd g = f) (h : MayLeave s c n.toNat g id f.leave) (hlen : f.leave.length ≤ 32) :
    Completes (.brx n t gd) s fun u =>
      Divided s u c sl n.toNat ((g.marked (issueOf (.brx n t gd))).stacked id).landed f.leave f.stay :=
  completes_branch (cause := 2) (fo := brxOf t gd) hi (exec_brx ..) hf h hlen

/-- The return stacks of all threads have room (R171). -/
theorem pushCheck_ok (h : ∀ l ∈ g.occs, (g.lane l).canPush (s.launchOf c g).stackSz = true) : pushCheck s c g = .ok := by
  have hfull : lanes32.any (fun l => g.occ l && !(g.lane l).canPush (s.launchOf c g).stackSz) = false := by
    refine List.any_eq_false.2 fun l hl => ?_
    cases ho : g.occ l with
    | false => simp
    | true => simp [h l (mem_occs.2 ⟨List.mem_range.1 hl, ho⟩)]
  unfold pushCheck
  simp [hfull]

theorem callx_divides {t : Src} {n : BitVec 8} {f : Fork} (hi : Issues (.callx n t) s c sl g cl) (hf : callxOf t g = f)
    (hroom : g.stackRoom = true) (hpush : ∀ l ∈ g.occs, (g.lane l).canPush (s.launchOf c g).stackSz = true)
    (h : MayLeave s c n.toNat g (·.push (fallthrough g)) f.leave) (hlen : f.leave.length ≤ 32) :
    Completes (.callx n t) s fun u => Divided s u c sl n.toNat
      ((g.marked (issueOf (.callx n t))).stacked (·.push (fallthrough g))).landed f.leave f.stay := by
  subst hf
  have hpre : callxPre n t c sl g s = .ok := by
    simp [callxPre, callPre, h.loose, pushCheck_ok hpush, hroom, Check.andThen, h.forkCheck]
  obtain ⟨g1, hg1⟩ := standsAs_begun (issueOf (.callx n t)) s c sl cl h.quiet
  exact ⟨_, (exec_callx ..).trans (issueWith_next hi _ _ hpre), h.divided hlen ((OwnGroup.begun ..).trans (.onGroup ..)) (hg1.stacked _)⟩

theorem Lane.topDeep_of_top {ln : Lane} (h : ln.top ≠ none) : ln.topDeep = false := by
  unfold Lane.top at h
  unfold Lane.topDeep
  cases hr : ln.rstk with
  | cons v r => simp
  | nil =>
    cases hm : ln.mstk with
    | cons v r => simp
    | nil => simp [hr, hm] at h

theorem ret_divides {n : BitVec 8} {f : Fork} (hi : Issues (.ret n) s c sl g cl) (hf : fork g.tops (fallthrough g) = f)
    (htop : ∀ l ∈ g.occs, (g.lane l).top ≠ none) (h : MayLeave s c n.toNat g Lane.pop f.leave) (hlen : f.leave.length ≤ 32) :
    Completes (.ret n) s fun u => Divided s u c sl n.toNat
      ((g.marked (issueOf (.ret n))).stacked Lane.pop).landed f.leave f.stay := by
  subst hf
  have hdeep : (g.occs.any fun l => (g.lane l).topDeep) = false :=
    List.any_eq_false.2 fun l hl => by simp [Lane.topDeep_of_top (htop l hl)]
  have hshort : lanes32.any (fun l => g.occ l && decide ((g.lane l).top = none)) = false := by
    refine List.any_eq_false.2 fun l hl => ?_
    cases ho : g.occ l with
    | false => simp
    | true => simp [htop l (mem_occs.2 ⟨List.mem_range.1 hl, ho⟩)]
  have hpre : retPre n c sl g s = .ok := by
    simp [retPre, hdeep, hshort, h.loose, h.forkCheck]
  obtain ⟨g1, hg1⟩ := standsAs_begun (issueOf (.ret n)) s c sl cl h.quiet
  exact ⟨_, (exec_ret ..).trans (issueWith_next hi _ _ hpre), h.divided hlen ((OwnGroup.begun ..).trans (.onGroup ..)) (hg1.stacked _)⟩

end

/-- No more lanes leave than the group has threads. -/
theorem length_leaving (g : Group) (p : Nat → Bool) (dest : Nat → Word) : ((g.occs.filter p).map fun l => (l, dest l)).length ≤ 32 := by
  rw [List.length_map]
  exact (List.length_filter_le _ _).trans (length_occs_le g)

theorem divergence : Claims.Divergence := by
  intro n off t gd s c sl g cl stay next far aim back T F most after divides leaving
  have hmay (f : Lane → Lane) (out : List (Nat × Word)) (hb hq ho hp hf ha) : MayLeave s c n.toNat g f out :=
    ⟨hb, hq, ho, hp, hf, ha⟩
  refine ⟨fun hT hF hle => ?_, fun hlt => ?_, fun hm => ?_, fun hm hroom hpush => ?_, fun hm htop => ?_⟩
  · intro hi hb hq ho hp hfit ha
    have hfork : braOf off gd g = { stay := next, leave := T.map fun l => (l, far) } :=
      (if_neg hT).trans <| (if_neg hF).trans <| if_pos hle
    exact bra_divides hi hfork (hmay id _ hb hq ho hp hfit ha) (length_leaving g _ _)
  · intro hi hb hq ho hp hfit ha
    have hT : T ≠ [] := List.ne_nil_of_length_pos (by omega)
    have hF : F ≠ [] := fun e => ho (by rw [e]; rfl)
    have hfork : braOf off gd g = { stay := far, leave := F.map fun l => (l, next) } :=
      (if_neg hT).trans <| (if_neg hF).trans <| if_neg (Nat.not_le.2 hlt)
    exact bra_divides hi hfork (hmay id _ hb hq ho hp hfit ha) (length_leaving g _ _)
  · intro hi hb hq ho hp hfit ha
    exact brx_divides hi (fork_most _ (occs_sorted g) hm) (hmay id _ hb hq ho hp hfit ha) (length_leaving g _ _)
  · intro hi hb hq ho hp hfit ha
    exact callx_divides hi (fork_most _ (occs_sorted g) hm) hroom hpush (hmay _ _ hb hq ho hp hfit ha) (length_leaving g _ _)
  · intro hi hb hq ho hp hfit ha
    have htops : g.tops = g.occs.map fun l => (l, back l) := by
      rw [g.tops_eq, List.filter_eq_self.2 fun l hl => Option.isSome_iff_ne_none.2 (htop l hl)]
      rfl
    refine ret_divides (f := { stay := stay, leave := leaving back }) hi ?_ htop (hmay _ _ hb hq ho hp hfit ha) (length_leaving g _ _)
    rw [htops]
    exact fork_most _ (occs_sorted g) hm

/-! ### Bound groups (R35, R173, R192, R316) -/

/-- The fault of convergence names exactly the lanes that would have left. -/
theorem exec_converges {i : Instr} {pre : Nat → Nat → Group → State → Check} {body : Nat → Nat → Group → State → State} {s : State}
    {c sl cause : Nat} {g : Group} {cl : Clause} {f : Fork} {out : List Nat} (hi : Issues i s c sl g cl)
    (hx : exec i s = issueWith (issueOf i) pre body s) (hpre : pre c sl g s = convergeFault g cause f)
    (hout : f.leave.map (·.1) = out) : exec i s = .next (s.takeFault c sl
      { code := 2, cause := cause, lanes := maskOf fun l => decide (l ∈ out), aux := g.occMask } (resumeOf g)) := by
  rw [convergeFault_eq, hout] at hpre
  exact hx.trans (issueWith_fault hi _ _ hpre)

theorem leave_ne_nil {f : Fork} {out : List Nat} (h : f.leave.map (·.1) = out) (ho : out ≠ []) : f.leave ≠ [] := by
  rintro e
  exact ho (by rw [← h, e]; rfl)

theorem boundDivergence : Claims.BoundDivergence := by
  intro n off t gd s c sl g cl stay next aim T F most faults
  have hlanes (ls : List Nat) (dest : Nat → Word) : (ls.map fun l => (l, dest l)).map (·.1) = ls := by simp [Function.comp_def]
  refine ⟨fun hT hF => ?_, fun hm => ?_, fun hm => ?_, fun hdeep hm => ?_⟩
  · intro hi hb ho
    have hout : (braOf off gd g).leave.map (·.1) = if T.length ≤ F.length then T else F := by
      have hfork : braOf off gd g = if T.length ≤ F.length then { stay := fallthrough g, leave := T.map fun l => (l, target g off) }
          else { stay := target g off, leave := F.map fun l => (l, fallthrough g) } := (if_neg hT).trans (if_neg hF)
      rw [hfork]
      split <;> exact hlanes ..
    exact exec_converges hi (exec_bra ..) (forkCheck_bound hb (leave_ne_nil hout ho)) hout
  · intro hi hb ho
    have hfork : (brxOf t gd g).leave.map (·.1) = _ := lanes_fork_most _ (occs_sorted g) hm
    exact exec_converges hi (exec_brx ..) (forkCheck_bound hb (leave_ne_nil hfork ho)) hfork
  · intro hi hb ho
    have hfork : (callxOf t g).leave.map (·.1) = _ := lanes_fork_most _ (occs_sorted g) hm
    refine exec_converges hi (exec_callx ..) ?_ hfork
    simp [callxPre, hb, leave_ne_nil hfork ho]
  · intro hi hb ho
    have hfork : (fork g.tops (fallthrough g)).leave.map (·.1)
        = (g.occs.filter fun l => (g.lane l).top.isSome).filter fun l => regTarget ((g.lane l).top.getD 0) ≠ stay := by
      rw [g.tops_eq]
      exact lanes_fork_most _ ((occs_sorted g).filter _) hm
    have hany : (g.occs.any fun l => (g.lane l).topDeep) = false := List.any_eq_false.2 fun l hl => by simp [hdeep l hl]
    refine exec_converges hi (exec_ret ..) ?_ hfork
    simp [retPre, hany, hb, leave_ne_nil hfork ho]

/-! ### The faults of the return stack (R171, R192, R308) -/

/-- Where all lanes have one target, none leaves. -/
theorem fork_agree {ts : List (Nat × Word)} (next : Word) (h : ∀ x ∈ ts, ∀ y ∈ ts, x.2 = y.2) : (fork ts next).leave = [] := by
  unfold fork
  dsimp only
  split
  · next e he => exact List.filter_eq_nil_iff.2 fun x hx => by simp [h x hx e (List.mem_of_find?_eq_some he)]
  · rfl

theorem pushCheck_full {s : State} {c : Nat} {g : Group}
    (h : ∃ l < 32, (g.occ l && !(g.lane l).canPush (s.launchOf c g).stackSz) = true) : pushCheck s c g
      = .fault { code := 6, lanes := maskOf fun l => g.occ l && !(g.lane l).canPush (s.launchOf c g).stackSz
                 aux := BitVec.ofNat 32 (s.launchOf c g).stackSz } := by
  obtain ⟨l, hl, hf⟩ := h
  have hany : lanes32.any (fun l => g.occ l && !(g.lane l).canPush (s.launchOf c g).stackSz) = true :=
    List.any_eq_true.2 ⟨l, List.mem_range.2 hl, hf⟩
  unfold pushCheck
  simp [hany]

theorem stackFaults : Claims.StackFaults := by
  intro n off t s c sl g cl sz full short aim agree over'
  refine ⟨fun hf hi => ?_, fun hf hag hi => ?_, fun hs hdeep hag hi => ?_⟩
  · refine (exec_call ..).trans (issueWith_fault hi _ _ ?_)
    simp only [callPre, pushCheck_full hf, Check.andThen]
    rfl
  · have hleave : g.bound = true → (callxOf t g).leave = [] := fun hb => fork_agree _ (by
      simp only [List.mem_map]
      rintro _ ⟨l, hl, rfl⟩ _ ⟨m, hm, rfl⟩
      exact Option.some.inj (hag hb l hl m hm (by simp) (by simp)))
    have hno : (g.bound && decide ((callxOf t g).leave ≠ [])) = false := by
      cases hb : g.bound with
      | false => rfl
      | true => simp [hleave hb]
    refine (exec_callx ..).trans (issueWith_fault hi _ _ ?_)
    simp only [callxPre, hno, callPre, pushCheck_full hf, Check.andThen]
    rfl
  · have hleave : g.bound = true → (fork g.tops (fallthrough g)).leave = [] := fun hb => fork_agree _ (by
      rw [g.tops_eq]
      simp only [List.mem_map, List.mem_filter]
      rintro _ ⟨l, ⟨hl, hlt⟩, rfl⟩ _ ⟨m, ⟨hm, hmt⟩, rfl⟩
      obtain ⟨v, hv⟩ := Option.isSome_iff_exists.1 hlt
      obtain ⟨w, hw⟩ := Option.isSome_iff_exists.1 hmt
      have := hag hb l hl m hm (by simp [hv]) (by simp [hw])
      simpa [hv, hw, regTarget] using this)
    have hno : (g.bound && decide ((fork g.tops (fallthrough g)).leave ≠ [])) = false := by
      cases hb : g.bound with
      | false => rfl
      | true => simp [hleave hb]
    have hany : (g.occs.any fun l => (g.lane l).topDeep) = false := List.any_eq_false.2 fun l hl => by simp [hdeep l hl]
    have hnone (l : Nat) : (g.occ l && decide ((g.lane l).top = none)) = short l := by
      simp only [short]
      cases (g.lane l).top <;> simp
    have hshort : lanes32.any short = true := by
      obtain ⟨l, hl, h⟩ := hs
      exact List.any_eq_true.2 ⟨l, List.mem_range.2 hl, h⟩
    refine (exec_ret ..).trans (issueWith_fault hi _ _ ?_)
    simp only [retPre, hany, hno, hnone, Bool.false_eq_true, if_false]
    exact if_pos hshort

/-- Settles O12: loose groups by `branch_divided`, bound groups and full or empty stacks by the check before issue. -/
theorem divergentBranches : Obligations.DivergentBranches := by
  unfold Obligations.DivergentBranches
  exact ⟨divergence, boundDivergence, stackFaults⟩

end Sys2Proof.Machine
end


section

/-!
# The weaver forms groups (R29, R30, R38 to R42)
-/

namespace Sys2Proof.Machine

/-! ### What the audit's bookkeeping keeps -/

theorem AuditOnly.sameMemory {s t : State} (h : AuditOnly s t) : SameMemory s t :=
  ⟨(congrArg State.mem h.others :), (congrArg State.sp h.others :), fun d => (congrArg Core.sh (h.cores d) :)⟩

theorem AuditOnly.records_eq {s t : State} (h : AuditOnly s t) (d : Nat) : (t.core d).records = (s.core d).records :=
  (congrArg Core.records (h.cores d) :)

theorem AuditOnly.formed_eq {s t : State} (h : AuditOnly s t) (d : Nat) : (t.core d).formed = (s.core d).formed :=
  (congrArg Core.formed (h.cores d) :)

theorem SameMemory.trans {s t u : State} (h : SameMemory s t) (k : SameMemory t u) : SameMemory s u :=
  ⟨k.memory.trans h.memory, k.scratch.trans h.scratch, fun d => (k.shared d).trans (h.shared d)⟩

/-! ### Sorted lists -/

theorem insertBy_perm {α : Type} (key : α → Nat) (x : α) (xs : List α) : (insertBy key x xs).Perm (x :: xs) := by
  induction xs with
  | nil => exact .refl _
  | cons y ys ih =>
    unfold insertBy
    split
    · exact .refl _
    · exact (ih.cons y).trans (.swap x y ys)

theorem sortBy_perm {α : Type} (key : α → Nat) (xs : List α) : (sortBy key xs).Perm xs := by
  induction xs with
  | nil => exact .refl _
  | cons x xs ih => exact (insertBy_perm key x _).trans (ih.cons x)

theorem mem_sortBy {α : Type} {key : α → Nat} {xs : List α} {x : α} : x ∈ sortBy key xs ↔ x ∈ xs := (sortBy_perm key xs).mem_iff

theorem insertBy_sorted {α : Type} (key : α → Nat) (x : α) {xs : List α} (h : xs.Pairwise (key · ≤ key ·)) :
    (insertBy key x xs).Pairwise (key · ≤ key ·) := by
  induction xs with
  | nil => exact List.pairwise_singleton ..
  | cons y ys ih =>
    obtain ⟨hy, hys⟩ := List.pairwise_cons.1 h
    unfold insertBy
    split
    · next hle =>
      refine List.pairwise_cons.2 ⟨fun z hz => ?_, h⟩
      rcases List.mem_cons.1 hz with rfl | hz
      · exact hle
      · exact hle.trans (hy z hz)
    · next hlt =>
      refine List.pairwise_cons.2 ⟨fun z hz => ?_, ih hys⟩
      rcases List.mem_cons.1 ((insertBy_perm key x ys).mem_iff.1 hz) with rfl | hz
      · exact Nat.le_of_not_le hlt
      · exact hy z hz

theorem sortBy_sorted {α : Type} (key : α → Nat) (xs : List α) : (sortBy key xs).Pairwise (key · ≤ key ·) := by
  induction xs with
  | nil => exact List.Pairwise.nil
  | cons x xs ih => exact insertBy_sorted key x ih

/-- What a search finds in a sorted list is no larger than what else it could find. -/
theorem find?_sorted_le {α : Type} {key : α → Nat} {xs : List α} {p : α → Bool} {x y : α} (hs : xs.Pairwise (key · ≤ key ·))
    (hx : xs.find? p = some x) (hy : y ∈ xs) (hp : p y = true) : key x ≤ key y := by
  induction xs with
  | nil => cases hy
  | cons z zs ih =>
    obtain ⟨hz, hzs⟩ := List.pairwise_cons.1 hs
    rw [List.find?_cons] at hx
    split at hx
    · cases hx
      rcases List.mem_cons.1 hy with rfl | hy
      · exact Nat.le_refl _
      · exact hz y hy
    · next hpz =>
      rcases List.mem_cons.1 hy with rfl | hy
      · rw [hp] at hpz; cases hpz
      · exact ih hzs hx hy

/-! ### The set that forms (R39, R40) -/

theorem sameSet_refl (bw : Nat) (r : Record) : sameSet bw r r = true := by simp [sameSet]

theorem mem_setOf {s : State} {c : Nat} {r x : Record} : x ∈ s.setOf c r ↔ x ∈ (s.core c).records
    ∧ sameSet (s.blockLaunch c r.bslot).bw r x = true ∧ s.eligible c x = true ∧ x.born < s.clock := by
  unfold State.setOf
  rw [mem_sortBy]
  simp [and_assoc]

theorem bslot_of_mem_setOf {s : State} {c : Nat} {r x : Record} (h : x ∈ s.setOf c r) : x.bslot = r.bslot := by
  obtain ⟨-, hs, -⟩ := mem_setOf.1 h
  simp only [sameSet, Bool.and_eq_true, decide_eq_true_eq] at hs
  exact hs.1.1.2.symm

theorem mem_takeable {s : State} {c : Nat} {x : Record} : x ∈ s.takeable c ↔ x ∈ (s.core c).records
    ∧ s.eligible c x = true ∧ x.born < s.clock ∧ s.inRerun c x.bslot = false := by
  unfold State.takeable
  rw [mem_sortBy]
  simp [and_assoc]

/-- A set may form now: its block has a free slot for it. -/
def State.formable (s : State) (c : Nat) (rs : List Record) : Bool :=
  s.mayForm c rs && match rs with | r :: _ => (s.freeSlot c r.bslot).isSome | [] => false

/-- The set that the weaver takes is the oldest of those that may form. -/
theorem find_formable {s : State} {c sl : Nat} {r : Record} {rs : List Record} (hrun : s.inRerun c r.bslot = false)
    (hages : ((s.core c).records.map (·.age)).Nodup) (hr : r ∈ (s.core c).records) (hset : s.setOf c r = r :: rs)
    (hmay : s.mayForm c (r :: rs) = true) (hslot : s.freeSlot c r.bslot = some sl)
    (holdest : ∀ x ∈ (s.core c).records, ∀ y ys, s.setOf c x = y :: ys → s.mayForm c (y :: ys) = true →
      (s.freeSlot c y.bslot).isSome = true → r.age ≤ y.age) :
    ((s.takeable c).map (s.setOf c)).find? (s.formable c) = some (r :: rs) := by
  have hmem : r ∈ s.setOf c r := by rw [hset]; exact List.mem_cons_self ..
  obtain ⟨-, -, helig, hborn⟩ := mem_setOf.1 hmem
  have htake : r ∈ s.takeable c := mem_takeable.2 ⟨hr, helig, hborn, hrun⟩
  have hform : s.formable c (s.setOf c r) = true := by simp [State.formable, hset, hmay, hslot]
  rw [List.find?_map]
  obtain ⟨x, hx⟩ := Option.isSome_iff_exists.1 ((List.find?_isSome (p := s.formable c ∘ s.setOf c)).2 ⟨r, htake, hform⟩)
  have hxr : x.age ≤ r.age := find?_sorted_le (sortBy_sorted ..) hx htake hform
  have hxf : s.formable c (s.setOf c x) = true := List.find?_some (p := s.formable c ∘ s.setOf c) hx
  obtain ⟨hxrec, hxelig, hxborn, -⟩ := mem_takeable.1 (List.mem_of_find?_eq_some hx)
  have hxmem : x ∈ s.setOf c x := mem_setOf.2 ⟨hxrec, sameSet_refl .., hxelig, hxborn⟩
  have hrx : r.age ≤ x.age := by
    cases hsx : s.setOf c x with
    | nil => rw [hsx] at hxmem; cases hxmem
    | cons y ys =>
      rw [hsx] at hxf hxmem
      simp only [State.formable, Bool.and_eq_true] at hxf
      have hsort : (y :: ys).Pairwise (·.age ≤ ·.age) := hsx ▸ sortBy_sorted ..
      have hyx : y.age ≤ x.age := by
        rcases List.mem_cons.1 hxmem with rfl | hm
        · exact Nat.le_refl _
        · exact (List.pairwise_cons.1 hsort).1 x hm
      exact (holdest x hxrec y ys hsx hxf.1 hxf.2).trans hyx
  have hxeq : x = r := List.inj_on_of_nodup_map hages hxrec hr (Nat.le_antisymm hxr hrx)
  rw [hx, hxeq, Option.map_some, hset]

/-! ### Where records lie in a group (R29, R40) -/

theorem tfind_append {α : Type} (t u : Table α) (k : Nat) : tfind (t ++ u) k = (tfind t k).or (tfind u k) := by
  induction t with
  | nil => rfl
  | cons e t ih =>
    obtain ⟨i, x⟩ := e
    by_cases h : k = i <;> simp [tfind, h, ih]

theorem tfind_zipIdx_map {α β : Type} (f : α × Nat → β) (xs : List α) (n l : Nat) :
    tfind ((xs.zipIdx n).map fun e => (e.2, f e)) l = if n ≤ l then (xs[l - n]?).map fun x => f (x, l) else none := by
  induction xs generalizing n with
  | nil => simp
  | cons x xs ih =>
    rw [List.zipIdx_cons, List.map_cons, tfind, ih]
    by_cases h : l = n
    · subst h; simp
    · by_cases hl : n ≤ l
      · have h1 : n + 1 ≤ l := by omega
        have h2 : l - n = (l - (n + 1)) + 1 := by omega
        simp [h, hl, h1, h2]
      · have h1 : ¬ n + 1 ≤ l := by omega
        simp [h, hl, h1]

/-- The lane of a record in a group formed from records other than spill records. -/
theorem tget_otherLanes (alloc gnum : Nat) (rs : List Record) (l : Nat) : tget Lane.reset (otherLanes alloc gnum rs) l
    = (((rs.take 32)[l]?).map fun x => x.toLane alloc gnum l).getD Lane.reset := by
  unfold tget otherLanes
  rw [tfind_zipIdx_map (fun e : Record × Nat => e.1.toLane alloc gnum e.2)]
  simp

/-- The lanes of a quad. -/
def quadLane (alloc : Nat) (q : Quad) (i : Nat) : Lane :=
  match tfind q.at' i with
  | some r => r.toLane alloc r.homeGrp r.homeLane
  | none => Lane.helper

theorem tfind_quad {α : Type} (f : Nat → α) (n l : Nat) :
    tfind ((List.range 4).map fun i => (4 * n + i, f i)) l = if l / 4 = n then some (f (l % 4)) else none := by
  have hl : l = 4 * (l / 4) + l % 4 := (Nat.div_add_mod l 4).symm
  have hlt : l % 4 < 4 := Nat.mod_lt _ (by decide)
  generalize l / 4 = a at hl ⊢
  generalize l % 4 = i at hl hlt ⊢
  subst hl
  simp only [List.range, List.range.loop, List.map_cons, List.map_nil, tfind]
  by_cases h : a = n
  · subst h
    match i, hlt with
    | 0, _ => simp
    | 1, _ => simp
    | 2, _ => simp
    | 3, _ => simp
  · have h0 : ∀ j < 4, 4 * a + i ≠ 4 * n + j := fun j hj e => h (by omega)
    have h00 : 4 * a + i ≠ 4 * n := fun e => h (by omega)
    simp [h0, h00, h]

theorem tfind_quads (f : Quad → Nat → Lane) (qs : List Quad) (n l : Nat) :
    tfind ((qs.zipIdx n).flatMap fun e => (List.range 4).map fun i => (4 * e.2 + i, f e.1 i)) l
      = if n ≤ l / 4 then (qs[l / 4 - n]?).map fun q => f q (l % 4) else none := by
  induction qs generalizing n with
  | nil => simp
  | cons q qs ih =>
    rw [List.zipIdx_cons, List.flatMap_cons, tfind_append, tfind_quad, ih]
    by_cases h : l / 4 = n
    · simp [h]
    · by_cases hl : n ≤ l / 4
      · have h1 : n + 1 ≤ l / 4 := by omega
        have h2 : l / 4 - n = (l / 4 - (n + 1)) + 1 := by omega
        simp [h, hl, h1, h2]
      · have h1 : ¬ n + 1 ≤ l / 4 := by omega
        simp [h, hl, h1]

/-- The lane at a position of a quad in a group formed from spill records. -/
theorem tget_spillLanes (alloc : Nat) (qs : List Quad) (l : Nat) : tget Lane.reset (spillLanes alloc qs) l
    = (((qs.take 8)[l / 4]?).map fun q => quadLane alloc q (l % 4)).getD Lane.reset := by
  unfold tget
  rw [show tfind (spillLanes alloc qs) l = _ from tfind_quads (quadLane alloc) (qs.take 8) 0 l]
  simp

/-! ### The group that forms -/

/-- The group that takes a slot, by the number `uid` that no other group has. -/
def formedGroup (r : Record) (b : Block) (lanes : Table Lane) (uid : Nat) : Group :=
  { Group.reset with bslot := r.bslot, gnum := b.nextG, lanes := lanes, pc := r.pc, uid := uid }

/-- The state in which a group has taken its slot, before the audit logs it. -/
def State.slotTaken (s : State) (c sl : Nat) (r : Record) (b : Block) (lanes : Table Lane) (taken : List (Nat × Record)) : State :=
  let s1 := (s.newId.2.takeRecords c b.launch.polder (taken.map (·.2))).setBlock c r.bslot { b with nextG := (b.nextG + 1) % 2 ^ 26 }
  (s1.setGroup c sl (formedGroup r b lanes s.newId.1)).onSub c sl (·.youngest sl)

theorem State.formTaken_eq (s : State) (c sl : Nat) (r : Record) (b : Block) (lanes : Table Lane) (taken : List (Nat × Record)) :
    s.formTaken c sl r b lanes taken = (s.slotTaken c sl r b lanes taken).logCtl c r.bslot b.nextG
      (.form (taken.map fun e => (e.1, e.2.mark))) := by
  dsimp only [State.formTaken, State.slotTaken, formedGroup]

section
variable (s : State) (c sl : Nat) (r : Record) (b : Block) (lanes : Table Lane) (taken : List (Nat × Record))

theorem State.group_slotTaken : (s.slotTaken c sl r b lanes taken).group c sl = some (formedGroup r b lanes s.newId.1) := by
  unfold State.slotTaken
  rw [State.group_onSub, State.group_setGroup_same]

theorem State.core_newId (d : Nat) : s.newId.2.core d = s.core d := rfl

theorem State.group_slotTaken_ne {d j : Nat} (h : ¬(d = c ∧ j = sl)) : (s.slotTaken c sl r b lanes taken).group d j = s.group d j := by
  unfold State.slotTaken
  rw [State.group_onSub]
  by_cases e : d = c
  · subst e
    rw [State.group_setGroup_ne _ _ _ fun hj => h ⟨rfl, hj⟩, State.group_setBlock, State.group_takeRecords]
    rfl
  · simp [State.setGroup, State.setBlock, State.group, e, State.core_newId]

theorem State.records_slotTaken : ((s.slotTaken c sl r b lanes taken).core c).records
    = (s.core c).records.filter fun x => !((taken.map (·.2)).any fun y => y.age = x.age) := by
  simp only [State.slotTaken, State.onSub, State.setGroup, State.setBlock, State.core_setCore_same, State.records_takeRecords, s.core_newId]

theorem State.formed_slotTaken : ((s.slotTaken c sl r b lanes taken).core c).formed = (s.core c).formed := by
  simp only [State.slotTaken, State.onSub, State.setGroup, State.setBlock, State.core_setCore_same, State.core_takeRecords, s.core_newId]

theorem State.sh_slotTaken (d : Nat) : ((s.slotTaken c sl r b lanes taken).core d).sh = (s.core d).sh := by
  by_cases h : d = c
  · subst h
    simp only [State.slotTaken, State.onSub, State.setGroup, State.setBlock, State.core_setCore_same, State.sh_takeRecords, s.core_newId]
  · simp [State.slotTaken, State.onSub, State.setGroup, State.setBlock, h, State.core_newId]

theorem State.sameMemory_slotTaken : SameMemory s (s.slotTaken c sl r b lanes taken) := by
  refine ⟨?_, ?_, s.sh_slotTaken c sl r b lanes taken⟩
  · simp only [State.slotTaken, State.onSub, State.setGroup, State.setBlock, State.setCore_mem, State.mem_takeRecords]
    rfl
  · simp only [State.slotTaken, State.onSub, State.setGroup, State.setBlock, State.setCore_sp, State.sp_takeRecords]
    rfl

end

/-! ### The weaver's step -/

/-- Records in the order in which a group takes them (R40, R42). -/
def formOrder (r : Record) (rs : List Record) : List Record := if r.kind = .reorder then sortBy (fun x => x.key.toNat) (r :: rs) else r :: rs

/-- The lanes of the group that a set forms. -/
def formLanes (r : Record) (rs : List Record) (b : Block) : Table Lane :=
  if r.kind = .spill then spillLanes (allocOf b.launch) (quadsOf (r :: rs)) else otherLanes (allocOf b.launch) b.nextG (formOrder r rs)

/-- The records that a set forms its group from, by lane. -/
def formTakes (r : Record) (rs : List Record) : List (Nat × Record) :=
  if r.kind = .spill then ((quadsOf (r :: rs)).take 8).zipIdx.flatMap fun e => e.1.at'.map fun x => (4 * e.2 + x.1, x.2)
  else ((formOrder r rs).take 32).zipIdx.map fun e => (e.2, e.1)

theorem State.formFrom_eq {s : State} {c sl : Nat} {r : Record} {rs : List Record} {b : Block} (hb : s.block c r.bslot = some b) :
    s.formFrom c sl (r :: rs) = s.formTaken c sl r b (formLanes r rs b) (formTakes r rs) := by
  unfold State.formFrom
  simp only [hb]
  cases hk : r.kind <;> simp [formLanes, formTakes, formOrder, hk]

/-- The core forms its group of this cycle. -/
def State.weaving (s : State) (c : Nat) : State := s.setCore c { s.core c with formed := s.coreClk c + 1 }

theorem State.block_weaving (s : State) (c b : Nat) : (s.weaving c).block c b = s.block c b := by
  simp [State.weaving, State.block]

theorem State.group_weaving (s : State) (c d j : Nat) : (s.weaving c).group d j = s.group d j := by
  by_cases h : d = c
  · subst h; simp [State.weaving, State.group]
  · simp [State.weaving, State.group, h]

theorem State.sameMemory_weaving (s : State) (c : Nat) : SameMemory s (s.weaving c) := by
  refine ⟨rfl, rfl, fun d => ?_⟩
  by_cases h : d = c
  · subst h; simp [State.weaving]
  · simp [State.weaving, h]

theorem exec_weaverFormGroup_found {s : State} {c sl : Nat} {r : Record} {rs : List Record} (hcyc : (s.core c).formed ≤ s.coreClk c)
    (hfind : ((s.takeable c).map (s.setOf c)).find? (s.formable c) = some (r :: rs)) (hslot : s.freeSlot c r.bslot = some sl) :
    exec (.weaverFormGroup c) s = .next ((s.weaving c).formGroup c sl (r :: rs)) := by
  show execWeaverFormGroup c s = _
  unfold execWeaverFormGroup
  rw [if_neg (Nat.not_lt.2 hcyc)]
  dsimp only
  split
  · next r' rs' h =>
    have heq := Option.some.inj (h.symm.trans hfind)
    cases heq
    simp only [hslot]
    rfl
  · next h => exact absurd hfind (h r rs)

/-- The records of a set that a group leaves over stay; those that it takes go. -/
theorem formTakes_left (r : Record) (rs : List Record) (x : Record) :
    ((formTakes r rs).map (·.2)).any (fun y => y.age = x.age) = false
      ↔ if r.kind = .spill then ∀ q ∈ (quadsOf (r :: rs)).take 8, ∀ e ∈ q.at', e.2.age ≠ x.age
        else ∀ y ∈ (formOrder r rs).take 32, y.age ≠ x.age := by
  unfold formTakes
  split
  · have hsnd : (((quadsOf (r :: rs)).take 8).zipIdx.flatMap fun e => e.1.at'.map fun x => (4 * e.2 + x.1, x.2)).map (·.2)
        = ((quadsOf (r :: rs)).take 8).flatMap fun q => q.at'.map (·.2) := by
      rw [List.map_flatMap]
      simp only [List.map_map, Function.comp_def]
      conv_rhs => rw [← List.zipIdx_map_fst 0 ((quadsOf (r :: rs)).take 8), List.flatMap_map]
    rw [hsnd]
    simp
  · have hsnd : (((formOrder r rs).take 32).zipIdx.map fun e => (e.2, e.1)).map (·.2) = (formOrder r rs).take 32 := by
      rw [List.map_map]
      exact List.zipIdx_map_fst 0 _
    rw [hsnd]
    simp

theorem lane_formedGroup_other {r : Record} {rs : List Record} {b : Block} {uid : Nat} (hk : r.kind ≠ .spill) :
    (∀ l < 32, ∀ x, (formOrder r rs)[l]? = some x →
        Holds ((formedGroup r b (formLanes r rs b) uid).lane l) x (allocOf b.launch) b.nextG l)
      ∧ ∀ l, (formOrder r rs).length ≤ l → (formedGroup r b (formLanes r rs b) uid).lane l = Lane.reset := by
  have hlane (l : Nat) : (formedGroup r b (formLanes r rs b) uid).lane l
      = ((((formOrder r rs).take 32)[l]?).map fun x => x.toLane (allocOf b.launch) b.nextG l).getD Lane.reset := by
    show tget Lane.reset (formLanes r rs b) l = _
    rw [formLanes, if_neg hk, tget_otherLanes]
  refine ⟨fun l hl x hx => ?_, fun l hl => ?_⟩
  · rw [hlane, List.getElem?_take_of_lt hl, hx]
    exact holds_toLane ..
  · have hnone : ((formOrder r rs).take 32)[l]? = none := List.getElem?_eq_none (by simp; omega)
    rw [hlane, hnone]
    rfl

theorem lane_formedGroup_spill {r : Record} {rs : List Record} {b : Block} {uid : Nat} (hk : r.kind = .spill) :
    (∀ k < 8, ∀ q, ((quadsOf (r :: rs)).take 8)[k]? = some q → ∀ i < 4,
        (formedGroup r b (formLanes r rs b) uid).lane (4 * k + i) = quadLane (allocOf b.launch) q i)
      ∧ ∀ l, 4 * ((quadsOf (r :: rs)).take 8).length ≤ l → (formedGroup r b (formLanes r rs b) uid).lane l = Lane.reset := by
  have hlane (l : Nat) : (formedGroup r b (formLanes r rs b) uid).lane l
      = ((((quadsOf (r :: rs)).take 8)[l / 4]?).map fun q => quadLane (allocOf b.launch) q (l % 4)).getD Lane.reset := by
    show tget Lane.reset (formLanes r rs b) l = _
    rw [formLanes, if_pos hk, tget_spillLanes]
  refine ⟨fun k _ q hq i hi => ?_, fun l hl => ?_⟩
  · have hdiv : (4 * k + i) / 4 = k := by omega
    have hmod : (4 * k + i) % 4 = i := by omega
    rw [hlane, hdiv, hmod, hq]
    rfl
  · have hnone : ((quadsOf (r :: rs)).take 8)[l / 4]? = none := List.getElem?_eq_none (by omega)
    rw [hlane, hnone]
    rfl

theorem formingGroups : Claims.FormingGroups := by
  intro s c sl r rs b
  refine ⟨fun hcyc => ?_, fun hcyc hrr hages hr hset hmay hb hslot hsound holdest => ?_⟩
  · show execWeaverFormGroup c s = _
    simp [execWeaverFormGroup, hcyc]
  · intro alloc ordered quads left
    have hrun : s.inRerun c r.bslot = false := by simp [State.inRerun, hb, hrr]
    have hfind := find_formable hrun hages hr hset hmay hslot holdest
    have hbslot : ∀ x ∈ r :: rs, x.bslot = r.bslot := fun x hx => bslot_of_mem_setOf (hset ▸ hx : x ∈ s.setOf c r)
    have hback : (s.weaving c).readBack c (r :: rs) = (r :: rs, s.weaving c) := by
      refine State.readBack_sound fun x hx => ?_
      have hpol : (s.weaving c).blockPolder c x.bslot = b.launch.polder := by
        unfold State.blockPolder
        rw [hbslot x hx, State.block_weaving, hb]
      rw [hpol]
      exact fun y hy => (List.mem_singleton.1 hy) ▸ hsound x hx
    have hform : (s.weaving c).formGroup c sl (r :: rs)
        = ((s.weaving c).slotTaken c sl r b (formLanes r rs b) (formTakes r rs)).logCtl c r.bslot b.nextG
          (.form ((formTakes r rs).map fun e => (e.1, e.2.mark))) := by
      unfold State.formGroup
      rw [hback, State.formFrom_eq ((s.block_weaving c r.bslot).trans hb), State.formTaken_eq]
    have hlog := AuditOnly.logCtl ((s.weaving c).slotTaken c sl r b (formLanes r rs b) (formTakes r rs)) c r.bslot b.nextG
      (.form ((formTakes r rs).map fun e => (e.1, e.2.mark)))
    have hmem := (s.sameMemory_weaving c).trans
      (((s.weaving c).sameMemory_slotTaken c sl r b (formLanes r rs b) (formTakes r rs)).trans hlog.sameMemory)
    refine ⟨_, (exec_weaverFormGroup_found hcyc hfind hslot).trans (congrArg Host.Outcome.next hform), hmem, ?_,
      ⟨formedGroup r b (formLanes r rs b) s.newId.1, ?_, rfl, rfl, rfl, rfl, rfl, rfl, rfl, rfl, rfl, rfl,
        lane_formedGroup_other, fun hk => ⟨fun k hk8 q hq i hi => ?_, (lane_formedGroup_spill hk).2⟩⟩, fun d j h => ?_, fun x => ?_⟩
    · rw [hlog.formed_eq, State.formed_slotTaken]
      simp [State.weaving]
    · rw [hlog.group, State.group_slotTaken]
      rfl
    · rw [(lane_formedGroup_spill hk).1 k hk8 q hq i hi]
      unfold quadLane
      cases tfind q.at' i with
      | none => rfl
      | some x => exact holds_toLane ..
    · rw [hlog.group, State.group_slotTaken_ne _ _ _ _ _ _ _ h, State.group_weaving]
    · rw [hlog.records_eq, State.records_slotTaken, List.mem_filter]
      have hleft := formTakes_left r rs x
      simp only [State.weaving, State.core_setCore_same, Bool.not_eq_true', hleft]
      rfl

end Sys2Proof.Machine
end


section

/-!
# Records wait, and groups are evicted for them (R36, R38, R39, R45)
-/

namespace Sys2Proof.Machine

/-! ### What an eviction keeps of a state -/

/-- Nothing that a record of the group in a slot takes from the state has changed, nor any memory, nor any other group. -/
structure Kept (s t : State) (c sl : Nat) : Prop where
  memory   : t.mem = s.mem
  scratch  : t.sp = s.sp
  shared   : ∀ d, (t.core d).sh = (s.core d).sh
  clock    : t.clock = s.clock
  linkQ    : t.linkQ = s.linkQ
  groups   : ∀ d j, ¬(d = c ∧ j = sl) → t.group d j = s.group d j
  launch   : ∀ d b, (t.block d b).map Block.launch = (s.block d b).map Block.launch
  records  : ∀ d, (t.core d).records = (s.core d).records
  ageCtr   : ∀ d, (t.core d).ageCtr = (s.core d).ageCtr
  spillPa  : ∀ p, (t.polder p).spillPa = (s.polder p).spillPa
  coherent : ∀ a, t.coherent a = s.coherent a

namespace Kept

variable {s t u : State} {c sl : Nat}

theorem refl (s : State) (c sl : Nat) : Kept s s c sl :=
  ⟨rfl, rfl, fun _ => rfl, rfl, rfl, fun _ _ _ => rfl, fun _ _ => rfl, fun _ => rfl, fun _ => rfl, fun _ => rfl, fun _ => rfl⟩

theorem trans (h : Kept s t c sl) (k : Kept t u c sl) : Kept s u c sl where
  memory := k.memory.trans h.memory
  scratch := k.scratch.trans h.scratch
  shared d := (k.shared d).trans (h.shared d)
  clock := k.clock.trans h.clock
  linkQ := k.linkQ.trans h.linkQ
  groups d j n := (k.groups d j n).trans (h.groups d j n)
  launch d b := (k.launch d b).trans (h.launch d b)
  records d := (k.records d).trans (h.records d)
  ageCtr d := (k.ageCtr d).trans (h.ageCtr d)
  spillPa p := (k.spillPa p).trans (h.spillPa p)
  coherent a := (k.coherent a).trans (h.coherent a)

theorem of_ownGroup (h : OwnGroup s t c sl) : Kept s t c sl :=
  ⟨h.mem_eq, h.sp_eq, h.sh_eq, h.clock_eq, h.linkQ_eq, h.groups, h.launch, h.records_eq, h.ageCtr_eq, fun p => by rw [h.polder],
    h.coherent⟩

theorem of_auditOnly (h : AuditOnly s t) : Kept s t c sl where
  memory := h.sameMemory.memory
  scratch := h.sameMemory.scratch
  shared := h.sameMemory.shared
  clock := (congrArg State.clock h.others :)
  linkQ := (congrArg State.linkQ h.others :)
  groups d j _ := h.group d j
  launch d b := by
    have := congrArg (Option.map Block.launch) (h.blocks d b)
    simpa [Option.map_map, Function.comp_def, Block.offAudit] using this
  records := h.records_eq
  ageCtr d := (congrArg Core.ageCtr (h.cores d) :)
  spillPa p := (congrArg Polder.spillPa (h.polders p) :)
  coherent a := (congrArg (fun u : State => u.coherent a) h.others :)

/-- A core that changes neither its memory nor its records, nor another group or a block's launch. -/
theorem of_setCore (s : State) (c sl : Nat) (k : Core) (hsh : k.sh = (s.core c).sh) (hr : k.records = (s.core c).records)
    (ha : k.ageCtr = (s.core c).ageCtr) (hg : ∀ j, j ≠ sl → tfind k.groups j = tfind (s.core c).groups j)
    (hb : ∀ b, (tfind k.blocks b).map Block.launch = (tfind (s.core c).blocks b).map Block.launch) :
    Kept s (s.setCore c k) c sl where
  memory := rfl
  scratch := rfl
  shared d := by by_cases h : d = c <;> simp [h, hsh]
  clock := rfl
  linkQ := rfl
  groups d j n := by
    by_cases h : d = c
    · subst h; simp only [State.group, State.core_setCore_same]; exact hg j fun e => n ⟨rfl, e⟩
    · simp only [State.group, State.core_setCore_ne _ _ h]
  launch d b := by
    by_cases h : d = c
    · subst h; simp only [State.block, State.core_setCore_same]; exact hb b
    · simp only [State.block, State.core_setCore_ne _ _ h]
  records d := by by_cases h : d = c <;> simp [h, hr]
  ageCtr d := by by_cases h : d = c <;> simp [h, ha]
  spillPa _ := rfl
  coherent _ := rfl

theorem setBlock (s : State) (c sl b : Nat) {x y : Block} (hx : s.block c b = some x) (hy : y.launch = x.launch) :
    Kept s (s.setBlock c b y) c sl := by
  refine .of_setCore s c sl _ rfl rfl rfl (fun _ _ => rfl) fun i => ?_
  have hx' : tfind (s.core c).blocks b = some x := hx
  by_cases h : i = b
  · subst h; simp [hx', hy]
  · simp [h]

end Kept

/-! ### A fetch that is given up (R265) -/

/-- A state without its dies and its accesses. -/
def State.offFetch (s : State) : State := { s with dies := [], accs := [] }

theorem State.offFetch_queueMiss (s : State) (id : Nat) (a : Access) : (s.queueMiss id a).offFetch = s.offFetch := by
  unfold State.queueMiss
  dsimp only
  split <;> rfl

theorem State.offFetch_refillMiss (s : State) (d : Nat) : (s.refillMiss d).offFetch = s.offFetch := by
  refine foldl_keeps State.offFetch (fun s k => ?_) _ _
  split
  · rfl
  · refine foldl_keeps State.offFetch (fun s i => ?_) _ _
    split
    · split
      · exact s.offFetch_queueMiss _ _
      · rfl
    · rfl

/-- A core's fault buffer no longer holds an access. -/
def State.unparked (s : State) (id : Nat) (a : Access) : State :=
  s.setCore a.core { s.core a.core with parkedA := (s.core a.core).parkedA.filter (· ≠ id) }

theorem State.offFetch_unpark (s : State) (id : Nat) (a : Access) : (s.unpark id a).offFetch = (s.unparked id a).offFetch := by
  unfold State.unpark
  exact (State.offFetch_refillMiss _ _).trans rfl

theorem Kept.of_offFetch {s t : State} (h : t.offFetch = s.offFetch) (c sl : Nat) : Kept s t c sl where
  memory := (congrArg State.mem h :)
  scratch := (congrArg State.sp h :)
  shared d := (congrArg (fun u : State => (u.core d).sh) h :)
  clock := (congrArg State.clock h :)
  linkQ := (congrArg State.linkQ h :)
  groups d j _ := (congrArg (fun u : State => u.group d j) h :)
  launch d b := (congrArg (fun u : State => (u.block d b).map Block.launch) h :)
  records d := (congrArg (fun u : State => (u.core d).records) h :)
  ageCtr d := (congrArg (fun u : State => (u.core d).ageCtr) h :)
  spillPa p := (congrArg (fun u : State => (u.polder p).spillPa) h :)
  coherent a := (congrArg (fun u : State => u.coherent a) h :)

theorem State.groups_unparked (s : State) (id : Nat) (a : Access) (d : Nat) :
    ((s.unparked id a).core d).groups = (s.core d).groups := by
  by_cases h : d = a.core <;> simp [State.unparked, h]

/-- An access leaves its fault buffer: no group changes. -/
theorem Kept.unparked (s : State) (id : Nat) (a : Access) (c sl : Nat) : Kept s (s.unparked id a) c sl := by
  have h := Kept.of_setCore s a.core sl { s.core a.core with parkedA := (s.core a.core).parkedA.filter (· ≠ id) } rfl rfl rfl
    (fun _ _ => rfl) (fun _ => rfl)
  exact { h with groups := fun d j _ => by unfold State.group; rw [s.groups_unparked] }

theorem State.dropFetchOf_kept (s : State) (g : Group) (c sl : Nat) :
    Kept s (s.dropFetchOf g) c sl ∧ ∀ d j, (s.dropFetchOf g).group d j = s.group d j := by
  unfold State.dropFetchOf
  split
  · next id _ =>
    split
    · next a _ =>
      have hoff : ({ s.unpark id a with accs := tdel (s.unpark id a).accs id } : State).offFetch = (s.unparked id a).offFetch :=
        s.offFetch_unpark id a
      refine ⟨(Kept.unparked s id a c sl).trans (.of_offFetch hoff c sl), fun d j => ?_⟩
      refine (congrArg (fun u : State => u.group d j) hoff :).trans ?_
      unfold State.group
      exact congrArg (fun t => tfind t j) (s.groups_unparked id a d)
    · exact ⟨.refl s c sl, fun _ _ => rfl⟩
  · exact ⟨.refl s c sl, fun _ _ => rfl⟩

/-! ### The end of a group without batches (R28, R144) -/

theorem Group.closeBatch_nil {g : Group} (k : Cls) (h : g.openB = []) : g.closeBatch k = g := by
  simp [Group.closeBatch, h]

theorem State.popBatches_nil {s : State} {c sl : Nat} {g : Group} (k : Cls) (n : Nat) (hg : s.group c sl = some g) (h : g.closedB = []) :
    s.popBatches c sl k n = s := by
  cases n with
  | zero => rfl
  | succ n => simp [State.popBatches, hg, h]

theorem State.popAll_nil {s : State} {c sl : Nat} {g : Group} (hg : s.group c sl = some g) (h : g.closedB = []) : s.popAll c sl = s :=
  List.foldlRecOn allCls _ (motive := (· = s)) rfl fun t ht k _ => by rw [ht, State.popBatches_nil k 16 hg h]

theorem Group.occs_noLanes {g : Group} (h : g.lanes = []) : g.occs = [] := by
  refine List.filter_eq_nil_iff.2 fun l _ => ?_
  have hlane : g.lane l = Lane.reset := by simp [Group.lane, h]
  rw [Group.occ, hlane]
  decide

theorem Kept.onSub (s : State) (c sl i : Nat) (f : SubCore → SubCore) : Kept s (s.onSub c i f) c sl := .of_ownGroup (.onSub s c sl i f)

/-- A group without threads and batches gives up its slot. -/
theorem State.reap_gone {s : State} {c sl : Nat} {g : Group} (hg : s.group c sl = some g) (ho : g.occs = []) (hb : g.closedB = []) :
    Kept s (s.reap c sl) c sl ∧ (s.reap c sl).group c sl = none := by
  unfold State.reap
  simp only [hg, ho, hb, decide_true, Bool.and_self, if_true]
  refine ⟨Kept.trans ?_ (.onSub ..), ?_⟩
  · exact .of_setCore s c sl _ rfl rfl rfl (fun j h => by simp [h]) fun _ => rfl
  · simp [State.group, State.onSub]

theorem State.endGroup_gone {s : State} {c sl : Nat} {g : Group} (hg : s.group c sl = some g) (ho : g.occs = []) (hopen : g.openB = [])
    (hclosed : g.closedB = []) : Kept s (s.endGroup c sl) c sl ∧ (s.endGroup c sl).group c sl = none := by
  have hclose : allCls.foldl Group.closeBatch g = g :=
    List.foldlRecOn allCls _ (motive := (· = g)) rfl fun t ht k _ => by rw [ht, Group.closeBatch_nil k hopen]
  let h : Group := { g with lanes := [], waiting := .none, clause := none }
  have hset : (s.setGroup c sl h).group c sl = some h := State.group_setGroup_same ..
  have hend : s.endGroup c sl = (s.setGroup c sl h).reap c sl := by
    unfold State.endGroup
    simp only [hg, ho, if_true, hclose]
    exact congrArg (fun u : State => u.reap c sl) (State.popAll_nil hset hclosed)
  rw [hend]
  obtain ⟨hk, hnone⟩ := State.reap_gone hset (Group.occs_noLanes rfl) hclosed
  exact ⟨(Kept.of_ownGroup (.setGroup s c sl h)).trans hk, hnone⟩

/-! ### Eviction (R45) -/

/-- A block counts a group of it that is evicted at a barrier (R180). -/
def State.countEvicted (s : State) (c : Nat) (g : Group) : State :=
  match s.block c g.bslot with
  | some b => s.setBlock c g.bslot { b with
      evictedBar := b.evictedBar + if g.atBar then 1 else 0
      evictedGs := b.evictedGs + if g.arrived && !g.atBar then 1 else 0
      evictedMx := b.evictedMx || decide (g.waiting = Wait.bar true) }
  | none => s

theorem Kept.countEvicted (s : State) (c sl : Nat) (g : Group) : Kept s (s.countEvicted c g) c sl := by
  unfold State.countEvicted
  split
  · next x hx => exact .setBlock s c sl g.bslot hx rfl
  · exact .refl s c sl

theorem State.group_countEvicted (s : State) (c sl : Nat) (g : Group) : (s.countEvicted c g).group c sl = s.group c sl := by
  unfold State.countEvicted
  split
  · exact State.group_setBlock ..
  · rfl

/-- The group's threads with the PC at which they leave. -/
def Group.evicted (g : Group) : List (Nat × Word) := g.occs.map fun i => (i, g.pc)

theorem Group.occs_without_all (g : Group) : (g.without g.evicted).occs = [] := by
  refine List.filter_eq_nil_iff.2 fun l hl => ?_
  have hl32 : l < 32 := List.mem_range.1 hl
  have hlane := g.lane_without g.evicted hl32
  by_cases ho : l ∈ g.occs
  · have hm : l ∈ g.evicted.map Prod.fst := by simpa [Group.evicted, Function.comp_def] using ho
    rw [if_pos hm] at hlane
    rw [Group.occ, hlane]
    decide
  · have hm : l ∉ g.evicted.map Prod.fst := by simpa [Group.evicted, Function.comp_def] using ho
    rw [if_neg hm] at hlane
    have hocc : g.occ l ≠ true := fun h => ho (mem_occs.2 ⟨hl32, h⟩)
    simpa [Group.occ, hlane] using hocc

theorem canClose_noBatches {g : Group} (h : g.openB = []) : allCls.all g.canClose = true :=
  List.all_eq_true.2 fun k _ => by simp [Group.canClose, h]

/-- The steps of an eviction that is made. -/
theorem State.evict_eq {s : State} {c sl : Nat} {g : Group} (hg : s.group c sl = some g) (hin : g.inflight = []) (hopen : g.openB = [])
    (hpend : ∀ i ∈ g.occs, s.pendBusy (g.lane i) = false)
    (hfits : s.fits c (s.launchOf c g).polder
      (g.occs.map fun i => recSize (g.lane i).rstk.length (min (allocOf (s.launchOf c g)) 255)) = true) :
    s.evict c sl = (((((s.dropFetchOf g).logCtl c g.bslot g.gnum (.evict g.issued)).settle c sl).leaveLanes c sl g.evicted
      (min (allocOf (s.launchOf c g)) 255) g.holdOf).countEvicted c g).endGroup c sl := by
  have hlink : s.linkHolds c g = false := State.linkHolds_quiet fun f hf => by rw [hin] at hf; cases hf
  have hbusy : (g.occs.any fun i => s.pendBusy (g.lane i)) = false := List.any_eq_false.2 fun i hi => by simp [hpend i hi]
  have hsizes : spillSizes g id g.occs (min (allocOf (s.launchOf c g)) 255)
      = g.occs.map fun i => recSize (g.lane i).rstk.length (min (allocOf (s.launchOf c g)) 255) := rfl
  unfold State.evict
  simp only [hg, hlink, hbusy, canClose_noBatches hopen, hsizes, hfits, Bool.or_self, Bool.not_true, Bool.false_eq_true, if_false]
  rfl

theorem Group.landed_of_idle {g : Group} (h : g.inflight = []) : g.landed = g := by
  simp [Group.landed, h]

/-- Every thread of an evicted group becomes a record, and the group gives up its slot. -/
theorem evict_spec {s : State} {c sl : Nat} {g : Group} (hg : s.group c sl = some g) (hin : g.inflight = []) (hopen : g.openB = [])
    (hclosed : g.closedB = []) (hpend : ∀ i ∈ g.occs, s.pendBusy (g.lane i) = false) (hage : (s.core c).ageCtr + 32 < 2 ^ 32)
    (hfits : s.fits c (s.launchOf c g).polder
      (g.occs.map fun i => recSize (g.lane i).rstk.length (min (allocOf (s.launchOf c g)) 255)) = true) :
    SameMemory s (s.evict c sl) ∧ (s.evict c sl).group c sl = none
      ∧ (∀ d j, ¬(d = c ∧ j = sl) → (s.evict c sl).group d j = s.group d j)
      ∧ ∃ rs, ((s.evict c sl).core c).records = (s.core c).records ++ rs
        ∧ (∀ a, OutsideRecords s (s.launchOf c g).polder rs a → (s.evict c sl).coherent a = s.coherent a)
        ∧ rs.map Record.bare = g.evicted.zipIdx.map fun e =>
          { (spillRec s.clock sl (s.storesOf g) g e.1.1 (min (allocOf (s.launchOf c g)) 255) e.1.2 g.holdOf).bare with
            age := (s.core c).ageCtr + e.2 } := by
  rw [State.evict_eq hg hin hopen hpend hfits]
  generalize min (allocOf (s.launchOf c g)) 255 = n
  obtain ⟨hdrop, hdropg⟩ := s.dropFetchOf_kept g c sl
  have hlog := AuditOnly.logCtl (s.dropFetchOf g) c g.bslot g.gnum (.evict g.issued)
  generalize (s.dropFetchOf g).logCtl c g.bslot g.gnum (.evict g.issued) = u at hlog
  have hug : u.group c sl = some g := (hlog.group c sl).trans ((hdropg c sl).trans hg)
  have hquiet : g.quietLines := fun f hf => by rw [hin] at hf; cases hf
  have hv : Kept s (u.settle c sl) c sl := hdrop.trans ((Kept.of_auditOnly hlog).trans (.of_ownGroup (.settle hug hquiet)))
  have hvg : (u.settle c sl).group c sl = some g := by rw [State.group_settle hug hquiet, Group.landed_of_idle hin]
  generalize u.settle c sl = v at hv hvg
  have hlen : g.evicted.length ≤ 32 := by
    rw [Group.evicted, List.length_map]
    exact length_occs_le g
  obtain ⟨t, rs, hrec, hleave, hbare⟩ := State.leaveLanes_recorded g.evicted n g.holdOf hvg (by rw [hv.ageCtr]; omega)
  have hlaunch : v.launchOf c g = s.launchOf c g := by rw [State.launchOf_eq, State.launchOf_eq, hv.launch]
  rw [hleave]
  have hend := (Kept.of_ownGroup (.setGroup t c sl (g.without g.evicted))).trans (.countEvicted _ c sl g)
  have hendg := (State.group_countEvicted (t.setGroup c sl (g.without g.evicted)) c sl g).trans (State.group_setGroup_same ..)
  generalize (t.setGroup c sl (g.without g.evicted)).countEvicted c g = w at hend hendg
  obtain ⟨hgone, hnone⟩ := State.endGroup_gone hendg g.occs_without_all hopen hclosed
  have hlast := hend.trans hgone
  refine ⟨⟨?_, ?_, fun d => ?_⟩, hnone, fun d j h => ?_, rs, ?_, fun a ha => ?_, ?_⟩
  · rw [hlast.memory, hrec.memory, hv.memory]
  · rw [hlast.scratch, hrec.scratch, hv.scratch]
  · rw [hlast.shared, hrec.shared, hv.shared]
  · rw [hlast.groups d j h, hrec.groups, hv.groups d j h]
  · rw [hlast.records, hrec.records, hv.records]
  · rw [hlast.coherent]
    refine (hrec.coherent a ?_).trans (hv.coherent a)
    rw [hlaunch]
    exact ha.congr (hv.spillPa _)
  · rw [hbare, hv.clock, hv.ageCtr, State.storesOf_congr hv.linkQ rfl]

/-! ### Waiting for room (R36) -/

/-- The least by a key is a member, and no member is less. -/
theorem argMin_spec {α : Type} {key : α → Nat} {xs : List α} {x : α} (h : argMin key xs = some x) :
    x ∈ xs ∧ ∀ y ∈ xs, key x ≤ key y := by
  induction xs generalizing x with
  | nil => cases h
  | cons a xs ih =>
    unfold argMin at h
    cases hm : argMin key xs with
    | none =>
      rw [hm] at h
      cases h
      have hnil : xs = [] := by
        cases xs with
        | nil => rfl
        | cons b xs =>
          unfold argMin at hm
          split at hm
          · cases hm
          · split at hm <;> cases hm
      simp [hnil]
    | some z =>
      obtain ⟨hz, hle⟩ := ih hm
      rw [hm] at h
      dsimp only at h
      split at h
      · next haz =>
        cases h
        exact ⟨List.mem_cons_self .., List.forall_mem_cons.2 ⟨Nat.le_refl _, fun y hy => haz.trans (hle y hy)⟩⟩
      · next haz =>
        cases h
        exact ⟨List.mem_cons_of_mem _ hz, List.forall_mem_cons.2 ⟨by omega, hle⟩⟩

theorem argMin_isSome {α : Type} {key : α → Nat} {xs : List α} (h : xs ≠ []) : ∃ x, argMin key xs = some x := by
  cases xs with
  | nil => exact absurd rfl h
  | cons a xs =>
    unfold argMin
    split
    · exact ⟨a, rfl⟩
    · split <;> exact ⟨_, rfl⟩

/-- The group of a slot is listed at its core. -/
theorem mem_cores_of_group {s : State} {c sl : Nat} {g : Group} (h : s.group c sl = some g) : (c, s.core c) ∈ s.cores := by
  cases hc : tfind s.cores c with
  | none =>
    have hcore : s.core c = Core.reset := by simp [State.core, tget, hc]
    simp [State.group, hcore, Core.reset] at h
  | some k =>
    have hcore : s.core c = k := by simp [State.core, tget, hc]
    rw [hcore]
    exact mem_of_tfind hc

/-- A group that waits for room is a waiter of its polder. -/
theorem mem_waiters {s : State} {c sl n : Nat} {g : Group} {sizes : List Nat} {free : Bool} (hg : s.group c sl = some g)
    (hw : g.waiting = .room n sizes free) :
    { order := n, core := c, slot := some sl, from' := sl, cmd := 0, sizes := sizes : Waiter } ∈ s.waiters (s.launchOf c g).polder := by
  refine List.mem_append_left _ (List.mem_flatMap.2 ⟨_, mem_cores_of_group hg, List.mem_filterMap.2 ⟨(sl, g), mem_of_tfind hg, ?_⟩⟩)
  simp [hw]

/-- The oldest waiter of a polder, where it stands on the core and its records fit. -/
def State.readyWaiter (s : State) (c p : Nat) : Option (Nat × Waiter) :=
  match argMin (·.order) (s.waiters p) with
  | some w => if w.core = c && s.fits c p w.sizes then some (p, w) else none
  | none => none

theorem State.readyWaiter_stays {s : State} {c q : Nat}
    (h : ∀ v ∈ s.waiters q, (∀ u ∈ s.waiters q, v.order ≤ u.order) → v.core ≠ c ∨ s.fits c q v.sizes = false) :
    s.readyWaiter c q = none := by
  unfold State.readyWaiter
  split
  · next v hv =>
    obtain ⟨hm, hle⟩ := argMin_spec hv
    rcases h v hm hle with hc | hf
    · simp [hc]
    · simp [hf]
  · rfl

theorem State.readyWaiter_oldest {s : State} {c p : Nat} {w : Waiter} (hc : w.core = c) (hm : w ∈ s.waiters p)
    (h : ∀ v ∈ s.waiters p, v = w ∨ w.order < v.order) :
    s.readyWaiter c p = if s.fits c p w.sizes then some (p, w) else none := by
  obtain ⟨v, hv⟩ := argMin_isSome (key := Waiter.order) (List.ne_nil_of_mem hm)
  obtain ⟨hvm, hle⟩ := argMin_spec hv
  have hvw : v = w := (h v hvm).resolve_right fun hlt => by
    have := hle w hm
    omega
  unfold State.readyWaiter
  rw [hv, hvw]
  simp [hc]

/-- A search to which one member alone may answer. -/
theorem findSome?_only {α β : Type} {f : α → Option β} {xs : List α} {p : α} (hp : p ∈ xs) (h : ∀ q ∈ xs, q ≠ p → f q = none) :
    xs.findSome? f = f p := by
  induction xs with
  | nil => cases hp
  | cons x xs ih =>
    rw [List.findSome?_cons]
    by_cases hx : x = p
    · subst hx
      cases hf : f x with
      | some b => rfl
      | none =>
        refine List.findSome?_eq_none_iff.2 fun q hq => ?_
        by_cases hqx : q = x
        · rw [hqx, hf]
        · exact h q (List.mem_cons_of_mem _ hq) hqx
    · rw [h x (List.mem_cons_self ..) hx]
      exact ih ((List.mem_cons.1 hp).resolve_left fun e => hx e.symm) fun q hq => h q (List.mem_cons_of_mem _ hq)

theorem execSpillRoomFreed_some {s : State} {c p sl : Nat} {w : Waiter} (h : (s.poldersOn c).findSome? (s.readyWaiter c) = some (p, w))
    (hsl : w.slot = some sl) : execSpillRoomFreed c s
      = .next (s.onGroup c sl fun g => { g with waiting := .room w.order w.sizes true }) := by
  unfold execSpillRoomFreed
  dsimp only
  split
  · next q v hv =>
    have heq := Option.some.inj (hv.symm.trans h)
    cases heq
    simp only [hsl]
  · next hv => exact absurd (hv.symm.trans h) (by simp)

theorem execSpillRoomFreed_none {s : State} {c : Nat} (h : (s.poldersOn c).findSome? (s.readyWaiter c) = none) :
    execSpillRoomFreed c s = .next s := by
  unfold execSpillRoomFreed
  dsimp only
  split
  · next q v hv => exact absurd (hv.symm.trans h) (by simp)
  · rfl

/-- R36: the oldest waiter arbitrates again where its records fit. -/
theorem spillRoomFreed_oldest {s : State} {c sl n : Nat} {g : Group} {sizes : List Nat} {free : Bool} (hg : s.group c sl = some g)
    (hw : g.waiting = .room n sizes free) (hp : (s.launchOf c g).polder ∈ s.poldersOn c)
    (hold : ∀ v ∈ s.waiters (s.launchOf c g).polder,
      v = { order := n, core := c, slot := some sl, from' := sl, cmd := 0, sizes := sizes } ∨ n < v.order)
    (hstay : ∀ q ∈ s.poldersOn c, q ≠ (s.launchOf c g).polder →
      ∀ v ∈ s.waiters q, (∀ u ∈ s.waiters q, v.order ≤ u.order) → v.core ≠ c ∨ s.fits c q v.sizes = false) :
    (s.fits c (s.launchOf c g).polder sizes = true →
        exec (.spillRoomFreed c) s = .next (s.setGroup c sl { g with waiting := .room n sizes true }))
      ∧ (s.fits c (s.launchOf c g).polder sizes = false → exec (.spillRoomFreed c) s = .next s) := by
  have hready := State.readyWaiter_oldest rfl (mem_waiters hg hw) hold
  have hfind : (s.poldersOn c).findSome? (s.readyWaiter c) = s.readyWaiter c (s.launchOf c g).polder :=
    findSome?_only hp fun q hq hne => State.readyWaiter_stays (hstay q hq hne)
  refine ⟨fun hfit => ?_, fun hfit => ?_⟩
  · refine (execSpillRoomFreed_some (hfind.trans (hready.trans (if_pos hfit))) rfl).trans (congrArg Host.Outcome.next ?_)
    simp [State.onGroup, hg]
  · exact execSpillRoomFreed_none (hfind.trans (hready.trans (if_neg (by simp [hfit]))))

theorem waitingRecords : Claims.WaitingRecords := by
  intro s c sl g
  refine ⟨fun r hr => ⟨fun hdue => ?_, fun hearly => ?_⟩, ?_, ?_, ?_⟩
  · show execSetDue c r.age s = _
    simp [execSetDue, hr, hdue]
  · show execSetDue c r.age s = _
    simp [execSetDue, hr, Nat.not_le.2 hearly]
  · intro l n hg hprom hdue hslot hev hend hrun hord hocc hin hopen hclosed hpend hage hfits
    have hexec : exec (.groupEvict c sl) s = .next (s.evict c sl) := by
      have hprom' : (s.launchOf c g).noprom = false := hprom
      show execGroupEvict c sl s = _
      simp [execGroupEvict, hg, hrun, hprom', hdue, hslot, hev, hend, hord]
    obtain ⟨hmem, hnone, hoth, rs, hrecs, hcoh, hbare⟩ := evict_spec hg hin hopen hclosed hpend hage hfits
    refine ⟨_, hexec, hmem, hnone, hoth, rs, hrecs, hcoh, hbare.trans ?_⟩
    rw [Group.evicted, List.zipIdx_map, List.map_map]
    rfl
  · intro n sizes free hg hw p w stays hp hold hstay
    exact spillRoomFreed_oldest hg hw hp hold hstay
  · intro n sizes hg hw
    simp [State.roomTurn, hg, hw]

/-- Settles O33: the weaver takes the oldest set that may form, evicts for a due set, and wakes the oldest waiter. -/
theorem weaver : Obligations.Weaver := by
  unfold Obligations.Weaver
  exact ⟨formingGroups, waitingRecords⟩

end Sys2Proof.Machine
end

section

/-!
# Words of the instruction sets (R50 to R56, R106, R202, R203, R268)
-/

namespace Sys2Proof.Machine

/-- Settles O58: each word reads as its fields say. -/
theorem knownWords : Obligations.KnownWords := by
  unfold Obligations.KnownWords
  decide +kernel

/-- `vote.any` with a destination that names no predicate: DST is 8 (R106). -/
def voteOffPredicates : Instr := .vote 8 0 .any false 0 noGuard

/-- It is well-formed and has two words, which the decoder refuses. -/
theorem decode_voteOffPredicates :
    wf voteOffPredicates = true ∧ encode voteOffPredicates = [0x63080000, 0x000000E0] ∧ decodeVilesk 0x63080000 0x000000E0 = none := by
  decide

/-- Refutes O59: `vote.any` with DST 8 counts as well-formed and has two words, but these read as no instruction, for R84 and R106
reserve a DST that names no predicate. -/
theorem not_encodeDecode : ¬ Obligations.EncodeDecode := by
  unfold Obligations.EncodeDecode
  rintro ⟨-, -, -, hback, -⟩
  obtain ⟨hwf, henc, hnone⟩ := decode_voteOffPredicates
  have hsome := hback _ _ _ hwf henc
  rw [hnone] at hsome
  cases hsome

end Sys2Proof.Machine
end

section

/-!
# System instructions outside the service (R52, R183, R314)
-/

namespace Sys2Proof.Machine

/-- Every instruction of class SYS is issued as R183 says. -/
theorem exec_eq_sysIssue {i : Instr} (hi : (issueOf i).cls = 7) : ∃ act, ∀ s, exec i s = sysIssue (issueOf i) act s := by
  cases i
  case sregw a r g => exact ⟨_, fun s => exec_sregw s a r g⟩
  case sregwRd d r g => exact ⟨_, fun s => exec_sregwRd s d r g⟩
  case qmap | qunmap | place | ctxsave | ctxrest | wkload => exact ⟨_, fun _ => rfl⟩
  case tbinv k a b g => exact ⟨_, fun s => exec_tbinv s k a b g⟩
  case cinvSprd g => exact ⟨_, fun s => exec_cinvSprd s g⟩
  case cinvRec b g => exact ⟨_, fun s => exec_cinvRec s b g⟩
  case vote d q m occ la g => cases m <;> cases hi
  all_goals cases hi

/-- Where an instruction meets a cause of R314, it is an illegal instruction. -/
theorem sysIssue_illegal {v : Issue} {s : State} {c sl : Nat} {g : Group} {cl : Clause} {cause : Nat} (hcur : s.cur = .group c sl)
    (hg : s.group c sl = some g) (hcl : g.clause = some cl) (hready : g.stalled = false)
    (hcause : illegalCause v s c sl g cl = some cause) (act : Nat → Nat → Group → Nat → State → SysTry) :
    sysIssue v act s = .next (s.takeFault c sl { code := 1, cause := cause, lanes := g.occMask, aux := s.ir } (resumeOf g)) := by
  simp [sysIssue, hcur, hg, hcl, hready, hcause]

/-- Of the causes of R314 PRIV is the first that applies to a SYS instruction in its own class and width, outside slot 63 of a core. -/
theorem illegalCause_priv {v : Issue} {s : State} {c sl : Nat} {g : Group} {cl : Clause} (hv : v.cls = 7) (hcls : cl.hdr.cls = 7)
    (hwidth : cl.hdr.width.getLsbD cl.done = true) (hwords : v.words = 2) (hsl : sl ≠ 63) (hc : c < 32) :
    illegalCause v s c sl g cl = some 6 := by
  have hplace : sysPlace c sl = false := by simp [sysPlace, hsl, hc]
  simp [illegalCause, hv, hcls, hwidth, hwords, hplace, Nat.not_le.2 hc]

/-- Settles O22: the place of a SYS instruction is checked before its operands are looked at. -/
theorem privilege : Obligations.Privilege := by
  unfold Obligations.Privilege
  intro i s c sl g cl hi hcur hg hcl hready hcls hwidth hwords hsl hc
  obtain ⟨act, hexec⟩ := exec_eq_sysIssue hi
  have hresume : resumeOf g = clauseEnd cl.hdr cl.hdrPc := by simp [resumeOf, hcl]
  rw [hexec, sysIssue_illegal hcur hg hcl hready (illegalCause_priv hi hcls hwidth hwords hsl hc), hresume]

end Sys2Proof.Machine
end

section

/-!
# Special functions, cross-lane instructions, and where matrix instructions complete (R101 to R107, R110 to R122)
-/

namespace Sys2Proof.Machine

/-- Where an instruction is what `laterLanes` makes of lane results, its results come later. -/
theorem resultsLater_of_laterLanes {i : Instr} {gd : Guard} {f : Group → Nat → List (Loc × Word) × Flags}
    (hg : (issueOf i).guard = gd) (hexec : ∀ s, exec i s = laterLanes (issueOf i) f s) : ResultsLater i gd f := by
  subst hg
  intro s c sl g cl h
  obtain ⟨t, ht, hlater⟩ := laterLanes_later h f
  exact ⟨t, (hexec s).trans ht, hlater⟩

/-- R101: each special function enters what `special` gives. -/
theorem special_functions : Claims.SpecialFunctions := by
  intro d a rm la gd
  refine ⟨?_, ?_, ?_, ?_, ?_, ?_, ?_, ?_⟩
  · exact resultsLater_of_laterLanes rfl fun s => exec_frcp s d a rm la gd
  · exact resultsLater_of_laterLanes rfl fun s => exec_frsq s d a rm la gd
  · exact resultsLater_of_laterLanes rfl fun s => exec_fsqrt s d a rm la gd
  · exact resultsLater_of_laterLanes rfl fun s => exec_fexp2 s d a rm la gd
  · exact resultsLater_of_laterLanes rfl fun s => exec_flog2 s d a rm la gd
  · exact resultsLater_of_laterLanes rfl fun s => exec_fsin s d a rm la gd
  · exact resultsLater_of_laterLanes rfl fun s => exec_fcos s d a rm la gd
  · exact resultsLater_of_laterLanes rfl fun s => exec_ftanh s d a rm la gd

/-- The guard of a vote is its own, whatever its mode. -/
theorem guard_vote (d : Reg) (q : BitVec 3) (m : VMode) (occ : Bool) (la : BitVec 4) (gd : Guard) :
    (issueOf (.vote d q m occ la gd)).guard = gd := by
  cases m <;> rfl

/-- R103 to R107: each cross-lane instruction enters its results. -/
theorem cross_lane : Claims.CrossLane := by
  intro d a b m k sm q vm op ty occ sat excl la gd
  refine ⟨?_, ?_, ?_, ?_, ⟨?_, ?_, ?_⟩, ?_⟩
  · exact resultsLater_of_laterLanes rfl fun s => exec_qswap s d a m la gd
  · exact resultsLater_of_laterLanes rfl fun s => exec_qbcast s d a k la gd
  · refine resultsLater_of_laterLanes rfl fun s => (exec_shfl s d a b sm la gd).trans (congrArg (laterLanes _ · s) ?_)
    funext g l
    simp only [oneReg, noFlag, Group.src]
    cases shflFrom sm (tileWidth g.tilew) (l % tileWidth g.tilew) (g.reg l b.reg.toNat).toNat <;> rfl
  · refine resultsLater_of_laterLanes (guard_vote ..) fun s => (exec_vote s d q vm occ la gd).trans ?_
    cases vm <;> rfl
  · exact resultsLater_of_laterLanes rfl fun s => exec_redadd s d a ty occ sat la gd
  · exact resultsLater_of_laterLanes rfl fun s => exec_redmax s d a ty occ la gd
  · exact resultsLater_of_laterLanes rfl fun s => exec_redmin s d a ty occ la gd
  · exact resultsLater_of_laterLanes rfl fun s => exec_scan s d a op ty occ sat excl la gd

/-! ### Where matrix instructions complete -/

/-- Results on their way to each of some registers in every active lane. -/
def ResultsOn (g : Group) (gd : Guard) (regs : List Nat) (ws : List LWrite) : Prop :=
  ∀ l < 32, g.active gd l = true → ∀ r ∈ regs, ∃ w ∈ ws, w.lane = l ∧ w.loc = .reg r

/-- An instruction whose results come later, and cover some registers, has entered them under its window. -/
theorem entered_of_later {i : Instr} {s t : State} {c sl : Nat} {g : Group} {gd : Guard} {la : BitVec 4} {regs : List Nat}
    {ws : List LWrite} (hla : (issueOf i).la = some la.toNat) (hws : ResultsOn g gd regs ws) (h : Later i s t c sl g ws) :
    ∃ k, t.group c sl = some k ∧ k.pc = g.pc + BitVec.ofNat 32 (4 * (issueOf i).words)
      ∧ ∀ l < 32, g.active gd l = true → ∀ r ∈ regs, ∃ f ∈ k.inflight, f.window = la.toNat
        ∧ ∃ w ∈ f.writes, w.lane = l ∧ w.loc = .reg r := by
  obtain ⟨k, hk, hpass, -, -, -, hin⟩ := h.group
  refine ⟨k, hk, hpass.pc, fun l hl ha r hr => ?_⟩
  obtain ⟨w, hw, hlane, hloc⟩ := hws l hl ha r hr
  obtain ⟨f, hf, -, hwin, hwrites⟩ := hin (List.ne_nil_of_mem hw)
  exact ⟨f, hf, by rw [hwin, hla]; rfl, w, hwrites ▸ hw, hlane, hloc⟩

/-- Results of the active lanes, one for each of `n` registers from `d`, cover these registers. -/
theorem resultsOn_span {g : Group} {gd : Guard} {d n : Nat} {v : Nat → Nat → Word} {fl : Nat → Nat → Flags} :
    ResultsOn g gd ((List.range n).map (d + ·)) ((lanes32.filter (g.active gd)).flatMap fun l =>
      (List.range n).map fun j => { lane := l, loc := .reg (d + j), val := v l j, flags := fl l j }) := by
  intro l hl ha r hr
  obtain ⟨j, hj, rfl⟩ := List.mem_map.1 hr
  refine ⟨_, List.mem_flatMap.2 ⟨l, ?_, List.mem_map.2 ⟨j, hj, rfl⟩⟩, rfl, rfl⟩
  exact List.mem_filter.2 ⟨List.mem_range.2 hl, ha⟩

theorem resultsOn_mxResults {g : Group} {gd : Guard} {d : Reg} {z : Bool} {steps : Nat} {a : Nat → Nat → FVal}
    {w : Nat → Nat → Option FVal} :
    ResultsOn g gd ((List.range 32).map (d.toNat + ·)) (mxResults g gd d z steps a w) :=
  resultsOn_span

/-- Registers of a transposed row (R122). -/
def xposeRegs : XFmt → Nat
  | .b32 => 32 | .bf16 => 16 | .e4m3 => 8 | .e5m2 => 8

theorem length_xposeRow (f : XFmt) (sat : Bool) (rm : RM) (x : Nat → Word) : (xposeRow f sat rm x).length = xposeRegs f := by
  cases f <;> simp [xposeRow, xposeFmt, xposeRegs, fmtWidth, lanes32]

/-- R113, R119 to R122: each matrix instruction enters its results, which cover the registers that it writes. -/
theorem matrix_completes : Claims.MatrixCompletes := by
  intro d a w e af wf nf xf z sat st bsel n cnt off rm la gd
  have results {s : State} {c sl : Nat} {g : Group} (cl : Clause) (hocc : ∀ l < 32, g.occ l = true) (hbusy : s.mxBusy c sl = false) :=
    matrix_results d a w e af wf nf xf z sat st bsel n cnt off rm la gd s c sl g cl hocc hbusy
  refine ⟨?_, ?_, ?_, ?_, ?_, ?_⟩
  · rintro s c sl g cl h ⟨hocc, hbusy⟩
    obtain ⟨hmma, -⟩ := results cl hocc hbusy
    obtain ⟨t, ht, hlater⟩ := hmma h
    exact ⟨t, ht, entered_of_later rfl resultsOn_mxResults hlater⟩
  · rintro s c sl g cl h ⟨hocc, hbusy⟩
    obtain ⟨-, hmmaw, -⟩ := results cl hocc hbusy
    obtain ⟨t, ht, hlater⟩ := hmmaw h
    exact ⟨t, ht, entered_of_later rfl resultsOn_mxResults hlater⟩
  · rintro s c sl g cl h ⟨⟨hocc, hbusy⟩, hmask⟩
    obtain ⟨-, -, hmmasp, -⟩ := results cl hocc hbusy
    obtain ⟨t, ht, hlater⟩ := hmmasp h fun l hl ha j hj => hmask l hl ha j (Nat.le_of_lt_succ hj)
    exact ⟨t, ht, entered_of_later rfl resultsOn_mxResults hlater⟩
  · rintro s c sl g cl h ⟨⟨hocc, hbusy⟩, hal, x, hx, hin⟩
    obtain ⟨-, -, -, hmmas, -⟩ := results cl hocc hbusy
    obtain ⟨t, ht, ws, hlater, -⟩ := hmmas x hx h hal hin
    exact ⟨t, ht, entered_of_later rfl resultsOn_mxResults hlater⟩
  · rintro s c sl g cl h ⟨⟨hocc, hbusy⟩, hal, x, hx, hin⟩
    obtain ⟨-, -, -, -, hldfrag, -⟩ := results cl hocc hbusy
    obtain ⟨t, ht, ws, hlater, -⟩ := hldfrag x hx h hal hin
    exact ⟨t, ht, entered_of_later rfl resultsOn_span hlater⟩
  · rintro s c sl g cl h ⟨hocc, hbusy⟩
    obtain ⟨-, -, -, -, -, hfxpose⟩ := results cl hocc hbusy
    obtain ⟨t, ht, hlater⟩ := hfxpose h
    simp only [length_xposeRow] at hlater
    exact ⟨t, ht, entered_of_later (regs := (List.range (xposeRegs xf)).map (d.toNat + ·)) rfl resultsOn_span hlater⟩

/-- Settles O5, by its three parts. -/
theorem specialAndCrossLane : Obligations.SpecialAndCrossLane := by
  unfold Obligations.SpecialAndCrossLane
  exact ⟨special_functions, cross_lane, matrix_completes⟩

end Sys2Proof.Machine
end

section

/-!
# Fetching code (R48, R49, R323, R324)

A read of main memory may correct a block in the array and counts what it meets, but every later read finds the bytes that it would have
found before. So a fetch of a code word finds the word that memory holds, or an earlier one of the launch.
-/

namespace Sys2Proof.Machine

/-! ### What reads of main memory keep -/

/-- A state without the array of main memory and its marks, the stacks' rows and counts, the notices, and the count of free choices. -/
def State.offArray (s : State) : State :=
  { s with mem := [], flaws := [], poison := [], notices := [], hbms := [], choices := 0 }

/-- Blocks of the array read as before, and nothing else has changed that `offArray` keeps. -/
structure Reread (s t : State) : Prop where
  others : t.offArray = s.offArray
  bytes  : ∀ b, t.arrayBytes b = s.arrayBytes b
  lost   : ∀ b, t.lost b = s.lost b

namespace Reread

variable {s t u : State}

theorem refl (s : State) : Reread s s := ⟨rfl, fun _ => rfl, fun _ => rfl⟩

theorem trans (h : Reread s t) (k : Reread t u) : Reread s u :=
  ⟨k.others.trans h.others, fun b => (k.bytes b).trans (h.bytes b), fun b => (k.lost b).trans (h.lost b)⟩

theorem cores_eq (h : Reread s t) : t.cores = s.cores := (congrArg State.cores h.others :)
theorem sp_eq (h : Reread s t) : t.sp = s.sp := (congrArg State.sp h.others :)
theorem polders_eq (h : Reread s t) : t.polders = s.polders := (congrArg State.polders h.others :)
theorem turns_eq (h : Reread s t) : t.turns = s.turns := (congrArg State.turns h.others :)
theorem cur_eq (h : Reread s t) : t.cur = s.cur := (congrArg State.cur h.others :)

theorem view (h : Reread s t) (b : Nat) : t.view b = s.view b := by
  have hq : t.queued b = s.queued b := (congrArg (fun x : State => x.queued b) h.others :)
  simp only [State.view, hq, h.bytes, h.lost]

theorem sameReads (h : Reread s t) : SameReads s t := fun a => by simp only [State.coherent, h.view]

theorem launchOf (h : Reread s t) (c : Nat) (g : Group) : t.launchOf c g = s.launchOf c g :=
  (congrArg (fun x : State => x.launchOf c g) h.others :)

theorem oldWords (h : Reread s t) (l : Launch) (pa : Nat) : t.oldWords l pa = s.oldWords l pa := by
  have hq : t.queued (pa / 64) = s.queued (pa / 64) := (congrArg (fun x : State => x.queued (pa / 64)) h.others :)
  have hp : t.past = s.past := (congrArg State.past h.others :)
  simp only [State.oldWords, hq, hp, h.bytes, h.lost]

end Reread

theorem reread_openRow (s : State) (b : Nat) : Reread s (s.openRow b) := by
  unfold State.openRow State.activate
  split
  · dsimp only
    split
    · exact .refl s
    · exact ⟨rfl, fun _ => rfl, fun _ => rfl⟩
  · exact .refl s

theorem State.blockCheck_congr {s t : State} {b : Nat} (h : tget [] t.flaws b = tget [] s.flaws b) :
    t.blockCheck b = s.blockCheck b := by
  unfold State.blockCheck; rw [h]

/-- A lost block is marked, and stays lost. -/
theorem lost_marked {s t : State} {b : Nat} (hb : s.lost b = true) (hflaws : t.flaws = s.flaws)
    (hpoison : t.poison = if s.poison.contains b then s.poison else s.poison ++ [b]) (i : Nat) : t.lost i = s.lost i := by
  have hcheck : t.blockCheck i = s.blockCheck i := State.blockCheck_congr (by rw [hflaws])
  simp only [State.lost, hcheck, hpoison]
  split
  · rfl
  · by_cases hi : i = b
    · subst hi
      simpa [State.lost] using hb
    · simp [hi]

/-- A block of the array that has been written back as a read finds it reads as before. -/
theorem bytes_repaired {s t : State} {b : Nat} (hmem : t.mem = mwrites s.mem (64 * b) (s.arrayBytes b))
    (hflaws : t.flaws = tdel s.flaws b) (i : Nat) : t.arrayBytes i = s.arrayBytes i := by
  have hlen : (s.arrayBytes b).length = 64 := by simp [State.arrayBytes, ErrPat.length_apply]
  by_cases hi : i = b
  · subst hi
    have hclean : tget [] t.flaws i = [] := by simp [hflaws, tget]
    have hread : mreads t.mem (64 * i) 64 = s.arrayBytes i := by
      rw [hmem, ← hlen]
      exact mreads_mwrites ..
    unfold State.arrayBytes
    simp only [State.blockCheck_clean hclean, hclean]
    exact (if_pos rfl).trans hread
  · have hflaw : tget [] t.flaws i = tget [] s.flaws i := by simp [hflaws, tget, hi]
    have hread : mreads t.mem (64 * i) 64 = mreads s.mem (64 * i) 64 :=
      mreads_congr fun j hl hr => by rw [hmem, mget_mwrites, if_neg (by omega)]
    simp only [State.arrayBytes, State.blockCheck_congr hflaw, hflaw, hread]

/-- A block that is not lost is not lost once it is repaired. -/
theorem lost_repaired {s t : State} {b : Nat} (hb : s.lost b = false) (hpoison : t.poison = s.poison)
    (hflaws : t.flaws = tdel s.flaws b) (i : Nat) : t.lost i = s.lost i := by
  by_cases hi : i = b
  · subst hi
    have hclean : tget [] t.flaws i = [] := by simp [hflaws, tget]
    have hmark : i ∉ s.poison := by
      simp only [State.lost, Bool.or_eq_false_iff] at hb
      simpa using hb.1
    rw [hb, State.lost_good hclean (hpoison ▸ hmark)]
  · have hflaw : tget [] t.flaws i = tget [] s.flaws i := by simp [hflaws, tget, hi]
    simp only [State.lost, State.blockCheck_congr hflaw, hpoison]

/-- The check of a block marks it, repairs it, or does nothing. -/
theorem reread_checkBlock (s : State) (b : Nat) : Reread s (s.checkBlock b) := by
  unfold State.checkBlock
  split
  · split
    · next hb => exact ⟨rfl, fun _ => rfl, lost_marked hb rfl rfl⟩
    · next hb =>
      split
      · exact .refl s
      · exact ⟨rfl, bytes_repaired rfl rfl, lost_repaired (by simpa using hb) rfl rfl⟩
  · exact .refl s

theorem reread_readPa (s : State) (pa len : Nat) : Reread s (s.readPa pa len).2.2 :=
  List.foldlRecOn (Machine.blocksOf pa len) _ (motive := Reread s) (.refl s) fun _ ht b _ =>
    ht.trans ((reread_openRow _ b).trans (reread_checkBlock _ b))

/-! ### The word that a fetch finds -/

/-- Where memory changed under a launch, a fetch finds the new word or an old one, and uses up one free choice. -/
theorem State.oldOrNew_spec (s : State) (c : Nat) (g : Group) (pa : Nat) (w : Word) :
    ((s.oldOrNew c g pa w).1 = w ∨ (s.oldOrNew c g pa w).1 ∈ s.oldWords (s.launchOf c g) pa) ∧ Reread s (s.oldOrNew c g pa w).2 := by
  unfold State.oldOrNew
  dsimp only
  split
  · exact ⟨.inl rfl, .refl s⟩
  · refine ⟨?_, rfl, fun _ => rfl, fun _ => rfl⟩
    rw [List.getD_eq_getElem _ _ (by simpa using Nat.mod_lt _ (Nat.succ_pos _))]
    rcases List.mem_cons.1 (List.getElem_mem _) with h | h
    · exact .inl h
    · exact .inr (List.mem_filter.1 (List.mem_eraseDups.1 h)).1

/-- A code word in main memory that can be fetched at once is fetched: the word there or an old one of the launch. -/
theorem fetchWord_of_codeAt {s : State} {c sl : Nat} {g : Group} {pc w : Word} {olds : List Word}
    (hsram : (s.launchOf c g).sram = false) (h : CodeAt s c g pc w olds) :
    ∃ v t, s.fetchWord c sl g pc = (.word v, t) ∧ (v = w ∨ v ∈ olds) ∧ Reread s t := by
  obtain ⟨hva, e, hfind, hperm, havail, ⟨u, hread⟩, rfl⟩ := h
  have hre := reread_readPa s (e.frame + ((s.launchOf c g).codeBase + pc.toNat - e.base)) 4
  rw [hread] at hre
  obtain ⟨hv, hnew⟩ := u.oldOrNew_spec c g (e.frame + ((s.launchOf c g).codeBase + pc.toNat - e.base)) w
  rw [hre.launchOf, hre.oldWords] at hv
  refine ⟨_, _, ?_, hv, hre.trans hnew⟩
  have hw : BitVec.ofNat 32 (ofLe (toLe 4 w.toNat)) = w := by
    rw [ofLe_toLe, Nat.mod_eq_of_lt (by simpa using w.isLt), BitVec.ofNat_toNat, BitVec.setWidth_eq]
  simp only [State.fetchWord, hsram, State.lookup, hfind, hperm, havail, hread, hw, if_neg (Nat.not_le.2 hva), Bool.false_eq_true,
    if_false, if_true, ne_eq, not_true]

/-- The words of the service image are fetched from boot SRAM (R184). -/
theorem fetchWord_of_sram {s : State} {c sl : Nat} {g : Group} {pc : Word} (hsram : (s.launchOf c g).sram = true) :
    s.fetchWord c sl g pc = (.word (mget32 s.boot.sram ((s.launchOf c g).codeBase + pc.toNat)), s) := by
  simp [State.fetchWord, hsram]

end Sys2Proof.Machine
end

section

/-!
# A step runs the decoded instruction (R48, R50, R268)
-/

namespace Sys2Proof.Machine

/-! ### An agent's turn -/

/-- An agent that issues in this cycle runs the instruction of its turn. -/
theorem step_of_turns {s t : State} {a : Agent} {rest : List Agent} {i : Instr} (h : s.turns = a :: rest)
    (ht : State.turn { s with turns := rest, cur := a } = .run i t) : step s = exec i t := by
  simp only [step, h, runAgent, ht]

/-- A group that is not stalled is not parked and waits for nothing. -/
theorem Group.free_of_ready {g : Group} (h : g.stalled = false) : g.parked = false ∧ g.waiting = .none := by
  simp only [Group.stalled, Bool.or_eq_false_iff, decide_eq_false_iff_not, ne_eq, not_not] at h
  exact h.1

/-- A group that is not stalled does not wait for room: its turn finds it as it is. -/
theorem roomTurn_of_ready {s : State} {c sl : Nat} {g : Group} (hg : s.group c sl = some g) (hready : g.stalled = false) :
    s.roomTurn c sl = s := by
  obtain ⟨-, hwaiting⟩ := Group.free_of_ready hready
  simp [State.roomTurn, hg, hwaiting]

/-- A group inside a clause runs what the words at its PC decode to. -/
theorem groupTurn_of_clause {s : State} {c sl : Nat} {g : Group} {cl : Clause} {i : Instr} (hg : s.group c sl = some g)
    (hready : g.stalled = false) (hocc : g.occs ≠ []) (hcl : g.clause = some cl)
    (hdec : decodeVilesk (cl.at' g.pc).1 (cl.at' g.pc).2 = some i) :
    s.groupTurn c sl = .run i { s with ir := (cl.at' g.pc).1 } := by
  simp [State.groupTurn, roomTurn_of_ready hg hready, hg, hready, hocc, hcl, hdec]

/-- A group at a header that nothing stops runs the header that it fetches. -/
theorem groupTurn_of_header {s t : State} {c sl : Nat} {g : Group} {v : Word} {h : Header} (hg : s.group c sl = some g)
    (hready : g.stalled = false) (hocc : g.occs ≠ []) (hcl : g.clause = none) (hstop : s.stopping c g = false)
    (hevict : s.evictsNow c g = false) (hfetch : s.fetchWord c sl g g.pc = (.word v, t)) (hdec : decodeHeader v = some h) :
    s.groupTurn c sl = .run (.clauseHeader h) { t with ir := v } := by
  simp [State.groupTurn, roomTurn_of_ready hg hready, hg, hready, hocc, hcl, hstop, hevict, hfetch, hdec]

/-- A walker runs the word of its routine at its PC. -/
theorem walkerTurn_of_word {s : State} {d w : Nat} {x : Walk} {fr : Frame} {i : Instr} (hcur : s.cur = .walker d w)
    (hx : tfind (s.die d).walks w = some x) (hfr : x.frames.head? = some fr) (hread : x.read = none)
    (hcycles : x.cycles < walkLimit s x.polder) (hpc : fr.pc ≤ 1023) (hdec : decodeWalker (mget32 x.routine (4 * fr.pc)) = some i) :
    s.walkerTurn d w = .run i { s with ir := mget32 x.routine (4 * fr.pc) } := by
  obtain ⟨frs, hframes⟩ := List.head?_eq_some_iff.1 hfr
  have hnow : s.walkNow = some (d, w, x, fr) := by simp [State.walkNow, hcur, hx, hframes, hread]
  simp [State.walkerTurn, hnow, Nat.not_le.2 hcycles, Nat.not_lt.2 hpc, hdec]

/-- A bank item runs the word of its program at its PC. -/
theorem itemTurn_of_word {s : State} {r pc n : Nat} {run : BankRun} {x : BankItem} {ld : BankLoad} {i : Instr}
    (hrun : tfind s.runs r = some run) (hx : tfind run.items (itemKey pc n) = some x) (hended : x.ended = false)
    (hld : tfind run.loads x.stack = some ld) (hdec : decodeBank (ld.prog.getD x.pc 0) = some i) :
    s.itemTurn r pc n = .run i { s with ir := ld.prog.getD x.pc 0 } := by
  simp only [State.itemTurn, hrun, hx, hended, BankRun.load, hld, Option.map_some, Option.getD_some, hdec, Bool.false_eq_true,
    if_false]

/-! ### The next move of the schedule -/

/-- Where no agent issues, the next move runs once the clock has gone on. -/
theorem step_of_agenda {s : State} {dt : Nat} {a : Act} {moves : List (Nat × Act)} (ht : s.turns = []) (ha : s.agenda = (dt, a) :: moves)
    (hp : s.powered = true ∨ a = .ev .moduleReset) : step s = runAct a { s with agenda := moves, clock := s.clock + dt } := by
  have hp' : (s.powered || decide (a = .ev .moduleReset)) = true := by simpa using hp
  simp [step, ht, State.nextMove, ha, hp']

/-! ### Fetches on a group's turn -/

/-- What a fetch finds does not depend on whose turn it is. -/
theorem CodeAt.onTurn {s : State} {c : Nat} {g : Group} {pc w : Word} {olds : List Word} (h : CodeAt s c g pc w olds)
    (rest : List Agent) (a : Agent) : CodeAt { s with turns := rest, cur := a } c g pc w olds := by
  obtain ⟨hva, e, hfind, hperm, havail, ⟨u, hread⟩, holds⟩ := h
  refine ⟨hva, e, hfind, hperm, havail, ⟨_, Prod.ext ?_ (Prod.ext ?_ rfl)⟩, holds⟩
  · exact (congrArg Prod.fst hread :)
  · exact (congrArg (fun r => r.2.1) hread :)

/-- Settles O27, agent by agent and move by move. -/
theorem stepRunsDecoded : Obligations.StepRunsDecoded := by
  unfold Obligations.StepRunsDecoded
  intro s rest
  refine ⟨?_, ?_, ?_, ?_, ?_, ?_, ?_, ?_⟩
  · intro c sl g cl i hturns hg hready hocc hcl k hdec
    exact step_of_turns hturns (groupTurn_of_clause hg hready hocc hcl hdec)
  · intro c sl g h hturns hg hready hocc hcl hstop hevict hsram w hdec
    exact step_of_turns hturns (groupTurn_of_header (s := { s with turns := rest, cur := .group c sl }) hg hready hocc hcl
      hstop hevict (fetchWord_of_sram hsram) hdec)
  · intro c sl g w olds hturns hg hready hocc hcl hstop hevict hsram hcode
    obtain ⟨v, t, hfetch, hv, hre⟩ := fetchWord_of_codeAt (sl := sl) (by exact hsram) (hcode.onTurn rest (.group c sl))
    refine ⟨v, hv, fun h hdec => ⟨t, ?_, hre.cores_eq, hre.sameReads, hre.sp_eq, hre.polders_eq⟩⟩
    have hstep := step_of_turns hturns (groupTurn_of_header hg hready hocc hcl hstop hevict hfetch hdec)
    have hrest : t.turns = rest := hre.turns_eq
    have hcur : t.cur = .group c sl := hre.cur_eq
    rw [hstep, ← hrest, ← hcur]
  · intro d w x fr i hturns hx hfr hread hcycles hpc hdec
    exact step_of_turns hturns (walkerTurn_of_word rfl hx hfr hread hcycles hpc hdec)
  · intro r pc n run x i hturns hrun hx hended ld hld hdec
    exact step_of_turns hturns (itemTurn_of_word hrun hx hended hld hdec)
  · intro dt i moves hturns hagenda hpower
    exact step_of_agenda hturns hagenda (hpower.imp_right (congrArg Act.ev))
  · intro dt c sl id moves hturns hagenda hpower
    exact step_of_agenda hturns hagenda (.inl hpower)
  · intro dt p moves hturns hagenda hpower
    exact step_of_agenda hturns hagenda (.inl hpower)

end Sys2Proof.Machine
end

section

/-!
# Clause headers (R50, R58, R146, R340)

A header with a wait starts a run, its clause's words are fetched, and then the wait is performed: with no batch outstanding the group goes
on at once.
-/

namespace Sys2Proof.Machine

/-! ### What a wait leaves of its group -/

/-- A group that stands where it stood and holds in its lanes what it held, but for the marks of registers and where it is in its run. -/
structure SameBody (g k : Group) : Prop where
  rest  : k.rest = g.rest
  pc    : k.pc = g.pc
  fstat : k.fstat = g.fstat
  lanes : ∀ l < 32, (k.lane l).rest = (g.lane l).rest
  raw   : ∀ l < 32, ∀ r, k.raw l r = g.raw l r
  rawP  : ∀ l < 32, ∀ p, k.rawPred l p = g.rawPred l p

theorem SameBody.refl (g : Group) : SameBody g g := ⟨rfl, rfl, rfl, fun _ _ => rfl, fun _ _ _ => rfl, fun _ _ _ => rfl⟩

theorem SameBody.run (g : Group) (n : Nat) : SameBody g { g with run := n } :=
  ⟨rfl, rfl, rfl, fun _ _ => rfl, fun _ _ _ => rfl, fun _ _ _ => rfl⟩

theorem SameBody.trans {g k h : Group} (x : SameBody g k) (y : SameBody k h) : SameBody g h where
  rest := y.rest.trans x.rest
  pc := y.pc.trans x.pc
  fstat := y.fstat.trans x.fstat
  lanes l hl := (y.lanes l hl).trans (x.lanes l hl)
  raw l hl r := (y.raw l hl r).trans (x.raw l hl r)
  rawP l hl p := (y.rawP l hl p).trans (x.rawP l hl p)

/-- The group of which a wait is over. -/
def Group.resumed (g : Group) (done : Nat → Bool) (cs : List Cls) : Group := { g.unpend done cs with waiting := .none }

theorem lane_resumed (g : Group) (done : Nat → Bool) (cs : List Cls) {l : Nat} (hl : l < 32) : (g.resumed done cs).lane l
    = { g.lane l with pend := (g.lane l).pend.filter fun e => !(cs.contains e.2.cls && done e.2.cmd) } :=
  lane_mapLanes g (fun _ ln => { ln with pend := ln.pend.filter fun e => !(cs.contains e.2.cls && done e.2.cmd) }) hl

theorem occs_resumed (g : Group) (done : Nat → Bool) (cs : List Cls) : (g.resumed done cs).occs = g.occs := by
  refine List.filter_congr fun l hl => ?_
  rw [Group.occ, lane_resumed g done cs (List.mem_range.1 hl)]
  rfl

/-- The end of a wait changes marks of registers alone. -/
theorem sameBody_resumed {g : Group} (hw : g.waiting = .none) (done : Nat → Bool) (cs : List Cls) : SameBody g (g.resumed done cs) := by
  refine ⟨congrArg (fun w => { g.rest with waiting := w }) hw.symm, rfl, rfl, fun l hl => ?_, fun l hl r => ?_, fun l hl p => ?_⟩
  · rw [lane_resumed g done cs hl]; rfl
  · rw [Group.raw, lane_resumed g done cs hl]; rfl
  · rw [Group.rawPred, lane_resumed g done cs hl]; rfl

/-! ### A wait with no batch outstanding (R144, R146) -/

/-- No batch of the group is open or outstanding, and no completion fault is pending. -/
structure Group.NoBatches (g : Group) : Prop where
  opened : g.openB = []
  closed : g.closedB = []
  faults : g.pendF = []

theorem State.applyPending_nil {s : State} {c sl : Nat} {g : Group} (hg : s.group c sl = some g) (hp : g.pendF = []) (cs : List Cls)
    (resume : Word) : s.applyPending c sl cs resume = s := by
  simp [State.applyPending, hg, hp]

/-- A header's wait is satisfied where no batch is open or outstanding. -/
theorem State.wake_header {s : State} {c sl n : Nat} {g : Group} {cs : List Cls} (hg : s.group c sl = some g)
    (hw : g.waiting = .header cs n) (hb : g.NoBatches) (hstop : s.stopping c g = false) :
    s.wake c sl = s.setGroup c sl (g.resumed s.batchDone cs) := by
  have hclose : (cs.filter g.canClose).foldl Group.closeBatch g = g :=
    List.foldlRecOn _ _ (motive := (· = g)) rfl fun t ht k _ => by rw [ht, Group.closeBatch_nil k hb.opened]
  have hdone : cs.all (fun k => g.canClose k && decide (g.outstanding k ≤ n)) = true :=
    List.all_eq_true.2 fun k _ => by simp [Group.canClose, Group.outstanding, hb.opened, hb.closed]
  unfold State.wake
  simp only [hg, hstop, hw, Bool.false_and, Bool.false_eq_true, if_false, hclose, hdone, if_true]
  exact State.applyPending_nil (g := g.resumed s.batchDone cs) (State.group_setGroup_same ..) hb.faults _ _

/-- A group that waits for nothing is not woken. -/
theorem State.wake_none {s : State} {c sl : Nat} {g : Group} (hg : s.group c sl = some g) (hw : g.waiting = .none) :
    s.wake c sl = s := by
  simp [State.wake, hg, hw]

theorem State.settleRounds_idle {s : State} {c sl : Nat} {g : Group} (hg : s.group c sl = some g) (hw : g.waiting = .none)
    (hc : g.closedB = []) (n : Nat) : State.settleRounds c sl n s = s := by
  induction n with
  | zero => rfl
  | succ n ih => rw [State.settleRounds, State.popAll_nil hg hc, State.wake_none hg hw, ih]

/-- A group that holds threads keeps its slot. -/
theorem State.reap_occupied {s : State} {c sl : Nat} {g : Group} (hg : s.group c sl = some g) (ho : g.occs ≠ []) : s.reap c sl = s := by
  simp [State.reap, hg, ho]

theorem State.settleBatches_header {s : State} {c sl n : Nat} {g : Group} {cs : List Cls} (hg : s.group c sl = some g)
    (hw : g.waiting = .header cs n) (hb : g.NoBatches) (hstop : s.stopping c g = false) (hocc : g.occs ≠ []) :
    s.settleBatches c sl = s.setGroup c sl (g.resumed s.batchDone cs) := by
  have hk := State.group_setGroup_same s c sl (g.resumed s.batchDone cs)
  have hocc' : (g.resumed s.batchDone cs).occs ≠ [] := by rwa [occs_resumed]
  unfold State.settleBatches
  rw [State.settleRounds, State.popAll_nil hg hb.closed, State.wake_header hg hw hb hstop, State.settleRounds_idle hk rfl hb.closed]
  exact State.reap_occupied hk hocc'

/-! ### The group enters its clause -/

/-- The group stands at the first instruction of its clause. -/
def Group.inClause (g : Group) (h : Header) (pc : Word) (ws : List Word) : Group :=
  { g with clause := some { hdr := h, hdrPc := pc, done := 0, words := ws }, pc := pc + 4 }

theorem State.group_enterClause {s : State} {c sl : Nat} {g : Group} (hg : s.group c sl = some g) (h : Header) (pc : Word)
    (ws : List Word) : (s.enterClause c sl h pc ws).group c sl = some (g.inClause h pc ws) :=
  State.group_onGroup hg _

theorem State.stopping_eq (s : State) (c : Nat) (g : Group) :
    s.stopping c g = ((s.block c g.bslot).map Block.stopping).getD false := by
  unfold State.stopping; cases s.block c g.bslot <;> rfl

theorem OwnGroup.stopping {s t : State} {c sl : Nat} (h : OwnGroup s t c sl) (d : Nat) (g : Group) :
    t.stopping d g = s.stopping d g := by
  rw [State.stopping_eq, State.stopping_eq, h.block_map Block.stopping fun _ => rfl]

/-- A header's wait that names no class, or finds no batch, lets the group enter its clause. -/
theorem State.headerWait_enters {s : State} {c sl : Nat} {g : Group} {h : Header} (ws : List Word) (hg : s.group c sl = some g)
    (hready : g.stalled = false) (hocc : g.occs ≠ []) (hstop : s.stopping c g = false) (hwait : headerWaits h = [] ∨ g.NoBatches) :
    OwnGroup s (s.headerWait c sl h g.pc ws) c sl
      ∧ ∃ k, (s.headerWait c sl h g.pc ws).group c sl = some (k.inClause h g.pc ws) ∧ SameBody g k := by
  unfold State.headerWait
  split
  · exact ⟨.onGroup .., g, State.group_enterClause hg .., .refl g⟩
  · next hne =>
    obtain ⟨hpark, hw⟩ := Group.free_of_ready hready
    obtain ⟨hopen, hclosed, hfaults⟩ := hwait.resolve_left hne
    let w : Group := { g with waiting := .header (headerWaits h) h.wthresh.toNat }
    obtain ⟨u, hu⟩ : ∃ u, u = s.onGroup c sl fun g => { g with waiting := .header (headerWaits h) h.wthresh.toNat } := ⟨_, rfl⟩
    let k := w.resumed u.batchDone (headerWaits h)
    have hown : OwnGroup s u c sl := by rw [hu]; exact .onGroup ..
    have hsettle : u.settleBatches c sl = u.setGroup c sl k :=
      State.settleBatches_header (g := w) (by rw [hu]; exact State.group_onGroup hg _) rfl ⟨hopen, hclosed, hfaults⟩
        ((hown.stopping c g).trans hstop) hocc
    have hk : (u.setGroup c sl k).group c sl = some k := State.group_setGroup_same ..
    have hnext : (decide (k.waiting = .none) && !k.parked && decide (k.pc = g.pc)) = true := by
      simp [show k.waiting = .none from rfl, show k.parked = false from hpark, show k.pc = g.pc from rfl]
    rw [← hu, hsettle]
    simp only [hk, hnext, if_true]
    exact ⟨hown.trans ((OwnGroup.setGroup ..).trans (.onGroup ..)), k, State.group_enterClause hk .., sameBody_resumed hw _ _⟩

/-- The body of a group that has entered its clause is the one that met the header. -/
theorem entered_of_body {s t : State} {c sl : Nat} {g k : Group} {h : Header} {ws : List Word} (hown : OwnGroup s t c sl)
    (hk : t.group c sl = some (k.inClause h g.pc ws)) (hb : SameBody g k) : Entered s t c sl g h ws :=
  ⟨hown, _, hk, rfl, rfl, hb.rest, hb.fstat, hb.lanes, hb.raw, hb.rawP⟩

/-! ### The words of a clause -/

/-- The words of the service image are fetched from boot SRAM one by one (R184). -/
theorem fetchWords_of_sram {s : State} {c sl : Nat} {g : Group} (hsram : (s.launchOf c g).sram = true) (n : Nat) (pc : Word) :
    s.fetchWords c sl g (pc + 4) n = (.words ((List.range n).map fun k =>
      mget32 s.boot.sram ((s.launchOf c g).codeBase + (pc + BitVec.ofNat 32 (4 * (k + 1))).toNat)), s) := by
  induction n generalizing pc with
  | zero => rfl
  | succ n ih =>
    have hpc (k : Nat) : pc + 4 + BitVec.ofNat 32 (4 * (k + 1)) = pc + BitVec.ofNat 32 (4 * (k + 1 + 1)) := by
      rw [BitVec.add_assoc, Nat.mul_succ 4 (k + 1), BitVec.ofNat_add, BitVec.add_comm 4]
      rfl
    simp only [State.fetchWords, fetchWord_of_sram hsram, ih, hpc, List.range_succ_eq_map, List.map_cons, List.map_map,
      Function.comp_def, Nat.succ_eq_add_one]
    rfl

theorem codeWords_one {h : Header} (hc : h.count = 1) (hw : h.width.getLsbD 0 = false) : codeWords h = 1 := by
  simpa [codeWords, hc] using hw

/-! ### The header -/

/-- The group as its header's run begins: a header with a wait starts a run (R58). -/
def Group.atHeader (g : Group) (h : Header) : Group := { g with run := if h.wclass = 0 then g.run else 0 }

theorem State.startRun_spec {s : State} {c sl : Nat} {g : Group} (h : Header) (hg : s.group c sl = some g) :
    OwnGroup s (s.startRun c sl h) c sl ∧ (s.startRun c sl h).group c sl = some (g.atHeader h) := by
  unfold State.startRun Group.atHeader
  simp only [hg]
  by_cases hw : h.wclass = 0
  · simp only [hw, if_true, ne_eq, not_true, decide_false, Bool.false_and, Bool.false_eq_true, if_false]
    exact ⟨.refl s c sl, hg⟩
  · by_cases hr : g.run = 0
    · simp only [hw, hr, if_false, ne_eq, not_true, not_false_eq_true, decide_false, Bool.and_false, Bool.false_eq_true]
      exact ⟨.refl s c sl, by rw [hg, ← hr]⟩
    · simp only [hw, hr, if_false, ne_eq, not_false_eq_true, decide_true, Bool.and_self, if_true]
      exact ⟨.endRun s c sl, State.group_endRun hg⟩

/-- What a group must be for a header to act on it. -/
structure MeetsHeader (s : State) (c sl : Nat) (g : Group) : Prop where
  cur      : s.cur = .group c sl
  group    : s.group c sl = some g
  ready    : g.stalled = false
  clause   : g.clause = none
  occupied : g.occs ≠ []
  running  : s.stopping c g = false

/-- A header whose run would pass 24 instructions is illegal (R58, R314). -/
theorem exec_clauseHeader_runlen {s : State} {c sl : Nat} {g : Group} {h : Header} (hm : MeetsHeader s c sl g) (hw : h.wclass = 0)
    (hrun : 24 < g.run + h.count.toNat) : exec (.clauseHeader h) s = .next (s.takeFault c sl
      { code := 1, cause := 2, lanes := g.occMask, addr := g.pc.setWidth 64, aux := s.ir } noPc) := by
  have hstart : s.startRun c sl h = s := by simp [State.startRun, hm.group, hw]
  rw [exec_clauseHeader]
  simp [execClauseHeader, hm.cur, hm.group, hm.ready, hm.clause, hm.occupied, hstart, hm.running, hrun]

/-- A header whose run fits fetches the words of its clause, and then its wait is performed (R50, R340). -/
theorem exec_clauseHeader_fits {s t : State} {c sl : Nat} {g : Group} {h : Header} {ws : List Word} (hm : MeetsHeader s c sl g)
    (hrun : (g.atHeader h).run + h.count.toNat ≤ 24)
    (hfetch : (s.startRun c sl h).fetchWords c sl (g.atHeader h) (g.pc + 4) (codeWords h) = (.words ws, t)) :
    exec (.clauseHeader h) s = .next (t.headerWait c sl h g.pc ws) := by
  obtain ⟨hown, hstart⟩ := State.startRun_spec h hm.group
  have hstop : (s.startRun c sl h).stopping c (g.atHeader h) = false := (hown.stopping c g).trans hm.running
  have hpc : (g.atHeader h).pc = g.pc := rfl
  rw [exec_clauseHeader]
  simp only [execClauseHeader, hm.cur, hm.group, hm.ready, hm.clause, hm.occupied, hstart, hstop, hpc, hfetch, Option.isSome_none,
    Option.getD_some, Bool.or_self, Bool.and_false, decide_false, Bool.false_eq_true, if_false, gt_iff_lt, if_neg (Nat.not_lt.2 hrun)]

theorem headerWaits_none {h : Header} (hw : h.wclass = 0) : headerWaits h = [] := by
  simp only [headerWaits, hw]; rfl

/-- A clause of the service image is entered with the words of boot SRAM. -/
theorem clauseHeader_of_sram {s : State} {c sl : Nat} {g : Group} {h : Header} (hm : MeetsHeader s c sl g)
    (hrun : (g.atHeader h).run + h.count.toNat ≤ 24) (hwait : h.wclass = 0 ∨ g.NoBatches) (hsram : (s.launchOf c g).sram = true) :
    Completes (.clauseHeader h) s fun t => Entered s t c sl g h ((List.range (codeWords h)).map fun k =>
      mget32 s.boot.sram ((s.launchOf c g).codeBase + (g.pc + BitVec.ofNat 32 (4 * (k + 1))).toNat)) := by
  obtain ⟨hown, hstart⟩ := State.startRun_spec h hm.group
  have hlaunch : (s.startRun c sl h).launchOf c (g.atHeader h) = s.launchOf c g := hown.launchOf c g
  have hboot : (s.startRun c sl h).boot = s.boot := (congrArg State.boot hown.others :)
  have hfetch := fetchWords_of_sram (sl := sl) (by rw [hlaunch]; exact hsram) (codeWords h) g.pc
  rw [hlaunch, hboot] at hfetch
  have hclass : headerWaits h = [] ∨ (g.atHeader h).NoBatches :=
    hwait.imp headerWaits_none fun hb => ⟨hb.opened, hb.closed, hb.faults⟩
  obtain ⟨hent, k, hk, hbody⟩ := State.headerWait_enters _ hstart hm.ready hm.occupied ((hown.stopping c g).trans hm.running) hclass
  exact ⟨_, exec_clauseHeader_fits hm hrun hfetch, entered_of_body (hown.trans hent) hk ((SameBody.run g _).trans hbody)⟩

/-- A clause of one word in main memory is entered with that word, or an earlier one of the launch. -/
theorem clauseHeader_of_codeAt {s : State} {c sl : Nat} {g : Group} {h : Header} {w : Word} {olds : List Word}
    (hm : MeetsHeader s c sl g) (hrun : g.run + h.count.toNat ≤ 24) (hw : h.wclass = 0) (hwords : codeWords h = 1)
    (hsram : (s.launchOf c g).sram = false) (hcode : CodeAt s c g (g.pc + 4) w olds) :
    Completes (.clauseHeader h) s fun t => ∃ (u : State) (v : Word),
      (v = w ∨ v ∈ olds) ∧ u.cores = s.cores ∧ SameReads s u ∧ u.sp = s.sp ∧ Entered u t c sl g h [v] := by
  have hstart : s.startRun c sl h = s := by simp [State.startRun, hm.group, hw]
  have hat : g.atHeader h = g := by simp [Group.atHeader, hw]
  obtain ⟨v, u, hfetch, hv, hre⟩ := fetchWord_of_codeAt (sl := sl) hsram hcode
  have hwordsAt : (s.startRun c sl h).fetchWords c sl (g.atHeader h) (g.pc + 4) (codeWords h) = (.words [v], u) := by
    simp only [hstart, hat, hwords, State.fetchWords, hfetch]
  have hgroup : u.group c sl = some g := by simpa only [State.group, State.core, hre.cores_eq] using hm.group
  have hstop : u.stopping c g = false := by simpa only [State.stopping, State.block, State.core, hre.cores_eq] using hm.running
  obtain ⟨hent, k, hk, hbody⟩ := State.headerWait_enters [v] hgroup hm.ready hm.occupied hstop (.inl (headerWaits_none hw))
  exact ⟨_, exec_clauseHeader_fits hm (by rw [hat]; exact hrun) hwordsAt, u, v, hv, hre.cores_eq, hre.sameReads, hre.sp_eq,
    entered_of_body hent hk hbody⟩

/-- The first half of O28. -/
theorem clause_headers : Claims.ClauseHeaders := by
  intro h s c sl g ws run l hcur hg hready hcl hocc hstop
  have hm : MeetsHeader s c sl g := ⟨hcur, hg, hready, hcl, hocc, hstop⟩
  refine ⟨fun hrun hw => ?_, fun hrun hwait hsram hws => ?_, fun hrun hw hcount hwidth hsram w olds hcode => ?_⟩
  · exact exec_clauseHeader_runlen hm hw (by simpa [run, hw] using hrun)
  · subst hws
    exact clauseHeader_of_sram hm hrun (hwait.imp_right fun ⟨ho, hc, hf⟩ => ⟨ho, hc, hf⟩) hsram
  · exact clauseHeader_of_codeAt hm (by simpa [run, hw] using hrun) hw (codeWords_one hcount hwidth) hsram hcode

end Sys2Proof.Machine
end

section

/-!
# Issue cycles, and the arrival of results (R36, R60, R61, R222, R255)
-/

namespace Sys2Proof.Machine

/-! ### Groups that begin to wait for room (R36) -/

/-- A slot's turn as the groups of a sub-core that find no room begin to wait. -/
def State.roomWait (c sub : Nat) (s : State) (i : Nat) : State :=
  match s.group c (16 * sub + i) with
  | some g =>
    if g.stalled || g.occs = [] then s
    else match s.roomNeed c (16 * sub + i) g with
      | some sizes => s.awaitRoom c (16 * sub + i) g sizes
      | none => s
  | none => s

theorem State.roomWaits_eq (s : State) (c sub : Nat) : s.roomWaits c sub = (List.range 16).foldl (State.roomWait c sub) s := rfl

theorem State.roomWait_none {s : State} {c sub i : Nat}
    (h : ∀ g, s.group c (16 * sub + i) = some g → s.roomNeed c (16 * sub + i) g = none) : s.roomWait c sub i = s := by
  unfold State.roomWait
  split
  · next g hg => simp [h g hg]
  · rfl

/-- The state in which one group waits for room. -/
def Group.awaiting (g : Group) (n : Nat) (sizes : List Nat) : Group := { g with waiting := .room n sizes false }

theorem State.group_awaitRoom {s : State} {c sl : Nat} {g : Group} (hg : s.group c sl = some g) (sizes : List Nat) :
    (s.awaitRoom c sl g sizes).group c sl = some (g.awaiting (s.polder (s.launchOf c g).polder).roomCtr sizes) :=
  State.group_onGroup hg _

theorem State.group_awaitRoom_ne {s : State} {c sl j : Nat} (g : Group) (sizes : List Nat) (h : j ≠ sl) :
    (s.awaitRoom c sl g sizes).group c j = s.group c j :=
  (OwnGroup.onGroup s c sl _).groups c j fun e => h e.2

theorem State.turns_onGroup (s : State) (c sl : Nat) (f : Group → Group) : (s.onGroup c sl f).turns = s.turns := by
  unfold State.onGroup; split <;> rfl

theorem State.turns_roomWait (s : State) (c sub i : Nat) : (s.roomWait c sub i).turns = s.turns := by
  unfold State.roomWait
  split
  · split
    · rfl
    · split
      · exact State.turns_onGroup ..
      · rfl
  · rfl

theorem State.group_roomWait_ne {s : State} {c sub i j : Nat} (h : j ≠ 16 * sub + i) : (s.roomWait c sub i).group c j = s.group c j := by
  unfold State.roomWait
  split
  · split
    · rfl
    · split
      · exact State.group_awaitRoom_ne _ _ h
      · rfl
  · rfl

/-- Where no group lacks room, none begins to wait. -/
theorem State.roomWaits_none {s : State} {c : Nat} (h : ∀ sl g, s.group c sl = some g → s.roomNeed c sl g = none) (sub : Nat) :
    s.roomWaits c sub = s :=
  List.foldlRecOn (List.range 16) _ (motive := (· = s)) rfl fun _ ht _ _ => by
    rw [ht]; exact State.roomWait_none fun g hg => h _ g hg

/-- The first slot whose group lacks room gives it the polder's next number; the slots after it leave it so. -/
theorem State.roomWaits_first {s : State} {c sub i : Nat} {g : Group} {sizes : List Nat} (hi : i < 16)
    (hg : s.group c (16 * sub + i) = some g) (hready : g.stalled = false) (hocc : g.occs ≠ [])
    (hneed : s.roomNeed c (16 * sub + i) g = some sizes)
    (hfirst : ∀ j < i, ∀ h, s.group c (16 * sub + j) = some h → s.roomNeed c (16 * sub + j) h = none) :
    (s.roomWaits c sub).turns = s.turns
      ∧ (s.roomWaits c sub).group c (16 * sub + i) = some (g.awaiting (s.polder (s.launchOf c g).polder).roomCtr sizes) := by
  refine ⟨foldl_keeps State.turns (fun t j => State.turns_roomWait t c sub j) _ s, ?_⟩
  have key : ∀ n, (n ≤ i → (List.range n).foldl (State.roomWait c sub) s = s)
      ∧ (i < n → ((List.range n).foldl (State.roomWait c sub) s).group c (16 * sub + i)
          = some (g.awaiting (s.polder (s.launchOf c g).polder).roomCtr sizes)) := by
    intro n
    induction n with
    | zero => exact ⟨fun _ => rfl, fun h => absurd h (Nat.not_lt_zero i)⟩
    | succ n ih =>
      obtain ⟨hbefore, hafter⟩ := ih
      rw [List.range_succ, List.foldl_append, List.foldl_cons, List.foldl_nil]
      refine ⟨fun hn => ?_, fun hn => ?_⟩
      · rw [hbefore (by omega)]
        exact State.roomWait_none (hfirst n (by omega))
      · rcases Nat.lt_succ_iff_lt_or_eq.1 hn with hlt | rfl
        · rw [State.group_roomWait_ne (by omega), hafter hlt]
        · rw [hbefore (Nat.le_refl i)]
          have hwait : s.roomWait c sub i = s.awaitRoom c (16 * sub + i) g sizes := by
            simp [State.roomWait, hg, hready, hocc, hneed]
          rw [hwait, State.group_awaitRoom hg]
  exact (key 16).2 hi

/-! ### The groups that issue in a cycle (R255, R256) -/

/-- The groups that issue in a cycle, with the sub-core's ports after it. -/
def State.cycleTurns (s : State) (c sub : Nat) : List Nat × SubCore :=
  if (s.core c).barrel && c < 32 then
    let sl := 16 * sub + s.coreClk c % 16
    (if s.groupReady c sl && (!s.wantsEng c sl || s.engTurn c sub) then [sl] else [],
      { (s.core c).sub sub with portA := none, portB := none })
  else s.portTurns c sub

/-- The state after an issue cycle in which some groups issue. -/
def State.cycled (s : State) (c sub : Nat) : State :=
  let k := s.core c
  let r := s.cycleTurns c sub
  let eng := r.1.any (s.wantsEng c)
  let t := s.setCore c { k with
    subs := tput k.subs sub { r.2 with issued := s.coreClk c + 1 }
    engAt := if eng then s.coreClk c + 1 else k.engAt, lastEng := if eng then sub else k.lastEng }
  { t with turns := t.turns ++ (sortBy id r.1).map (.group c) }

/-- An issue cycle: groups that lack room begin to wait, and then groups issue, unless that must wait for an order (R38). -/
theorem exec_issueCycle_cycled {s u : State} {c sub : Nat} (hmay : s.mayIssue c sub = true) (hu : s.roomWaits c sub = u) :
    exec (.issueCycle c sub) s
      = .next (if (u.cycleTurns c sub).1.any (fun sl => !(u.core c).inOrder u.clock sl) then u else u.cycled c sub) := by
  rw [exec_issueCycle]
  simp only [execIssueCycle, hmay, hu, Bool.not_true, Bool.false_eq_true, if_false]
  rfl

theorem State.cycled_spec (s : State) (c sub : Nat) : (((s.cycled c sub).core c).sub sub).issued = s.coreClk c + 1
    ∧ (s.cycled c sub).turns = s.turns ++ (sortBy id (s.cycleTurns c sub).1).map (.group c)
    ∧ ∀ d sl, (s.cycled c sub).group d sl = s.group d sl := by
  refine ⟨?_, rfl, fun d sl => ?_⟩
  · show (((s.setCore c _).core c).sub sub).issued = _
    simp [Core.sub]
  · show (s.setCore c _).group d sl = _
    by_cases h : d = c
    · subst h; simp [State.group]
    · simp [State.group, h]

/-- A group at a port is ready. -/
theorem State.takePorts_ready {s : State} {c sub sl : Nat} (h : (s.takePorts c sub).portA = some sl ∨ (s.takePorts c sub).portB = some sl) :
    s.groupReady c sl = true := by
  unfold State.takePorts at h
  dsimp only at h
  rcases h with h | h
  · split at h
    · next j hj =>
      cases h
      split at hj
      · split at hj
        · next hr => cases hj; exact hr
        · cases hj
      · cases hj
    · have hfound := List.find?_some h
      exact (Bool.and_eq_true_iff.1 hfound).1
  · split at h
    · next j hj =>
      cases h
      split at hj
      · cases hj
      · split at hj
        · split at hj
          · next hr => cases hj; exact hr
          · cases hj
        · cases hj
    · split at h
      · cases h
      · have hfound := List.find?_some h
        simp only [Bool.and_eq_true] at hfound
        exact hfound.1.1

theorem eq_some_of_mem_ite {α : Type} {b : Bool} {p : Option α} {x : α} (h : x ∈ if b = true then p.toList else []) : p = some x := by
  split at h
  · exact Option.mem_toList.1 h
  · cases h

/-- Only ready groups issue. -/
theorem State.cycleTurns_ready {s : State} {c sub sl : Nat} (h : sl ∈ (s.cycleTurns c sub).1) : s.groupReady c sl = true := by
  unfold State.cycleTurns at h
  split at h
  · dsimp only at h
    split at h
    · next hr =>
      cases List.mem_singleton.1 h
      exact (Bool.and_eq_true_iff.1 hr).1
    · cases h
  · rcases List.mem_append.1 h with h | h
    · exact State.takePorts_ready (sub := sub) (.inl (eq_some_of_mem_ite h))
    · exact State.takePorts_ready (sub := sub) (.inr (eq_some_of_mem_ite h))

/-- A group that waits for room is not ready. -/
theorem State.groupReady_awaiting {s : State} {c sl n : Nat} {g : Group} {sizes : List Nat} (hg : s.group c sl = some (g.awaiting n sizes)) :
    s.groupReady c sl = false := by
  have hstall : (g.awaiting n sizes).stalled = true := by simp [Group.stalled, Group.awaiting]
  have hroom : (g.awaiting n sizes).roomFree = false := rfl
  simp only [State.groupReady, hg, hstall, hroom, Bool.not_true, Bool.or_self, Bool.false_and]

/-- R255: a sub-core that may begin an issue cycle, with room for every group and no record of this cycle, completes it. -/
theorem issueCycle_completes {s : State} {c sub : Nat} (hmay : s.mayIssue c sub = true)
    (hborn : ∀ r ∈ (s.core c).records, r.born ≠ s.clock) (hroom : ∀ sl g, s.group c sl = some g → s.roomNeed c sl g = none) :
    exec (.issueCycle c sub) s = .next (s.cycled c sub) := by
  have hin (sl : Nat) : (s.core c).inOrder s.clock sl = true :=
    List.all_eq_true.2 fun r hr => by simp [hborn r hr]
  rw [exec_issueCycle_cycled hmay (State.roomWaits_none hroom sub)]
  simp [hin]

/-! ### Results arrive (R60, R222) -/

theorem Group.lane_landOne (g : Group) (w : LWrite) (l : Nat) :
    (g.landOne w).lane l = if l = w.lane then (g.lane l).put w.loc w.val else g.lane l := by
  by_cases h : l = w.lane
  · subst h; simp [Group.landOne, Group.lane]
  · simp [Group.landOne, Group.lane, h]

theorem Group.st_landOne (g : Group) (w : LWrite) (l : Nat) : ((g.landOne w).lane l).st = (g.lane l).st := by
  rw [Group.lane_landOne]
  split
  · exact Lane.st_put ..
  · rfl

theorem Group.raw_landOne (g : Group) (w : LWrite) (l r : Nat) : (g.landOne w).raw l r
    = if w.lane = l ∧ w.loc = .reg r ∧ r ≠ 255 ∧ (g.lane l).st ≠ .empty then w.val else g.raw l r := by
  unfold Group.raw
  rw [Group.lane_landOne]
  by_cases h : l = w.lane
  · subst h
    rw [if_pos rfl, Lane.tget_put]
    simp only [true_and]
  · simp [h, Ne.symm h]

/-- A register to which no result goes stays as it is. -/
theorem Group.raw_landAll_notMem {g : Group} {ws : List LWrite} {l r : Nat} (h : (l, Loc.reg r) ∉ ws.map fun w => (w.lane, w.loc)) :
    (g.landAll ws).raw l r = g.raw l r := by
  induction ws generalizing g with
  | nil => rfl
  | cons w ws ih =>
    simp only [List.map_cons, List.mem_cons, not_or, Prod.mk.injEq] at h
    refine (ih h.2).trans ?_
    rw [Group.raw_landOne, if_neg fun e => h.1 ⟨e.1.symm, e.2.1.symm⟩]

/-- A register of a lane that is not empty holds the result that went to it. -/
theorem Group.raw_landAll_mem {g : Group} {ws : List LWrite} {w : LWrite} {r : Nat} (hn : (ws.map fun w => (w.lane, w.loc)).Nodup)
    (hw : w ∈ ws) (hloc : w.loc = .reg r) (hr : r ≠ 255) (hst : (g.lane w.lane).st ≠ .empty) : (g.landAll ws).raw w.lane r = w.val := by
  induction ws generalizing g with
  | nil => cases hw
  | cons x ws ih =>
    obtain ⟨hx, hn⟩ := List.nodup_cons.1 hn
    rcases List.mem_cons.1 hw with rfl | hw
    · refine (Group.raw_landAll_notMem (g := g.landOne w) (ws := ws) (by rw [← hloc]; exact hx)).trans ?_
      rw [Group.raw_landOne, if_pos ⟨rfl, hloc, hr, hst⟩]
    · exact ih hn hw (by rwa [Group.st_landOne])

theorem Group.land_eq (g : Group) (f : InFlight) :
    g.land f = { g.landAll f.writes with inflight := g.inflight.filter (·.id ≠ f.id) } := by
  rw [← g.inflight_landAll f.writes]; rfl

/-- Results that arrive are written, and their instruction is under way no more. -/
theorem Group.land_spec (g : Group) (f : InFlight) : (g.land f).inflight = g.inflight.filter (·.id ≠ f.id)
    ∧ ((f.writes.map fun w => (w.lane, w.loc)).Nodup → ∀ w ∈ f.writes, ∀ r, w.loc = .reg r → r ≠ 255 →
      g.occ w.lane = true → (g.land f).raw w.lane r = w.val) := by
  rw [Group.land_eq]
  refine ⟨rfl, fun hn w hw r hloc hr hocc => Group.raw_landAll_mem hn hw hloc hr ?_⟩
  have hst : (g.lane w.lane).st = .occupied := of_decide_eq_true hocc
  rw [hst]
  decide

/-- What is found first by its number is found first by its number and what else holds of it. -/
theorem find?_and_of_find? {α : Type} {xs : List α} {p q : α → Bool} {x : α} (h : xs.find? p = some x) (hq : q x = true) :
    xs.find? (fun y => p y && q y) = some x := by
  obtain ⟨hp, as, bs, rfl, has⟩ := List.find?_eq_some_iff_append.1 h
  refine List.find?_eq_some_iff_append.2 ⟨by simp [hp, hq], as, bs, rfl, fun a ha => ?_⟩
  have := has a ha
  simp_all

/-- The results of a long-latency instruction that is no atomic arrive. -/
theorem exec_longLatencyResult_lands {s : State} {c sl : Nat} {g : Group} {f : InFlight} (hg : s.group c sl = some g)
    (hf : g.inflight.find? (fun x => decide (x.id = f.id)) = some f) (hreply : f.reply = false) (htodo : f.todo = []) :
    exec (.longLatencyResult c sl f.id) s = .next (s.setGroup c sl (g.land f)) := by
  have hfound := find?_and_of_find? (q := fun x => !x.reply && decide (x.todo = [])) hf (by simp [hreply, htodo])
  simp only [← Bool.and_assoc] at hfound
  rw [exec_longLatencyResult]
  simp only [execLongLatencyResult, hg, hfound]

/-- The reply of an atomic arrives, and its results. -/
theorem exec_atspReply_lands {s : State} {c sl : Nat} {g : Group} {f : InFlight} (hg : s.group c sl = some g)
    (hf : g.inflight.find? (fun x => decide (x.id = f.id)) = some f) (hreply : f.reply = true) (htodo : f.todo = []) :
    ∃ t, exec (.atspReply c sl f.id) s = .next t ∧ t.group c sl = some (g.land f) := by
  have hflight : s.flight c sl f.id = some f := by simp only [State.flight, hg, Option.bind_some, hf]
  let u := s.setCore c ((s.core c).cacheWords f.lines)
  have hu : u.group c sl = some g := by rw [← hg]; simp [u, State.group, Core.cacheWords]
  refine ⟨u.onGroup c sl fun g => g.land f, ?_, State.group_onGroup hu _⟩
  rw [exec_atspReply]
  simp only [execAtspReply, hflight, hreply, htodo, State.replyLand, decide_true, Bool.and_self, if_true, u]

/-- The second half of O28. -/
theorem events_complete : Claims.EventsComplete := by
  refine ⟨fun core sub s hmay hborn hroom => ?_, fun core sub sl s g sizes hmay hsub hg hready hocc hneed hfirst => ?_,
    fun core slot s g f i hg hf htodo hi => ?_⟩
  · obtain ⟨hissued, -, hgroups⟩ := s.cycled_spec core sub
    exact ⟨_, issueCycle_completes hmay hborn hroom, hissued, hgroups⟩
  · obtain ⟨i, hi, rfl⟩ : ∃ i < 16, sl = 16 * sub + i := ⟨sl % 16, Nat.mod_lt _ (by decide), by omega⟩
    obtain ⟨hturns, hwait⟩ := State.roomWaits_first hi hg hready hocc hneed
      fun j hj h hh => hfirst (16 * sub + j) h (by omega) (by omega) hh
    have hnot : 16 * sub + i ∉ ((s.roomWaits core sub).cycleTurns core sub).1 := fun hmem =>
      absurd (State.cycleTurns_ready hmem) (by rw [State.groupReady_awaiting hwait]; decide)
    refine ⟨_, exec_issueCycle_cycled hmay rfl, ?_⟩
    split
    · exact ⟨hwait, [], by rw [hturns, List.append_nil], List.not_mem_nil⟩
    · obtain ⟨-, hnew, hgroups⟩ := (s.roomWaits core sub).cycled_spec core sub
      refine ⟨(hgroups _ _).trans hwait, _, hnew.trans (by rw [hturns]), fun hmem => ?_⟩
      obtain ⟨j, hj, he⟩ := List.mem_map.1 hmem
      cases he
      exact hnot (mem_sortBy.1 hj)
  · subst hi
    cases hreply : f.reply with
    | false => exact ⟨_, exec_longLatencyResult_lands hg hf hreply htodo, _, State.group_setGroup_same .., g.land_spec f⟩
    | true =>
      obtain ⟨t, ht, hland⟩ := exec_atspReply_lands hg hf hreply htodo
      exact ⟨t, ht, _, hland, g.land_spec f⟩

/-- Settles O28, by its two halves. -/
theorem clauseHeaders : Obligations.ClauseHeaders := by
  unfold Obligations.ClauseHeaders
  exact ⟨clause_headers, events_complete⟩

end Sys2Proof.Machine
end

section

/-!
# FP32 and packed arithmetic, conversions (R74, R76, R96, R97, R99, R100)
-/

namespace Sys2Proof.Machine

variable {i : Instr} {gd : Guard} {d : Reg} {a b c : Src}

/-- Where an instruction of class VEC with destination `d` is what `vec3` makes of `op`, it writes what `op` gives of its
sources; a source that `op` ignores may be any. -/
theorem writesReg_of_vec3 {op : Word → Word → Word → Word × Flags} {f : (Src → Word) → Word × Flags}
    (hi : ∃ uses, issueOf i = vecI d uses gd) (hexec : ∀ s, exec i s = vec3 (issueOf i) d a b c op s)
    (hf : ∀ r, f r = op (r a) (r b) (r c)) : WritesReg i gd d f := by
  obtain ⟨uses, hi⟩ := hi
  obtain rfl : f = fun r => op (r a) (r b) (r c) := funext hf
  intro s core sl g cl h
  obtain ⟨t, ht, hwrote⟩ := vec3_wrote h (gd := gd) (by rw [hi]; rfl) d (by rw [hi]; rfl) (by rw [hi]; rfl) a b c op
  exact ⟨t, (hexec s).trans ht, hwrote⟩

/-- R96: an FP32 instruction writes the code that `op` gives of its sources as FP32 values. -/
theorem writesReg_of_fp3 {op : FVal → FVal → FVal → Nat × Flags} {f : (Src → Word) → Word × Flags}
    (hi : ∃ uses, issueOf i = vecI d uses gd) (hexec : ∀ s, exec i s = fp3 i d a b c op s)
    (hf : ∀ r, f r = asWord (op (fpv (r a)) (fpv (r b)) (fpv (r c)))) : WritesReg i gd d f :=
  writesReg_of_vec3 hi hexec hf

/-- The half `h` of a register as a packed value (R99). -/
def halfVal (f : HFmt) (w : Word) (h : Nat) : FVal := (halfFmt f).dec (w.toNat / 65536 ^ h % 65536)

/-- The codes of the low and the high half as a register result, with the flags of both (R99). -/
def joinHalves (x y : Nat × Flags) : Word × Flags := (BitVec.ofNat 32 (y.1 * 65536 + x.1), x.2 ||| y.2)

/-- R99: a packed instruction writes in each half what `op` gives of that half of its sources. -/
theorem writesReg_of_packed {fmt : HFmt} {op : FFmt → FVal → FVal → FVal → Nat × Flags} {f : (Src → Word) → Word × Flags}
    (hi : ∃ uses, issueOf i = vecI d uses gd) (hexec : ∀ s, exec i s = packed i d a b c fmt op s)
    (hf : ∀ r, f r = joinHalves
      (op (halfFmt fmt) (halfVal fmt (r a) 0) (halfVal fmt (r b) 0) (halfVal fmt (r c) 0))
      (op (halfFmt fmt) (halfVal fmt (r a) 1) (halfVal fmt (r b) 1) (halfVal fmt (r c) 1))) : WritesReg i gd d f :=
  writesReg_of_vec3 hi hexec hf

/-- R96, R97: each FP32 instruction writes its rounded result. -/
theorem float_arithmetic : Claims.FloatArithmetic := by
  intro d a b e rm imm gd
  refine ⟨?fadd, ?faddImm, ?fsub, ?fmul, ?fmulImm, ?ffma, ?fmin, ?fmax, ?frnd⟩
  case fadd => exact writesReg_of_fp3 ⟨_, rfl⟩ (fun s => exec_fadd s d a b rm gd) fun _ => rfl
  case faddImm => exact writesReg_of_fp3 ⟨_, rfl⟩ (fun s => exec_faddImm s d a imm) fun _ => rfl
  case fsub => exact writesReg_of_fp3 ⟨_, rfl⟩ (fun s => exec_fsub s d a b rm gd) fun _ => rfl
  case fmul => exact writesReg_of_fp3 ⟨_, rfl⟩ (fun s => exec_fmul s d a b rm gd) fun _ => rfl
  case fmulImm => exact writesReg_of_fp3 ⟨_, rfl⟩ (fun s => exec_fmulImm s d a imm) fun _ => rfl
  case ffma => exact writesReg_of_fp3 ⟨_, rfl⟩ (fun s => exec_ffma s d a b e rm gd) fun _ => rfl
  case fmin => exact writesReg_of_vec3 ⟨_, rfl⟩ (fun s => exec_fmin s d a b gd) fun _ => rfl
  case fmax => exact writesReg_of_vec3 ⟨_, rfl⟩ (fun s => exec_fmax s d a b gd) fun _ => rfl
  case frnd => exact writesReg_of_vec3 ⟨_, rfl⟩ (fun s => exec_frnd s d a rm gd) fun _ => rfl

/-- R99, R100: `cvt` writes its third operand with one part replaced, and a packed instruction both halves. -/
theorem conversions : Claims.Conversions := by
  intro d a b e df sf dsel ssel sat f rm gd
  refine ⟨?cvt, ?hadd2, ?hmul2, ?hfma2⟩
  case cvt => exact writesReg_of_vec3 ⟨_, rfl⟩ (fun s => exec_cvt s d a e df sf dsel ssel sat rm gd) fun _ => rfl
  case hadd2 => exact writesReg_of_packed ⟨_, rfl⟩ (fun s => exec_hadd2 s d a b f rm gd) fun _ => rfl
  case hmul2 => exact writesReg_of_packed ⟨_, rfl⟩ (fun s => exec_hmul2 s d a b f rm gd) fun _ => rfl
  case hfma2 => exact writesReg_of_packed ⟨_, rfl⟩ (fun s => exec_hfma2 s d a b e f rm gd) fun _ => rfl

/-- Settles O4, by its two halves: every instruction is one operation of `vec3`, which has the effect `Wrote`. -/
theorem floatArithmetic : Obligations.FloatArithmetic := by
  unfold Obligations.FloatArithmetic
  exact ⟨float_arithmetic, conversions⟩

end Sys2Proof.Machine
end

section

/-!
# Integer arithmetic (R85, R87)
-/

namespace Sys2Proof.Machine

section

variable {i : Instr} {gd : Guard} {d : Reg} {a b c : Src}

/-- R87: an arithmetic instruction writes the exact result of its sources, read in its type and brought back into it. -/
theorem writesReg_of_arith {t : Nat × Bool} {sat : Bool} {op : Int → Int → Int → Int} {f : (Src → Word) → Word × Flags}
    (hi : ∃ uses, issueOf i = vecI d uses gd) (hexec : ∀ s, exec i s = arith i d a b c t sat op s)
    (hf : ∀ r, f r = noFlag (writeT t sat (op (readT t (r a)) (readT t (r b)) (readT t (r c))))) : WritesReg i gd d f :=
  writesReg_of_vec3 hi hexec hf

end

/-- The first half of O1. -/
theorem integer_arithmetic : Claims.IntegerArithmetic := by
  intro d a b e ty wt at' sat imm gd
  refine ⟨?iadd, ?iaddImm, ?isub, ?imul, ?imulImm, ?imulhi, ?imad, ?iabs, ?imin, ?imax⟩
  case iadd => exact writesReg_of_arith ⟨_, rfl⟩ (fun s => exec_iadd s d a b ty sat gd) fun _ => rfl
  case iaddImm => exact writesReg_of_arith ⟨_, rfl⟩ (fun s => exec_iaddImm s d a ty sat imm) fun _ => rfl
  case isub => exact writesReg_of_arith ⟨_, rfl⟩ (fun s => exec_isub s d a b ty sat gd) fun _ => rfl
  case imul => exact writesReg_of_arith ⟨_, rfl⟩ (fun s => exec_imul s d a b ty sat gd) fun _ => rfl
  case imulImm => exact writesReg_of_arith ⟨_, rfl⟩ (fun s => exec_imulImm s d a ty sat imm) fun _ => rfl
  case imulhi => exact writesReg_of_arith ⟨_, rfl⟩ (fun s => exec_imulhi s d a b wt gd) fun _ => rfl
  case imad => exact writesReg_of_arith ⟨_, rfl⟩ (fun s => exec_imad s d a b e ty sat gd) fun _ => rfl
  case iabs => exact writesReg_of_arith ⟨_, rfl⟩ (fun s => exec_iabs s d a at' sat gd) fun _ => rfl
  case imin => exact writesReg_of_arith ⟨_, rfl⟩ (fun s => exec_imin s d a b ty gd) fun _ => rfl
  case imax => exact writesReg_of_arith ⟨_, rfl⟩ (fun s => exec_imax s d a b ty gd) fun _ => rfl

/-! ### Types of 32 bits (R85) -/

/-- What 32 bits stand for, in either type, is their number modulo 2^32. -/
theorem ofInt_asInt_word (sgn : Bool) (n : Nat) : BitVec.ofInt 32 (asInt 32 sgn n) = BitVec.ofNat 32 n := by
  unfold asInt
  split
  · apply BitVec.eq_of_toNat_eq
    rw [BitVec.toNat_ofInt, BitVec.toNat_ofNat]
    omega
  · exact BitVec.ofInt_natCast 32 n

/-- A 32-bit word read in either type is a number that the word stands for. -/
theorem ofInt_readT_word (sgn : Bool) (x : Word) : BitVec.ofInt 32 (readT (32, sgn) x) = x := by
  rw [readT, ofInt_asInt_word, Nat.mod_eq_of_lt x.isLt, BitVec.ofNat_toNat, BitVec.setWidth_eq]

/-- A result that is wrapped to 32 bits is the word of its residue, in either type. -/
theorem writeT_word (sgn : Bool) (r : Int) : writeT (32, sgn) false r = BitVec.ofInt 32 r := by
  apply (ofInt_asInt_word sgn (lowBits 32 r)).trans
  apply BitVec.eq_of_toNat_eq
  rw [BitVec.toNat_ofNat, BitVec.toNat_ofInt, lowBits]
  omega

/-- A sum at or above 2^32 saturates at the largest word. -/
theorem writeT_word_sat {r : Int} (h : 2 ^ 32 ≤ r) : writeT (32, false) true r = 0xFFFFFFFF := by
  have hlow : ¬ r < 0 := by omega
  have hhigh : r > 2 ^ 32 - 1 := by omega
  simp only [writeT, intRange, clampInt, if_true, Bool.false_eq_true, if_false, hlow, hhigh]
  rfl

/-- The second half of O1. -/
theorem word_arithmetic : Claims.WordArithmetic := by
  intro x y sgn
  refine ⟨?sum, ?difference, ?product, ?saturated⟩
  case sum => rw [writeT_word, BitVec.ofInt_add, ofInt_readT_word, ofInt_readT_word]
  case difference =>
    rw [writeT_word, Int.sub_eq_add_neg, BitVec.ofInt_add, BitVec.ofInt_neg, ofInt_readT_word, ofInt_readT_word, ← BitVec.sub_eq_add_neg]
  case product => rw [writeT_word, BitVec.ofInt_mul, ofInt_readT_word, ofInt_readT_word]
  case saturated =>
    intro h
    have hread (z : Word) : readT (32, false) z = z.toNat := by simp [readT, asInt, -Int.natCast_emod, Nat.mod_eq_of_lt z.isLt]
    exact writeT_word_sat (by rw [hread, hread]; exact_mod_cast h)

/-- Settles O1, by its two halves: every instruction is one operation of `arith`, which has the effect `Wrote`. -/
theorem integerArithmetic : Obligations.IntegerArithmetic := by
  unfold Obligations.IntegerArithmetic
  exact ⟨integer_arithmetic, word_arithmetic⟩

end Sys2Proof.Machine
end

section

/-!
# Bitwise, shift and bit-count instructions (R88)
-/

namespace Sys2Proof.Machine

section

variable {i : Instr} {gd : Guard} {d : Reg} {a b : Src}

/-- R88: a bitwise instruction writes what `op` gives of all 32 bits of its sources, and sets no flag. -/
theorem writesReg_of_bitwise {op : Word → Word → Word} {f : (Src → Word) → Word × Flags}
    (hi : ∃ uses, issueOf i = vecI d uses gd) (hexec : ∀ s, exec i s = bitwise i d a b op s)
    (hf : ∀ r, f r = noFlag (op (r a) (r b))) : WritesReg i gd d f :=
  writesReg_of_vec3 hi hexec hf

end

/-! ### Shifts -/

/-- A left shift by 32 or more gives 0. -/
theorem shiftLeft_eq_ite (x : Word) (n : Nat) : x <<< n = if n < 32 then x <<< n else 0 := by
  split
  · rfl
  · exact BitVec.shiftLeft_eq_zero (by omega)

/-- A logical right shift by 32 or more gives 0. -/
theorem ushiftRight_eq_ite (x : Word) (n : Nat) : x >>> n = if n < 32 then x >>> n else 0 := by
  split
  · rfl
  · exact BitVec.ushiftRight_eq_zero (by omega)

/-- Division by a power of two, rounded down, is the shift that fills with the sign. -/
theorem ofInt_div_eq_sshiftRight (x : Word) (n : Nat) : BitVec.ofInt 32 (x.toInt / 2 ^ n) = x.sshiftRight n := by
  rw [BitVec.sshiftRight, Int.shiftRight_eq_div_pow]
  rfl

/-! ### Major opcodes and MINOR (R53, R54) -/

theorem toNat_fMajor (x : Word) : (fMajor x).toNat = x.toNat / 2 ^ 24 := by
  have hx := x.isLt
  rw [fMajor, BitVec.extractLsb'_toNat, Nat.shiftRight_eq_div_pow]
  omega

theorem major_pack0 (maj d : BitVec 8) (a : Src) (m : BitVec 6) : (pack0 maj d a m).toNat / 2 ^ 24 = maj.toNat := by
  rw [← toNat_fMajor, Laws.fMajor_pack0]

/-- A word with another value in the field MINOR. -/
def withMinor (x minor : Word) : Word := x &&& 0xFFFFFFC0 ||| minor

theorem getLsbD_withMinor {minor : Word} (x : Word) (h : minor.toNat < 64) {i : Nat} (hi : 6 ≤ i) :
    (withMinor x minor).getLsbD i = x.getLsbD i := by
  have hmask : (0xFFFFFFC0 : Word) = BitVec.allOnes 32 <<< 6 := by decide
  have hminor : minor.getLsbD i = false := Nat.testBit_lt_two_pow
    (h.trans_le (Nat.pow_le_pow_right (n := 2) (i := 6) (by decide) hi))
  by_cases h32 : i < 32
  · have hones : (0xFFFFFFC0 : Word).getLsbD i = true := by
      rw [hmask, BitVec.getLsbD_shiftLeft, BitVec.getLsbD_allOnes]
      simp only [h32, Nat.not_lt.2 hi, decide_true, decide_false, Bool.not_false, Bool.true_and, decide_eq_true_eq]
      omega
    rw [withMinor, BitVec.getLsbD_or, BitVec.getLsbD_and, hones, hminor, Bool.and_true, Bool.or_false]
  · rw [BitVec.getLsbD_of_ge _ _ (by omega), BitVec.getLsbD_of_ge _ _ (by omega)]

theorem extractLsb'_withMinor {minor : Word} (x : Word) (h : minor.toNat < 64) {start : Nat} (hs : 6 ≤ start) (n : Nat) :
    (withMinor x minor).extractLsb' start n = x.extractLsb' start n := by
  apply BitVec.eq_of_getLsbD_eq
  intro i _
  simp only [BitVec.getLsbD_extractLsb', getLsbD_withMinor x h (show 6 ≤ start + i by omega)]

/-- Every field of word 0 but MINOR lies above it. -/
theorem fields_withMinor {minor : Word} (x : Word) (h : minor.toNat < 64) :
    fMajor (withMinor x minor) = fMajor x ∧ fDst (withMinor x minor) = fDst x ∧ fSrc0 (withMinor x minor) = fSrc0 x := by
  have hfield := @extractLsb'_withMinor minor x h
  have hbit := @getLsbD_withMinor minor x h
  refine ⟨hfield (by decide) 8, hfield (by decide) 8, ?_⟩
  rw [fSrc0, fSrc0, hfield (by decide), hbit (by decide), hbit (by decide)]

/-- The words of the bitwise instructions are read from DST and SRC0 of word 0 and from word 1. -/
theorem decodeVec_bitwise {m : Nat} (hlo : 0x1A ≤ m) (hhi : m ≤ 0x26) {x z : Word} (hd : fDst z = fDst x) (hs : fSrc0 z = fSrc0 x)
    (y : Word) : decodeVec m z y = decodeVec m x y := by
  interval_cases m <;> simp only [decodeVec, hd, hs]

theorem decodeVilesk_bitwise {x : Word} (hlo : 0x1A ≤ (fMajor x).toNat) (hhi : (fMajor x).toNat ≤ 0x26) (y : Word) :
    decodeVilesk x y = decodeVec (fMajor x).toNat x y := by
  have hclass : majorClass (fMajor x).toNat = 1 := by
    rw [majorClass, if_neg (by omega), if_pos (by omega)]
  simp only [decodeVilesk, hclass]

/-- MINOR of a bitwise instruction is ignored. -/
theorem decodeVilesk_withMinor {x minor : Word} (hlo : 0x1A ≤ x.toNat / 2 ^ 24) (hhi : x.toNat / 2 ^ 24 ≤ 0x26)
    (h : minor.toNat < 64) (y : Word) : decodeVilesk (withMinor x minor) y = decodeVilesk x y := by
  rw [← toNat_fMajor] at hlo hhi
  obtain ⟨hmajor, hdst, hsrc⟩ := fields_withMinor x h
  rw [decodeVilesk_bitwise hlo hhi, decodeVilesk_bitwise (by rwa [hmajor]) (by rwa [hmajor]), hmajor]
  exact decodeVec_bitwise hlo hhi hdst hsrc y

end Sys2Proof.Machine

namespace Sys2Proof

open Machine

/-- Settles O2: every instruction is one operation of `bitwise`, and its words differ from another's in MAJOR, not in MINOR. -/
theorem bitwise : Obligations.Bitwise := by
  unfold Obligations.Bitwise
  intro d a b imm gd
  refine ⟨⟨?and, ?andImm, ?or, ?orImm, ?xor, ?xorImm, ?not, ?shl, ?shr, ?sar, ?popc, ?clz, ?brev⟩, ?majors, ?minor⟩
  case and => exact writesReg_of_bitwise ⟨_, rfl⟩ (fun s => exec_and s d a b gd) fun _ => rfl
  case andImm => exact writesReg_of_bitwise ⟨_, rfl⟩ (fun s => exec_andImm s d a imm) fun _ => rfl
  case or => exact writesReg_of_bitwise ⟨_, rfl⟩ (fun s => exec_or s d a b gd) fun _ => rfl
  case orImm => exact writesReg_of_bitwise ⟨_, rfl⟩ (fun s => exec_orImm s d a imm) fun _ => rfl
  case xor => exact writesReg_of_bitwise ⟨_, rfl⟩ (fun s => exec_xor s d a b gd) fun _ => rfl
  case xorImm => exact writesReg_of_bitwise ⟨_, rfl⟩ (fun s => exec_xorImm s d a imm) fun _ => rfl
  case not => exact writesReg_of_bitwise ⟨_, rfl⟩ (fun s => exec_not s d a gd) fun _ => rfl
  case shl => exact writesReg_of_bitwise ⟨_, rfl⟩ (fun s => exec_shl s d a b gd) fun r => by rw [← shiftLeft_eq_ite]
  case shr => exact writesReg_of_bitwise ⟨_, rfl⟩ (fun s => exec_shr s d a b gd) fun r => by rw [← ushiftRight_eq_ite]
  case sar => exact writesReg_of_bitwise ⟨_, rfl⟩ (fun s => exec_sar s d a b gd) fun r => by rw [ofInt_div_eq_sshiftRight]
  case popc => exact writesReg_of_bitwise ⟨_, rfl⟩ (fun s => exec_popc s d a gd) fun _ => rfl
  case clz => exact writesReg_of_bitwise ⟨_, rfl⟩ (fun s => exec_clz s d a gd) fun _ => rfl
  case brev => exact writesReg_of_bitwise ⟨_, rfl⟩ (fun s => exec_brev s d a gd) fun _ => rfl
  case majors => exact ⟨major_pack0 .., major_pack0 .., major_pack0 .., major_pack0 .., major_pack0 .., major_pack0 .., major_pack0 ..,
    major_pack0 .., major_pack0 .., major_pack0 .., major_pack0 .., major_pack0 .., major_pack0 ..⟩
  case minor => exact fun x y minor hlo hhi h => decodeVilesk_withMinor hlo hhi h y

end Sys2Proof
end

section

/-!
# Bit fields, moves, carries, addresses and compares (R84, R89 to R95, R98)
-/

namespace Sys2Proof.Machine

/-! ### Destinations (R57, R84, R314) -/

/-- A location is a destination of an instruction, or v255 or p7, which take nothing. -/
def Issue.Takes (v : Issue) (x : Loc) : Prop := x ∈ v.dsts ∨ x = .reg 255 ∨ x = .pred 7

theorem mem_dstN {d : Reg} {k n : Nat} (hd : d ≠ 255) (hk : k < n) : Loc.reg (d.toNat + k) ∈ dstN d n := by
  rw [dstN, if_neg hd]
  exact List.mem_map.2 ⟨k, List.mem_range.2 hk, rfl⟩

theorem Issue.takes_reg {v : Issue} {d : Reg} (h : ∀ x ∈ dstN d 1, x ∈ v.dsts) : v.Takes (.reg d.toNat) := by
  by_cases hd : d = 255
  · exact .inr (.inl (by rw [hd]; rfl))
  · exact .inl (h _ (mem_dstN (k := 0) hd Nat.one_pos))

theorem Issue.takes_pred {v : Issue} {p : BitVec 3} (h : ∀ x ∈ dstP p, x ∈ v.dsts) : v.Takes (.pred p.toNat) := by
  by_cases hp : p = 7
  · exact .inr (.inr (by rw [hp]; rfl))
  · exact .inl (h _ (by rw [dstP, if_neg hp]; exact List.mem_singleton.2 rfl))

/-- Every register range that an instruction names lies in the allocation, or is v255 alone, where the instruction issues. -/
theorem Issues.range_ok {i : Instr} {s : State} {c sl : Nat} {g : Group} {cl : Clause} (h : Issues i s c sl g cl)
    {r : Nat × Nat} (hr : r ∈ (issueOf i).named) : rangeOk (allocOf (s.launchOf c g)) r = true := by
  have hlegal := h.legal
  simp only [illegalCause] at hlegal
  split_ifs at hlegal with _ _ _ _ _ _ _ hranges
  simp only [Bool.or_eq_true, not_or, Bool.not_eq_true', Bool.not_eq_false] at hranges
  exact List.all_eq_true.1 hranges.1 r hr

/-- v255 is the base of no pair. -/
theorem rangeOk_pair {alloc : Nat} {d : Reg} (h : rangeOk alloc (d.toNat, 2) = true) : d ≠ 255 := by
  rintro rfl
  simp [rangeOk] at h

/-! ### Instructions that write at once -/

section

variable {i : Instr} {gd : Guard}

/-- Where an instruction is what `vecLanes` makes of lane results, at distinct locations that it takes, it writes these at once. -/
theorem writesNow_of_vecLanes {f : Group → Nat → List (Loc × Word) × Flags} (hg : (issueOf i).guard = gd)
    (hthreads : (issueOf i).threads = false) (hexec : ∀ s, exec i s = vecLanes (issueOf i) f s)
    (htakes : ∀ s c sl g cl, Issues i s c sl g cl → ∀ l, ∀ w ∈ (f g l).1, (issueOf i).Takes w.1)
    (hdistinct : ∀ g l, ((f g l).1.map Prod.fst).Nodup) : WritesNow i gd f := by
  intro s c sl g cl h
  obtain ⟨t, ht, hwrote⟩ := vecLanes_wrote h hg f (htakes s c sl g cl h) hthreads (hdistinct g)
  exact ⟨t, (hexec s).trans ht, hwrote⟩

/-- An instruction of class VEC with one destination register, computed from the group. -/
theorem writesNow_of_oneReg {d : Reg} {f : Group → Nat → Word × Flags} (hg : (issueOf i).guard = gd)
    (hthreads : (issueOf i).threads = false) (hdsts : (issueOf i).dsts = dstN d 1)
    (hexec : ∀ s, exec i s = vecLanes (issueOf i) (oneReg d f) s) : WritesNow i gd (oneReg d f) := by
  refine writesNow_of_vecLanes hg hthreads hexec (fun s c sl g cl _ l w hw => ?_) fun g l => List.nodup_singleton _
  rw [List.mem_singleton.1 hw]
  exact Issue.takes_reg (by rw [hdsts]; exact fun _ hx => hx)

/-- A compare writes one predicate. -/
theorem writesPred_of_vecLanes {pd : BitVec 3} {f : (Src → Word) → Bool × Flags} (hi : ∃ uses, issueOf i = cmpI pd uses gd)
    (hexec : ∀ s, exec i s = vecLanes (issueOf i)
      (fun g l => ([(.pred pd.toNat, ofPred (f (g.src l)).1)], (f (g.src l)).2)) s) : WritesPred i gd pd f := by
  obtain ⟨uses, hi⟩ := hi
  refine writesNow_of_vecLanes (by rw [hi]; rfl) (by rw [hi]; rfl) hexec (fun s c sl g cl _ l w hw => ?_)
    fun g l => List.nodup_singleton _
  rw [List.mem_singleton.1 hw]
  exact Issue.takes_pred (by rw [hi]; exact fun _ hx => hx)

end

/-- R92: `addc` writes a sum or difference with carry, and the carry. -/
theorem addc_writes (d : Reg) (a b : Src) (pout : BitVec 3) (sub : Bool) (cin : Option (BitVec 3)) (gd : Guard) :
    WritesNow (.addc d a b pout sub cin gd) gd fun g l =>
      let r := addCarry sub (g.src l a) (g.src l b) (match cin with | some p => if g.pred l p.toNat then 1 else 0 | none => 0)
      ([(.reg d.toNat, r.1), (.pred pout.toNat, ofPred r.2)], 0) := by
  refine writesNow_of_vecLanes rfl rfl (fun s => exec_addc s d a b pout sub cin gd) (fun s c sl g cl _ l w hw => ?_)
    fun g l => by simp
  rcases List.mem_pair.1 hw with rfl | rfl
  · exact Issue.takes_reg fun _ hx => List.mem_append_left _ hx
  · exact Issue.takes_pred fun _ hx => List.mem_append_right _ hx

/-- R93: `lea` writes an address to a pair of registers. -/
theorem lea_writes (d : Reg) (a b : Src) (sh : BitVec 3) (sgn : Bool) (gd : Guard) :
    WritesNow (.lea d a b sh sgn gd) gd fun g l =>
      let r := leaAddr (g.pair l a.reg.toNat) (g.src l b) sh.toNat sgn
      ([(.reg d.toNat, r.extractLsb' 0 32), (.reg (d.toNat + 1), r.extractLsb' 32 32)], 0) := by
  refine writesNow_of_vecLanes rfl rfl (fun s => exec_lea s d a b sh sgn gd) (fun s c sl g cl h l w hw => ?_) fun g l => by simp
  have hd : d ≠ 255 := rangeOk_pair (h.range_ok (List.mem_append_left _ (List.mem_singleton.2 rfl)))
  rcases List.mem_pair.1 hw with rfl | rfl
  · exact .inl (mem_dstN (k := 0) hd Nat.two_pos)
  · exact .inl (mem_dstN (k := 1) hd Nat.one_lt_two)

/-- R94: `mov.r2p` writes the seven predicates. -/
theorem movR2p_writes (a : Src) (gd : Guard) : WritesNow (.movR2p a gd) gd fun g l =>
    ((List.range 7).map fun p => (.pred p, ofPred ((g.src l a).getLsbD p)), 0) := by
  refine writesNow_of_vecLanes rfl rfl (fun s => exec_movR2p s a gd) (fun s c sl g cl _ l w hw => ?_) fun g l => ?_
  · obtain ⟨p, hp, rfl⟩ := List.mem_map.1 hw
    exact .inl (List.mem_map.2 ⟨p, hp, rfl⟩)
  · rw [List.map_map]
    exact List.nodup_range.map fun p q e => Loc.pred.inj e

/-- The first half of O3. -/
theorem fields_and_moves : Claims.FieldsAndMoves := by
  intro d a b e wt q pout qneg sub na nb sat sgn cin sh imm gd
  refine ⟨?bfx, ?bfi, ?sel, ?idp4, ?addc, ?lea, ?mov, ?p2r, ?r2p, ?movi⟩
  case bfx => exact writesReg_of_bitwise ⟨_, rfl⟩ (fun s => exec_bfx s d a b wt gd) fun _ => rfl
  case bfi => exact writesReg_of_vec3 ⟨_, rfl⟩ (fun s => exec_bfi s d a b e gd) fun _ => rfl
  case sel => exact writesNow_of_oneReg rfl rfl rfl fun s => exec_sel s d a b q qneg gd
  case idp4 => exact writesReg_of_vec3 ⟨_, rfl⟩ (fun s => exec_idp4 s d a b e na nb sat gd) fun _ => rfl
  case addc => cases sub <;> exact addc_writes d a b pout _ cin gd
  case lea => exact lea_writes d a b sh sgn gd
  case mov => exact writesReg_of_bitwise ⟨_, rfl⟩ (fun s => exec_mov s d a gd) fun _ => rfl
  case p2r => exact writesNow_of_oneReg rfl rfl rfl fun s => exec_movP2r s d gd
  case r2p => exact movR2p_writes a gd
  case movi => exact writesNow_of_oneReg rfl rfl rfl fun s => exec_movi s d imm

/-- The second half of O3. -/
theorem compares : Claims.Compares := by
  intro pd a b ty c fc gd
  refine ⟨?cmp, ?fcmp⟩
  case cmp => exact writesPred_of_vecLanes ⟨_, rfl⟩ fun s => exec_cmp s pd a b ty c gd
  case fcmp => exact writesPred_of_vecLanes ⟨_, rfl⟩ fun s => exec_fcmp s pd a b fc gd

/-- Settles O3, by its two halves. -/
theorem fieldsAndCompares : Obligations.FieldsAndCompares := by
  unfold Obligations.FieldsAndCompares
  exact ⟨fields_and_moves, compares⟩

end Sys2Proof.Machine
end

section

/-!
# Issue cycles through the ports and in barrel mode (R109, R255, R256)
-/

namespace Sys2Proof.Machine

theorem State.mayIssue_of_fresh {s : State} {c sub : Nat} (hc : c < 32) (hsub : sub < 4)
    (h : ∀ j, j < sub ∨ 4 ≤ j ∨ ((s.core c).sub j).issued ≤ s.coreClk c) : s.mayIssue c sub = true := by
  simp only [State.mayIssue, Bool.and_eq_true, Bool.or_eq_true, decide_eq_true_eq, List.all_eq_true, List.mem_range]
  exact ⟨⟨⟨hsub, by omega⟩, .inl hc⟩, fun j hj => by rcases h j with h | h | h <;> omega⟩

/-- What else an issue cycle leaves as it is, and the ports after it. -/
theorem State.cycled_keeps (s : State) (c sub : Nat) : (s.cycled c sub).cur = s.cur ∧ SameMemory s (s.cycled c sub)
    ∧ (((s.cycled c sub).core c).sub sub).portA = (s.cycleTurns c sub).2.portA := by
  refine ⟨rfl, ⟨rfl, rfl, fun d => ?_⟩, ?_⟩
  · show ((s.setCore c _).core d).sh = (s.core d).sh
    by_cases h : d = c
    · subst h; simp
    · simp [h]
  · show (((s.setCore c _).core c).sub sub).portA = _
    simp [Core.sub]

/-! ### Barrel mode -/

/-- In barrel mode the slot that owns the core clock issues where its group is ready (R256). -/
theorem State.cycleTurns_barrel {s : State} {c sub : Nat} (hb : (s.core c).barrel = true) (hc : c < 32)
    (heng : s.wantsEng c (16 * sub + s.coreClk c % 16) = false) : (s.cycleTurns c sub).1
      = if s.groupReady c (16 * sub + s.coreClk c % 16) then [16 * sub + s.coreClk c % 16] else [] := by
  simp only [State.cycleTurns, hb, hc, heng, decide_true, Bool.and_self, Bool.not_false, Bool.true_or, Bool.and_true, if_true]

/-! ### Ports -/

/-- A free port A takes the oldest ready group where port B is free too (R255 step 1). -/
theorem State.takePorts_portA {s : State} {c sub sl : Nat} (ha : ((s.core c).sub sub).portA = none)
    (hb : ((s.core c).sub sub).portB = none) (hfind : ((s.core c).sub sub).order.find? (fun y => s.groupReady c y) = some sl) :
    (s.takePorts c sub).portA = some sl := by
  have hfree : (if c ≥ 32 then none else (none : Option Nat)) = none := ite_self none
  simp only [State.takePorts, ha, hb, hfree, ne_eq, reduceCtorEq, not_false_eq_true, decide_true, Bool.and_true, hfind]

/-- The groups at the ports that issue in a cycle are at most two. -/
theorem State.length_portTurns (s : State) (c sub : Nat) : (s.portTurns c sub).1.length ≤ 2 := by
  have hport (b : Bool) (p : Option Nat) : (if b = true then p.toList else []).length ≤ 1 := by
    cases b <;> cases p <;> simp
  unfold State.portTurns
  simp only [List.length_append]
  exact Nat.add_le_add (hport _ _) (hport _ _)

/-- The group at port A issues where the port is not held and its instruction is of no engine class (R255). -/
theorem State.portTurns_portA {s : State} {c sub sl : Nat} (ha : (s.takePorts c sub).portA = some sl)
    (hhold : (s.takePorts c sub).holdA = false) (heng : s.wantsEng c sl = false) :
    sl ∈ (s.portTurns c sub).1 ∧ (s.portTurns c sub).2.portA = some sl := by
  refine ⟨?_, ha⟩
  unfold State.portTurns
  simp [ha, hhold, heng]

/-- The groups that issue in a cycle of the ports, in the order of their slots. -/
theorem turns_of_portTurns {s : State} {c sub sl : Nat} (h : sl ∈ (s.portTurns c sub).1) :
    Agent.group c sl ∈ (sortBy id (s.portTurns c sub).1).map (Agent.group c)
      ∧ ((sortBy id (s.portTurns c sub).1).map (Agent.group c)).length ≤ 2 := by
  refine ⟨List.mem_map_of_mem (mem_sortBy.2 h), ?_⟩
  rw [List.length_map, (sortBy_perm id _).length_eq]
  exact s.length_portTurns c sub

/-- The first part of O29. -/
theorem issue_cycles : Claims.IssueCycles := by
  intro core sub s hcore hsub hissued hborn hroom k clk own x
  obtain ⟨hclk, hturns, hgroups⟩ := s.cycled_spec core sub
  obtain ⟨hcur, hmem, hport⟩ := s.cycled_keeps core sub
  refine ⟨_, issueCycle_completes (State.mayIssue_of_fresh hcore hsub hissued) hborn hroom, hclk, hcur, hgroups, hmem,
    fun hbarrel heng => ?_, fun hbarrel ha hb hhold sl hfind heng => ?_⟩
  · rw [hturns, State.cycleTurns_barrel hbarrel hcore heng]
    congr 1
    split <;> rfl
  · have hports : s.cycleTurns core sub = s.portTurns core sub := by
      rw [State.cycleTurns, show (s.core core).barrel = false from hbarrel]
      rfl
    obtain ⟨hmem, htaken⟩ := State.portTurns_portA (State.takePorts_portA ha hb hfind) hhold heng
    rw [hport, hturns, hports]
    exact ⟨htaken, _, rfl, turns_of_portTurns hmem⟩

end Sys2Proof.Machine
end

section

/-!
# Results arrive (R60, R78, R133, R220, R222)
-/

namespace Sys2Proof.Machine

/-! ### A group after results -/

/-- The results of one lane, in order. -/
def laneWrites (ws : List LWrite) (l : Nat) : List (Loc × Word) := (ws.filter (·.lane = l)).map fun w => (w.loc, w.val)

/-- Each lane takes its own results in turn. -/
theorem Group.lane_landAll (g : Group) (ws : List LWrite) (l : Nat) : (g.landAll ws).lane l = (g.lane l).puts (laneWrites ws l) := by
  induction ws generalizing g with
  | nil => rfl
  | cons w ws ih =>
    refine (ih (g.landOne w)).trans ?_
    rw [Group.lane_landOne]
    by_cases h : l = w.lane
    · subst h; simp [laneWrites, Lane.puts_cons]
    · simp [laneWrites, h, Ne.symm h]

theorem mem_laneWrites {ws : List LWrite} {l : Nat} {loc : Loc} :
    loc ∈ (laneWrites ws l).map Prod.fst ↔ ∃ w ∈ ws, w.lane = l ∧ w.loc = loc := by
  simp [laneWrites, and_assoc]

theorem nodup_laneWrites {ws : List LWrite} (h : (ws.map fun w => (w.lane, w.loc)).Nodup) (l : Nat) :
    ((laneWrites ws l).map Prod.fst).Nodup := by
  have hpairs : ((ws.filter (·.lane = l)).map fun w => (w.lane, w.loc)).Nodup := h.sublist (List.filter_sublist.map _)
  have hsame : ((ws.filter (·.lane = l)).map fun w => (w.lane, w.loc)) = ((laneWrites ws l).map Prod.fst).map (l, ·) := by
    rw [laneWrites, List.map_map, List.map_map]
    exact List.map_congr_left fun w hw => by simp [(of_decide_eq_true (List.mem_filter.1 hw).2 : w.lane = l)]
  exact (hsame ▸ hpairs).of_map

/-- The flags of each result are added where its lane is no helper lane (R78). -/
theorem Group.fstat_landAll (g : Group) (ws : List LWrite) : (g.landAll ws).fstat
    = ws.foldl (fun b w => if g.occ w.lane then b ||| fstatOf w.flags else b) g.fstat := by
  induction ws generalizing g with
  | nil => rfl
  | cons w ws ih =>
    have hocc (l : Nat) : (g.landOne w).occ l = g.occ l := by rw [Group.occ, Group.occ, Group.st_landOne]
    refine (ih (g.landOne w)).trans ?_
    simp only [hocc]
    rfl

/-- A group but for what results change. -/
def Group.offResults (g : Group) : Group := { g with inflight := [], lanes := [], fstat := 0 }

theorem Group.offResults_landAll (g : Group) (ws : List LWrite) : (g.landAll ws).offResults = g.offResults :=
  foldl_keeps Group.offResults (g := Group.landOne) (fun _ _ => rfl) ws g

/-- The results of one instruction, each for a location of its own, are written together, and its window ends. -/
theorem Group.landed_land (g : Group) {f : InFlight} (hn : (f.writes.map fun w => (w.lane, w.loc)).Nodup) :
    Landed g (g.land f) f := by
  have hlane (l : Nat) : (g.land f).lane l = (g.lane l).puts (laneWrites f.writes l) := g.lane_landAll f.writes l
  have hmem {w : LWrite} (hw : w ∈ f.writes) : (w.loc, w.val) ∈ laneWrites f.writes w.lane :=
    List.mem_map.2 ⟨w, List.mem_filter.2 ⟨hw, decide_eq_true rfl⟩, rfl⟩
  have hnot {l : Nat} {loc : Loc} (h : ∀ w ∈ f.writes, ¬(w.lane = l ∧ w.loc = loc)) : loc ∉ (laneWrites f.writes l).map Prod.fst :=
    fun hm => let ⟨w, hw, he⟩ := mem_laneWrites.1 hm; h w hw he
  exact {
    gone := congrArg Group.inflight (g.land_eq f)
    regs := fun w hw r hloc hr hst => by
      rw [Group.raw, hlane]; exact Lane.tget_puts_mem _ _ (nodup_laneWrites hn _) (hloc ▸ hmem hw) hr hst
    preds := fun w hw p hloc hp hst => by
      rw [Group.rawPred, hlane]; exact Lane.pred_puts_mem _ _ (nodup_laneWrites hn _) (hloc ▸ hmem hw) hp hst
    raw := fun l r h => by rw [Group.raw, hlane]; exact Lane.tget_puts_notMem _ _ _ (hnot h)
    rawP := fun l p h => by rw [Group.rawPred, hlane]; exact Lane.pred_puts_notMem _ _ _ (hnot h)
    fstat := g.fstat_landAll f.writes
    rest := g.offResults_landAll f.writes }

/-! ### Lines of the read cache (R133, R222) -/

theorem bfield_splice_same {bs new : List Byte} {off : Nat} (h : off ≤ bs.length) :
    bfield (splice bs off new) off new.length = ofLe new := by
  have hlen : (bs.take off).length = off := by rw [List.length_take]; omega
  rw [bfield, splice, List.append_assoc, List.drop_left' hlen, List.take_left' rfl]

theorem bfield_splice_disjoint {bs new : List Byte} {off o n : Nat} (h : off + new.length ≤ bs.length)
    (hd : o + n ≤ off ∨ off + new.length ≤ o) : bfield (splice bs off new) o n = bfield bs o n := by
  have hlen : (bs.take off ++ new).length = off + new.length := by simp; omega
  unfold bfield
  congr 1
  apply List.ext_getElem?
  intro i
  rw [List.getElem?_take, List.getElem?_take]
  split
  · rw [List.getElem?_drop, List.getElem?_drop]
    rcases hd with hd | hd
    · rw [splice, List.append_assoc, List.getElem?_append_left (by rw [List.length_take]; omega), List.getElem?_take_of_lt (by omega)]
    · rw [splice, List.getElem?_append_right (by omega), hlen, List.getElem?_drop]
      congr 1
      omega
  · rfl

theorem length_splice {bs new : List Byte} {off : Nat} (h : off + new.length ≤ bs.length) :
    (splice bs off new).length = bs.length := by
  simp [splice]; omega

/-- A line with a word of it replaced. -/
def CLine.withWord (ln : CLine) (w : Nat × Word) : CLine := { ln with bytes := splice ln.bytes (w.1 % 64) (toLe 4 w.2.toNat) }

/-- A read cache after one word that the core itself wrote. -/
def cacheWord (t : Table CLine) (w : Nat × Word) : Table CLine :=
  match tfind t (w.1 / 64) with
  | some ln => tput t (w.1 / 64) (ln.withWord w)
  | none => t

theorem Core.cacheWords_eq (k : Core) (ws : List (Nat × Word)) :
    k.cacheWords ws = { k with rcache := ws.foldl cacheWord k.rcache } := rfl

theorem tfind_cacheWord (t : Table CLine) (w : Nat × Word) (n : Nat) :
    tfind (cacheWord t w) n = if n = w.1 / 64 then (tfind t n).map (·.withWord w) else tfind t n := by
  unfold cacheWord
  split
  · next ln h =>
    rw [tfind_tput]
    split
    · next hn => rw [hn, h]; rfl
    · rfl
  · next h =>
    split
    · next hn => rw [hn, h]; rfl
    · rfl

/-- No line enters the cache or leaves it. -/
theorem isSome_tfind_cacheWords (ws : List (Nat × Word)) (t : Table CLine) (n : Nat) :
    (tfind (ws.foldl cacheWord t) n).isSome = (tfind t n).isSome := by
  refine foldl_keeps (fun t => (tfind t n).isSome) (fun t w => ?_) ws t
  rw [tfind_cacheWord]
  split
  · exact Option.isSome_map
  · rfl

/-- A line of 64 bytes of a cache holds `v` as the word at address `a`. -/
def CacheHolds (t : Table CLine) (a v : Nat) : Prop :=
  ∃ ln, tfind t (a / 64) = some ln ∧ ln.bytes.length = 64 ∧ bfield ln.bytes (a % 64) 4 = v

/-- A word written to a line that the cache has is held there. -/
theorem cacheHolds_cacheWord_same {t : Table CLine} {w : Nat × Word} {u : Nat} (ha : w.1 % 4 = 0) (h : CacheHolds t w.1 u) :
    CacheHolds (cacheWord t w) w.1 w.2.toNat := by
  obtain ⟨ln, hln, hlen, -⟩ := h
  have hfits : w.1 % 64 + (toLe 4 w.2.toNat).length ≤ ln.bytes.length := by rw [hlen, length_toLe]; omega
  refine ⟨ln.withWord w, ?_, (length_splice hfits).trans hlen, ?_⟩
  · rw [tfind_cacheWord, if_pos rfl, hln]; rfl
  · have hsame := bfield_splice_same (new := toLe 4 w.2.toNat) (show w.1 % 64 ≤ ln.bytes.length by omega)
    rw [length_toLe, ofLe_toLe, Nat.mod_eq_of_lt (show w.2.toNat < 256 ^ 4 from w.2.isLt)] at hsame
    exact hsame

/-- A word written at another aligned address leaves it as it is. -/
theorem cacheHolds_cacheWord_ne {t : Table CLine} {w : Nat × Word} {a v : Nat} (hw : w.1 % 4 = 0) (ha : a % 4 = 0) (hne : w.1 ≠ a)
    (h : CacheHolds t a v) : CacheHolds (cacheWord t w) a v := by
  obtain ⟨ln, hln, hlen, hv⟩ := h
  have hfits : w.1 % 64 + (toLe 4 w.2.toNat).length ≤ ln.bytes.length := by rw [hlen, length_toLe]; omega
  by_cases hline : a / 64 = w.1 / 64
  · refine ⟨ln.withWord w, ?_, (length_splice hfits).trans hlen, ?_⟩
    · rw [tfind_cacheWord, if_pos hline, hln]; rfl
    · exact (bfield_splice_disjoint hfits (by rw [length_toLe]; omega)).trans hv
  · exact ⟨ln, by rw [tfind_cacheWord, if_neg hline, hln], hlen, hv⟩

theorem cacheHolds_cacheWords_ne {ws : List (Nat × Word)} {a v : Nat} (ha : a % 4 = 0) (hws : ∀ w ∈ ws, w.1 % 4 = 0 ∧ w.1 ≠ a)
    {t : Table CLine} (h : CacheHolds t a v) : CacheHolds (ws.foldl cacheWord t) a v :=
  List.foldlRecOn ws cacheWord (motive := (CacheHolds · a v)) h fun _ ht w hw =>
    cacheHolds_cacheWord_ne (hws w hw).1 ha (hws w hw).2 ht

/-- Each of some words at distinct aligned addresses is held by the line that holds its address. -/
theorem cacheHolds_cacheWords {ws : List (Nat × Word)} {w : Nat × Word} (hn : (ws.map Prod.fst).Nodup) (ha : ∀ x ∈ ws, x.1 % 4 = 0)
    (hw : w ∈ ws) {t : Table CLine} {u : Nat} (h : CacheHolds t w.1 u) : CacheHolds (ws.foldl cacheWord t) w.1 w.2.toNat := by
  induction ws generalizing t u with
  | nil => cases hw
  | cons x ws ih =>
    obtain ⟨hx, hn⟩ := List.nodup_cons.1 hn
    have hrest : ∀ y ∈ ws, y.1 % 4 = 0 := fun y hy => ha y (List.mem_cons_of_mem _ hy)
    rcases List.mem_cons.1 hw with rfl | hw
    · refine cacheHolds_cacheWords_ne (ha w hw) (fun y hy => ⟨hrest y hy, ?_⟩) (cacheHolds_cacheWord_same (ha w hw) h)
      exact fun e => hx (e ▸ List.mem_map_of_mem hy)
    · have hne : x.1 ≠ w.1 := fun e => hx (e ▸ List.mem_map_of_mem hw)
      exact ih hn hrest hw (cacheHolds_cacheWord_ne (ha x (List.mem_cons_self ..)) (hrest w hw) hne h)

/-! ### The steps (R60, R220, R222) -/

/-- The reply of an atomic brings its own words into the lines of the read cache, and its results arrive. -/
theorem exec_atspReply_lines {s : State} {c sl : Nat} {g : Group} {f : InFlight} (hg : s.group c sl = some g)
    (hf : g.inflight.find? (fun x => decide (x.id = f.id)) = some f) (hreply : f.reply = true) (htodo : f.todo = []) :
    exec (.atspReply c sl f.id) s = .next
      ((s.setCore c { s.core c with rcache := f.lines.foldl cacheWord (s.core c).rcache }).setGroup c sl (g.land f)) := by
  have hflight : s.flight c sl f.id = some f := by simp only [State.flight, hg, Option.bind_some, hf]
  have hu : (s.setCore c ((s.core c).cacheWords f.lines)).group c sl = some g := by
    rw [← hg]; simp [State.group, Core.cacheWords]
  rw [exec_atspReply, ← Core.cacheWords_eq]
  simp only [execAtspReply, hflight, hreply, htodo, State.replyLand, decide_true, Bool.and_self, if_true, State.onGroup, hu]

/-- While a part of an instruction is still to be performed, neither step does anything for it. -/
theorem exec_results_pending {s : State} {c sl : Nat} {g : Group} {f : InFlight} (hg : s.group c sl = some g)
    (hf : g.inflight.find? (fun x => decide (x.id = f.id)) = some f) (honly : ∀ x ∈ g.inflight, x.id = f.id → x = f)
    (htodo : f.todo ≠ []) :
    exec (.longLatencyResult c sl f.id) s = .next s ∧ exec (.atspReply c sl f.id) s = .next s := by
  have hflight : s.flight c sl f.id = some f := by simp only [State.flight, hg, Option.bind_some, hf]
  have hnone : g.inflight.find? (fun x => decide (x.id = f.id) && !x.reply && decide (x.todo = [])) = none := by
    refine List.find?_eq_none.2 fun x hx h => ?_
    simp only [Bool.and_eq_true, decide_eq_true_eq] at h
    exact htodo (honly x hx h.1.1 ▸ h.2)
  refine ⟨?_, ?_⟩
  · rw [exec_longLatencyResult]
    simp only [execLongLatencyResult, hg, hnone]
  · rw [exec_atspReply]
    simp only [execAtspReply, hflight, htodo, decide_false, Bool.and_false, Bool.false_eq_true, if_false]

/-- The third part of O29. -/
theorem results_arrive : Claims.ResultsArrive := by
  intro core slot s g f hg hf hn
  refine ⟨fun hreply htodo => ?_, fun hreply htodo => ?_, exec_results_pending hg hf⟩
  · exact ⟨_, g.landed_land hn, exec_longLatencyResult_lands hg hf hreply htodo⟩
  · refine ⟨_, _, g.landed_land hn, exec_atspReply_lines hg hf hreply htodo, isSome_tfind_cacheWords f.lines _,
      fun hdistinct ha e he ln hln hlen => ?_⟩
    obtain ⟨ln', hln', -, hv⟩ := cacheHolds_cacheWords hdistinct ha he ⟨ln, hln, hlen, rfl⟩
    exact ⟨ln', hln', hv⟩

end Sys2Proof.Machine
end

section

/-!
# The marks of an instruction, and poison reads (R60, R62, R63, R77, R148, R318)
-/

namespace Sys2Proof.Machine

/-! ### Marks of one lane (R62, R148) -/

/-- The registers of a source range, each with its last-use and keep bits. -/
def Use.regs (u : Use) : List (Nat × Bool × Bool) := (List.range u.n).map fun j => (u.reg + j, u.last, u.keep)

theorem Lane.mem_dead_kill {ln : Lane} (hst : ln.st ≠ .empty) (base n r : Nat) :
    r ∈ (ln.kill base n).dead ↔ r ∈ ln.dead ∨ (r ≠ 255 ∧ ∃ j < n, base + j = r) := by
  rw [Lane.kill, if_neg hst]
  simp only [List.mem_append, List.mem_filter, List.mem_map, List.mem_range, Bool.and_eq_true, Bool.not_eq_true', ne_eq,
    decide_not, List.contains_eq_mem, decide_eq_false_iff_not]
  tauto

theorem Lane.pend_kill (ln : Lane) (base n : Nat) : (ln.kill base n).pend = ln.pend := by
  unfold Lane.kill; split <;> rfl

/-- A lane after the last uses of some sources. -/
def Lane.kills (ln : Lane) (us : List Use) : Lane := us.foldl (fun ln u => if u.last then ln.kill u.reg u.n else ln) ln

/-- The registers that a last-use bit names are dead, v255 apart. -/
theorem Lane.mem_dead_kills (us : List Use) {ln : Lane} (hst : ln.st ≠ .empty) (r : Nat) :
    r ∈ (ln.kills us).dead ↔ r ∈ ln.dead ∨ (r ≠ 255 ∧ ∃ keep, (r, true, keep) ∈ us.flatMap Use.regs) := by
  induction us generalizing ln with
  | nil => simp [Lane.kills]
  | cons u us ih =>
    have hone (keep : Bool) : (r, true, keep) ∈ u.regs ↔ u.last = true ∧ u.keep = keep ∧ ∃ j < u.n, u.reg + j = r := by
      simp only [Use.regs, List.mem_map, List.mem_range, Prod.mk.injEq]
      tauto
    cases hlast : u.last with
    | false =>
      have hskip : ln.kills (u :: us) = ln.kills us := by simp [Lane.kills, hlast]
      rw [hskip, ih hst]
      simp [hone, hlast]
    | true =>
      have hkill : ln.kills (u :: us) = (ln.kill u.reg u.n).kills us := by simp [Lane.kills, hlast]
      have hst' : (ln.kill u.reg u.n).st ≠ .empty := by rwa [Lane.st_of_rest (Lane.rest_kill ..)]
      rw [hkill, ih hst', Lane.mem_dead_kill hst]
      simp only [List.flatMap_cons, List.mem_append, hone, hlast, true_and, exists_or, exists_and_right, exists_eq', or_assoc,
        ← and_or_left]

theorem Lane.pend_kills (us : List Use) (ln : Lane) : (ln.kills us).pend = ln.pend :=
  foldl_keeps Lane.pend (fun ln u => by split; exacts [Lane.pend_kill .., rfl]) us ln

/-- The registers that are written are dead no more and await no command. -/
theorem Lane.marks_freshens (ds : List Loc) (ln : Lane) (r : Nat) :
    (r ∈ (ds.foldl Lane.freshen ln).dead ↔ Loc.reg r ∉ ds ∧ r ∈ ln.dead)
      ∧ tfind (ds.foldl Lane.freshen ln).pend r = if Loc.reg r ∈ ds then none else tfind ln.pend r := by
  by_cases h : Loc.reg r ∈ ds
  · obtain ⟨hdead, hpend⟩ := Lane.freshens_mem ds ln r h
    exact ⟨by simp [h, hdead], by rw [if_pos h, hpend]⟩
  · refine List.foldlRecOn ds Lane.freshen (motive := fun x => (r ∈ x.dead ↔ Loc.reg r ∉ ds ∧ r ∈ ln.dead)
      ∧ tfind x.pend r = if Loc.reg r ∈ ds then none else tfind ln.pend r) (b := ln) (by simp [h]) fun x hx d hd => ?_
    cases d with
    | pred p => exact hx
    | reg q =>
      have hne : r ≠ q := fun e => h (e ▸ hd)
      simpa [Lane.freshen, tfind_tdel, hne] using hx

/-! ### Marks of a group (R63) -/

theorem cacheAfter_eq (v : Issue) (cache : List Nat) : cacheAfter v cache = (v.uses.flatMap Use.regs).foldl (init := cache) fun t u =>
    if u.1 = 255 then t
    else if u.2.1 then t.filter (· ≠ u.1)
    else if u.2.2 then (u.1 :: t.filter (· ≠ u.1)).take 8
    else t := by
  simp only [cacheAfter, List.foldl_flatMap, Use.regs, List.foldl_map]

/-- Two groups have the same marks. -/
structure SameMarks (g h : Group) : Prop where
  dead  : ∀ l < 32, (h.lane l).dead = (g.lane l).dead
  pend  : ∀ l < 32, (h.lane l).pend = (g.lane l).pend
  cache : h.cache = g.cache

theorem SameMarks.refl (g : Group) : SameMarks g g := ⟨fun _ _ => rfl, fun _ _ => rfl, rfl⟩

theorem Marked.congr {gd : Guard} {g h k : Group} {uses : List (Nat × Bool × Bool)} {out : List Nat} (hm : Marked gd g h uses out)
    (hs : SameMarks h k) : Marked gd g k uses out where
  dead l hl r := by rw [hs.dead l hl]; exact hm.dead l hl r
  pend l hl r := by rw [hs.pend l hl]; exact hm.pend l hl r
  cache := hs.cache.trans hm.cache

/-- What an instruction names that writes in all its active lanes: its guard, the registers that it reads with their last-use and keep
bits, and the registers that it writes. -/
structure Issue.Names (v : Issue) (gd : Guard) (uses : List (Nat × Bool × Bool)) (out : List Nat) : Prop where
  guard   : v.guard = gd
  threads : v.threads = false
  uses    : v.uses.flatMap Use.regs = uses
  dsts    : v.dsts = out.map Loc.reg

section

variable {i : Instr} {s t : State} {c sl : Nat} {g : Group} {cl : Clause} {gd : Guard} {uses : List (Nat × Bool × Bool)} {out : List Nat}

/-- The marks of an instruction are those that `Marked` says of what it names. -/
theorem marked_begun (hv : (issueOf i).Names gd uses out) :
    ∃ h, (s.begun (issueOf i) c sl g cl).group c sl = some h ∧ Marked gd g h uses out := by
  obtain ⟨rfl, hthreads, huses, hdsts⟩ := hv
  have hout (r : Nat) : Loc.reg r ∈ (issueOf i).dsts ↔ r ∈ out := by simp [hdsts]
  have hidle {l : Nat} (hl : l < 32) (ha : g.active (issueOf i).guard l = false) : (g.marked (issueOf i)).lane l = g.lane l := by
    rw [Group.lane_marked g _ hl, ha]; rfl
  have hactive {l : Nat} (hl : l < 32) (ha : g.active (issueOf i).guard l = true) : (g.marked (issueOf i)).lane l
      = (issueOf i).dsts.foldl Lane.freshen ((g.lane l).kills (issueOf i).uses) := by
    rw [Group.lane_marked g _ hl, if_pos ha, Group.writesIn, hthreads, if_neg Bool.false_ne_true, ha]; rfl
  refine ⟨_, State.group_begun (issueOf i) s c sl g cl, ?_⟩
  constructor
  case dead =>
    intro l hl r
    show r ∈ ((g.marked (issueOf i)).lane l).dead ↔ _
    cases ha : g.active (issueOf i).guard l with
    | false => rw [hidle hl ha]; simp
    | true =>
      have hst : (g.lane l).st ≠ .empty := of_decide_eq_true (Bool.and_eq_true_iff.1 ha).1
      rw [hactive hl ha, (Lane.marks_freshens ..).1, Lane.mem_dead_kills _ hst, hout, huses]
      simp
  case pend =>
    intro l hl r
    show tfind ((g.marked (issueOf i)).lane l).pend r = _
    cases ha : g.active (issueOf i).guard l with
    | false => rw [hidle hl ha]; simp
    | true =>
      rw [hactive hl ha, (Lane.marks_freshens ..).2, Lane.pend_kills]
      simp only [hout, true_and]
  case cache =>
    show (if _ then cacheAfter (issueOf i) g.cache else g.cache) = _
    rw [cacheAfter_eq, huses]

/-- An instruction whose body keeps the marks of its group leaves those of what it names. -/
theorem completes_marked (hv : (issueOf i).Names gd uses out) (hexec : exec i s = .next t)
    (hbody : ∀ k, (s.begun (issueOf i) c sl g cl).group c sl = some k → ∃ h, t.group c sl = some h ∧ SameMarks k h) :
    Completes i s fun t => ∃ h, t.group c sl = some h ∧ Marked gd g h uses out := by
  obtain ⟨k, hk, hm⟩ := marked_begun hv
  obtain ⟨h, hh, hsame⟩ := hbody k hk
  exact ⟨t, hexec, h, hh, hm.congr hsame⟩

end

/-! ### Bodies that keep the marks of their group -/

/-- A result that is written changes no mark (R84). -/
theorem sameMarks_writeLanes {s : State} {c sl : Nat} {k : Group} (hk : s.group c sl = some k) (act : Nat → Bool)
    (f : Nat → List (Loc × Word)) (fl : Nat → Flags) : ∃ h, (s.writeLanes c sl act f fl).group c sl = some h ∧ SameMarks k h := by
  have hlane {l : Nat} (hl : l < 32) :=
    lane_mapLanes k (fun j ln => if act j then (f j).foldl (fun ln w => ln.put w.1 w.2) ln else ln) hl
  refine ⟨_, State.group_onGroup hk _, fun l hl => ?_, fun l hl => ?_, rfl⟩
  · refine (congrArg Lane.dead (hlane hl)).trans ?_
    split
    · exact Lane.dead_puts ..
    · rfl
  · refine (congrArg Lane.pend (hlane hl)).trans ?_
    split
    · exact Lane.pend_puts ..
    · rfl

/-- A result that arrives later has changed no mark yet (R60). -/
theorem sameMarks_defer {s : State} {c sl : Nat} {k : Group} (hk : s.group c sl = some k) (la : Nat) (ws : List LWrite) :
    ∃ h, (s.defer c sl la ws).group c sl = some h ∧ SameMarks k h := by
  refine ⟨_, State.group_defer hk la ws, ?_⟩
  split
  · exact .refl k
  · exact ⟨fun _ _ => rfl, fun _ _ => rfl, rfl⟩

/-- A store that enters its group's queue changes no mark (R218). -/
theorem sameMarks_enqueue {s : State} {c sl : Nat} {k : Group} (hk : s.group c sl = some k) (g : Group) (space : LSpace) (p : Nat)
    (rel : Option Scope) (ws : List StWrite) : ∃ h, (s.enqueue c sl g space p rel ws).group c sl = some h ∧ SameMarks k h := by
  unfold State.enqueue
  split
  · exact ⟨k, hk, .refl k⟩
  · exact ⟨_, State.group_onGroup (s := s.newId.2) hk _, fun _ _ => rfl, fun _ _ => rfl, rfl⟩

theorem State.group_progressIf (s : State) (c sl : Nat) (g : Group) (gd : Guard) : (s.progressIf c g gd).group c sl = s.group c sl := by
  unfold State.progressIf
  split
  · exact State.group_progress ..
  · rfl

section

variable {i : Instr} {s : State} {c sl : Nat} {g : Group} {cl : Clause} {gd : Guard} {f : Group → Nat → List (Loc × Word) × Flags}
  {uses : List (Nat × Bool × Bool)} {out : List Nat}

theorem vecLanes_marked (h : Issues i s c sl g cl) (hexec : exec i s = vecLanes (issueOf i) f s) (hv : (issueOf i).Names gd uses out) :
    Completes i s fun t => ∃ h, t.group c sl = some h ∧ Marked gd g h uses out :=
  completes_marked hv (hexec.trans (issue_next h _)) fun _ hk => sameMarks_writeLanes hk ..

theorem laterLanes_marked (h : Issues i s c sl g cl) (hexec : exec i s = laterLanes (issueOf i) f s)
    (hv : (issueOf i).Names gd uses out) : Completes i s fun t => ∃ h, t.group c sl = some h ∧ Marked gd g h uses out :=
  completes_marked hv (hexec.trans (issue_next h _)) fun _ hk => sameMarks_defer hk ..

end

/-- R136, R137, R218: a store that finds room in its queue and whose accesses fit leaves its marks. -/
theorem stsh_marked {a v : Src} {sem : StSem} {w : Wid} {off : BitVec 10} {sc : Scope} {gd : Guard} {s : State} {c sl : Nat} {g : Group}
    {cl : Clause} (h : Issues (.stsh a v sem w off sc gd) s c sl g cl) (hacc : g.accessing = false) (hroom : g.stq.length < 32)
    (hfits : Fits g gd (effAddr g a (offBytes off)) (widBytes w) (s.shSizeOf c g)) :
    Completes (.stsh a v sem w off sc gd) s fun t => ∃ h, t.group c sl = some h
      ∧ Marked gd g h ((useA a).regs ++ (useN v (widRegs w)).regs) [] := by
  have hpre : stshPre a w off gd c sl g s = .ok := by
    simp [stshPre, accessCheck_ok hfits, holdOr, hacc, hroom]
  have hexec := (exec_stsh s a v sem w off sc gd).trans (issueWith_next h _ _ hpre)
  have huses : [useA a, useN v (widRegs w)].flatMap Use.regs = (useA a).regs ++ (useN v (widRegs w)).regs := by simp
  refine completes_marked (cl := cl) ⟨rfl, rfl, huses, rfl⟩ hexec fun k hk => ?_
  rw [State.group_progressIf]
  exact sameMarks_enqueue hk ..

/-! ### Poison reads (R60, R62, R77, R148, R318) -/

theorem Group.bad_iff (g : Group) (l r : Nat) : g.bad l r = true ↔ g.poisoned l r := by
  simp [Group.bad, Group.poisoned, Group.hidden, and_assoc, or_assoc]

theorem Group.reg_of_poisoned {g : Group} {l r : Nat} (h : g.poisoned l r) : g.reg l r = poison := by
  have ⟨hr, hst, _⟩ := h
  simp [Group.reg, hr, hst, (g.bad_iff l r).2 h]

theorem Group.reg_of_sound {g : Group} {l r : Nat} (h : ¬g.poisoned l r) (hr : r ≠ 255) (hst : (g.lane l).st ≠ .empty) :
    g.reg l r = g.raw l r := by
  simp [Group.reg, hr, hst, Bool.eq_false_iff.2 (mt (g.bad_iff l r).1 h), Group.raw]

/-- An instruction that is active in some lane is no instruction that never acts (R64). -/
theorem neverActs_of_active {g : Group} {gd : Guard} {l : Nat} (h : g.active gd l = true) : neverActs gd = false := by
  by_contra hn
  simp only [neverActs, Bool.not_eq_false, Bool.and_eq_true, decide_eq_true_eq] at hn
  simp [Group.active, Group.guard, Group.pred, hn.1, hn.2] at h

/-- A poison read of a source in an active lane is a poison read of the instruction. -/
theorem badRead_of_poisoned {v : Issue} {g : Group} {l : Nat} {x : Src} (hl : l < 32) (ha : g.active v.guard l = true)
    (hx : useA x ∈ v.uses) (hp : g.poisoned l x.reg.toNat) : badRead v g = true := by
  have hread : (v.uses.any fun u => (readLanes g v.guard u.lanes).any fun i =>
      (List.range u.n).any fun j => g.bad i (u.reg + j)) = true := by
    refine List.any_eq_true.2 ⟨_, hx, List.any_eq_true.2 ⟨l, List.mem_filter.2 ⟨List.mem_range.2 hl, ha⟩, ?_⟩⟩
    exact List.any_eq_true.2 ⟨0, List.mem_range.2 Nat.one_pos, (g.bad_iff ..).2 hp⟩
  simp [badRead, neverActs_of_active ha, hread]

theorem State.block_onGroup (s : State) (c sl b : Nat) (f : Group → Group) : (s.onGroup c sl f).block c b = s.block c b := by
  unfold State.onGroup
  split
  · exact State.block_setGroup ..
  · rfl

theorem State.block_endRun (s : State) (c sl b : Nat) : (s.endRun c sl).block c b = s.block c b := by
  rw [← State.block_onGroup s c sl b fun g => { g with run := 0 }]
  simp [State.endRun, State.onSub, State.block]

/-- The block of a poison read has its sticky flag set (R318). -/
theorem State.poisoned_begun {v : Issue} {s : State} {c sl : Nat} {g : Group} (cl : Clause) (hbad : badRead v g = true) {x : Block}
    (hx : s.block c g.bslot = some x) : ∃ y, (s.begun v c sl g cl).block c g.bslot = some y ∧ y.poisoned = true := by
  refine ⟨{ x with poisoned := true }, ?_, rfl⟩
  unfold State.begun
  simp only [hbad, if_true]
  have hnote (k : Group) : ((s.setGroup c sl k).notePoison c g.bslot).block c g.bslot = some { x with poisoned := true } := by
    simp [State.notePoison, hx]
  split
  · rw [State.block_endRun, hnote]
  · exact hnote _

theorem foldl_or_getLsbD {n : Nat} {α : Type} (f : α → BitVec n) (xs : List α) {b : BitVec n} {k : Nat} (h : b.getLsbD k = true) :
    (xs.foldl (fun b x => b ||| f x) b).getLsbD k = true :=
  List.foldlRecOn xs _ (motive := fun b : BitVec n => b.getLsbD k = true) h fun b hb x _ => by rw [BitVec.getLsbD_or, hb, Bool.true_or]

/-- An instruction that makes a poison read sets POISONRD and its block's flag. -/
theorem vecLanes_poisoned {i : Instr} {s : State} {c sl : Nat} {g : Group} {cl : Clause} {f : Group → Nat → List (Loc × Word) × Flags}
    (h : Issues i s c sl g cl) (hexec : exec i s = vecLanes (issueOf i) f s) (hbad : badRead (issueOf i) g = true) :
    Completes i s fun t => (∃ h, t.group c sl = some h ∧ h.fstat.getLsbD 5 = true)
      ∧ ∀ x, s.block c g.bslot = some x → ∃ y, t.block c g.bslot = some y ∧ y.poisoned = true := by
  obtain ⟨k, hk, -, -, -, hfstat⟩ := group_begun_passed i s c sl g cl
  have hbit : k.fstat.getLsbD 5 = true := by
    rw [hfstat, markedFstat, if_pos hbad, BitVec.getLsbD_or]
    exact Bool.or_true _
  refine ⟨_, hexec.trans (issue_next h _), ⟨_, State.group_onGroup hk _, foldl_or_getLsbD _ _ hbit⟩, fun x hx => ?_⟩
  obtain ⟨y, hy, hpoison⟩ := State.poisoned_begun cl hbad hx
  exact ⟨y, (State.block_onGroup ..).trans hy, hpoison⟩

/-! ### The claim -/

theorem dstN_eq_map (d : Reg) (n : Nat) :
    dstN d n = (if d = 255 then [] else (List.range n).map fun k => d.toNat + k).map Loc.reg := by
  unfold dstN
  split
  · rfl
  · rw [List.map_map]; rfl

/-- The second part of O29. -/
theorem marks : Claims.Marks := by
  intro d a b e ty sat sgn sh rm la sem w off sc gd s c sl g cl use dst mark
  refine ⟨?imad, ?lea, ?frcp, ?stsh, ?poison, ?sound, ?poisonRead⟩
  case imad => exact fun h => vecLanes_marked h (exec_imad s d a b e ty sat gd) ⟨rfl, rfl, rfl, dstN_eq_map d 1⟩
  case lea => exact fun h => vecLanes_marked h (exec_lea s d a b sh sgn gd) ⟨rfl, rfl, rfl, dstN_eq_map d 2⟩
  case frcp => exact fun h => laterLanes_marked h (exec_frcp s d a rm la gd) ⟨rfl, rfl, rfl, dstN_eq_map d 1⟩
  case stsh => exact fun hacc hroom hfits h => stsh_marked h hacc hroom hfits
  case poison => exact fun l r h => g.reg_of_poisoned h
  case sound => exact fun l r h hr hst => g.reg_of_sound h hr hst
  case poisonRead =>
    intro l hl ha hp h
    refine vecLanes_poisoned h (exec_imad s d a b e ty sat gd) ?_
    have hread {x : Src} (hx : x ∈ [a, b, e]) (hp : g.poisoned l x.reg.toNat) : badRead (issueOf (.imad d a b e ty sat gd)) g = true :=
      badRead_of_poisoned hl ha (List.mem_map_of_mem hx) hp
    rcases hp with hp | hp | hp
    · exact hread (by simp) hp
    · exact hread (by simp) hp
    · exact hread (by simp) hp

/-- Settles O29, by its three parts: issue cycles, the marks of an instruction, and results that arrive. -/
theorem issueAndResults : Obligations.IssueAndResults := by
  unfold Obligations.IssueAndResults
  exact ⟨issue_cycles, marks, results_arrive⟩

end Sys2Proof.Machine
end

section

/-!
# A predictor command that is listed under number 0

As `pred` or `pchk` issues, the core's predictor engine begins its oldest command, which may be another one, and reads the record of that
one (R124, R129). The clause of O20 on issue speaks of every table of commands: unlike its clause on results, and unlike what its text
says, it does not ask for `State.numbered`, by which numbers start at 1. An access with the command number 0 is a fetch, or an access of a
system instruction, whose lane field names a slot. So where the engine's oldest command has the number 0, the read of its record acts on
the group in that slot, while the clause says that no other group changes.
-/

namespace Sys2Proof.Machine

/-- `pred` with v4, v6 and v8 as operands. -/
def predPlain : Instr := .pred (plain 4) (plain 6) (plain 8) noGuard

/-- A clause of ENG. -/
def engClause : Clause := loadClause 6 true 0 0

/-- A group with one thread, whose operands are all 0. -/
def predGroup : Group := loadGroup 0 1 engClause

/-- A `pred` of core 0 that the predictor engine has still to begin. Lane 1 gave its operands; its record lies past 2^57. -/
def pastLimit : Cmd := { (default : Cmd) with op := .pred (2 ^ 57) 0 0, mask := BitVec.twoPow 32 1, phase := .waiting }

/-- `predGroup` in slot 0 and a group in slot 1 that waits for its fetch, access 2; the one command is listed under number 0. -/
def zeroNumbered : State :=
  let s := (runs predGroup).setGroup 0 1 { Group.reset with uid := 2, waiting := .fetch 2 }
  { s with cmds := [(0, pastLimit)], next := 0 }

/-- The group in slot 0 is about to issue the `pred`. -/
theorem issues_pred_zeroNumbered : Issues predPlain zeroNumbered 0 0 predGroup engClause :=
  ⟨rfl, rfl, rfl, by decide +kernel, by decide +kernel⟩

/-- The core's engines take a command of that group. -/
theorem engReady_zeroNumbered : EngReady zeroNumbered 0 predGroup noGuard 0 := by
  unfold EngReady EngFree
  decide +kernel

/-- The read of the record takes number 2. It fails as the fetch of the group in slot 1, which then no longer waits. -/
theorem exec_pred_zeroNumbered :
    ∃ t, exec predPlain zeroNumbered = .next t ∧ (t.group 0 1).map (·.waiting) = some .none :=
  ⟨_, rfl, by decide +kernel⟩

/-- Refutes O20: where the predictor engine's oldest command is listed under number 0, which the issue clause does not rule out, a `pred`
changes another group. -/
theorem not_predictor : ¬ Obligations.Predictor := by
  unfold Obligations.Predictor
  rintro ⟨hissue, -⟩
  have hpred := hissue (plain 4) (plain 6) (plain 8) noGuard zeroNumbered 0 0 predGroup engClause 0 engReady_zeroNumbered
    (by decide +kernel) (by decide +kernel) (by decide +kernel) (by decide +kernel) (by decide +kernel)
  obtain ⟨t, ht, ⟨⟨-, -, -, hgroups, -⟩, -, -, -⟩, -⟩ := hpred predPlain _ (.inl ⟨rfl, rfl⟩) issues_pred_zeroNumbered
  obtain ⟨u, hu, hawake⟩ := exec_pred_zeroNumbered
  injection hu.symm.trans ht with e
  subst e
  rw [hgroups 0 1 (by decide)] at hawake
  exact absurd hawake (by decide +kernel)

end Sys2Proof.Machine
end

section

/-!
# The state after reset
-/

namespace Sys2Proof.Machine

/-- Settles O57: the tables of the state after reset hold no core, stack, port or polder, so that each reads its reset values. -/
theorem resetState : Obligations.ResetState := by
  unfold Obligations.ResetState
  refine ⟨State.Inv.reset, rfl, rfl, rfl, by decide, by decide, by decide, by decide, rfl, rfl, rfl, rfl⟩

end Sys2Proof.Machine
end

section

/-!
# What a group's own steps leave of its memories and its block's audit

The addresses, the links and the arguments that an access of a group is worked out from read the same behind the marks of its
instruction; a block that is neither audited nor a re-execution keeps no log and no effect records (R257, R261).
-/

namespace Sys2Proof.Machine

/-! ### Reads that a step of one group keeps -/

theorem State.shBaseOf_eq (s : State) (c : Nat) (g : Group) :
    s.shBaseOf c g = ((s.block c g.bslot).map Block.shBase).getD 0 := by
  unfold State.shBaseOf; cases s.block c g.bslot <;> rfl

theorem State.shSizeOf_eq (s : State) (c : Nat) (g : Group) :
    s.shSizeOf c g = if c ≥ 32 then 262144 else ((s.block c g.bslot).map Block.shSize).getD 0 := by
  unfold State.shSizeOf; cases s.block c g.bslot <;> rfl

namespace OwnGroup

variable {s t : State} {c sl : Nat}

theorem links_eq (h : OwnGroup s t c sl) : t.links = s.links := (congrArg State.links h.others : t.rest.links = s.rest.links)
theorem ir_eq (h : OwnGroup s t c sl) : t.ir = s.ir := (congrArg State.ir h.others : t.rest.ir = s.rest.ir)
theorem boot_eq (h : OwnGroup s t c sl) : t.boot = s.boot := (congrArg State.boot h.others : t.rest.boot = s.rest.boot)
theorem cmds_eq (h : OwnGroup s t c sl) : t.cmds = s.cmds := (congrArg State.cmds h.others : t.rest.cmds = s.rest.cmds)
theorem accs_eq (h : OwnGroup s t c sl) : t.accs = s.accs := (congrArg State.accs h.others : t.rest.accs = s.rest.accs)

theorem shBaseOf (h : OwnGroup s t c sl) (d : Nat) (g : Group) : t.shBaseOf d g = s.shBaseOf d g := by
  rw [State.shBaseOf_eq, State.shBaseOf_eq, h.block_map Block.shBase fun _ => rfl]

theorem shSizeOf (h : OwnGroup s t c sl) (d : Nat) (g : Group) : t.shSizeOf d g = s.shSizeOf d g := by
  rw [State.shSizeOf_eq, State.shSizeOf_eq, h.block_map Block.shSize fun _ => rfl]

theorem linkAvail (h : OwnGroup s t c sl) (d e : Nat) : t.linkAvail d e = s.linkAvail d e := by
  unfold State.linkAvail; rw [h.links_eq]

theorem argBytes (h : OwnGroup s t c sl) (l : Launch) : Machine.argBytes t l = Machine.argBytes s l := by
  unfold Machine.argBytes; rw [h.boot_eq]

theorem originOf (h : OwnGroup s t c sl) (d i : Nat) (g : Group) (k : Cls) : t.originOf d i g k = s.originOf d i g k := by
  have hidx := h.block_map Block.idx (fun _ => rfl) d g.bslot
  unfold State.originOf
  rw [h.launchOf, h.ir_eq]
  cases hs : s.block d g.bslot with
  | none =>
    rw [hs, Option.map_none, Option.map_eq_none_iff] at hidx
    rw [hidx]
  | some x =>
    obtain ⟨y, hy, hrest⟩ := h.block_some hs
    have hxy : y.idx = x.idx := (congrArg Block.idx hrest : y.rest.idx = x.rest.idx)
    simp only [hy, hxy]

theorem spSuppressed (h : OwnGroup s t c sl) (d p w : Nat) (g : Group) (addr : Nat → Int) :
    Machine.spSuppressed t d p w g addr = Machine.spSuppressed s d p w g addr := by
  funext l
  simp only [Machine.spSuppressed, h.polder, h.linkAvail, h.spBase]

theorem unaudited (h : OwnGroup s t c sl) {d : Nat} {g : Group} (hu : Unaudited s d g) : Unaudited t d g := by
  intro y hy
  have hmap := h.block_map (fun x : Block => (x.audit, x.rerun)) (fun _ => rfl) d g.bslot
  rw [hy, Option.map_some, eq_comm, Option.map_eq_some_iff] at hmap
  obtain ⟨x, hx, he⟩ := hmap
  obtain ⟨ha, hr⟩ := hu x hx
  obtain ⟨h1, h2⟩ := Prod.mk.inj he
  exact ⟨h1 ▸ ha, h2 ▸ hr⟩

theorem progressIf (s : State) (c sl : Nat) (g : Group) (gd : Guard) : OwnGroup s (s.progressIf c g gd) c sl := by
  unfold State.progressIf
  split
  · exact .progress s c sl _
  · exact .refl s c sl

end OwnGroup

/-! ### A block that is neither audited nor a re-execution (R257, R261) -/

section

variable {s : State} {c : Nat} {g : Group}

theorem Unaudited.onAudit (h : Unaudited s c g) (f : Audit → Audit) : s.onAudit c g.bslot f = s :=
  State.onAudit_of_unaudited (fun x hx => (h x hx).1) f

theorem Unaudited.auditOf (h : Unaudited s c g) : s.auditOf c g.bslot = none := by
  unfold State.auditOf
  cases hb : s.block c g.bslot with
  | none => rfl
  | some x => simp [(h x hb).1]

theorem Unaudited.onRerun (h : Unaudited s c g) (f : Rerun → Rerun) : s.onRerun c g.bslot f = s := by
  have hnone : s.rerunOf c g.bslot = none := by
    unfold State.rerunOf
    cases hb : s.block c g.bslot with
    | none => rfl
    | some x => simp [(h x hb).2]
  simp [State.onRerun, hnone]

theorem Unaudited.onEffects (h : Unaudited s c g) (gn : Nat) (f : Entries → Entries) : s.onEffects c g.bslot gn f = s := by
  simp only [State.onEffects, h.auditOf, h.onRerun]

theorem Unaudited.audEffect (h : Unaudited s c g) (bytes : List Byte) : s.audEffect c g bytes = s := h.onEffects _ _

theorem Unaudited.audLog (h : Unaudited s c g) (bytes : List Byte) : s.audLog c g bytes = s := h.onAudit _

theorem Unaudited.audPlan (h : Unaudited s c g) {o : Origin} (hc : o.core = c) (hb : o.bslot = g.bslot) (id : Nat) :
    s.audPlan o id = s := by
  simp only [State.audPlan, State.onLog, hc, hb, h.onAudit, h.onEffects]

theorem Unaudited.offAudit (h : Unaudited s c g) : s.offAudit c g.bslot = s := by
  simp only [State.offAudit, h.inRerun, Bool.false_eq_true, if_false, State.audCancel]
  cases hb : s.block c g.bslot with
  | none => rfl
  | some x => simp [(h x hb).1]

theorem Unaudited.newId (h : Unaudited s c g) : Unaudited s.newId.2 c g := h

end

/-! ### A scratchpad access that is entered -/

/-- The parts of a scratchpad access are entered, and no more than its own group has changed (R220, R222, R257). -/
theorem State.deferParts_eq {s : State} {c sl : Nat} {g : Group} (h : Unaudited s c g) {org : Origin} (hc : org.core = c)
    (hb : org.bslot = g.bslot) (la : Nat) (reply : Bool) (ws got : List LWrite) (todo : List SpTodo) :
    s.deferParts c sl org la reply ws got todo = if ws = [] ∧ todo = [] then s else
      s.newId.2.onGroup c sl fun k => { k with inflight := k.inflight ++ [{ id := s.newId.1, window := la, writes := ws, reply := reply
                                                                            lines := [], todo := todo, got := got, org := org }] } := by
  have hplan : (if todo = [] then s.newId.2 else s.newId.2.audPlan org s.newId.1) = s.newId.2 := by
    split
    · rfl
    · exact h.newId.audPlan hc hb _
  unfold State.deferParts
  simp only [Bool.and_eq_true, decide_eq_true_eq, hplan]

/-- What entering the parts of an access leaves of a group that has passed its instruction. -/
theorem later_deferParts {i : Instr} {s u : State} {c sl : Nat} {g k : Group} (hu : OwnGroup s u c sl) (haud : Unaudited u c g)
    (hk : u.group c sl = some k) (hn : u.next = s.next) (hp : Passed i g k) (hr : ∀ l < 32, ∀ r, k.raw l r = g.raw l r)
    (hq : ∀ l < 32, ∀ p, k.rawPred l p = g.rawPred l p) (hf : k.fstat = markedFstat i g) {org : Origin} (hc : org.core = c)
    (hb : org.bslot = g.bslot) (reply : Bool) (ws got : List LWrite) (todo : List SpTodo) :
    Later i s (u.deferParts c sl org ((issueOf i).la.getD 0) reply ws got todo) c sl g ws
      ∧ (ws ≠ [] ∨ todo ≠ [] → ∃ h, (u.deferParts c sl org ((issueOf i).la.getD 0) reply ws got todo).group c sl = some h
        ∧ ∃ f ∈ h.inflight, f.id = s.newId.1 ∧ f.reply = reply ∧ f.writes = ws ∧ f.todo = todo) := by
  rw [State.deferParts_eq haud hc hb]
  split
  · next hnone =>
    obtain ⟨rfl, rfl⟩ := hnone
    exact ⟨⟨hu, k, hk, hp, hr, hq, hf, fun h => absurd rfl h⟩, fun h => by simp at h⟩
  · have hgroup := State.group_onGroup (s := u.newId.2) (sl := sl) hk fun k => { k with inflight := k.inflight ++ [{
      id := u.newId.1, window := (issueOf i).la.getD 0, writes := ws, reply := reply, lines := [], todo := todo, got := got, org := org }] }
    have hid : u.newId.1 = s.newId.1 := congrArg (· + 1) hn
    exact ⟨⟨hu.trans ((OwnGroup.newId ..).trans (.onGroup ..)), _, hgroup, ⟨hp.pc, hp.rest, hp.lanes⟩, hr, hq, hf,
        fun _ => ⟨_, List.mem_append_right _ (List.mem_singleton.2 rfl), hid, rfl, rfl⟩⟩,
      fun _ => ⟨_, hgroup, _, List.mem_append_right _ (List.mem_singleton.2 rfl), hid, rfl, rfl, rfl⟩⟩

end Sys2Proof.Machine
end

section

/-!
# Loads from shared memory, the argument block and the scratchpad (R136, R140, R220, R229 to R231)
-/

namespace Sys2Proof.Machine

/-! ### Loads issue -/

/-- A load's results, where the words it reads are `v` in a lane that is not suppressed. -/
theorem loadResults_eq_loaded {g : Group} {gd : Guard} {d : Reg} {n : Nat} {quiet : Nat → Bool} {rd v : Nat → Nat → Word}
    (h : ∀ l k, (if quiet l then 0 else rd l k) = v l k) : loadResults g gd d.toNat n quiet rd = loaded g gd d n v := by
  simp only [loadResults, loaded, laneResults, h, List.map_map, Function.comp_def]

/-- R136, R137, R142, R220: the two halves of the claim are `ldsh`, whose words its store queue forwards, and `ldc`. -/
theorem shared_loads : Claims.SharedLoads := by
  intro d a sem w off sc la gd s c sl g cl
  refine ⟨?_, ?_⟩
  · rintro i rfl h hacc hfits
    have hpre : ldshPre a w off gd c sl g s = .ok := by
      rw [ldshPre, accessCheck_ok (addr := effAddr g a off.toInt) hfits, hacc]; rfl
    have hf := OwnGroup.begun (issueOf (.ldsh d a sem w off sc la gd)) s c sl g cl
    refine ⟨_, (exec_ldsh ..).trans (issueWith_next h _ _ hpre), ?_⟩
    dsimp only
    rw [hf.shBaseOf, hf.shSizeOf, loadResults_eq_loaded fun l k => by rw [State.shLoad, hf.sh_eq]]
    exact later_of_defer _ (.refl ..) rfl (State.next_begun ..)
  · rintro i rfl h hfits
    have hpre : ldcPre a w off gd c sl g s = .ok := accessCheck_ok (addr := effAddr g a off.toInt) hfits _
    have hf := OwnGroup.begun (issueOf (.ldc d a w off la gd)) s c sl g cl
    refine ⟨_, (exec_ldc ..).trans (issueWith_next h _ _ hpre), ?_⟩
    dsimp only
    rw [hf.launchOf, hf.argBytes, loadResults_eq_loaded fun l k => by rw [wordAt, Nat.zero_add]]
    exact later_of_defer _ (.refl ..) rfl (State.next_begun ..)

/-- A scratchpad access of a block that is neither audited nor a re-execution finds no fault where it fits and its home dies are
reached (R142, R329). -/
theorem spCheck_ok {s : State} {c w : Nat} {g : Group} {gd : Guard} {addr : Nat → Int} (hu : Unaudited s c g)
    (hfits : Fits g gd addr w (s.polder (s.launchOf c g).polder).spSize) (hl : Linked s c g gd addr) :
    spCheck s c g gd w addr = .ok := by
  simp [spCheck, accessCheck_ok hfits, hu.inRerun, linkCheck_ok hl, Check.andThen]

/-- R133, R136, R142, R220: `ldsp` enters its words as parts. -/
theorem scratchpad_loads : Claims.ScratchpadLoads := by
  intro d a sem w off sc la gd s c sl g cl i addr p acq parts ws h hacc hu hfits hl
  have hpre : ldspPre a w off gd c sl g s = .ok := by
    rw [ldspPre, spCheck_ok (addr := effAddr g a off.toInt) hu hfits hl, hacc]; rfl
  have hf := OwnGroup.begun (issueOf i) s c sl g cl
  have hbegun := hf.unaudited hu
  obtain ⟨k, hk, hp, hr, hq, hfst⟩ := group_begun_passed i s c sl g cl
  have hws : ∀ quiet, loadResults g gd d.toNat (widRegs w) quiet (fun _ _ => 0) = ws := fun quiet =>
    loadResults_eq_loaded fun l k => ite_self _
  refine ⟨_, (exec_ldsp ..).trans (issueWith_next h _ _ hpre), ?_⟩
  dsimp only
  rw [hbegun.inRerun, if_neg Bool.false_ne_true, hbegun.audLog, ite_self, hf.launchOf, hf.spSuppressed, hf.spBase, hws]
  obtain ⟨hlater, hparts⟩ := later_deferParts (i := i) hf hbegun hk (State.next_begun ..) hp hr hq hfst
    (org := (s.begun (issueOf i) c sl g cl).originOf c sl g .cpy) rfl rfl false ws
    (ws.filter fun x => spSuppressed s c p (widBytes w) g addr x.lane) parts
  refine ⟨hlater, fun hne => ?_⟩
  obtain ⟨h', hg', f, hf', hid, -, hwr, htodo⟩ := hparts (.inl hne)
  exact ⟨h', hg', f, hf', hid, hwr, htodo⟩

/-! ### Parts of an access (R218, R220) -/

/-- The one part of its lane is the next one. -/
theorem State.pickPart_only {α : Type} (s : State) (lane : α → Nat) {x : α} {xs : List α} (h : ∀ y ∈ xs, lane y ≠ lane x) :
    s.pickPart lane (x :: xs) = (some x, s) := by
  have hnone : xs.filter (fun y => decide (lane y = lane x)) = [] := by
    rw [List.filter_eq_nil_iff]
    exact fun y hy => by simpa using h y hy
  simp [State.pickPart, hnone]

/-- Where no atomic of a core has begun that an access comes behind, nothing is settled (R219, R222). -/
theorem State.settleReplies_none {s : State} {c but : Nat}
    (h : ∀ e ∈ (s.core c).groups, ∀ f ∈ e.2.inflight, f.reply = true → f.id = but) : s.settleReplies c but = s := by
  have hnone : ∀ e ∈ (s.core c).groups, (e.2.inflight.filter fun f => f.reply && f.lines ≠ [] && f.id ≠ but) = [] := by
    intro e he
    rw [List.filter_eq_nil_iff]
    intro f hf
    cases hr : f.reply with
    | false => simp
    | true => simp [h e he f hf hr]
  have key (es : List (Nat × Group)) (hes : ∀ e ∈ es, e ∈ (s.core c).groups) : es.foldl (init := s) (fun s e =>
      (e.2.inflight.filter fun f => f.reply && f.lines ≠ [] && f.id ≠ but).foldl (init := s) fun s f =>
        if s.partsReach c f then (f.todo.foldl (fun s t => s.applyAtom c e.1 f.id t) s).replyLand c e.1 f.id
        else (s.setCore c ((s.core c).cacheWords f.lines)).onFlight c e.1 f.id fun f => { f with lines := [] }) = s := by
    induction es with
    | nil => rfl
    | cons e es ih =>
      rw [List.foldl_cons, hnone e (hes e List.mem_cons_self), List.foldl_nil]
      exact ih fun x hx => hes x (List.mem_cons_of_mem _ hx)
  exact key _ fun e he => he

/-- The words that a core's die has sent to a die, written there in order (R219, R230). -/
def State.homeMemory (s : State) (c d : Nat) : Memory :=
  (s.linkQ.filter fun x => dieOf x.core = dieOf c && decide (homeDie x.word.addr = d)).foldl
    (fun m x => mset32 m x.word.addr x.word.val) s.sp

/-- A later access of the core comes behind the words that its die has sent to the home die; no watch waits for them. -/
theorem State.flushDie_eq (s : State) (c d : Nat) (h : s.lwatches = []) : ∃ r q, s.flushDie c d
    = { s with linkQ := q, sp := s.homeMemory c d, reports := r } := by
  obtain ⟨r, hr⟩ := State.foldl_writeSent_eq (s.linkQ.filter fun x => dieOf x.core = dieOf c && x.die = d) s h
  exact ⟨r, _, hr⟩

/-- A state whose groups, memories of cores and main memory are those of another: what an access at a home die leaves. -/
structure SameGroups (s t : State) : Prop where
  groups : ∀ d j, t.group d j = s.group d j
  memory : t.mem = s.mem

theorem SameGroups.refl (s : State) : SameGroups s s := ⟨fun _ _ => rfl, rfl⟩

theorem SameGroups.trans {s t u : State} (h : SameGroups s t) (k : SameGroups t u) : SameGroups s u :=
  ⟨fun d j => (k.groups d j).trans (h.groups d j), k.memory.trans h.memory⟩

theorem AuditOnly.sameGroups {s t : State} (h : AuditOnly s t) : SameGroups s t := ⟨h.group, h.sameMemory.memory⟩

/-- A core that keeps its groups. -/
theorem SameGroups.setCore (s : State) (c : Nat) {k : Core} (h : k.groups = (s.core c).groups) : SameGroups s (s.setCore c k) where
  memory := rfl
  groups d j := by
    by_cases hd : d = c
    · subst hd; simp [State.group, h]
    · simp [State.group, hd]

theorem SameGroups.dropLines (s : State) (c : Nat) : SameGroups s (s.dropLines c) := .setCore s c rfl

theorem SameGroups.flight {s t : State} (h : SameGroups s t) (c sl id : Nat) : t.flight c sl id = s.flight c sl id := by
  unfold State.flight; rw [h.groups]

/-- A line that leaves a full cache takes nothing else with it. -/
theorem State.evictLine_keeps (s : State) (c : Nat) : SameGroups s (s.evictLine c) ∧ (s.evictLine c).sp = s.sp := by
  unfold State.evictLine
  dsimp only
  split
  · exact ⟨.refl s, rfl⟩
  · exact ⟨.trans (t := s.fresh.2) ⟨fun _ _ => rfl, rfl⟩ (.setCore s.fresh.2 c rfl), rfl⟩

/-- A word read at its home die, behind what the core's die has sent there (R219, R230). -/
theorem State.spFetch_spec {s : State} {c : Nat} (p : Nat) (cached : Bool) (a : Nat) (hw : s.lwatches = [])
    (hq : ∀ e ∈ (s.core c).groups, ∀ f ∈ e.2.inflight, f.reply = false) :
    (s.spFetch c p cached a).1 = mget32 (s.homeMemory c (homeDie a)) a ∧ SameGroups s (s.spFetch c p cached a).2 := by
  obtain ⟨r, q, hflush⟩ := s.flushDie_eq c (homeDie a) hw
  have hhome : s.atHome c (homeDie a) = { s with linkQ := q, sp := s.homeMemory c (homeDie a), reports := r } := by
    rw [State.atHome, State.settleReplies_none fun e he f hf hr => by simp [hq e he f hf] at hr, hflush]
  have hsame : SameGroups s { s with linkQ := q, sp := s.homeMemory c (homeDie a), reports := r } := ⟨fun _ _ => rfl, rfl⟩
  unfold State.spFetch
  rw [hhome]
  cases cached with
  | false => exact ⟨rfl, hsame⟩
  | true =>
    simp only [if_true]
    split
    · exact ⟨rfl, hsame.trans (.setCore _ c rfl)⟩
    · obtain ⟨hg, hsp⟩ := State.evictLine_keeps { s with linkQ := q, sp := s.homeMemory c (homeDie a), reports := r } c
      exact ⟨by rw [hsp], hsame.trans (hg.trans (.setCore _ c rfl))⟩

/-- An instruction under way is found first by its number in the list in which it has been rewritten. -/
theorem find?_map_id {xs : List InFlight} {id : Nat} {f : InFlight} (h : xs.find? (·.id = id) = some f) (k : InFlight → InFlight)
    (hk : ∀ x, (k x).id = x.id) : (xs.map fun x => if x.id = id then k x else x).find? (·.id = id) = some (k f) := by
  rw [List.find?_map]
  have hid : ((fun x : InFlight => decide (x.id = id)) ∘ fun x => if x.id = id then k x else x) = fun x => decide (x.id = id) := by
    funext x
    by_cases hx : x.id = id <;> simp [hx, hk]
  rw [hid, h]
  have : f.id = id := by simpa using List.find?_some h
  simp [this]

/-- An instruction of a group that is rewritten under its number. -/
theorem State.flight_onFlight {s : State} {c sl id : Nat} {f : InFlight} (h : s.flight c sl id = some f) (k : InFlight → InFlight)
    (hk : ∀ x, (k x).id = x.id) : (s.onFlight c sl id k).flight c sl id = some (k f) := by
  unfold State.flight at h ⊢
  cases hg : s.group c sl with
  | none => simp [hg] at h
  | some g =>
    rw [hg, Option.bind_some] at h
    rw [State.onFlight, State.group_onGroup hg, Option.bind_some]
    exact find?_map_id h k hk

theorem State.mem_onGroup (s : State) (c sl : Nat) (f : Group → Group) : (s.onGroup c sl f).mem = s.mem := by
  unfold State.onGroup; split <;> rfl

theorem State.sp_onGroup (s : State) (c sl : Nat) (f : Group → Group) : (s.onGroup c sl f).sp = s.sp := by
  unfold State.onGroup; split <;> rfl

/-- What a load's word fills in: the result of that lane and register. -/
theorem InFlight.fill_one (f : InFlight) (lane r : Nat) (v : Word) : (f.fill lane [(r, v)]).writes
    = f.writes.map fun w => if w.lane = lane ∧ w.loc = .reg r then { w with val := v } else w := by
  unfold InFlight.fill
  refine List.map_congr_left fun w _ => ?_
  by_cases h : w.lane = lane ∧ w.loc = .reg r
  · simp [h]
  · simp [h]

/-- A word of a load has come: its part is over, and its register's result has the value (R220). -/
theorem State.loaded_spec {s : State} {c sl id : Nat} {f : InFlight} (t : SpTodo) (r : Nat) (v : Word)
    (hf : s.flight c sl id = some f) : ∃ f', (s.loaded c sl id t r v).flight c sl id = some f' ∧ f'.todo = f.todo.erase t
      ∧ (s.loaded c sl id t r v).mem = s.mem
      ∧ f'.writes = f.writes.map (fun w => if w.lane = t.lane ∧ w.loc = .reg r then { w with val := v } else w) := by
  have hflight := State.flight_onFlight hf (fun f => { f.fill t.lane [(r, v)] with
      todo := f.todo.erase t, got := f.got ++ [{ lane := t.lane, loc := .reg r, val := v, flags := 0 }] }) fun _ => rfl
  refine ⟨{ f.fill t.lane [(r, v)] with
      todo := f.todo.erase t, got := f.got ++ [{ lane := t.lane, loc := .reg r, val := v, flags := 0 }] }, ?_, rfl, ?_,
    InFlight.fill_one ..⟩
  all_goals
    unfold State.loaded
    simp only [hflight]
    split
  · exact ((AuditOnly.onLog ..).sameGroups.flight c sl id).trans hflight
  · exact hflight
  · exact (AuditOnly.onLog ..).sameGroups.memory.trans (State.mem_onGroup ..)
  · exact State.mem_onGroup ..

/-- Where the next word of a load comes from (R220, R231): `home` is what its home die holds behind the words sent there. -/
structure WordOf (s : State) (c : Nat) (g : Group) (t : SpTodo) (cached : Bool) (home : Memory) (v : Word) : Prop where
  queued : ∀ x, forward g.stq .sp t.addr = some x → v = x
  read   : forward g.stq .sp t.addr = none → v = mget32 home t.addr
    ∨ (cached = true ∧ ∃ ln, tfind (s.core c).rcache (t.addr / 64) = some ln ∧ ln.polder = (s.launchOf c g).polder
      ∧ s.clock - ln.filled ≤ 65536 ∧ v = BitVec.ofNat 32 (bfield ln.bytes (t.addr % 64) 4))

/-- A word that needs no home die is the youngest queued store's, or that of a line that may serve the load. -/
theorem wordOf_spServed {s : State} {c : Nat} {g : Group} {t : SpTodo} {cached : Bool} {v : Word} (home : Memory)
    (h : s.spServed c g (s.launchOf c g).polder cached t.addr = some v) : WordOf s c g t cached home v := by
  unfold State.spServed at h
  cases hfw : forward g.stq .sp t.addr with
  | some x =>
    rw [hfw] at h
    cases h
    exact ⟨fun y hy => Option.some.inj (hfw.symm.trans hy), fun hn => by rw [hfw] at hn; cases hn⟩
  | none =>
    rw [hfw] at h
    refine ⟨fun y hy => (by rw [hfw] at hy; cases hy), fun _ => .inr ?_⟩
    dsimp only at h
    split at h
    · next ln hline =>
      split at h
      · next hmay =>
        cases h
        exact ⟨rfl, ln, hline, hmay.1, hmay.2, rfl⟩
      · cases h
    · cases h

/-- A word that is not served so is read at its home die. -/
theorem wordOf_home {s : State} {c : Nat} {g : Group} {t : SpTodo} {cached : Bool} {home : Memory}
    (h : s.spServed c g (s.launchOf c g).polder cached t.addr = none) : WordOf s c g t cached home (mget32 home t.addr) := by
  refine ⟨fun y hy => ?_, fun _ => .inl rfl⟩
  simp [State.spServed, hy] at h

theorem State.launchOf_dropLines (s : State) (c : Nat) (g : Group) : (s.dropLines c).launchOf c g = s.launchOf c g := by
  simp [State.launchOf, State.block, State.dropLines]

/-- The state in which a part begins: an acquire has dropped the lines of the read cache (R231). -/
def State.acquired (s : State) (c : Nat) (t : SpTodo) : State := if t.acq then s.dropLines c else s

theorem State.acquired_keeps (s : State) (c : Nat) (t : SpTodo) : SameGroups s (s.acquired c t)
    ∧ (s.acquired c t).lwatches = s.lwatches ∧ (s.acquired c t).linkQ = s.linkQ ∧ (s.acquired c t).sp = s.sp
    ∧ (s.acquired c t).clock = s.clock ∧ ((s.acquired c t).core c).groups = (s.core c).groups
    ∧ ∀ g, (s.acquired c t).launchOf c g = s.launchOf c g := by
  unfold State.acquired
  split
  · exact ⟨.dropLines s c, rfl, rfl, rfl, rfl, by simp [State.dropLines], s.launchOf_dropLines c⟩
  · exact ⟨.refl s, rfl, rfl, rfl, rfl, rfl, fun _ => rfl⟩

/-- A line of the cache behind an acquire is one from before. -/
theorem State.rcache_acquired {s : State} {c : Nat} {t : SpTodo} {n : Nat} {ln : CLine}
    (h : tfind ((s.acquired c t).core c).rcache n = some ln) : tfind (s.core c).rcache n = some ln := by
  unfold State.acquired at h
  split at h
  · simp [State.dropLines] at h
  · exact h

theorem WordOf.of_acquired {s : State} {c : Nat} {g : Group} {t : SpTodo} {cached : Bool} {home : Memory} {v : Word}
    (h : WordOf (s.acquired c t) c g t cached home v) : WordOf s c g t cached home v := by
  obtain ⟨-, -, -, -, hclock, -, hlaunch⟩ := s.acquired_keeps c t
  refine ⟨h.queued, fun hn => (h.read hn).imp_right ?_⟩
  rintro ⟨hc, ln, hline, hp, hage, hv⟩
  exact ⟨hc, ln, State.rcache_acquired hline, hp.trans (by rw [hlaunch]), by rwa [hclock] at hage, hv⟩

/-- The next part of an access whose lane has no other part left is performed, where its link carries traffic. -/
theorem State.performPart_next {s : State} {c sl id : Nat} {f : InFlight} {t : SpTodo} {rest : List SpTodo}
    (hf : s.flight c sl id = some f) (htodo : f.todo = t :: rest) (hlanes : ∀ u ∈ rest, u.lane ≠ t.lane)
    (hlink : s.linkAvail (dieOf c) (homeDie t.addr) = .yes) : s.performPart c sl id = s.doPart c sl id t := by
  simp [State.performPart, hf, htodo, State.pickPart_only s SpTodo.lane hlanes, hlink]

/-- A word of a load is performed: it comes from where R220 and R231 say. -/
theorem State.doPart_load {s : State} {c sl id r : Nat} {g : Group} {f : InFlight} {t : SpTodo} {cached : Bool}
    (hg : s.group c sl = some g) (hf : s.flight c sl id = some f) (hop : t.op = .load r cached)
    (hlink : s.linkAvail (dieOf c) (homeDie t.addr) = .yes) (hw : s.lwatches = [])
    (hq : ∀ e ∈ (s.core c).groups, ∀ f ∈ e.2.inflight, f.reply = false) :
    ∃ v u, s.doPart c sl id t = u.loaded c sl id t r v ∧ SameGroups s u
      ∧ WordOf s c g t cached (s.homeMemory c (homeDie t.addr)) v := by
  obtain ⟨hsame, hlw, hlq, hsp, -, hgroups, -⟩ := s.acquired_keeps c t
  have hhome : (s.acquired c t).homeMemory c (homeDie t.addr) = s.homeMemory c (homeDie t.addr) := by
    simp only [State.homeMemory, hlq, hsp]
  unfold State.doPart
  simp only [hg, hf, hop, hlink, reduceCtorEq, decide_false, Bool.false_and, Bool.false_eq_true, if_false]
  change ∃ v u, (match (s.acquired c t).spServed c g ((s.acquired c t).launchOf c g).polder cached t.addr with
    | some v => (s.acquired c t).loaded c sl id t r v
    | none => ((s.acquired c t).spFetch c ((s.acquired c t).launchOf c g).polder cached t.addr).2.loaded c sl id t r
        ((s.acquired c t).spFetch c ((s.acquired c t).launchOf c g).polder cached t.addr).1) = _ ∧ _
  cases hserved : (s.acquired c t).spServed c g ((s.acquired c t).launchOf c g).polder cached t.addr with
  | some v => exact ⟨v, _, rfl, hsame, (wordOf_spServed _ hserved).of_acquired⟩
  | none =>
    obtain ⟨hv, hkeep⟩ := State.spFetch_spec ((s.acquired c t).launchOf c g).polder cached t.addr (hlw.trans hw)
      (by rw [hgroups]; exact hq)
    refine ⟨_, _, rfl, hsame.trans hkeep, ?_⟩
    rw [hv, hhome]
    exact (wordOf_home hserved).of_acquired

/-- R220, R229 to R231: the next word of a scratchpad load. -/
theorem scratchpad_words : Claims.ScratchpadWords := by
  intro s c sl id r g f t cached rest home hg hf htodo hlanes hop hlink hw hq
  obtain ⟨v, u, hpart, hsame, hword⟩ := State.doPart_load hg hf hop hlink hw hq
  obtain ⟨f', hf', htodo', hmem, hwrites⟩ := State.loaded_spec t r v ((hsame.flight c sl id).trans hf)
  rw [State.performPart_next hf htodo hlanes hlink, hpart]
  refine ⟨v, f', hf', ?_, hmem.trans hsame.memory, hwrites, hword.queued, hword.read⟩
  rw [htodo', htodo, List.erase_cons_head]

/-- Settles O7, by its three parts. -/
theorem localLoads : Obligations.LocalLoads := by
  unfold Obligations.LocalLoads
  exact ⟨shared_loads, scratchpad_loads, scratchpad_words⟩

end Sys2Proof.Machine
end

section

/-!
# Stores enter their queue and are performed in order (R136, R137, R218, R219, R228 to R230)
-/

namespace Sys2Proof.Machine

/-! ### Instructions that write no register -/

/-- Poison reads depend on the lanes of a group and on its results on their way alone (R60, R62, R148). -/
theorem markedFstat_congr {i : Instr} {g k : Group} (hl : k.lanes = g.lanes) (hi : k.inflight = g.inflight)
    (hf : k.fstat = g.fstat) : markedFstat i k = markedFstat i g := by
  cases g; cases k
  simp only at hl hi hf
  subst hl hi hf
  rfl

/-- The effect of an instruction that writes no register or predicate, on a group that is `k` but for the instruction's marks. -/
theorem wrote_nothing {i : Instr} {gd : Guard} {s t : State} {c sl : Nat} {k h : Group} (hframe : OwnGroup s t c sl)
    (hg : t.group c sl = some h) (hp : Passed i k h) (hr : ∀ l < 32, ∀ r, h.raw l r = k.raw l r)
    (hq : ∀ l < 32, ∀ p, h.rawPred l p = k.rawPred l p) (hf : h.fstat = markedFstat i k) :
    Wrote i gd s t c sl k (fun _ => []) (fun _ => 0) := by
  refine ⟨hframe, h, hg, hp, fun _ _ _ _ _ _ hw => (nomatch hw), fun _ _ _ _ _ _ hw => (nomatch hw), fun l hl r _ => hr l hl r,
    fun l hl p _ => hq l hl p, ?_⟩
  rw [hf]
  refine (foldl_keeps id (fun b _ => ?_) _ _).symm
  simp [fstatOf]

/-! ### A store enters its queue -/

section

variable (g : Group) (n : Nat) (org : Origin) (space : LSpace) (p : Nat) (rel : Option Scope) (ws : List StWrite)

theorem Group.rest_queued : (g.queued n org space p rel ws).rest = g.rest.queued n org space p rel ws := by
  unfold Group.queued; split <;> rfl

theorem Group.queued_keeps : (g.queued n org space p rel ws).pc = g.pc ∧ (g.queued n org space p rel ws).lanes = g.lanes
    ∧ (g.queued n org space p rel ws).fstat = g.fstat ∧ (g.queued n org space p rel ws).inflight = g.inflight := by
  unfold Group.queued; split <;> exact ⟨rfl, rfl, rfl, rfl⟩

theorem Group.lane_queued (l : Nat) : (g.queued n org space p rel ws).lane l = g.lane l := by
  unfold Group.queued; split <;> rfl

end

theorem State.group_enqueue {s : State} {c sl : Nat} {k : Group} (hk : s.group c sl = some k) (g : Group) (space : LSpace) (p : Nat)
    (rel : Option Scope) (ws : List StWrite) : (s.enqueue c sl g space p rel ws).group c sl
      = some (k.queued s.newId.1 (s.originOf c sl g .cpy) space p rel ws) := by
  unfold State.enqueue Group.queued
  split
  · exact hk
  · exact State.group_onGroup (s := s.newId.2) hk _

theorem OwnGroup.enqueue (s : State) (c sl : Nat) (g : Group) (space : LSpace) (p : Nat) (rel : Option Scope) (ws : List StWrite) :
    OwnGroup s (s.enqueue c sl g space p rel ws) c sl := by
  unfold State.enqueue
  split
  · exact .refl s c sl
  · exact (OwnGroup.newId s c sl).trans (.onGroup ..)

/-- A store's entry stands at the end of its group's queue, and nothing else of the group has changed but for the marks. -/
theorem wrote_queued (i : Instr) (gd : Guard) (s : State) (c sl : Nat) (g : Group) (cl : Clause) (space : LSpace) (p : Nat)
    (rel : Option Scope) (ws : List StWrite) : Wrote i gd s
      (((s.begun (issueOf i) c sl g cl).enqueue c sl g space p rel ws).progressIf c g gd) c sl
      (g.queued s.newId.1 (s.originOf c sl g .cpy) space p rel ws) (fun _ => []) (fun _ => 0) := by
  have hf := OwnGroup.begun (issueOf i) s c sl g cl
  obtain ⟨k, hk, hp, hr, hq, hfst⟩ := group_begun_passed i s c sl g cl
  obtain ⟨-, hlanes, hfstat, hin⟩ := g.queued_keeps s.newId.1 (s.originOf c sl g .cpy) space p rel ws
  obtain ⟨hpc, -, hfk, -⟩ := k.queued_keeps s.newId.1 (s.originOf c sl g .cpy) space p rel ws
  have hgroup := State.group_enqueue hk g space p rel ws
  have hid : (s.begun (issueOf i) c sl g cl).newId.1 = s.newId.1 := congrArg (· + 1) (State.next_begun ..)
  rw [hf.originOf, hid] at hgroup
  refine wrote_nothing (hf.trans ((OwnGroup.enqueue ..).trans (.progressIf ..))) ((State.group_progressIf ..).trans hgroup)
    ⟨?_, ?_, fun l hl => ?_⟩ (fun l hl r => ?_) (fun l hl r => ?_) ?_
  · rw [hpc, hp.pc, (g.queued_keeps ..).1]
  · rw [Group.rest_queued, Group.rest_queued, hp.rest]
  · rw [Group.lane_queued, Group.lane_queued, hp.lanes l hl]
  · rw [Group.raw, Group.raw, Group.lane_queued, Group.lane_queued]; exact hr l hl r
  · rw [Group.rawPred, Group.rawPred, Group.lane_queued, Group.lane_queued]; exact hq l hl r
  · rw [hfk, hfst, markedFstat_congr hlanes hin hfstat]

/-- R136, R137, R218: `stsh` and `stsp` enter one entry. -/
theorem stores_issue : Claims.Stores := by
  intro a v sem w off sc gd s c sl g cl addr p rel words hacc hroom
  have hhold : (g.accessing || decide (g.stq.length ≥ 32)) = false := by simp [hacc, hroom]
  refine ⟨?_, ?_⟩
  · rintro i rfl h hfits
    have hpre : stshPre a w off gd c sl g s = .ok := by
      rw [stshPre, accessCheck_ok (addr := effAddr g a (offBytes off)) hfits, hhold]; rfl
    have hf := OwnGroup.begun (issueOf (.stsh a v sem w off sc gd)) s c sl g cl
    refine ⟨_, (exec_stsh ..).trans (issueWith_next h _ _ hpre), ?_⟩
    dsimp only
    rw [hf.launchOf, hf.shBaseOf]
    exact wrote_queued ..
  · rintro i rfl h hu hfits hl
    have hpre : stspPre a w off gd c sl g s = .ok := by
      rw [stspPre, spCheck_ok (addr := effAddr g a (offBytes off)) hu hfits hl, hhold]; rfl
    have hf := OwnGroup.begun (issueOf (.stsp a v sem w off sc gd)) s c sl g cl
    have hbegun := hf.unaudited hu
    refine ⟨_, (exec_stsp ..).trans (issueWith_next h _ _ hpre), ?_⟩
    dsimp only
    rw [hbegun.inRerun, if_neg Bool.false_ne_true, hf.launchOf, hf.spBase,
      ((OwnGroup.enqueue ..).unaudited hbegun).audEffect]
    exact wrote_queued ..

/-! ### Words of shared memory -/

/-- Words that threads write to a core's shared memory, in order: its matrix path may still see the values before (R119). -/
theorem State.foldl_shWord {α : Type} (at' : α → Nat) (val : α → Word) (xs : List α) (s : State) (c : Nat) :
    ∃ hist, (xs.foldl (fun s x => s.shWord c (at' x) (val x)) s).core c
        = { s.core c with sh := xs.foldl (fun m x => mset32 m (at' x) (val x)) (s.core c).sh, mxHist := hist }
      ∧ (∀ d, d ≠ c → (xs.foldl (fun s x => s.shWord c (at' x) (val x)) s).core d = s.core d)
      ∧ (xs.foldl (fun s x => s.shWord c (at' x) (val x)) s).offCores = s.offCores := by
  induction xs generalizing s with
  | nil => exact ⟨_, rfl, fun _ _ => rfl, rfl⟩
  | cons x xs ih =>
    obtain ⟨hist, hcore, hne, hoff⟩ := ih (s.shWord c (at' x) (val x))
    refine ⟨hist, ?_, fun d hd => ?_, ?_⟩
    · rw [List.foldl_cons, List.foldl_cons, hcore]
      simp [State.shWord]
    · rw [List.foldl_cons, hne d hd]
      simp [State.shWord, hd]
    · rw [List.foldl_cons, hoff]
      rfl

theorem State.group_of_groups {s t : State} (h : ∀ d, (t.core d).groups = (s.core d).groups) (d j : Nat) :
    t.group d j = s.group d j := by
  rw [State.group, State.group, h]

theorem State.group_onGroup_ne {s : State} {c sl : Nat} (f : Group → Group) {d j : Nat} (h : ¬(d = c ∧ j = sl)) :
    (s.onGroup c sl f).group d j = s.group d j := (OwnGroup.onGroup s c sl f).groups d j h

theorem State.sh_onGroup (s : State) (c sl : Nat) (f : Group → Group) (d : Nat) :
    ((s.onGroup c sl f).core d).sh = (s.core d).sh := (OwnGroup.onGroup s c sl f).sh_eq d

theorem State.linkQ_onGroup (s : State) (c sl : Nat) (f : Group → Group) : (s.onGroup c sl f).linkQ = s.linkQ :=
  (OwnGroup.onGroup s c sl f).linkQ_eq

/-! ### Stores are performed -/

theorem mayPerform_iff {s : State} {e : StEntry} :
    s.mayPerform e = true ↔ ∀ sc, e.rel = some sc → s.relReady e.owner e.after sc = true := by
  unfold State.mayPerform
  cases e.rel <;> simp

/-- The head of a group's queue, in a state in which it may be performed, and where it may not. -/
theorem exec_storePerform_head {s : State} {c sl : Nat} {g : Group} {e : StEntry} {r : List StEntry} (hsl : sl < 64)
    (hg : s.group c sl = some g) (hq : g.stq = e :: r) : exec (.storePerform (.queue c sl)) s = .next (if s.mayPerform e then
      (s.performEntry c e).2.onGroup c sl fun g => { g with stq := (s.performEntry c e).1.toList ++ r } else s) := by
  rw [exec_storePerform]
  simp only [execStorePerform, hsl, if_true, hg, hq]

/-- A word of a scratchpad entry whose home die is not cut off, where no atomic of the core is on its way: it is written at the
core's own die, or goes on a link (R219, R228, R230). -/
theorem State.performWord_spec {s : State} {c : Nat} (e : StEntry) (w : StWrite) (hw : s.lwatches = [])
    (hlink : s.linkAvail (dieOf c) (homeDie w.addr) ≠ .no)
    (hq : ∀ z ∈ (s.core c).groups, ∀ f ∈ z.2.inflight, f.reply = false) :
    SameGroups s (s.performWord c e w) ∧ (∀ d, ((s.performWord c e w).core d).sh = (s.core d).sh)
      ∧ (homeDie w.addr = dieOf c → (s.performWord c e w).linkQ = s.linkQ ∧ (s.performWord c e w).sp = mset32 s.sp w.addr w.val)
      ∧ (homeDie w.addr ≠ dieOf c → (s.performWord c e w).sp = s.sp
        ∧ (s.performWord c e w).linkQ = s.linkQ ++ [{ id := s.newId.1, core := c, entry := e, word := w }]) := by
  have hsettle : s.settleReplies c 0 = s := State.settleReplies_none fun z hz f hf hr => by simp [hq z hz f hf] at hr
  let u := s.setCore c ((s.core c).cacheWords [(w.addr, w.val)])
  have hu : SameGroups s u.newId.2 := (SameGroups.setCore s c (k := (s.core c).cacheWords [(w.addr, w.val)]) rfl).trans ⟨fun _ _ => rfl, rfl⟩
  have hsh : ∀ d, (u.newId.2.core d).sh = (s.core d).sh := fun d => by
    change (u.core d).sh = _
    by_cases hd : d = c
    · subst hd; simp [u, Core.cacheWords]
    · simp [u, hd]
  have hperf : s.performWord c e w = if homeDie w.addr = dieOf c then
      u.newId.2.spWord w.addr w.val (u.newId.2.promoAfter e.owner e.polder e.after e.rel u.newId.1)
      else { u.newId.2 with linkQ := u.newId.2.linkQ ++ [{ id := u.newId.1, core := c, entry := e, word := w }] } := by
    unfold State.performWord
    rw [hsettle]
    dsimp only
    split
    · next hno => exact absurd hno hlink
    · rfl
  rw [hperf]
  split
  · next hd =>
    obtain ⟨r, hr⟩ := u.newId.2.spWord_eq w.addr w.val (u.newId.2.promoAfter e.owner e.polder e.after e.rel u.newId.1) hw
    rw [hr]
    exact ⟨hu.trans ⟨fun _ _ => rfl, rfl⟩, hsh, fun _ => ⟨rfl, rfl⟩, fun hn => absurd hd hn⟩
  · next hd => exact ⟨hu.trans ⟨fun _ _ => rfl, rfl⟩, hsh, fun h => absurd h hd, fun _ => ⟨rfl, rfl⟩⟩

/-- What is left of an entry whose next word alone is of its lane. -/
theorem performEntry_sp {s : State} {c : Nat} {e : StEntry} {w : StWrite} {left : List StWrite} (hsp : e.space = .sp)
    (hleft : e.left = w :: left) (hlanes : ∀ v ∈ left, v.lane ≠ w.lane) :
    s.performEntry c e = (if left = [] then none else some { e with left := left }, s.performWord c e w) := by
  simp [State.performEntry, hsp, hleft, State.pickPart_only s StWrite.lane hlanes]

/-- The oldest word on a link reaches its home die (R219, R230). -/
theorem State.performLink_oldest {s : State} {x : Sent} {y : List Sent} (hw : s.lwatches = []) (hq : s.linkQ = x :: y)
    (hids : ∀ z ∈ y, z.id ≠ x.id) (hcalm : ∀ z ∈ (s.core x.core).groups, ∀ f ∈ z.2.inflight, f.reply = false)
    (hlink : s.linkAvail (dieOf x.core) (homeDie x.word.addr) = .yes) :
    ∃ r, s.performLink x.id = { s with linkQ := y, sp := mset32 s.sp x.word.addr x.word.val, reports := r } := by
  have hsettle : s.settleReplies x.core 0 = s := State.settleReplies_none fun z hz f hf hr => by simp [hcalm z hz f hf] at hr
  obtain ⟨r, hr⟩ := s.writeSent_eq x hw
  have hrest : (s.linkQ.filter fun z => decide (z.id ≠ x.id)) = y := by
    rw [hq, List.filter_cons_of_neg (by simp), List.filter_eq_self]
    exact fun z hz => by simpa using hids z hz
  refine ⟨r, ?_⟩
  rw [hrest] at hr
  simp only [State.performLink, hq, List.find?_cons_of_pos, decide_true, Bool.and_self, ne_eq, not_true, if_false, Sent.die, hlink, hsettle,
    List.any_cons, Bool.true_or, if_true, hr]

/-- R218, R219, R228 to R230: the head of a store queue, and words on links, are performed. -/
theorem stores_perform : Claims.StoresPerform := by
  intro s c sl id e r g w left x y may calm hw
  refine ⟨fun hsl hg hq hmay hsh => ?_, fun hsl hg hq hmay hsp hleft hlanes hlink hcalm => ?_, fun hsl hg hq hmay => ?_,
    fun hq hids hcalm hid hlink => ?_⟩
  · refine ⟨_, exec_storePerform_head hsl hg hq, ?_⟩
    obtain ⟨hist, hcore, hne, hoff⟩ := State.foldl_shWord StWrite.addr StWrite.val e.writes s c
    have hentry : s.performEntry c e = (none, e.writes.foldl (fun s w => s.shWord c w.addr w.val) s) := by
      simp only [State.performEntry, hsh]
    rw [if_pos (mayPerform_iff.2 hmay), hentry]
    have hmem := congrArg State.mem hoff
    have hspad := congrArg State.sp hoff
    have hgroups : ∀ d, ((e.writes.foldl (fun s w => s.shWord c w.addr w.val) s).core d).groups = (s.core d).groups := fun d => by
      by_cases hd : d = c
      · subst hd; rw [hcore]
      · rw [hne d hd]
    refine ⟨?_, ?_, State.group_onGroup ((State.group_of_groups hgroups c sl).trans hg) _, fun d j hn => ?_, fun d hd => ?_, fun a => ?_⟩
    · exact (State.mem_onGroup ..).trans hmem
    · exact (State.sp_onGroup ..).trans hspad
    · exact (State.group_onGroup_ne _ hn).trans (State.group_of_groups hgroups d j)
    · exact (State.sh_onGroup ..).trans (congrArg Core.sh (hne d hd))
    · rw [State.sh_onGroup, hcore]
  · refine ⟨_, exec_storePerform_head hsl hg hq, ?_⟩
    obtain ⟨hsame, hsh, hown, hsent⟩ := State.performWord_spec e w hw hlink hcalm
    rw [if_pos (mayPerform_iff.2 hmay), performEntry_sp hsp hleft hlanes]
    refine ⟨(State.mem_onGroup ..).trans hsame.memory, (State.sh_onGroup ..).trans (hsh c), ?_, fun hd => ?_, fun hd => ?_⟩
    · rw [State.group_onGroup ((hsame.groups c sl).trans hg)]
      split <;> rfl
    · obtain ⟨hlq, hspad⟩ := hown hd
      exact ⟨(State.linkQ_onGroup ..).trans hlq, fun a => by rw [State.sp_onGroup, hspad]⟩
    · obtain ⟨hspad, hlq⟩ := hsent hd
      exact ⟨(State.sp_onGroup ..).trans hspad, (State.linkQ_onGroup ..).trans hlq⟩
  · rw [exec_storePerform_head hsl hg hq, if_neg (mt mayPerform_iff.1 hmay)]
  · subst hid
    obtain ⟨reports, hperf⟩ := State.performLink_oldest hw hq hids hcalm hlink
    exact ⟨_, (exec_storePerform ..).trans (congrArg Host.Outcome.next hperf), rfl, rfl, rfl, fun _ => rfl⟩

/-- Settles O8, by its two halves. -/
theorem stores : Obligations.Stores := by
  unfold Obligations.Stores
  exact ⟨stores_issue, stores_perform⟩

end Sys2Proof.Machine
end

section

/-!
# Atomics on shared memory and the scratchpad (R138, R139, R219, R222, R229, R230)
-/

namespace Sys2Proof.Machine

/-! ### Numbers in memory -/

theorem getD_toLe (k n j : Nat) (h : j < k) : (toLe k n).getD j 0 = BitVec.ofNat 8 (n / 256 ^ j) := by
  induction k generalizing n j with
  | zero => omega
  | succ k ih =>
    cases j with
    | zero => simp [toLe]
    | succ j =>
      rw [toLe, List.getD_cons_succ, ih _ _ (by omega), Nat.div_div_eq_div_mul, pow_succ, Nat.mul_comm 256]

/-- A byte of a number of `k` bytes in memory. -/
theorem mget_mwrites_toLe (m : Memory) (a k n i : Nat) : mget (mwrites m a (toLe k n)) i
    = if a ≤ i ∧ i < a + k then BitVec.ofNat 8 (n / 256 ^ (i - a)) else mget m i := by
  rw [mget_mwrites, length_toLe]
  split
  · rw [getD_toLe _ _ _ (by omega)]
  · rfl

/-- A byte of a word of a number is that byte of the number. -/
theorem ofNat_byte_word (n i j : Nat) (hj : j < 4) :
    BitVec.ofNat 8 ((BitVec.ofNat 32 (n / 2 ^ (32 * i))).toNat / 256 ^ j) = BitVec.ofNat 8 (n / 256 ^ (4 * i + j)) := by
  have hpow : n / 256 ^ (4 * i + j) = n / 2 ^ (32 * i) / 256 ^ j := by
    rw [pow_add, Nat.div_div_eq_div_mul, show (256 : Nat) ^ (4 * i) = 2 ^ (32 * i) by
      rw [show (256 : Nat) = 2 ^ 8 from rfl, ← pow_mul]; congr 1; omega]
  rw [hpow]
  apply BitVec.eq_of_toNat_eq
  simp only [BitVec.toNat_ofNat]
  generalize n / 2 ^ (32 * i) = u
  interval_cases j <;> omega

/-- A number written word by word is written whole. -/
theorem mget_words (m : Memory) (a v n x : Nat) :
    mget ((List.range n).foldl (fun m i => mset32 m (a + 4 * i) (BitVec.ofNat 32 (v / 2 ^ (32 * i)))) m) x
      = mget (mwrites m a (toLe (4 * n) v)) x := by
  induction n with
  | zero => rfl
  | succ n ih =>
    rw [List.range_succ, List.foldl_append, List.foldl_cons, List.foldl_nil, mset32, mget_mwrites_toLe, ih,
      mget_mwrites_toLe, mget_mwrites_toLe]
    by_cases hlast : a + 4 * n ≤ x ∧ x < a + 4 * n + 4
    · rw [if_pos hlast, if_pos (by omega), ofNat_byte_word _ _ _ (by omega)]
      congr 3
      omega
    · rw [if_neg hlast]
      by_cases hin : a ≤ x ∧ x < a + 4 * n
      · rw [if_pos hin, if_pos (by omega)]
      · rw [if_neg hin, if_neg (by omega)]

/-- Memories with the same bytes have the same bytes after a write. -/
theorem mget_mwrites_congr {m n : Memory} (h : ∀ x, mget m x = mget n x) (a : Nat) (bs : List Byte) (x : Nat) :
    mget (mwrites m a bs) x = mget (mwrites n a bs) x := by
  rw [mget_mwrites, mget_mwrites, h]

/-! ### Shared memory that a group's instruction has changed -/

/-- The frame of an instruction that besides its group changes shared memory of its core alone. -/
theorem OwnGroup.withShared {s b u : State} {c sl : Nat} {m : Memory} {hist : Table (List Word)} (h : OwnGroup s b c sl)
    (hcore : u.core c = { b.core c with sh := m, mxHist := hist }) (hne : ∀ d, d ≠ c → u.core d = b.core d)
    (hoff : u.offCores = b.offCores) : OwnGroup (s.setCore c { s.core c with sh := m, mxHist := hist }) u c sl where
  memory a := (congrArg (fun t : State => mget t.mem a) hoff).trans (h.memory a)
  scratch a := (congrArg (fun t : State => mget t.sp a) hoff).trans (h.scratch a)
  shared d a := by
    by_cases hd : d = c
    · subst hd; rw [hcore, State.core_setCore_same]
    · rw [hne d hd, State.core_setCore_ne _ _ hd]; exact h.shared d a
  groups d i hn := by
    have hs := h.groups d i hn
    by_cases hd : d = c
    · subst hd; simpa only [State.group, hcore, State.core_setCore_same] using hs
    · simpa only [State.group, hne d hd, State.core_setCore_ne _ _ hd] using hs
  blocks d x := by
    have hs := h.blocks d x
    by_cases hd : d = c
    · subst hd; simpa only [State.block, hcore, State.core_setCore_same] using hs
    · simpa only [State.block, hne d hd, State.core_setCore_ne _ _ hd] using hs
  cores d := by
    have hs := h.cores d
    by_cases hd : d = c
    · subst hd
      rw [hcore, State.core_setCore_same]
      exact congrArg (fun k : Core => { k with sh := m, mxHist := hist }) hs
    · rw [hne d hd, State.core_setCore_ne _ _ hd]; exact hs
  others := (congrArg State.rest hoff : u.offCores.rest = b.offCores.rest).trans h.others

/-- A progress event of the block leaves the results on their way (R349). -/
theorem Later.progressIf {i : Instr} {s t : State} {c sl : Nat} {g : Group} {ws : List LWrite} (h : Later i s t c sl g ws) (g' : Group)
    (gd : Guard) : Later i s (t.progressIf c g' gd) c sl g ws := by
  obtain ⟨hframe, k, hk, hbody⟩ := h
  exact ⟨hframe.trans (.progressIf ..), k, (State.group_progressIf ..).trans hk, hbody⟩

/-! ### An atomic of shared memory -/

section

variable (d : Reg) (a b e : Src) (op : AOp) (w64 : Bool) (g : Group) (base c : Nat)

/-- The address of a lane's atomic. -/
def atomAt (l : Nat) : Nat := base + (effAddr g a 0 l).toNat

/-- The value that one lane's atomic leaves (R138). -/
def atomNew (m : Memory) (l : Nat) : Nat :=
  atomVal op (32 * wideN w64) (ofLe (mreads m (atomAt a g base l) (4 * wideN w64))) (operand g w64 l b.reg.toNat)
    (operand g w64 l e.reg.toNat)

/-- Memory after the atomics of some lanes, in order. -/
def atomsDone (m : Memory) (ls : List Nat) : Memory :=
  ls.foldl (fun m l => mwrites m (atomAt a g base l) (toLe (4 * wideN w64) (atomNew a b e op w64 g base m l))) m

/-- One lane of the body of `atsh`. -/
def atshLane (x : List LWrite × State) (l : Nat) : List LWrite × State :=
  (x.1 ++ oldResults l d w64 (ofLe (mreads (x.2.core c).sh (atomAt a g base l) (4 * wideN w64))),
    (List.range (wideN w64)).foldl (fun s i => s.shWord c (atomAt a g base l + 4 * i)
      (BitVec.ofNat 32 (atomNew a b e op w64 g base (x.2.core c).sh l / 2 ^ (32 * i)))) x.2)

variable {d a b e op w64 g base c}

theorem atomNew_congr {m n : Memory} (h : ∀ x, mget m x = mget n x) (l : Nat) :
    atomNew a b e op w64 g base m l = atomNew a b e op w64 g base n l := by
  unfold atomNew
  rw [mreads_congr fun i _ _ => h i]

/-- The lanes `ls` of an atomic act behind the lanes `done`: each finds what those before it have left, and shared memory of the core
alone has changed. -/
theorem atshLanes_spec (m : Memory) (ls done : List Nat) (hs : (done ++ ls).Pairwise (· < ·)) (x : List LWrite × State)
    (hm : ∀ y, mget (x.2.core c).sh y = mget (atomsDone a b e op w64 g base m done) y) :
    (ls.foldl (atshLane d a b e op w64 g base c) x).1 = x.1 ++ ls.flatMap (fun l => oldResults l d w64 (ofLe (mreads
        (atomsDone a b e op w64 g base m ((done ++ ls).filter (· < l))) (atomAt a g base l) (4 * wideN w64))))
      ∧ (∀ y, mget ((ls.foldl (atshLane d a b e op w64 g base c) x).2.core c).sh y
          = mget (atomsDone a b e op w64 g base m (done ++ ls)) y)
      ∧ (∃ sh hist, (ls.foldl (atshLane d a b e op w64 g base c) x).2.core c = { x.2.core c with sh := sh, mxHist := hist })
      ∧ (∀ k, k ≠ c → (ls.foldl (atshLane d a b e op w64 g base c) x).2.core k = x.2.core k)
      ∧ (ls.foldl (atshLane d a b e op w64 g base c) x).2.offCores = x.2.offCores := by
  induction ls generalizing done x with
  | nil => exact ⟨by simp, by simpa using hm, ⟨_, _, rfl⟩, fun _ _ => rfl, rfl⟩
  | cons l ls ih =>
    obtain ⟨hist, hcore, hne, hoff⟩ := State.foldl_shWord (fun i => atomAt a g base l + 4 * i)
      (fun i => BitVec.ofNat 32 (atomNew a b e op w64 g base (x.2.core c).sh l / 2 ^ (32 * i))) (List.range (wideN w64)) x.2 c
    have hbefore : (done ++ l :: ls).filter (fun k => decide (k < l)) = done := by
      rw [List.pairwise_append, List.pairwise_cons] at hs
      obtain ⟨-, ⟨hafter, -⟩, hcross⟩ := hs
      rw [List.filter_append, List.filter_eq_self.2 fun k hk => by simpa using hcross k hk l List.mem_cons_self,
        List.filter_eq_nil_iff.2 fun k hk => ?_, List.append_nil]
      rcases List.mem_cons.1 hk with rfl | hk
      · simp
      · have := hafter k hk
        simp only [decide_eq_true_eq]
        omega
    have hstep : ∀ y, mget ((atshLane d a b e op w64 g base c x l).2.core c).sh y
        = mget (atomsDone a b e op w64 g base m (done ++ [l])) y := fun y => by
      have hfold := mget_words (x.2.core c).sh (atomAt a g base l) (atomNew a b e op w64 g base (x.2.core c).sh l) (wideN w64) y
      rw [atomsDone, List.foldl_append, List.foldl_cons, List.foldl_nil]
      refine ((congrArg (fun k : Core => mget k.sh y) hcore).trans hfold).trans ?_
      rw [atomNew_congr hm]
      exact mget_mwrites_congr hm _ _ y
    obtain ⟨hws, hmem, ⟨sh, hist', hcore'⟩, hne', hoff'⟩ :=
      ih (done ++ [l]) (by simpa using hs) (atshLane d a b e op w64 g base c x l) hstep
    rw [List.append_assoc, List.singleton_append] at hws hmem
    refine ⟨?_, hmem, ⟨sh, hist', ?_⟩, fun k hk => (hne' k hk).trans (hne k hk), hoff'.trans hoff⟩
    · rw [List.foldl_cons, hws, List.flatMap_cons, hbefore, ← mreads_congr fun y _ _ => hm y]
      exact List.append_assoc ..
    · rw [List.foldl_cons, hcore']
      exact congrArg (fun k : Core => { k with sh := sh, mxHist := hist' }) hcore

end

/-- An atomic that no earlier access of its group and no release holds back (R222, R229). -/
theorem atomHold_false {s : State} {g : Group} {sem : Sem} {sc : Scope} (hacc : g.accessing = false) (hq : g.stq = [])
    (hrel : semRel sem = true → s.relReady g.uid (g.mreds ++ g.finished) sc = true) : atomHold s g sem sc = false := by
  unfold atomHold
  cases hs : semRel sem with
  | false => simp [hacc, hq]
  | true => simp [hacc, hq, hrel hs]

/-- R138, R139, R222: `atsh`. -/
theorem shared_atomics : Claims.SharedAtomics := by
  intro d a b e op sem w64 sc la gd s c sl g cl n addr base act after works olds i hacc hq hrel h hfits
  have hpre : atshPre a sem w64 sc gd c sl g s = .ok := by
    rw [atshPre, accessCheck_ok (addr := effAddr g a 0) (fun l hl hw => by
      have := hfits l hl hw
      simpa [effAddr, addr] using this), atomHold_false hacc hq hrel]
    rfl
  have hf := OwnGroup.begun (issueOf i) s c sl g cl
  obtain ⟨k, hk, hp, hr, hqd, hfst⟩ := group_begun_passed i s c sl g cl
  have hat : ∀ l, atomAt a g base l = base + (addr l).toNat := fun l => by simp [atomAt, effAddr, addr]
  have hsorted : works.Pairwise (· < ·) := List.Pairwise.filter _ List.pairwise_lt_range
  obtain ⟨hws, hmem, ⟨m, hist, hcore⟩, hne, hoff⟩ := atshLanes_spec (d := d) (a := a) (b := b) (e := e) (op := op) (w64 := w64) (g := g)
    (base := base) (c := c) (s.core c).sh works [] hsorted ([], s.begun (issueOf i) c sl g cl) fun y => by rw [hf.sh_eq]; rfl
  refine ⟨_, (exec_atsh ..).trans (issueWith_next h _ _ hpre), hist, m, fun x => ?_, ?_⟩
  · have := hmem x
    rw [hcore] at this
    refine this.trans ?_
    simp only [atomsDone, atomNew, hat, List.nil_append]
    rfl
  · dsimp only
    rw [hf.shBaseOf]
    refine Later.progressIf (i := i) ?_ g gd
    have holds : (works.foldl (atshLane d a b e op w64 g base c) ([], s.begun (issueOf i) c sl g cl)).1 = olds (s.core c).sh := by
      rw [hws]
      simp only [atomsDone, atomNew, hat, List.nil_append]
      rfl
    have hbody := later_of_group (i := i) (olds (s.core c).sh) (hf.withShared hcore hne hoff)
      ((State.group_of_groups (s := s.begun (issueOf i) c sl g cl) (fun d' => by
        by_cases hd : d' = c
        · subst hd; rw [hcore]
        · rw [hne d' hd]) c sl).trans hk) ((congrArg State.next hoff).trans (State.next_begun ..)) hp hr hqd hfst
    rw [← holds] at hbody ⊢
    exact hbody

/-! ### An atomic of the scratchpad -/

/-- R138, R222, R229: `atsp` enters one operation for each lane that works. -/
theorem scratchpad_atomics : Claims.ScratchpadAtomics := by
  intro d a b e op sem w64 sc la gd s c sl g cl addr p works regs parts ws i hacc hq hrel h hu hfits hl
  have haddr : effAddr g a 0 = addr := by funext l; simp [effAddr, addr]
  have hpre : atspPre a sem w64 sc gd c sl g s = .ok := by
    rw [atspPre, haddr, spCheck_ok hu hfits hl, atomHold_false hacc hq hrel]
    rfl
  have hf := OwnGroup.begun (issueOf i) s c sl g cl
  have hbegun := hf.unaudited hu
  obtain ⟨k, hk, hp, hr, hqd, hfst⟩ := group_begun_passed i s c sl g cl
  have htodo : atomTodo g gd d a b e op (semAcq sem && wideScope sc) w64 (if semRel sem then some sc else none) (s.spBase p) = parts := by
    unfold atomTodo
    rw [haddr]
    rfl
  have hws : (parts.flatMap fun t => (oldRegs d w64).map fun r => ({ lane := t.lane, loc := .reg r, val := 0, flags := 0 } : LWrite)) = ws := by
    simp only [parts, List.flatMap_map]
    rfl
  refine ⟨_, (exec_atsp ..).trans (issueWith_next h _ _ hpre), ?_⟩
  dsimp only
  rw [hf.launchOf, hf.spBase, htodo, hws, hbegun.offAudit, ite_self, hbegun.inRerun, if_neg Bool.false_ne_true]
  obtain ⟨hlater, hparts⟩ := later_deferParts (i := i) hf hbegun hk (State.next_begun ..) hp hr hqd hfst
    (org := (s.begun (issueOf i) c sl g cl).originOf c sl g .cpy) rfl rfl true ws [] parts
  refine ⟨hlater.progressIf g gd, fun hne => ?_⟩
  obtain ⟨h', hg', f, hf', hid, hreply, hwr, htd⟩ := hparts (.inr hne)
  exact ⟨h', (State.group_progressIf ..).trans hg', f, hf', hid, hreply, hwr, htd⟩

/-! ### One lane of an atomic at its home die -/

/-- Bytes that no service image waits for are written at their home dies, and reported to watches at most. -/
theorem State.spBytes_eq (s : State) (a : Nat) (bs : List Byte) (after : List Nat) (h : s.lwatches = []) :
    ∃ r, s.spBytes a bs after = { s with sp := mwrites s.sp a bs, reports := r } := by
  have key (ws : List Nat) (u : State) (hu : u.lwatches = []) : ∃ r, ws.foldl (fun s w => s.fire after w) u = { u with reports := r } := by
    induction ws generalizing u with
    | nil => exact ⟨_, rfl⟩
    | cons w ws ih =>
      have hfire : u.fire after w = { u with reports := (u.fire after w).reports } := by simp [State.fire, hu]
      obtain ⟨r, hr⟩ := ih (u.fire after w) (by rw [hfire]; exact hu)
      exact ⟨r, by rw [List.foldl_cons, hr, hfire]⟩
  exact key _ { s with sp := mwrites s.sp a bs } h

/-- An access after one lane of its atomic: the old value fills the lane's results, the new one goes into lines of the read cache with
the reply (R222). -/
def InFlight.withAtom (t : SpTodo) (regs : List Nat) (n old new : Nat) (f : InFlight) : InFlight :=
  { f.fill t.lane (regs.zipIdx.map fun r => (r.1, BitVec.ofNat 32 (old / 2 ^ (32 * r.2)))) with
    todo := f.todo.erase t
    lines := f.lines ++ (List.range n).map fun i => (t.addr + 4 * i, BitVec.ofNat 32 (new / 2 ^ (32 * i))) }

/-- One lane of an atomic is applied whole behind the words that its core's die has sent to the home die (R222, R230). -/
theorem State.applyAtom_spec {s : State} {c sl id : Nat} {g : Group} {f : InFlight} {t : SpTodo} {op : AOp} {w64 : Bool} {regs : List Nat}
    {b v : Nat} {rel : Option Scope} {after : List Nat} (hg : s.group c sl = some g) (hf : s.flight c sl id = some f)
    (hop : t.op = .atom op w64 regs b v rel after) (hw : s.lwatches = []) :
    let n := if w64 then 2 else 1
    let home := s.homeMemory c (homeDie t.addr)
    let old := ofLe (mreads home t.addr (4 * n))
    let new := atomVal op (32 * n) old b v
    (s.applyAtom c sl id t).mem = s.mem ∧ (s.applyAtom c sl id t).sp = mwrites home t.addr (toLe (4 * n) new)
      ∧ ∃ f', (s.applyAtom c sl id t).flight c sl id = some f' ∧ f'.todo = f.todo.erase t
        ∧ f'.writes = (f.fill t.lane (regs.zipIdx.map fun r => (r.1, BitVec.ofNat 32 (old / 2 ^ (32 * r.2))))).writes
        ∧ f'.lines = f.lines ++ (List.range n).map fun k => (t.addr + 4 * k, BitVec.ofNat 32 (new / 2 ^ (32 * k))) := by
  intro n home old new
  obtain ⟨hsame, hlw, hlq, hsp, -, -, -⟩ := s.acquired_keeps c t
  have hhome : (s.acquired c t).homeMemory c (homeDie t.addr) = home := by simp only [home, State.homeMemory, hlq, hsp]
  obtain ⟨r, q, hflush⟩ := (s.acquired c t).flushDie_eq c (homeDie t.addr) (hlw.trans hw)
  rw [hhome] at hflush
  let u : State := { s.acquired c t with linkQ := q, sp := home, reports := r }
  let aft := u.promoAfter g.uid (u.launchOf c g).polder after rel (u.next + 1)
  obtain ⟨r', hbytes⟩ := u.spBytes_eq t.addr (toLe (4 * n) new) aft (hlw.trans hw)
  let x : State := { u with sp := mwrites home t.addr (toLe (4 * n) new), reports := r' }
  have hacq : (if t.acq = true then s.dropLines c else s) = s.acquired c t := rfl
  have happly : s.applyAtom c sl id t = x.onFlight c sl id (InFlight.withAtom t regs n old new) := by
    unfold State.applyAtom
    simp only [hop, hg, hacq, hflush]
    exact congrArg (fun y : State => y.onFlight c sl id (InFlight.withAtom t regs n old new)) hbytes
  have hx : SameGroups s x := hsame.trans ⟨fun _ _ => rfl, rfl⟩
  rw [happly]
  exact ⟨(State.mem_onGroup ..).trans hx.memory, State.sp_onGroup .., _,
    State.flight_onFlight ((hx.flight c sl id).trans hf) _ fun _ => rfl, rfl, rfl, rfl⟩

/-- R138, R139, R219, R222, R230: one lane of a scratchpad atomic. -/
theorem atomic_parts : Claims.AtomicParts := by
  intro s c sl id g f t rest op w64 regs b v rel after n home old new hg hf htodo hlanes hop hlink hw hcalm u
  have hpart : u = s.applyAtom c sl id t := by
    change s.performPart c sl id = _
    rw [State.performPart_next hf htodo hlanes hlink]
    unfold State.doPart
    simp only [hg, hf, hop, hlink, reduceCtorEq, decide_false, Bool.false_eq_true, if_false,
      State.settleReplies_none fun e he x hx hr => hcalm e he x hx hr]
  obtain ⟨hmem, hsp, f', hf', htd, hwr, hlines⟩ := State.applyAtom_spec hg hf hop hw
  rw [hpart]
  refine ⟨hmem, fun a => congrArg (fun m : Memory => mget m a) hsp, f', hf', ?_, hwr, hlines⟩
  rw [htd, htodo, List.erase_cons_head]

/-- Settles O9, by its three parts. -/
theorem atomics : Obligations.Atomics := by
  unfold Obligations.Atomics
  exact ⟨shared_atomics, scratchpad_atomics, atomic_parts⟩

end Sys2Proof.Machine
end

section

/-!
# ENG and SYS instructions without a lane to act for (R143, R155, R183)
-/

namespace Sys2Proof.Machine

/-! ### An instruction that only passes -/

/-- Behind its marks an instruction has passed, and no byte of any memory and no other group has changed. -/
theorem acted_begun (i : Instr) (s : State) (c sl : Nat) (g : Group) (cl : Clause) :
    Acted i s (s.begun (issueOf i) c sl g cl) c sl g := by
  have hf := OwnGroup.begun (issueOf i) s c sl g cl
  obtain ⟨k, hk, hp, hr, hq, hfst⟩ := group_begun_passed i s c sl g cl
  exact ⟨hf.memory, hf.scratch, hf.shared, hf.groups, k, hk, hp, hr, hq, hfst⟩

theorem block_begun {s : State} {c b : Nat} {x : Block} (hx : s.block c b = some x) (v : Issue) (sl : Nat) (g : Group) (cl : Clause) :
    ∃ y, (s.begun v c sl g cl).block c b = some y ∧ y.rest = x.rest := (OwnGroup.begun v s c sl g cl).block_some hx

theorem lowest_eq_none {p : Nat → Bool} (h : ∀ l < 32, p l = false) : lowest p = none := by
  simp only [lowest, List.head?_eq_none_iff, List.filter_eq_nil_iff, lanes32, List.mem_range]
  exact fun l hl => by simp [h l hl]

theorem filter_lanes_eq_nil {p : Nat → Bool} (h : ∀ l < 32, p l = false) : lanes32.filter p = [] := by
  simp only [List.filter_eq_nil_iff, lanes32, List.mem_range]
  exact fun l hl => by simp [h l hl]

/-- An engine command that its core's engines take waits for nothing (R143). -/
theorem engCheck_free {s : State} {c : Nat} {g : Group} (h : EngFree s c g) (x : Check) : engCheck s c g x = x := by
  obtain ⟨hacc, hroom, -⟩ := h
  have hhold : (g.accessing || decide (s.packetsOut c ≥ 1024)) = false := by simp [hacc, hroom]
  rw [engCheck, hhold]
  cases x <;> rfl

/-! ### The groups of a block that hold threads (R155) -/

/-- Where an entry of a table is replaced by one that looks alike, the table looks alike. -/
theorem mem_map_tput {α β : Type} {f : Nat × α → β} {t : Table α} {k : Nat} {v w : α} (hw : tfind t k = some w)
    (hf : f (k, v) = f (k, w)) (y : β) : y ∈ (tput t k v).map f ↔ y ∈ t.map f := by
  have keep (t : Table α) (hw : tfind t k = some w) : ∀ e ∈ t, e ∈ tput t k v ∨ e = (k, w) := by
    induction t with
    | nil => intro e he; cases he
    | cons x t ih =>
      obtain ⟨j, u⟩ := x
      intro e he
      by_cases hk : k = j
      · subst hk
        rcases List.mem_cons.1 he with rfl | he
        · simp only [tfind, if_true, Option.some.injEq] at hw
          exact .inr (by rw [hw])
        · exact .inl (by simp [tput, he])
      · by_cases hlt : k < j
        · exact .inl (by simp only [tput, hk, hlt, if_true, if_false]; exact List.mem_cons_of_mem _ he)
        · simp only [tfind, hk, if_false] at hw
          rcases List.mem_cons.1 he with rfl | he
          · exact .inl (by simp [tput, hk, hlt])
          · exact (ih hw e he).imp_left fun h => by simp only [tput, hk, hlt, if_false]; exact List.mem_cons_of_mem _ h
  constructor
  · intro h
    obtain ⟨e, he, rfl⟩ := List.mem_map.1 h
    rcases mem_tput he with rfl | he
    · exact hf ▸ List.mem_map_of_mem (mem_of_tfind hw)
    · exact List.mem_map_of_mem he
  · intro h
    obtain ⟨e, he, rfl⟩ := List.mem_map.1 h
    rcases keep t hw e he with he | rfl
    · exact List.mem_map_of_mem he
    · have hput : tfind (tput t k v) k = some v := tfind_tput_same t k v
      exact hf ▸ List.mem_map_of_mem (mem_of_tfind hput)

/-- What of a group decides whether a collective counts it. -/
def Group.part (g : Group) : Nat × List Nat × Nat := (g.bslot, g.occs, g.uid)

theorem mem_liveUids_iff {s : State} {c b u : Nat} :
    u ∈ s.liveUids c b ↔ ∃ ls, ls ≠ [] ∧ (b, ls, u) ∈ (s.core c).groups.map fun e => e.2.part := by
  simp only [State.liveUids, List.mem_map, List.mem_filter, Bool.and_eq_true, decide_eq_true_eq, Group.part, Prod.mk.injEq]
  constructor
  · rintro ⟨e, ⟨he, hb, ho⟩, hu⟩
    exact ⟨_, ho, e, he, hb, rfl, hu⟩
  · rintro ⟨ls, hls, e, he, hb, ho, hu⟩
    exact ⟨e, ⟨he, hb, ho ▸ hls⟩, hu⟩

theorem mem_liveUids_setGroup {s : State} {c sl : Nat} {g h : Group} (hg : s.group c sl = some g) (hp : h.part = g.part) (b u : Nat) :
    u ∈ (s.setGroup c sl h).liveUids c b ↔ u ∈ s.liveUids c b := by
  have hmem : ∀ y, y ∈ ((s.setGroup c sl h).core c).groups.map (fun e => e.2.part) ↔ y ∈ (s.core c).groups.map fun e => e.2.part := by
    intro y
    rw [State.setGroup, State.core_setCore_same]
    exact mem_map_tput (f := fun e : Nat × Group => e.2.part) hg hp y
  simp only [mem_liveUids_iff, hmem]

theorem State.liveUids_congr {s t : State} {c : Nat} (h : (t.core c).groups = (s.core c).groups) (b : Nat) :
    t.liveUids c b = s.liveUids c b := by
  rw [State.liveUids, State.liveUids, h]

theorem Passed.part {i : Instr} {g h : Group} (hp : Passed i g h) : h.part = g.part := by
  have hocc : h.occs = g.occs := List.filter_congr fun l hl => by
    have hst := Lane.st_of_rest (hp.lanes l (List.mem_range.1 hl))
    exact congrArg (fun x => decide (x = LaneSt.occupied)) hst
  have hb : h.bslot = g.bslot := (congrArg Group.bslot hp.rest : h.rest.bslot = g.rest.bslot)
  have hu : h.uid = g.uid := (congrArg Group.uid hp.rest : h.rest.uid = g.rest.uid)
  simp only [Group.part, hocc, hb, hu]

theorem State.groups_notePoison (s : State) (c b d : Nat) : ((s.notePoison c b).core d).groups = (s.core d).groups := by
  unfold State.notePoison
  split
  · by_cases hd : d = c
    · subst hd; simp [State.setBlock]
    · simp [State.setBlock, hd]
  · rfl

theorem State.groups_onSub (s : State) (c sl : Nat) (f : SubCore → SubCore) (d : Nat) :
    ((s.onSub c sl f).core d).groups = (s.core d).groups := by
  by_cases hd : d = c
  · subst hd; simp [State.onSub]
  · simp [State.onSub, hd]

theorem mem_liveUids_endRun (s : State) (c sl b u : Nat) : u ∈ (s.endRun c sl).liveUids c b ↔ u ∈ s.liveUids c b := by
  rw [State.endRun, State.liveUids_congr (State.groups_onSub ..)]
  unfold State.onGroup
  split
  · next g hg => exact mem_liveUids_setGroup (h := { g with run := 0 }) hg rfl b u
  · exact Iff.rfl

/-- The marks of an instruction change nothing of what a collective counts. -/
theorem mem_liveUids_begun {s : State} {c sl : Nat} {g : Group} (hg : s.group c sl = some g) (i : Instr) (cl : Clause) (b u : Nat) :
    u ∈ (s.begun (issueOf i) c sl g cl).liveUids c b ↔ u ∈ s.liveUids c b := by
  have hset := mem_liveUids_setGroup hg (h := { (g.marked (issueOf i)).advance (issueOf i) cl with
    issued := g.issued + portCycles (issueOf i) g.cache })
    (passed_begun i g cl (g.issued + portCycles (issueOf i) g.cache) (g.run + 1)).part b u
  have hpoison (t : State) : u ∈ (if badRead (issueOf i) g then t.notePoison c g.bslot else t).liveUids c b ↔ u ∈ t.liveUids c b := by
    split
    · rw [State.liveUids_congr (State.groups_notePoison ..)]
    · exact Iff.rfl
  unfold State.begun
  dsimp only
  split
  · exact (mem_liveUids_endRun ..).trans ((hpoison _).trans hset)
  · exact (hpoison _).trans hset

/-! ### An empty slice (R155) -/

/-- A slice opens a collective of the block's groups that hold threads, joins the open one, or waits for the next. -/
theorem State.supply_spec {s : State} {c b : Nat} {x : Block} (hx : s.block c b = some x) (e : Slice) :
    ∃ y, s.supply c b e = s.setBlock c b y ∧ match x.coll with
      | none => y.collNext = x.collNext ∧ y.coll = some { parts := s.liveUids c b, slices := [e] }
      | some k =>
        if e.uid ∈ k.parts ∧ ∀ z ∈ k.slices, z.uid ≠ e.uid then
          y.coll = some { k with slices := k.slices ++ [e] } ∧ y.collNext = x.collNext
        else y.coll = x.coll ∧ y.collNext = x.collNext ++ [e] := by
  unfold State.supply
  rw [hx]
  refine ⟨_, rfl, ?_⟩
  cases hc : x.coll with
  | none => exact ⟨rfl, rfl⟩
  | some k =>
    have hiff : (k.parts.contains e.uid && k.slices.all fun z => decide (z.uid ≠ e.uid)) = true
        ↔ e.uid ∈ k.parts ∧ ∀ z ∈ k.slices, z.uid ≠ e.uid := by simp
    by_cases hin : e.uid ∈ k.parts ∧ ∀ z ∈ k.slices, z.uid ≠ e.uid
    · dsimp only
      rw [if_pos hin, if_pos (hiff.2 hin)]
      exact ⟨rfl, rfl⟩
    · dsimp only
      rw [if_neg hin, if_neg (mt hiff.1 hin)]
      exact ⟨rfl, rfl⟩

/-- What changes the block of a group besides leaves what the instruction has done of its group and of the memories. -/
theorem Acted.setBlock {i : Instr} {s t : State} {c sl : Nat} {k : Group} (h : Acted i s t c sl k) (d b : Nat) (y : Block) :
    Acted i s (t.setBlock d b y) c sl k := by
  have hcore : ∀ e, ((t.setBlock d b y).core e).sh = (t.core e).sh ∧ ((t.setBlock d b y).core e).groups = (t.core e).groups := fun e => by
    by_cases he : e = d
    · subst he; simp [State.setBlock]
    · simp [State.setBlock, he]
  have hgroup : ∀ e j, (t.setBlock d b y).group e j = t.group e j := State.group_of_groups fun e => (hcore e).2
  exact ⟨h.memory, h.scratch, fun e a => by rw [(hcore e).1]; exact h.shared e a, fun e j hn => (hgroup e j).trans (h.groups e j hn),
    by rw [hgroup]; exact h.group⟩

/-- The collective of a block, and the slices that wait for the next one. -/
def Block.collective (x : Block) : Option Coll × List Slice := (x.coll, x.collNext)

theorem Block.collective_rest {x y : Block} (h : y.rest = x.rest) : y.coll = x.coll ∧ y.collNext = x.collNext :=
  ⟨(congrArg Block.coll h : y.rest.coll = x.rest.coll), (congrArg Block.collNext h : y.rest.collNext = x.rest.collNext)⟩

/-! ### Commands -/

/-- Where an engine command has no lane to act for, its instruction only passes; `cpy` without `.solo` supplies an empty slice. -/
theorem exec_command_without {d n : Reg} {a b e : Src} {op : AOp} {rop : ROp} {st solo rec128 w64 other : Bool} {src dst : LSpace} {cb : Comb}
    {f : EFmt} {k : BitVec 4} {off : BitVec 20} {gd : Guard} {s : State} {c sl : Nat} {g : Group} {cl : Clause} {i : Instr}
    (hi : i ∈ [.cpy a b e st solo src gd, .sealRec d a rec128 gd, .gat n a b e src dst gd, .sct n a b e src dst cb f gd,
        .matom d a b e op w64 gd, .mred a b rop f gd, .bkrun a gd, .pred a b e gd, .pchk a b e gd, .spawn d other a k off gd])
    (h : Issues i s c sl g cl) (hw : ∀ l < 32, g.works gd l = false) (hfree : EngFree s c g) :
    exec i s = .next (if i = .cpy a b e st false src gd then
        (s.begun (issueOf i) c sl g cl).supply c g.bslot { uid := g.uid, cmd := none }
      else s.begun (issueOf i) c sl g cl) := by
  have hlane : g.opLane gd = none := lowest_eq_none hw
  have hnone : lanes32.filter (g.works gd) = [] := filter_lanes_eq_nil hw
  have hrerun : ∀ v, (s.begun v c sl g cl).inRerun c g.bslot = false := fun v => ((OwnGroup.begun v s c sl g cl).inRerun ..).trans hfree.2.2
  have hok : engCheck s c g .ok = .ok := engCheck_free hfree _
  simp only [List.mem_cons, List.not_mem_nil, or_false] at hi
  rcases hi with rfl | rfl | rfl | rfl | rfl | rfl | rfl | rfl | rfl | rfl
  · rw [exec_cpy]
    refine (issueWith_next h _ _ (by simp only [cpyPre, hlane, hok])).trans ?_
    cases solo <;> simp [hlane, hrerun]
  · exact (exec_sealRec ..).trans ((issueWith_next h _ _ (by simp only [sealPre, hlane, hok])).trans (by simp [hlane]))
  · rw [exec_gat, execGat, gatherIssue]
    exact ((issueWith_next h _ _ (by simp only [gatherPre, hlane, hok])).trans (by simp [hlane]))
  · rw [exec_sct, execSct, gatherIssue]
    refine ((issueWith_next h _ _ ?_).trans (by simp [hlane]))
    simp only [sctPre, gatherPre, hlane, hok, Check.andThen]
  · exact (exec_matom ..).trans ((issueWith_next h _ _ hok).trans (by simp [hnone]))
  · exact (exec_mred ..).trans ((issueWith_next h _ _ hok).trans (by simp [hnone]))
  · exact (exec_bkrun ..).trans ((issueWith_next h _ _ (by simp only [bkrunPre, hlane, hok])).trans (by simp [hlane]))
  · rw [exec_pred, execPred, predIssue]
    exact ((issueWith_next h _ _ (by simp only [predPre, hlane, hok])).trans (by simp [hlane]))
  · rw [exec_pchk, execPchk, predIssue]
    exact ((issueWith_next h _ _ (by simp only [predPre, hlane, hok])).trans (by simp [hlane]))
  · exact (exec_spawn ..).trans ((issueWith_next h _ _ (by simp [spawnPre, hfree.1])).trans (by simp [Group.workers, hnone]))

/-- R143, R155: an engine command without a lane to act for. -/
theorem commands_without_lanes : Claims.CommandsWithoutLanes := by
  intro d n a b e op rop st solo rec128 w64 other src dst cb f k off gd s c sl g cl i hi h hw hfree empty
  have hacted := acted_begun i s c sl g cl
  have hf := OwnGroup.begun (issueOf i) s c sl g cl
  refine ⟨_, exec_command_without hi h hw hfree, ?_⟩
  by_cases hcpy : i = .cpy a b e st false src gd
  · simp only [hcpy, if_true]
    rw [← hcpy]
    cases hb : s.block c g.bslot with
    | none =>
      have hsame : (s.begun (issueOf i) c sl g cl).supply c g.bslot empty = s.begun (issueOf i) c sl g cl := by
        have hblock : (s.begun (issueOf i) c sl g cl).block c g.bslot = none := by
          simpa [hb] using hf.blocks c g.bslot
        simp only [State.supply, hblock]
      rw [hsame]
      exact ⟨hacted, hf.cmds_eq, hf.accs_eq, fun x hx => nomatch hx⟩
    | some x =>
      obtain ⟨y, hy, hrest⟩ := block_begun hb (issueOf i) sl g cl
      obtain ⟨hcoll, hnext⟩ := Block.collective_rest hrest
      obtain ⟨z, hz, hslice⟩ := State.supply_spec hy empty
      rw [hz]
      refine ⟨hacted.setBlock .., hf.cmds_eq, hf.accs_eq, fun x' hx' => ?_⟩
      cases hx'
      refine ⟨z, State.block_setBlock_same .., ?_⟩
      rw [hcoll, hnext] at hslice
      cases hc : x.coll with
      | none =>
        rw [hc] at hslice
        exact ⟨hslice.1, _, hslice.2, rfl, mem_liveUids_begun h.group i cl g.bslot⟩
      | some k =>
        rw [hc] at hslice
        exact hslice
  · simp only [hcpy, if_false]
    refine ⟨hacted, hf.cmds_eq, hf.accs_eq, fun x hx => ?_⟩
    obtain ⟨y, hy, hrest⟩ := block_begun hx (issueOf i) sl g cl
    exact ⟨y, hy, Block.collective_rest hrest⟩

/-! ### System instructions -/

/-- R183: a SYS instruction without a lane to act for only passes. -/
theorem sysIssue_without {i : Instr} {s : State} {c sl : Nat} {g : Group} {cl : Clause} (h : Issues i s c sl g cl)
    (hw : g.opLane (issueOf i).guard = none) (act : Nat → Nat → Group → Nat → State → SysTry) :
    sysIssue (issueOf i) act s = .next (s.begun (issueOf i) c sl g cl) := by
  simp [sysIssue, h.agent, h.group, h.clause, h.ready, h.legal, hw]

theorem system_without_lanes : Claims.SystemWithoutLanes := by
  intro d a b e r k die gd s c sl g cl i hi h hw
  have hclass : (issueOf i).cls = 7 ∧ (issueOf i).guard = gd := by
    simp only [List.mem_cons, List.not_mem_nil, or_false] at hi
    rcases hi with rfl | rfl | rfl | rfl | rfl | rfl | rfl | rfl | rfl | rfl | rfl <;> exact ⟨rfl, rfl⟩
  obtain ⟨hcls, hguard⟩ := hclass
  obtain ⟨act, hexec⟩ := exec_eq_sysIssue hcls
  obtain ⟨k', hk, hp, hr, hq, hfst⟩ := group_begun_passed i s c sl g cl
  refine ⟨_, (hexec s).trans (sysIssue_without h (hguard ▸ lowest_eq_none hw) act), ?_⟩
  exact wrote_nothing (OwnGroup.begun ..) hk hp hr hq hfst

/-- Settles O16, by its two halves. -/
theorem withoutLanes : Obligations.WithoutLanes := by
  unfold Obligations.WithoutLanes
  exact ⟨commands_without_lanes, system_without_lanes⟩

end Sys2Proof.Machine
end

section

/-!
# Batches, waits, fences and arrivals at barriers (R144, R146, R149, R178, R180, R181)
-/

namespace Sys2Proof.Machine

/-! ### Lane masks -/

theorem total_append (xs : List Nat) (n : Nat) : total (xs ++ [n]) = total xs + n := by
  simp [total]

/-- The numbers of the lanes below `n` for which `p` holds, as bits. -/
theorem testBit_total (p : Nat → Bool) (n : Nat) :
    total ((List.range n).map fun l => if p l then 2 ^ l else 0) < 2 ^ n
      ∧ ∀ l < n, (total ((List.range n).map fun l => if p l then 2 ^ l else 0)).testBit l = p l := by
  induction n with
  | zero => exact ⟨by simp [total], fun l hl => absurd hl (Nat.not_lt_zero l)⟩
  | succ n ih =>
    obtain ⟨hlt, hbit⟩ := ih
    rw [List.range_succ, List.map_append, List.map_singleton, total_append]
    generalize total ((List.range n).map fun l => if p l then 2 ^ l else 0) = m at hlt hbit
    have hpow : 2 ^ (n + 1) = 2 ^ n + 2 ^ n := by omega
    cases hp : p n with
    | false =>
      refine ⟨by simp; omega, fun l hl => ?_⟩
      rcases Nat.lt_succ_iff_lt_or_eq.1 hl with hl | rfl
      · simpa using hbit l hl
      · simpa [hp] using Nat.testBit_lt_two_pow hlt
    | true =>
      refine ⟨by simp; omega, fun l hl => ?_⟩
      rw [if_pos rfl, Nat.add_comm]
      rcases Nat.lt_succ_iff_lt_or_eq.1 hl with hl | rfl
      · rw [Nat.testBit_two_pow_add_gt hl, hbit l hl]
      · rw [Nat.testBit_two_pow_add_eq, hp, Nat.testBit_lt_two_pow hlt]; rfl

@[simp] theorem getLsbD_maskOf (p : Nat → Bool) {l : Nat} (hl : l < 32) : (maskOf p).getLsbD l = p l := by
  rw [maskOf, BitVec.getLsbD_ofNat, lanes32, (testBit_total p 32).2 l hl]
  simp [hl]

/-! ### The STATUS that a wait gives (R146) -/

theorem clsNum_injective {j k : Cls} (h : clsNum j = clsNum k) : j = k := by
  have hall (k : Cls) : k ∈ allCls := by cases k <;> decide
  exact List.inj_on_of_nodup_map (by decide : (allCls.map clsNum).Nodup) (hall j) (hall k) h

theorem tdel_of_tfind_none {α : Type} {t : Table α} {k : Nat} (h : tfind t k = none) : tdel t k = t := by
  induction t with
  | nil => rfl
  | cons e t ih =>
    obtain ⟨j, v⟩ := e
    by_cases hk : k = j
    · simp [tfind, hk] at h
    · rw [tfind, if_neg hk] at h
      have : tdel t k = t := ih h
      rw [tdel] at this ⊢
      rw [List.filter_cons_of_pos (by simpa using Ne.symm hk), this]

/-- A new entry of a table stands somewhere among the others. -/
theorem tput_perm_cons {α : Type} {t : Table α} {k : Nat} (h : tfind t k = none) (v : α) : (tput t k v).Perm ((k, v) :: t) := by
  induction t with
  | nil => rfl
  | cons e t ih =>
    obtain ⟨j, w⟩ := e
    by_cases hk : k = j
    · simp [tfind, hk] at h
    · rw [tfind, if_neg hk] at h
      rw [tput, if_neg hk]
      split
      · rfl
      · exact ((ih h).cons _).trans (List.Perm.swap ..)

/-- STATUS of one more class. -/
theorem passedStatus_tset {t : Table (BitVec 4)} {k : Nat} (h : tfind t k = none) (v : BitVec 4) :
    passedStatus (tset 0 t k v) = passedStatus t ||| v.setWidth 32 := by
  have hcomm : RightCommutative fun (w : BitVec 4) (e : Nat × BitVec 4) => w ||| e.2 :=
    ⟨fun a b c => by rw [BitVec.or_assoc, BitVec.or_comm b.2, BitVec.or_assoc]⟩
  have hinit (t : Table (BitVec 4)) (v : BitVec 4) : t.foldl (fun w e => w ||| e.2) v = t.foldl (fun w e => w ||| e.2) 0 ||| v := by
    induction t generalizing v with
    | nil => simp
    | cons e t ih => rw [List.foldl_cons, ih, List.foldl_cons, ih (0 ||| e.2), BitVec.or_assoc, BitVec.or_comm v]; simp
  unfold passedStatus
  rw [← BitVec.setWidth_or]
  refine congrArg _ ?_
  by_cases hv : v = 0
  · simp [tset, hv, tdel_of_tfind_none h]
  · rw [tset, if_neg hv, (tput_perm_cons h v).foldl_eq, List.foldl_cons, hinit]; simp

/-- STATUS of the classes that have passed, entered in turn. -/
theorem passedStatus_foldl (f : Cls → BitVec 4) (cs : List Cls) (t : Table (BitVec 4)) (hn : cs.Nodup)
    (ht : ∀ k ∈ cs, tfind t (clsNum k) = none) : passedStatus (cs.foldl (fun t k => tset 0 t (clsNum k) (f k)) t)
      = cs.foldl (fun v k => v ||| (f k).setWidth 32) (passedStatus t) := by
  induction cs generalizing t with
  | nil => rfl
  | cons k cs ih =>
    obtain ⟨hk, hn⟩ := List.nodup_cons.1 hn
    rw [List.foldl_cons, List.foldl_cons, ih _ hn fun j hj => ?_, passedStatus_tset (ht k List.mem_cons_self)]
    have hne : clsNum j ≠ clsNum k := fun h => hk (clsNum_injective h ▸ hj)
    unfold tset
    split
    · rw [tfind_tdel_ne _ hne]; exact ht j (List.mem_cons_of_mem _ hj)
    · rw [tfind_tput_ne _ _ hne]; exact ht j (List.mem_cons_of_mem _ hj)

/-- Where no batch is open or outstanding, a wait passes every class that it names. -/
theorem waitLoop_passes (n : Nat) (cs : List Cls) (g : Group) (t : Table (BitVec 4)) (ho : g.openB = []) (hc : g.closedB = [])
    (hn : cs.Nodup) : waitLoop n cs g t = ([], { g with status := cs.foldl (fun t k => tdel t (clsNum k)) g.status },
      cs.foldl (fun t k => tset 0 t (clsNum k) (tget 0 g.status (clsNum k))) t) := by
  induction cs generalizing g t with
  | nil => rfl
  | cons k cs ih =>
    obtain ⟨hk, hn⟩ := List.nodup_cons.1 hn
    have hcan : g.canClose k = true := by simp [Group.canClose, ho]
    have hout : g.outstanding k ≤ n := by simp [Group.outstanding, hc]
    simp only [waitLoop, hcan, Bool.not_true, Bool.false_eq_true, if_false, Group.closeBatch_nil k ho, hout, if_true]
    rw [ih { g with status := tdel g.status (clsNum k) } _ ho hc hn]
    refine congrArg (fun t => ([], _, t)) (List.foldl_ext _ _ _ fun t j hj => ?_)
    have hne : clsNum j ≠ clsNum k := fun h => hk (clsNum_injective h ▸ hj)
    simp [tget, tfind_tdel_ne _ hne]

/-! ### Batches that wait for their commands -/

/-- The head of every class's outstanding batches has a command that is not complete. -/
def State.HeadsWait (s : State) (g : Group) : Prop :=
  ∀ k x r, tget [] g.closedB (clsNum k) = x :: r → ∃ m ∈ x, s.cmdDone m = false

theorem State.popAll_waiting {s : State} {c sl : Nat} {g : Group} (hg : s.group c sl = some g) (h : s.HeadsWait g) :
    s.popAll c sl = s := by
  refine List.foldlRecOn allCls _ (motive := (· = s)) rfl fun t ht k _ => ?_
  subst ht
  rw [State.popBatches, hg]
  dsimp only
  split
  · next x r hx =>
    obtain ⟨m, hm, hdone⟩ := h k x r hx
    rw [if_neg fun hall => by simp [List.all_eq_true.1 hall m hm] at hdone]
  · rfl

/-- Nothing settles where no batch is complete and the group waits for nothing. -/
theorem State.settleBatches_idle {s : State} {c sl : Nat} {g : Group} (hg : s.group c sl = some g) (h : s.HeadsWait g)
    (hw : g.waiting = .none) (ho : g.occs ≠ []) : s.settleBatches c sl = s := by
  have hrounds (n : Nat) : State.settleRounds c sl n s = s := by
    induction n with
    | zero => rfl
    | succ n ih => rw [State.settleRounds, State.popAll_waiting hg h, State.wake_none hg hw, ih]
  rw [State.settleBatches, hrounds, State.reap_occupied hg ho]

/-! ### A wait with nothing outstanding -/

/-- The group of which a `wait` is over: STATUS of the classes `cs` is cleared, and register d of the masked lanes holds `v`. -/
def Group.waited (g : Group) (done : Nat → Bool) (w : WCls) (d : Nat) (lanes : BitVec 32) (v : Word) : Group :=
  let h := { g with status := (classesOf w).foldl (fun t k => tdel t (clsNum k)) g.status }
  { (h.mapLanes fun i ln => if lanes.getLsbD i then (ln.freshen (.reg d)).setReg d v else ln).resumed done (classesOf w) with
    inflight := h.inflight.map fun f =>
      { f with writes := f.writes.filter fun x => !(lanes.getLsbD x.lane && decide (x.loc = .reg d)) } }

theorem State.wake_wait {s : State} {c sl n d : Nat} {g : Group} {w : WCls} {lanes : BitVec 32} (hg : s.group c sl = some g)
    (hw : g.waiting = .wait (classesOf w) w n d lanes []) (hb : g.NoBatches) (hstop : s.stopping c g = false) (hu : Unaudited s c g) :
    s.wake c sl = s.setGroup c sl (g.waited s.batchDone w d lanes
      ((classesOf w).foldl (fun v k => v ||| (tget 0 g.status (clsNum k)).setWidth 32) 0)) := by
  have hnodup : (classesOf w).Nodup := by
    cases w with
    | one k => exact List.nodup_singleton k
    | all => decide
  have hinput (h : Group) (v : Word) (hh : h.bslot = g.bslot) : s.inputWord c h v = (v, s) := by
    have hu' : Unaudited s c h := by rw [Unaudited, hh]; exact hu
    rw [State.inputWord, hu'.inRerun, if_neg Bool.false_ne_true, hu'.audLog]
  have hloop := waitLoop_passes n (classesOf w) g [] hb.opened hb.closed hnodup
  have hstatus := passedStatus_foldl (fun k => tget 0 g.status (clsNum k)) (classesOf w) [] hnodup fun _ _ => rfl
  unfold State.wake
  simp only [hg, hstop, hw, Bool.false_and, Bool.false_eq_true, if_false, hloop, if_true, hstatus, hinput]
  exact State.applyPending_nil (State.group_setGroup_same s c sl (g.waited s.batchDone w d lanes
    ((classesOf w).foldl (fun v k => v ||| (tget 0 g.status (clsNum k)).setWidth 32) 0))) hb.faults (classesOf w) g.pc

section

variable (g : Group) (done : Nat → Bool) (w : WCls) (d : Nat) (lanes : BitVec 32) (v : Word)

theorem Group.lane_waited {l : Nat} (hl : l < 32) : (g.waited done w d lanes v).lane l =
    let ln := if lanes.getLsbD l then ((g.lane l).freshen (.reg d)).put (.reg d) v else g.lane l
    { ln with pend := ln.pend.filter fun e => !((classesOf w).contains e.2.cls && done e.2.cmd) } := by
  refine (lane_resumed _ done (classesOf w) hl).trans ?_
  rw [lane_mapLanes _ _ hl]
  rfl

theorem Group.rest_lane_waited {l : Nat} (hl : l < 32) : ((g.waited done w d lanes v).lane l).rest = (g.lane l).rest := by
  rw [g.lane_waited done w d lanes v hl]
  dsimp only
  split
  · exact (Lane.rest_put ..).trans (Lane.rest_freshen ..)
  · rfl

/-- The register that a wait writes, where its lane holds a thread or a helper. -/
theorem Group.reg_waited {l : Nat} (hl : l < 32) (hd : d ≠ 255) (hs : (g.lane l).st ≠ .empty) (hm : lanes.getLsbD l = true) :
    (g.waited done w d lanes v).reg l d = v := by
  have hlane := g.lane_waited done w d lanes v hl
  simp only [hm, if_true] at hlane
  have hst : ((g.waited done w d lanes v).lane l).st = (g.lane l).st := Lane.st_of_rest (g.rest_lane_waited done w d lanes v hl)
  have hhid : (g.waited done w d lanes v).hidden l (.reg d) = false := by
    simp only [Group.hidden, Group.waited, Bool.and_eq_false_iff, List.any_eq_false, List.mem_map]
    right
    rintro f ⟨f0, -, rfl⟩
    simp only [List.any_eq_true, List.mem_filter]
    rintro ⟨x, ⟨-, hx⟩, hxl⟩
    simp only [Bool.and_eq_true, decide_eq_true_eq] at hxl
    obtain ⟨rfl, hloc⟩ := hxl
    simp [hm, hloc] at hx
  have hdead : d ∉ ((g.waited done w d lanes v).lane l).dead := by
    rw [hlane]; dsimp only; rw [Lane.dead_put]; simp [Lane.freshen]
  have hpend : tfind ((g.waited done w d lanes v).lane l).pend d = none := by
    rw [hlane]; dsimp only; rw [Lane.pend_put]
    refine Option.eq_none_iff_forall_not_mem.2 fun e he => ?_
    have hmem := List.mem_of_mem_filter (mem_of_tfind he)
    simp [Lane.freshen, tdel] at hmem
  have hreg : tget 0 ((g.waited done w d lanes v).lane l).regs d = v := by
    rw [hlane]; dsimp only
    rw [Lane.tget_put, if_pos ⟨rfl, hd, by rw [Lane.st_of_rest (Lane.rest_freshen ..)]; exact hs⟩]
  simp only [Group.reg, Group.bad, hd, hst, hs, List.contains_iff_mem.not.2 hdead, hpend, hhid, hreg, Option.isSome_none, decide_false,
    Bool.or_false, Bool.and_false, Bool.false_eq_true, if_false]

theorem Group.raw_waited {l r : Nat} (hl : l < 32) (h : lanes.getLsbD l = false ∨ r ≠ d) :
    (g.waited done w d lanes v).raw l r = g.raw l r := by
  rw [Group.raw, g.lane_waited done w d lanes v hl]
  dsimp only
  split
  · next hm =>
    have hne : r ≠ d := h.resolve_left (by simp [hm])
    rw [Lane.tget_put, if_neg fun e => hne (Loc.reg.inj e.1).symm, Lane.regs_freshen]
    rfl
  · rfl

theorem Group.rawPred_waited {l : Nat} (hl : l < 32) (p : Nat) : (g.waited done w d lanes v).rawPred l p = g.rawPred l p := by
  rw [Group.rawPred, g.lane_waited done w d lanes v hl]
  dsimp only
  split
  · rw [Lane.getLsbD_put, if_neg (by simp), Lane.preds_freshen]; rfl
  · rfl

theorem Group.occs_waited : (g.waited done w d lanes v).occs = g.occs := by
  refine List.filter_congr fun l hl => ?_
  have := Lane.st_of_rest (g.rest_lane_waited done w d lanes v (List.mem_range.1 hl))
  exact congrArg (fun x => decide (x = LaneSt.occupied)) this

end

/-! ### Instructions -/

theorem lanes32_any_eq_true {p : Nat → Bool} (h : ∃ l < 32, p l = true) : lanes32.any p = true := by
  obtain ⟨l, hl, hp⟩ := h
  exact List.any_eq_true.2 ⟨l, List.mem_range.2 hl, hp⟩

theorem lanes32_any_eq_false {p : Nat → Bool} (h : ∀ l < 32, p l = false) : lanes32.any p = false :=
  List.any_eq_false.2 fun l hl => by simp [h l (List.mem_range.1 hl)]

/-- The group behind its marks, with what of it a batch or a wait looks at. -/
theorem State.group_begun_waits {s : State} {c sl : Nat} {g : Group} {cl : Clause} {i : Instr} (h : Issues i s c sl g cl)
    (hocc : ∃ l < 32, g.occ l = true) : ∃ k, (s.begun (issueOf i) c sl g cl).group c sl = some k ∧ Passed i g k
      ∧ (∀ l < 32, ∀ r, k.raw l r = g.raw l r) ∧ (∀ l < 32, ∀ p, k.rawPred l p = g.rawPred l p) ∧ k.fstat = markedFstat i g
      ∧ k.waiting = .none ∧ k.occs ≠ [] ∧ k.rest = g.rest := by
  obtain ⟨k, hk, hp, hr, hq, hf⟩ := group_begun_passed i s c sl g cl
  obtain ⟨-, hw⟩ := Group.free_of_ready h.ready
  have hoccs : k.occs = g.occs := congrArg (fun x => x.2.1) hp.part
  obtain ⟨l, hl, ho⟩ := hocc
  refine ⟨k, hk, hp, hr, hq, hf, (congrArg Group.waiting hp.rest : k.rest.waiting = g.rest.waiting).trans hw, ?_, hp.rest⟩
  rw [hoccs]
  exact List.ne_nil_of_mem (List.mem_filter.2 ⟨List.mem_range.2 hl, ho⟩)

theorem batches_and_waits : Claims.Batches := by
  intro b d w n gd s c sl g cl cs sum hocc
  refine ⟨?_, ?_, ?_⟩
  · rintro i rfl h hact hopen hroom hheads
    have hf := OwnGroup.begun (issueOf (.batch b gd)) s c sl g cl
    obtain ⟨k, hk, hp, hr, hq, hfst, hw, ho, hrest⟩ := State.group_begun_waits h hocc
    have hkopen : k.openB = g.openB := (congrArg Group.openB hrest : k.rest.openB = g.rest.openB)
    have hkclosed : k.closedB = g.closedB := (congrArg Group.closedB hrest : k.rest.closedB = g.rest.closedB)
    have hclose (x : Group) (hx : tget [] x.openB (clsNum b) = tget [] g.openB (clsNum b)) : x.closeBatch b
        = { x with openB := tdel x.openB (clsNum b)
                   closedB := tput x.closedB (clsNum b) (tget [] x.closedB (clsNum b) ++ [tget [] g.openB (clsNum b)]) } := by
      unfold Group.closeBatch
      dsimp only
      split
      · next hnil => exact absurd (hx.symm.trans hnil) hopen
      · rw [hx]
    have hpre : batchPre b gd c sl g s = .ok := by
      simp [batchPre, Group.canClose, Group.outstanding, hroom]
    have hgroup := State.group_onGroup hk fun x => x.closeBatch b
    have hheads' : State.HeadsWait ((s.begun (issueOf (.batch b gd)) c sl g cl).onGroup c sl fun x => x.closeBatch b)
        (k.closeBatch b) := by
      intro j x r hx
      rw [hclose k (by rw [hkopen])] at hx
      rw [hclose g rfl] at hheads
      obtain ⟨m, hm, hdone⟩ := hheads j x r (by rw [← hkclosed]; exact hx)
      refine ⟨m, hm, ?_⟩
      rw [State.cmdDone, (OwnGroup.onGroup ..).cmds_eq, hf.cmds_eq]
      exact hdone
    refine ⟨_, (exec_batch ..).trans (issueWith_next h _ _ hpre), ?_⟩
    rw [if_pos (lanes32_any_eq_true hact), State.settleBatches_idle hgroup hheads'
      (by rw [hclose k (by rw [hkopen])]; exact hw) (by rw [hclose k (by rw [hkopen])]; exact ho)]
    refine wrote_nothing (hf.trans (.onGroup ..)) hgroup ?_ ?_ ?_ ?_ <;> rw [hclose k (by rw [hkopen])]
    · exact ⟨hp.pc, by
        rw [hkopen, hkclosed]
        exact congrArg (fun x : Group => { x with
          openB := tdel g.openB (clsNum b)
          closedB := tput g.closedB (clsNum b) (tget [] g.closedB (clsNum b) ++ [tget [] g.openB (clsNum b)]) }) hrest, hp.lanes⟩
    · exact hr
    · exact hq
    · exact hfst
  · rintro i rfl h hact hu hopen hclosed hfaults hstop
    have hf := OwnGroup.begun (issueOf (.wait d w n gd)) s c sl g cl
    obtain ⟨k, hk, hp, hr, hq, hfst, hw, ho, hrest⟩ := State.group_begun_waits h hocc
    have hb : k.NoBatches := ⟨(congrArg Group.openB hrest : k.rest.openB = g.rest.openB).trans hopen,
      (congrArg Group.closedB hrest : k.rest.closedB = g.rest.closedB).trans hclosed,
      (congrArg Group.pendF hrest : k.rest.pendF = g.rest.pendF).trans hfaults⟩
    have hslot : k.bslot = g.bslot := (congrArg Group.bslot hrest : k.rest.bslot = g.rest.bslot)
    have hstatus : k.status = g.status := (congrArg Group.status hrest : k.rest.status = g.rest.status)
    obtain ⟨m, hm⟩ : ∃ m, m = maskOf (g.active gd) := ⟨_, rfl⟩
    let waits (x : Group) : Group := { x with waiting := .wait (classesOf w) w n.toNat d.toNat m [] }
    obtain ⟨u, hueq⟩ : ∃ u, u = (s.begun (issueOf (.wait d w n gd)) c sl g cl).onGroup c sl waits := ⟨_, rfl⟩
    have hown : OwnGroup s u c sl := by rw [hueq]; exact hf.trans (.onGroup ..)
    have hgroup : u.group c sl = some (waits k) := by rw [hueq]; exact State.group_onGroup hk waits
    have hustop : u.stopping c (waits k) = false := by
      rw [hown.stopping, State.stopping_eq, show (waits k).bslot = g.bslot from hslot, ← State.stopping_eq]; exact hstop
    have hua : Unaudited u c (waits k) := by
      have := hown.unaudited hu
      rwa [Unaudited, ← show (waits k).bslot = g.bslot from hslot] at this
    have hwake := State.wake_wait hgroup rfl ⟨hb.opened, hb.closed, hb.faults⟩ hustop hua
    rw [show (waits k).status = g.status from hstatus] at hwake
    have hk' := State.group_setGroup_same u c sl ((waits k).waited u.batchDone w d.toNat m sum)
    have hcs : classesOf w = cs := by cases w <;> rfl
    have hsettle : u.settleBatches c sl = u.setGroup c sl ((waits k).waited u.batchDone w d.toNat m sum) := by
      rw [State.settleBatches, State.settleRounds, State.popAll_nil hgroup hb.closed, hwake, hcs]
      rw [State.settleRounds_idle hk' rfl hb.closed, State.reap_occupied hk' (by rw [Group.occs_waited]; exact ho)]
    refine ⟨_, (exec_wait ..).trans (issue_next h _), ?_⟩
    rw [if_pos (lanes32_any_eq_true hact), ← hm, ← hueq, hsettle]
    have hmask : ∀ l < 32, m.getLsbD l = g.active gd l := fun l hl => by rw [hm, getLsbD_maskOf _ hl]
    refine ⟨hown.trans (.setGroup ..), _, hk', ⟨hp.pc, ?_, fun l hl => ?_⟩, fun l hl ha r hr255 v hv => ?_,
      fun l hl ha p hp7 v hv => by simp at hv, fun l hl r hout => ?_, fun l hl p _ => ?_, ?_⟩
    · have hwg := (Group.free_of_ready h.ready).2
      have : { k.rest with waiting := .none, status := cs.foldl (fun t x => tdel t (clsNum x)) k.status }
          = { g.rest with waiting := .none, status := cs.foldl (fun t x => tdel t (clsNum x)) g.status } := by
        rw [hrest, hstatus]
      rw [show g.rest = { g.rest with waiting := .none } from congrArg (fun x => ({ g.rest with waiting := x } : Group)) hwg] at this
      rw [← hcs] at this ⊢
      exact this.trans (congrArg (fun x => ({ g.rest with
        waiting := x, status := (classesOf w).foldl (fun t x => tdel t (clsNum x)) g.status } : Group)) hwg.symm)
    · exact (Group.rest_lane_waited _ _ _ _ _ _ hl).trans (hp.lanes l hl)
    · simp only [List.mem_singleton, Prod.mk.injEq, Loc.reg.injEq] at hv
      obtain ⟨rfl, rfl⟩ := hv
      have hs : (k.lane l).st ≠ .empty := by
        rw [Lane.st_of_rest (hp.lanes l hl)]
        simp only [Group.active, Bool.and_eq_true, decide_eq_true_eq] at ha
        exact ha.1
      exact Group.reg_waited _ _ _ _ _ _ hl (by omega) hs ((hmask l hl).trans ha)
    · refine (Group.raw_waited _ _ _ _ _ _ hl (hout.imp (fun ha => (hmask l hl).trans ha) fun hne e => hne ?_)).trans (hr l hl r)
      simp [e]
    · exact (Group.rawPred_waited _ _ _ _ _ _ hl p).trans (hq l hl p)
    · refine hfst.trans (foldl_keeps id (fun b _ => ?_) _ _).symm
      simp [fstatOf]
  · intro i hi h hnone
    obtain ⟨k, hk, hp, hr, hq, hfst⟩ := group_begun_passed i s c sl g cl
    have hany := lanes32_any_eq_false hnone
    have hexec : exec i s = .next (s.begun (issueOf i) c sl g cl) := by
      rcases hi with rfl | rfl
      · exact (exec_batch ..).trans ((issueWith_next h _ _ (by simp [batchPre, hany])).trans (by rw [hany]; rfl))
      · exact (exec_wait ..).trans ((issue_next h _).trans (by rw [hany]; rfl))
    exact ⟨_, hexec, wrote_nothing (.begun ..) hk hp hr hq hfst⟩

/-- The last instruction of a clause leaves its group at a clause header. -/
theorem State.clause_begun {i : Instr} {s : State} {c sl : Nat} {g : Group} {cl : Clause} (h : Issues i s c sl g cl)
    (hends : (issueOf i).ends = true) : ∃ k, (s.begun (issueOf i) c sl g cl).group c sl = some k ∧ k.clause = none := by
  refine ⟨_, State.group_begun .., ?_⟩
  have hlast : cl.isLast = true := by
    by_contra hl
    have hlegal := h.legal
    simp only [illegalCause] at hlegal
    repeat' split at hlegal
    all_goals simp_all
  exact if_pos hlast

/-- R180, R181, R184: an arrival at a barrier whose fence holds. -/
theorem arrives {i : Instr} {s : State} {c sl : Nat} {g : Group} {cl : Clause} {f : FScope} {w : Wait} (hexec : exec i s = arrive i f w s)
    (hends : (issueOf i).ends = true) (hwords : (issueOf i).words = 2) (h : Issues i s c sl g cl) (hfence : s.fenceOk g f = true) :
    Completes i s fun t => Became i s t c sl { g with pc := g.pc + 8, waiting := if 32 ≤ c then g.waiting else w } := by
  have hf := OwnGroup.begun (issueOf i) s c sl g cl
  obtain ⟨k, hk, hp, hr, hq, hfst⟩ := group_begun_passed i s c sl g cl
  obtain ⟨k', hk', hclause⟩ := State.clause_begun h hends
  obtain rfl : k' = k := Option.some.inj (hk'.symm.trans hk)
  have hpc : k'.pc = g.pc + 8 := by rw [hp.pc, hwords]; rfl
  refine ⟨_, hexec.trans (issueWith_next h _ _ (by simp [barPre, hfence])), ?_⟩
  by_cases hc : 32 ≤ c
  · rw [if_pos hc]
    simp only [hc, if_true]
    exact ⟨hf, k', hk, hpc, hclause, hp.rest, hp.lanes, hr, hq, hfst⟩
  · rw [if_neg hc]
    simp only [hc, if_false]
    exact ⟨hf.trans (.onGroup ..), _, State.group_onGroup hk _, hpc, hclause,
      congrArg (fun x : Group => { x with waiting := w }) hp.rest, hp.lanes, hr, hq, hfst⟩

theorem fences_and_barriers : Claims.FencesAndBarriers := by
  intro sc gd s c sl g cl arrives'
  refine ⟨?_, arrives rfl rfl rfl, arrives rfl rfl rfl, arrives rfl rfl rfl⟩
  rintro i rfl h
  have hf := OwnGroup.begun (issueOf (.fence sc gd)) s c sl g cl
  obtain ⟨k, hk, hp, hr, hq, hfst⟩ := group_begun_passed (.fence sc gd) s c sl g cl
  refine ⟨_, (exec_fence ..).trans (issue_next h _), ?_⟩
  split
  · exact wrote_nothing (hf.trans (.onGroup ..)) (State.group_onGroup hk _)
      ⟨hp.pc, congrArg (fun x : Group => { x with waiting := .fence sc }) hp.rest, hp.lanes⟩ hr hq hfst
  · exact wrote_nothing hf hk hp hr hq hfst

/-- Settles O21, by its two halves. -/
theorem synchronisation : Obligations.Synchronisation := by
  unfold Obligations.Synchronisation
  exact ⟨batches_and_waits, fences_and_barriers⟩

end Sys2Proof.Machine
end

section

/-!
# What sending an access changes (R143, R195, R262 to R265)

An engine that sends an access changes accesses and commands, the buffers and miss queues of the translation, and audits; a command
keeps what it is, and gains accesses and faults alone.
-/

namespace Sys2Proof.Machine

/-- A command without what its accesses bring. -/
def Cmd.offSending (x : Cmd) : Cmd := { x with accs := [], faults := [], status := 0 }

/-- A command has gained accesses and faults, and nothing else of it has changed. -/
structure Cmd.Grows (x y : Cmd) : Prop where
  same   : y.offSending = x.offSending
  accs   : ∀ n ∈ x.accs, n ∈ y.accs
  faults : ∀ f ∈ x.faults, f ∈ y.faults

theorem Cmd.Grows.refl (x : Cmd) : x.Grows x := ⟨rfl, fun _ h => h, fun _ h => h⟩

theorem Cmd.Grows.trans {x y z : Cmd} (h : x.Grows y) (k : y.Grows z) : x.Grows z :=
  ⟨k.same.trans h.same, fun n hn => k.accs n (h.accs n hn), fun f hf => k.faults f (h.faults f hf)⟩

theorem Cmd.Grows.face {x y : Cmd} (h : x.Grows y) : y.face = x.face :=
  (congrArg Cmd.face h.same : y.offSending.face = x.offSending.face)

theorem Cmd.Grows.org {x y : Cmd} (h : x.Grows y) : y.org = x.org := (congrArg Cmd.org h.same : y.offSending.org = x.offSending.org)

theorem Cmd.Grows.op {x y : Cmd} (h : x.Grows y) : y.op = x.op := (congrArg Cmd.op h.same : y.offSending.op = x.offSending.op)

theorem Cmd.Grows.stores {x y : Cmd} (h : x.Grows y) : y.stores = x.stores :=
  (congrArg Cmd.stores h.same : y.offSending.stores = x.offSending.stores)

theorem Cmd.Grows.plan {x y : Cmd} (h : x.Grows y) : y.plan = x.plan := (congrArg Cmd.plan h.same : y.offSending.plan = x.offSending.plan)

/-- What an access asks for. -/
def Access.asks (a : Access) : Nat × Nat × Nat × AccOp × Nat × Nat := (a.polder, a.cmd, a.lane, a.op, a.va, a.len)

/-- A core without its blocks, its translation buffer and its fault buffer. -/
def Core.offSending (k : Core) : Core := { k with blocks := [], tb := [], parkedA := [] }

/-- A state without its cores, dies and polders, its accesses, commands and audits, and the model's own counters. -/
def State.offSending (s : State) : State :=
  { s with cores := [], dies := [], polders := [], accs := [], cmds := [], audits := [], next := 0, choices := 0 }

/-- THE FRAME of sending accesses of commands. -/
structure Sends (s t : State) : Prop where
  others  : t.offSending = s.offSending
  cores   : ∀ d, (t.core d).offSending = (s.core d).offSending
  blocks  : ∀ d b, (t.block d b).map Block.offAudit = (s.block d b).map Block.offAudit
  polders : ∀ p, (t.polder p).offAudit = (s.polder p).offAudit
  cmds    : ∀ n x, tfind s.cmds n = some x → ∃ y, tfind t.cmds n = some y ∧ x.Grows y
  noCmd   : ∀ n, tfind s.cmds n = none → tfind t.cmds n = none
  accs    : ∀ n a, n ≤ s.next → tfind s.accs n = some a → ∃ b, tfind t.accs n = some b ∧ b.asks = a.asks
  next    : s.next ≤ t.next

namespace Sends

variable {s t u : State}

theorem refl (s : State) : Sends s s :=
  ⟨rfl, fun _ => rfl, fun _ _ => rfl, fun _ => rfl, fun _ x h => ⟨x, h, .refl x⟩, fun _ h => h, fun _ a _ h => ⟨a, h, rfl⟩,
    Nat.le_refl _⟩

theorem trans (h : Sends s t) (k : Sends t u) : Sends s u where
  others := k.others.trans h.others
  cores d := (k.cores d).trans (h.cores d)
  blocks d b := (k.blocks d b).trans (h.blocks d b)
  polders p := (k.polders p).trans (h.polders p)
  cmds n x hx := by
    obtain ⟨y, hy, hxy⟩ := h.cmds n x hx
    obtain ⟨z, hz, hyz⟩ := k.cmds n y hy
    exact ⟨z, hz, hxy.trans hyz⟩
  noCmd n hn := k.noCmd n (h.noCmd n hn)
  accs n a hn ha := by
    obtain ⟨b, hb, hab⟩ := h.accs n a hn ha
    obtain ⟨c, hc, hbc⟩ := k.accs n b (hn.trans h.next) hb
    exact ⟨c, hc, hbc.trans hab⟩
  next := h.next.trans k.next

theorem mem (h : Sends s t) : t.mem = s.mem := (congrArg State.mem h.others : t.offSending.mem = s.offSending.mem)
theorem sp (h : Sends s t) : t.sp = s.sp := (congrArg State.sp h.others : t.offSending.sp = s.offSending.sp)
theorem runs (h : Sends s t) : t.runs = s.runs := (congrArg State.runs h.others : t.offSending.runs = s.offSending.runs)
theorem pool (h : Sends s t) : t.pool = s.pool := (congrArg State.pool h.others : t.offSending.pool = s.offSending.pool)
theorem linkQ (h : Sends s t) : t.linkQ = s.linkQ := (congrArg State.linkQ h.others : t.offSending.linkQ = s.offSending.linkQ)
theorem links (h : Sends s t) : t.links = s.links := (congrArg State.links h.others : t.offSending.links = s.offSending.links)

theorem sh (h : Sends s t) (d : Nat) : (t.core d).sh = (s.core d).sh :=
  (congrArg Core.sh (h.cores d) : (t.core d).offSending.sh = (s.core d).offSending.sh)

theorem groups (h : Sends s t) (d : Nat) : (t.core d).groups = (s.core d).groups :=
  (congrArg Core.groups (h.cores d) : (t.core d).offSending.groups = (s.core d).offSending.groups)

theorem group (h : Sends s t) (d j : Nat) : t.group d j = s.group d j := State.group_of_groups h.groups d j

theorem weir (h : Sends s t) (p : Nat) : (t.polder p).weirLevel = (s.polder p).weirLevel
    ∧ (t.polder p).weirDebt = (s.polder p).weirDebt ∧ (t.polder p).spBase = (s.polder p).spBase :=
  ⟨(congrArg Polder.weirLevel (h.polders p) : (t.polder p).offAudit.weirLevel = (s.polder p).offAudit.weirLevel),
    (congrArg Polder.weirDebt (h.polders p) : (t.polder p).offAudit.weirDebt = (s.polder p).offAudit.weirDebt),
    (congrArg Polder.spBase (h.polders p) : (t.polder p).offAudit.spBase = (s.polder p).offAudit.spBase)⟩

/-! ### What changes audits alone -/

theorem of_auditOnly (h : AuditOnly s t) : Sends s t := by
  have hcmds : t.cmds = s.cmds := (congrArg State.cmds h.others : t.offAudits.cmds = s.offAudits.cmds)
  have haccs : t.accs = s.accs := (congrArg State.accs h.others : t.offAudits.accs = s.offAudits.accs)
  have hnext : t.next = s.next := (congrArg State.next h.others : t.offAudits.next = s.offAudits.next)
  exact {
    others := (congrArg State.offSending h.others : t.offAudits.offSending = s.offAudits.offSending)
    cores := fun d => (congrArg Core.offSending (h.cores d) : (t.core d).offBlocks.offSending = (s.core d).offBlocks.offSending)
    blocks := h.blocks
    polders := h.polders
    cmds := fun n x hx => ⟨x, by rw [hcmds]; exact hx, .refl x⟩
    noCmd := fun n hn => by rw [hcmds]; exact hn
    accs := fun n a _ ha => ⟨a, by rw [haccs]; exact ha, rfl⟩
    next := Nat.le_of_eq hnext.symm }

/-! ### Tables and buffers -/

theorem setDie (s : State) (k : Nat) (d : Die) : Sends s (s.setDie k d) := { refl s with }

theorem setCore (s : State) (c : Nat) (k : Core) (h : k.offSending = (s.core c).offSending) (hb : k.blocks = (s.core c).blocks) :
    Sends s (s.setCore c k) :=
  { refl s with
    cores := fun d => by
      by_cases e : d = c
      · subst e; rw [State.core_setCore_same, h]
      · rw [State.core_setCore_ne _ _ e]
    blocks := fun d b => by
      by_cases e : d = c
      · subst e; rw [State.block, State.core_setCore_same, hb]; rfl
      · rw [State.block, State.core_setCore_ne _ _ e]; rfl }

theorem fresh (s : State) : Sends s s.fresh.2 := { refl s with }

theorem newId (s : State) : Sends s s.newId.2 := { refl s with next := Nat.le_succ _ }

theorem onAcc (s : State) (id : Nat) (f : Access → Access) (hf : ∀ a, (f a).asks = a.asks) : Sends s (s.onAcc id f) := by
  unfold State.onAcc
  split
  · next a ha =>
    exact { refl s with
      accs := fun n b _ hb => by
        by_cases e : n = id
        · subst e
          cases ha.symm.trans hb
          exact ⟨f a, tfind_tput_same .., hf a⟩
        · exact ⟨b, (tfind_tput_ne _ _ e).trans hb, rfl⟩ }
  · exact refl s

theorem setCmd {id : Nat} {x y : Cmd} (hx : tfind s.cmds id = some x) (h : x.Grows y) : Sends s { s with cmds := tput s.cmds id y } :=
  { refl s with
    cmds := fun n z hz => by
      by_cases e : n = id
      · subst e
        cases hx.symm.trans hz
        exact ⟨y, tfind_tput_same .., h⟩
      · exact ⟨z, (tfind_tput_ne _ _ e).trans hz, .refl z⟩
    noCmd := fun n hn => by
      have e : n ≠ id := by rintro rfl; rw [hx] at hn; cases hn
      exact (tfind_tput_ne _ _ e).trans hn }

theorem noteFault (s : State) (id lane code cause : Nat) (addr : DWord) (aux : Word) :
    Sends s (s.noteFault id lane code cause addr aux) := by
  unfold State.noteFault
  split
  · next x hx => exact setCmd hx ⟨rfl, fun _ h => h, fun _ h => List.mem_append_left _ h⟩
  · exact refl s

theorem foldl {α : Type} {f : State → α → State} (hf : ∀ s x, Sends s (f s x)) (xs : List α) (s : State) : Sends s (xs.foldl f s) := by
  induction xs generalizing s with
  | nil => exact refl s
  | cons x xs ih => exact (hf s x).trans (ih _)

/-! ### The translation -/

theorem fillCore (s : State) (c : Nat) (e : TEntry) : Sends s (s.fillCore c e) := by
  unfold State.fillCore
  split
  next f t heq =>
  have ht : Sends s t := by
    split at heq <;> cases heq
    · exact refl s
    · exact fresh s
  exact ht.trans (setCore _ _ _ rfl rfl)

theorem lookup (s : State) (c p va : Nat) : Sends s (s.lookup c p va).2 := by
  unfold State.lookup
  split
  · exact refl s
  · split
    · exact refl s
    · split
      · exact fillCore ..
      · exact refl s

theorem queueMiss (s : State) (id : Nat) (a : Access) : Sends s (s.queueMiss id a) := by
  unfold State.queueMiss
  dsimp only
  split
  · exact refl s
  · exact setDie ..

theorem refillMiss (s : State) (d : Nat) : Sends s (s.refillMiss d) := by
  refine foldl (fun s k => ?_) _ _
  split
  · exact refl s
  · refine foldl (fun s i => ?_) _ _
    split
    · split
      · exact queueMiss ..
      · exact refl s
    · exact refl s

theorem unpark (s : State) (id : Nat) (a : Access) : Sends s (s.unpark id a) := by
  unfold State.unpark
  refine trans ?_ (refillMiss ..)
  refine trans ?_ (setDie ..)
  exact setCore s a.core _ rfl rfl

theorem park (s : State) (id : Nat) (a : Access) : Sends s (s.park id a) := by
  unfold State.park
  dsimp only
  split
  · exact onAcc s id _ fun _ => rfl
  · refine trans ?_ (queueMiss ..)
    refine trans ?_ (onAcc _ id _ fun _ => rfl)
    exact setCore s a.core _ rfl rfl

theorem remoteRead (s : State) (a : Access) (pa : Nat) : Sends s (s.remoteRead a pa) := by
  unfold State.remoteRead
  split
  · split
    · exact of_auditOnly (.audCancel ..)
    · exact refl s
  · exact refl s

theorem failAccess {id : Nat} {a : Access} (ha : tfind s.accs id = some a) (hc : a.cmd ≠ 0) (code cause : Nat) (aux : Word) :
    Sends s (s.failAccess id code cause aux) := by
  unfold State.failAccess
  simp only [ha, if_pos hc]
  have h := (unpark s id a).trans (onAcc _ id (fun a => { a with st := .failed code cause aux }) fun _ => rfl)
  split
  · exact h
  · exact h.trans (noteFault ..)

theorem find {id : Nat} {a : Access} (ha : tfind s.accs id = some a) (hc : a.cmd ≠ 0) : Sends s (s.find id a) := by
  unfold State.find
  have hkeep := lookup s a.core a.polder a.va
  have haccs : tfind (s.lookup a.core a.polder a.va).2.accs id = some a := by
    have : (s.lookup a.core a.polder a.va).2.accs = s.accs := by
      unfold State.lookup State.fillCore
      split
      · rfl
      · split
        · rfl
        · split
          · dsimp only; split <;> rfl
          · rfl
    rw [this]; exact ha
  split
  · next e t heq =>
    rw [heq] at hkeep haccs
    split
    · simp only [hc, decide_false, Bool.false_and, Bool.false_eq_true, if_false]
      refine hkeep.trans ((unpark t id a).trans ((newId _).trans ?_))
      refine trans ?_ (remoteRead ..)
      exact onAcc _ id _ fun _ => rfl
    · exact hkeep.trans (failAccess haccs hc ..)
  · next t heq =>
    rw [heq] at hkeep
    exact hkeep.trans (park ..)

theorem try_ {id : Nat} {a : Access} (ha : tfind s.accs id = some a) (hc : a.cmd ≠ 0) : Sends s (s.try id) := by
  unfold State.try
  simp only [ha]
  split
  · exact refl s
  · split
    · exact failAccess ha hc ..
    · split
      · exact park ..
      · exact find ha hc

end Sends

/-! ### An access that a command has sent -/

/-- The command `id` has an access that asks for `op` at `va`, among the numbers given so far. -/
def State.HasSent (t : State) (id lane : Nat) (op : AccOp) (va len : Nat) : Prop :=
  ∃ x n a, tfind t.cmds id = some x ∧ n ∈ x.accs ∧ n ≤ t.next ∧ tfind t.accs n = some a
    ∧ a.asks = (x.org.polder, id, lane, op, va, len)

theorem State.HasSent.sentAccess {t : State} {id lane va len : Nat} {op : AccOp} (h : t.HasSent id lane op va len) :
    SentAccess t id lane op va len := by
  obtain ⟨x, n, a, hx, hn, -, ha, hasks⟩ := h
  simp only [Access.asks, Prod.mk.injEq] at hasks
  obtain ⟨hp, hc, hl, ho, hv, hlen⟩ := hasks
  exact ⟨x, n, a, hx, hn, ha, hc, hp, hl, ho, hv, hlen⟩

theorem State.HasSent.mono {s t : State} {id lane va len : Nat} {op : AccOp} (h : s.HasSent id lane op va len) (hs : Sends s t) :
    t.HasSent id lane op va len := by
  obtain ⟨x, n, a, hx, hn, hle, ha, hasks⟩ := h
  obtain ⟨y, hy, hxy⟩ := hs.cmds id x hx
  obtain ⟨b, hb, hab⟩ := hs.accs n a hle ha
  exact ⟨y, n, b, hy, hxy.accs n hn, hle.trans hs.next, hb, by rw [hxy.org, hab, hasks]⟩

theorem NotedFault.mono {s t : State} {id lane code : Nat} {addr : DWord} (h : NotedFault s id lane code addr) (hs : Sends s t) :
    NotedFault t id lane code addr := by
  obtain ⟨x, hx, cause, aux, hf⟩ := h
  obtain ⟨y, hy, hxy⟩ := hs.cmds id x hx
  exact ⟨y, hy, cause, aux, hxy.faults _ hf⟩

/-- A command that is there and whose work is no replay. -/
def State.HasCmd (s : State) (id : Nat) : Prop := ∃ x, tfind s.cmds id = some x ∧ x.op.isReplayed = false

theorem State.HasCmd.mono {s t : State} {id : Nat} (h : s.HasCmd id) (hs : Sends s t) : t.HasCmd id := by
  obtain ⟨x, hx, hop⟩ := h
  obtain ⟨y, hy, hxy⟩ := hs.cmds id x hx
  exact ⟨y, hy, by rw [hxy.op, hop]⟩

section

variable {s : State} {id : Nat}

/-- An access is entered with a new number. -/
theorem State.postAcc_spec (h : s.HasCmd id) (lane : Nat) (op : AccOp) (p : Piece) :
    Sends s (s.postAcc id lane op p).2 ∧ (s.postAcc id lane op p).2.HasSent id lane op p.va p.len
      ∧ ∃ a, tfind (s.postAcc id lane op p).2.accs (s.postAcc id lane op p).1 = some a ∧ a.cmd = id := by
  obtain ⟨x, hx, hop⟩ := h
  unfold State.postAcc
  simp only [hx, hop, Bool.false_eq_true, if_false]
  let a : Access := { polder := x.org.polder, core := x.org.core, cmd := id, lane := lane, src := x.op.src, op := op, va := p.va
                      len := p.len, off := p.off, st := .ready, data := [], bad := [], aux := 0 }
  have hnew : Sends s { s.newId.2 with accs := tput s.accs s.newId.1 a } :=
    { Sends.newId s with
      accs := fun n b hn hb => ⟨b, (tfind_tput_ne _ _ (by simp only [State.newId]; omega)).trans hb, rfl⟩ }
  refine ⟨hnew.trans (Sends.setCmd (s := { s.newId.2 with accs := tput s.accs s.newId.1 a }) hx
      ⟨rfl, fun _ h => List.mem_append_left _ h, fun _ h => h⟩), ?_, a, tfind_tput_same .., rfl⟩
  exact ⟨_, _, a, tfind_tput_same .., List.mem_append_right _ (List.mem_singleton.2 rfl), Nat.le_refl _, tfind_tput_same .., rfl⟩

theorem State.sendAcc_spec (h : s.HasCmd id) (h0 : id ≠ 0) (lane : Nat) (op : AccOp) (p : Piece) :
    Sends s (s.sendAcc id lane op p) ∧ (s.sendAcc id lane op p).HasSent id lane op p.va p.len := by
  obtain ⟨hpost, hsent, a, ha, hc⟩ := State.postAcc_spec h lane op p
  have htry : Sends (s.postAcc id lane op p).2 (s.sendAcc id lane op p) := Sends.try_ ha (by rw [hc]; exact h0)
  exact ⟨hpost.trans htry, hsent.mono htry⟩

theorem State.noteFault_notes (h : s.HasCmd id) (lane code cause : Nat) (addr : DWord) (aux : Word) :
    NotedFault (s.noteFault id lane code cause addr aux) id lane code addr := by
  obtain ⟨x, hx, -⟩ := h
  unfold State.noteFault
  simp only [hx]
  exact ⟨_, tfind_tput_same .., cause, aux, List.mem_append_right _ (List.mem_singleton.2 rfl)⟩

/-- Steps that send, one for each member of a list: each leaves what it has sent. -/
theorem State.foldl_sends {α : Type} {f : State → α → State} {P : State → α → Prop} (hP : ∀ s t x, P s x → Sends s t → P t x)
    (xs : List α) (s : State) (h : s.HasCmd id) (hf : ∀ t, t.HasCmd id → Sends s t → ∀ x ∈ xs, Sends t (f t x) ∧ P (f t x) x) :
    Sends s (xs.foldl f s) ∧ ∀ x ∈ xs, P (xs.foldl f s) x := by
  induction xs generalizing s with
  | nil => exact ⟨.refl s, fun x hx => nomatch hx⟩
  | cons x xs ih =>
    obtain ⟨hx, hPx⟩ := hf s h (.refl s) x List.mem_cons_self
    obtain ⟨hrest, hP'⟩ := ih (f s x) (h.mono hx) fun t ht hst y hy => hf t ht (hx.trans hst) y (List.mem_cons_of_mem _ hy)
    refine ⟨hx.trans hrest, fun y hy => ?_⟩
    rcases List.mem_cons.1 hy with rfl | hy
    · exact hP _ _ _ hPx hrest
    · exact hP' y hy

theorem State.sendReads_spec (h : s.HasCmd id) (h0 : id ≠ 0) (lane : Nat) (ps : List Piece) :
    Sends s (s.sendReads id lane ps) ∧ ∀ p ∈ ps, (s.sendReads id lane ps).HasSent id lane .read p.va p.len :=
  State.foldl_sends (f := fun s p => s.sendAcc id lane .read p) (P := fun t (p : Piece) => t.HasSent id lane .read p.va p.len)
    (fun _ _ _ hs hst => hs.mono hst) ps s h fun _ ht _ p _ => State.sendAcc_spec ht h0 lane .read p

end

end Sys2Proof.Machine
end

section

/-!
# Engine commands issue (R143, R144, R148), and `cpy` and `seal` (R153 to R156)
-/

namespace Sys2Proof.Machine

/-! ### The issue of a command -/

/-- A state in which the instruction `i` of a group has passed, and which reads as before in what a command takes from it. -/
structure AtLaunch (i : Instr) (s b : State) (c sl : Nat) (g : Group) : Prop where
  acted  : Acted i s b c sl g
  cmds   : b.cmds = s.cmds
  links  : b.linkQ = s.linkQ
  origin : ∀ k, b.originOf c sl g k = s.originOf c sl g k
  rerun  : b.inRerun c g.bslot = false

theorem atLaunch_begun (i : Instr) {s : State} {c : Nat} {g : Group} (h : EngFree s c g) (sl : Nat) (cl : Clause) :
    AtLaunch i s (s.begun (issueOf i) c sl g cl) c sl g := by
  have hf := OwnGroup.begun (issueOf i) s c sl g cl
  obtain ⟨-, -, hrerun⟩ := h
  exact ⟨acted_begun .., hf.cmds_eq, hf.linkQ_eq, hf.originOf c sl g, (hf.inRerun ..).trans hrerun⟩

/-- A group whose command has joined its batch, with the registers that the command will write pending. -/
def Group.launched (h : Group) (k : Cls) (id : Nat) (regs : List Nat) (writes : Nat → Bool) : Group :=
  (h.join k id).mapLanes fun i ln =>
    if writes i then { ln with pend := regs.foldl (fun t r => tput t r { cmd := id, cls := k }) ln.pend } else ln

theorem lane_launched (h : Group) (k : Cls) (id : Nat) (regs : List Nat) (writes : Nat → Bool) {l : Nat} (hl : l < 32) :
    (h.launched k id regs writes).lane l = if writes l then
      { h.lane l with pend := regs.foldl (fun t r => tput t r { cmd := id, cls := k }) (h.lane l).pend } else h.lane l :=
  lane_mapLanes (h.join k id) (fun i ln => if writes i then
    { ln with pend := regs.foldl (fun t r => tput t r { cmd := id, cls := k }) ln.pend } else ln) hl

theorem tfind_foldl_tput {α : Type} (v : α) (ks : List Nat) (t : Table α) {k : Nat} (h : k ∈ ks ∨ tfind t k = some v) :
    tfind (ks.foldl (fun t r => tput t r v) t) k = some v := by
  induction ks generalizing t with
  | nil => exact h.resolve_left List.not_mem_nil
  | cons r ks ih =>
    refine ih _ ?_
    by_cases e : k = r
    · subst e; exact .inr (tfind_tput_same ..)
    · rw [tfind_tput_ne _ _ e]
      exact h.imp_left fun hm => (List.mem_cons.1 hm).resolve_left e

/-- A command joins its group's open batch; but for that and the marks of pending registers the group has only passed. -/
theorem passed_launched {i : Instr} {g k : Group} (hp : Passed i g k) (cls : Cls) (id : Nat) (regs : List Nat) (writes : Nat → Bool) :
    Passed i (g.join cls id) (k.launched cls id regs writes) where
  pc := hp.pc
  rest := (congrArg (fun x : Group => x.join cls id) hp.rest : k.rest.join cls id = g.rest.join cls id)
  lanes l hl := by
    rw [lane_launched k cls id regs writes hl]
    split
    · exact hp.lanes l hl
    · exact hp.lanes l hl

/-- A command as it is issued. -/
def State.issuedCmd (s : State) (c sl : Nat) (g : Group) (k : Cls) (op : CmdOp) (mask : BitVec 32) (phase : Phase) : Cmd :=
  { org := s.originOf c sl g k, op := op, mask := mask, phase := phase, stores := s.storesOf g
    plan := [], accs := [], recB := [], recB2 := [], status := 0, faults := [], wrote := [] }

/-- In a block that is no re-execution a command is entered with a new number, and its group joins it to its batch. -/
theorem State.launchCmd_eq {s : State} {c sl : Nat} {g : Group} (hr : s.inRerun c g.bslot = false) (k : Cls) (op : CmdOp)
    (mask : BitVec 32) (phase : Phase) (regs : List Nat) (writes : Nat → Bool) :
    s.launchCmd c sl g k op mask phase regs writes = (s.newId.1,
      (State.audPlan { s.newId.2 with cmds := tput s.cmds s.newId.1 (s.issuedCmd c sl g k op mask phase) } (s.originOf c sl g k)
        s.newId.1).onGroup c sl fun h => h.launched k s.newId.1 regs writes) := by
  unfold State.launchCmd
  simp only [State.opFor, hr, Bool.false_eq_true, if_false]
  rfl

theorem State.blocks_onGroup (s : State) (c sl : Nat) (f : Group → Group) (d : Nat) :
    ((s.onGroup c sl f).core d).blocks = (s.core d).blocks := by
  unfold State.onGroup
  split
  · by_cases e : d = c
    · subst e; simp [State.setGroup]
    · simp [State.setGroup, e]
  · rfl

/-- THE ISSUE of a command in a state in which its instruction has passed. -/
theorem commanded_launchCmd {i : Instr} {s b : State} {c sl : Nat} {g : Group} (h : AtLaunch i s b c sl g) (cls : Cls) {op : CmdOp}
    (hop : op.isReplayed = false) (mask : BitVec 32) (phase : Phase) (regs : List Nat) (writes : Nat → Bool) :
    ∃ u, b.launchCmd c sl g cls op mask phase regs writes = (b.newId.1, u)
      ∧ Commanded i s u c sl b.newId.1 g cls op mask regs writes ∧ u.HasCmd b.newId.1
      ∧ ∀ d j, (u.block d j).map Block.offAudit = (b.block d j).map Block.offAudit := by
  obtain ⟨hm, hs, hsh, hgs, k, hk, hp, hraw, hrawP, hfst⟩ := h.acted
  have hu := State.launchCmd_eq (sl := sl) h.rerun cls op mask phase regs writes
  have haud := AuditOnly.audPlan { b.newId.2 with cmds := tput b.cmds b.newId.1 (b.issuedCmd c sl g cls op mask phase) }
    (b.originOf c sl g cls) b.newId.1
  generalize State.audPlan _ (b.originOf c sl g cls) b.newId.1 = u at hu haud
  have hown := OwnGroup.onGroup u c sl fun h => h.launched cls b.newId.1 regs writes
  have hgroup : u.group c sl = some k := (haud.group c sl).trans hk
  have hgroup' := State.group_onGroup hgroup fun h => h.launched cls b.newId.1 regs writes
  have hmem := haud.sameMemory
  have hcmds : u.cmds = tput b.cmds b.newId.1 (b.issuedCmd c sl g cls op mask phase) :=
    (congrArg State.cmds haud.others : u.offAudits.cmds = State.cmds (State.offAudits _))
  have hx : tfind (u.onGroup c sl fun h => h.launched cls b.newId.1 regs writes).cmds b.newId.1
      = some (b.issuedCmd c sl g cls op mask phase) := by
    rw [hown.cmds_eq, hcmds, tfind_tput_same]
  refine ⟨_, hu, ⟨⟨fun a => ?_, fun a => ?_, fun d a => ?_, fun d j hn => ?_, _, hgroup', passed_launched hp .., fun l hl r => ?_,
    fun l hl p => ?_, hfst⟩, ⟨_, hx, ?_, ?_⟩, fun n hn => ?_, fun y hy l hl hwr r hr => ?_⟩, ⟨_, hx, hop⟩, fun d j => ?_⟩
  · rw [hown.memory, hmem.memory]; exact hm a
  · rw [hown.scratch, hmem.scratch]; exact hs a
  · rw [hown.shared, hmem.shared]; exact hsh d a
  · rw [hown.groups d j hn, haud.group]; exact hgs d j hn
  · rw [Group.raw, lane_launched k cls _ regs writes hl]
    split <;> exact hraw l hl r
  · rw [Group.rawPred, lane_launched k cls _ regs writes hl]
    split <;> exact hrawP l hl p
  · rw [Cmd.face, ← h.origin]; rfl
  · exact congrArg (fun q : List Sent => g.stq.map (·.id) ++ ((q.filter fun x => x.entry.owner = g.uid).map (·.entry.id)).eraseDups) h.links
  · rw [hown.cmds_eq, hcmds, tfind_tput_ne _ _ hn, h.cmds]
  · cases hgroup'.symm.trans hy
    rw [lane_launched k cls _ regs writes hl, if_pos hwr]
    exact tfind_foldl_tput _ _ _ (.inl hr)
  · rw [State.block, State.blocks_onGroup]
    exact haud.blocks d j

section

variable {i : Instr} {s u t : State} {c sl id : Nat} {k : Group} {cls : Cls} {op : CmdOp} {mask : BitVec 32} {regs : List Nat}
  {writes : Nat → Bool}

/-- A command that has been issued is there whatever is sent afterwards. -/
theorem Commanded.mono (h : Commanded i s u c sl id k cls op mask regs writes) (hs : Sends u t) :
    Commanded i s t c sl id k cls op mask regs writes := by
  obtain ⟨⟨hm, hsp, hsh, hgs, y, hy, hrest⟩, ⟨x, hx, hface, hstores⟩, hothers, hpend⟩ := h
  refine ⟨⟨fun a => by rw [hs.mem]; exact hm a, fun a => by rw [hs.sp]; exact hsp a, fun d a => by rw [hs.sh]; exact hsh d a,
    fun d j hn => (hs.group d j).trans (hgs d j hn), y, (hs.group c sl).trans hy, hrest⟩, ?_, fun n hn => ?_,
    fun z hz => hpend z ((hs.group c sl).symm.trans hz)⟩
  · obtain ⟨z, hz, hxz⟩ := hs.cmds id x hx
    exact ⟨z, hz, hxz.face.trans hface, hxz.stores.trans hstores⟩
  · rw [← hothers n hn]
    cases hu : tfind u.cmds n with
    | none => rw [hs.noCmd n hu]
    | some x =>
      obtain ⟨z, hz, hxz⟩ := hs.cmds n x hu
      rw [hz, Option.map_some, Option.map_some, hxz.face]

theorem Commanded.setBlock (h : Commanded i s u c sl id k cls op mask regs writes) (d b : Nat) (y : Block) :
    Commanded i s (u.setBlock d b y) c sl id k cls op mask regs writes := by
  have hgroup : (u.setBlock d b y).group c sl = u.group c sl := by
    by_cases e : c = d
    · subst e; simp [State.group, State.setBlock]
    · simp [State.group, State.setBlock, e]
  exact ⟨h.acted.setBlock d b y, h.cmd, h.others, fun z hz => h.pending z (hgroup.symm.trans hz)⟩

theorem Commanded.progress (h : Commanded i s u c sl id k cls op mask regs writes) (d b : Nat) :
    Commanded i s (u.progress d b) c sl id k cls op mask regs writes := by
  unfold State.progress
  split
  · exact h.setBlock ..
  · exact h

theorem Commanded.supply (h : Commanded i s u c sl id k cls op mask regs writes) (d b : Nat) (e : Slice) :
    Commanded i s (u.supply d b e) c sl id k cls op mask regs writes := by
  unfold State.supply
  split
  · exact h.setBlock ..
  · exact h

end

theorem newId_ne_zero (s : State) : s.newId.1 ≠ 0 := Nat.succ_ne_zero _

theorem newId_begun (v : Issue) (s : State) (c sl : Nat) (g : Group) (cl : Clause) : (s.begun v c sl g cl).newId.1 = s.newId.1 :=
  congrArg (· + 1) (State.next_begun ..)

/-- What a block's progress or a collective's slice changes is no access and no command. -/
theorem State.HasSent.of_tables {s t : State} {id lane va len : Nat} {op : AccOp} (h : s.HasSent id lane op va len)
    (hc : t.cmds = s.cmds) (ha : t.accs = s.accs) : SentAccess t id lane op va len := by
  obtain ⟨x, n, a, hx, hn, -, hf, hasks⟩ := h
  simp only [Access.asks, Prod.mk.injEq] at hasks
  obtain ⟨hp, hcmd, hl, ho, hv, hlen⟩ := hasks
  exact ⟨x, n, a, by rw [hc]; exact hx, hn, by rw [ha]; exact hf, hcmd, hp, hl, ho, hv, hlen⟩

theorem State.tables_progress (s : State) (c b : Nat) : (s.progress c b).cmds = s.cmds ∧ (s.progress c b).accs = s.accs := by
  unfold State.progress; split <;> exact ⟨rfl, rfl⟩

theorem State.tables_supply (s : State) (c b : Nat) (e : Slice) : (s.supply c b e).cmds = s.cmds ∧ (s.supply c b e).accs = s.accs := by
  unfold State.supply; split <;> exact ⟨rfl, rfl⟩

/-- An operand check passes where every test does. -/
theorem opndCheck_ok {k : Cls} {lane : Nat} {ir : Word} {xs : List (Nat × Bool)} (h : ∀ e ∈ xs, e.2 = false) :
    opndCheck k lane ir xs = .ok := by
  have : xs.find? (·.2) = none := List.find?_eq_none.2 fun e he => by simp [h e he]
  rw [opndCheck, this]

/-! ### `cpy` and `seal` -/

/-- R154 to R156, R166: `cpy` issues. -/
theorem copy_commands : Claims.CopyCommands := by
  intro a v o st solo space gd s c sl g cl l i recVa first n loc h hready hrec hloc hsize
  change Issues (.cpy a v o st solo space gd) s c sl g cl at h
  obtain ⟨hlane, hfree⟩ := hready
  have hpre : cpyPre a v o space gd c sl g s = .ok := by
    simp only [cpyPre, Group.opLane, hlane, cpyCheck]
    rw [engCheck_free hfree, opndCheck_ok]
    intro e he
    rcases List.mem_cons.1 he with rfl | he
    · simpa using hrec
    · obtain rfl := List.mem_singleton.1 he
      have hloc' : (g.reg l o.reg.toNat).toNat % 16 = 0 := hloc
      have hsize' : (g.reg l (v.reg.toNat + 1)).toNat ≠ 0 → (g.reg l o.reg.toNat).toNat < s.localSize c g space := hsize
      simpa [hloc', or_iff_not_imp_left] using hsize'
  obtain ⟨u, hu, hcmd, hhas, -⟩ := commanded_launchCmd (atLaunch_begun (.cpy a v o st solo space gd) hfree sl cl) .cpy
    (op := .cpy st space (g.pair l a.reg.toNat).toNat (g.reg l v.reg.toNat).toNat (g.reg l (v.reg.toNat + 1)).toNat
      (g.reg l o.reg.toNat).toNat) rfl (BitVec.twoPow 32 l) .record [] fun _ => false
  rw [newId_begun] at hu hcmd hhas
  obtain ⟨hsends, hsent⟩ := State.sendReads_spec hhas (newId_ne_zero s) l
    [{ va := (g.pair l a.reg.toNat).toNat, len := 64, off := 0 }]
  have hcmd' := hcmd.mono hsends
  have hsent' := hsent _ (List.mem_singleton.2 rfl)
  refine ⟨_, (exec_cpy ..).trans (issueWith_next h _ _ hpre), ?_⟩
  simp only [Group.opLane, hlane, hu]
  generalize u.sendReads s.newId.1 l [{ va := (g.pair l a.reg.toNat).toNat, len := 64, off := 0 }] = w at hcmd' hsent' ⊢
  split
  · obtain ⟨hc, ha⟩ := w.tables_progress c g.bslot
    exact ⟨hcmd'.progress .., hsent'.of_tables hc ha⟩
  · obtain ⟨hc, ha⟩ := (w.supply c g.bslot { uid := g.uid, cmd := some s.newId.1 }).tables_progress c g.bslot
    obtain ⟨hc', ha'⟩ := w.tables_supply c g.bslot { uid := g.uid, cmd := some s.newId.1 }
    exact ⟨(hcmd'.supply ..).progress .., hsent'.of_tables (hc.trans hc') (ha.trans ha')⟩

/-- R153: `seal` issues. -/
theorem seal_command : Claims.SealCommand := by
  intro d a rec128 gd s c sl g cl l i loc len h hready hloc hsize
  change Issues (.sealRec d a rec128 gd) s c sl g cl at h
  obtain ⟨hlane, hfree⟩ := hready
  have hpre : sealPre a rec128 gd c sl g s = .ok := by
    simp only [sealPre, Group.opLane, hlane]
    rw [engCheck_free hfree, opndCheck_ok]
    intro e he
    obtain rfl := List.mem_singleton.1 he
    have h1 : (g.reg l a.reg.toNat).toNat % 16 = 0 := hloc
    have h2 : ¬ (g.reg l a.reg.toNat).toNat + sealLen rec128 + 4 > s.shSizeOf c g := Nat.not_lt.2 hsize
    simp [h1, h2]
  obtain ⟨u, hu, hcmd, -, -⟩ := commanded_launchCmd (atLaunch_begun (.sealRec d a rec128 gd) hfree sl cl) .cpy
    (op := .sealRec (sealLen rec128) (g.reg l a.reg.toNat).toNat d.toNat) rfl (maskOf (g.active gd)) .data
    (if d = 255 then [] else [d.toNat]) (g.active gd)
  rw [newId_begun] at hu hcmd
  refine ⟨_, (exec_sealRec ..).trans (issueWith_next h _ _ hpre), ?_⟩
  simp only [Group.opLane, hlane, hu]
  exact hcmd.progress ..

/-- Settles O17, by its two halves. -/
theorem copyCommands : Obligations.CopyCommands := by
  unfold Obligations.CopyCommands
  exact ⟨copy_commands, seal_command⟩

end Sys2Proof.Machine
end

section

/-!
# `matom`, `mred` and `bkrun` issue (R163 to R166, R196, R197)
-/

namespace Sys2Proof.Machine

/-! ### Registers and widths -/

theorem oldRegs_eq (d : Reg) (w64 : Bool) : oldRegs d w64 = if d = 255 then [] else if w64 then [d.toNat, d.toNat + 1] else [d.toNat] := by
  cases w64 <;> rfl

theorem operand_eq (g : Group) (w64 : Bool) (l r : Nat) :
    BitVec.ofNat 64 (operand g w64 l r) = if w64 then g.pair l r else (g.reg l r).setWidth 64 := by
  cases w64 <;> simp [operand]

theorem atomBytes_eq (w64 : Bool) : atomBytes w64 = if w64 then 8 else 4 := by cases w64 <;> rfl

theorem eBytes_eq (f : EFmt) : eBytes f = if f = .bf16 then 2 else 4 := by cases f <;> rfl

/-! ### What cancels an audit -/

theorem State.originOf_congr {s t : State} {c : Nat} {g : Group}
    (hb : (t.block c g.bslot).map Block.offAudit = (s.block c g.bslot).map Block.offAudit) (hir : t.ir = s.ir) (sl : Nat) (k : Cls) :
    t.originOf c sl g k = s.originOf c sl g k := by
  unfold State.originOf State.launchOf
  cases hs : s.block c g.bslot with
  | none =>
    rw [hs, Option.map_none, Option.map_eq_none_iff] at hb
    simp only [hb, hir]
  | some x =>
    rw [hs, Option.map_some, Option.map_eq_some_iff] at hb
    obtain ⟨y, hy, hxy⟩ := hb
    have hl : y.launch = x.launch := (congrArg Block.launch hxy : y.offAudit.launch = x.offAudit.launch)
    have hi : y.idx = x.idx := (congrArg Block.idx hxy : y.offAudit.idx = x.offAudit.idx)
    simp only [hy, hir, hl, hi]

theorem State.inRerun_congr {s t : State} {c b : Nat} (hb : (t.block c b).map Block.offAudit = (s.block c b).map Block.offAudit) :
    t.inRerun c b = s.inRerun c b := by
  have hmap := congrArg (Option.map Block.rerun) hb
  rw [Option.map_map, Option.map_map] at hmap
  have hrerun : (t.block c b).map Block.rerun = (s.block c b).map Block.rerun := hmap
  rw [State.inRerun_eq, State.inRerun_eq, hrerun]

/-- What changes audits alone changes nothing that a command takes from the state. -/
theorem AtLaunch.auditOnly {i : Instr} {s b u : State} {c sl : Nat} {g : Group} (h : AtLaunch i s b c sl g) (ha : AuditOnly b u) :
    AtLaunch i s u c sl g ∧ u.newId.1 = b.newId.1 := by
  obtain ⟨hmem, hsp, hsh⟩ := ha.sameMemory
  obtain ⟨hm, hs, hd, hgs, k, hk, hrest⟩ := h.acted
  have hcmds : u.cmds = b.cmds := (congrArg State.cmds ha.others : u.offAudits.cmds = b.offAudits.cmds)
  have hlinks : u.linkQ = b.linkQ := (congrArg State.linkQ ha.others : u.offAudits.linkQ = b.offAudits.linkQ)
  have hir : u.ir = b.ir := (congrArg State.ir ha.others : u.offAudits.ir = b.offAudits.ir)
  have hnext : u.next = b.next := (congrArg State.next ha.others : u.offAudits.next = b.offAudits.next)
  exact ⟨⟨⟨fun a => by rw [hmem]; exact hm a, fun a => by rw [hsp]; exact hs a, fun e a => by rw [hsh]; exact hd e a,
      fun e j hn => (ha.group e j).trans (hgs e j hn), k, (ha.group c sl).trans hk, hrest⟩,
    hcmds.trans h.cmds, hlinks.trans h.links, fun k => (State.originOf_congr (ha.blocks ..) hir sl k).trans (h.origin k),
    (State.inRerun_congr (ha.blocks ..)).trans h.rerun⟩, congrArg (· + 1) hnext⟩

theorem AuditOnly.offAudit (s : State) (c b : Nat) : AuditOnly s (s.offAudit c b) := by
  unfold State.offAudit
  split
  · exact .failRun ..
  · exact .audCancel ..

/-! ### Lane commands -/

/-- One lane of a lane command: what it sends, or the fault that it notes. -/
def State.sendLane (s : State) (id size : Nat) (va : Nat → Nat) (op : Nat → AccOp) (l : Nat) : State :=
  if va l % size ≠ 0 then s.noteFault id l 0x16 0 (BitVec.ofNat 64 (va l)) s.ir
  else s.sendAcc id l (op l) { va := va l, len := size, off := 0 }

/-- What one lane of a lane command leaves. -/
def State.LaneSent (t : State) (id size : Nat) (va : Nat → Nat) (op : Nat → AccOp) (l : Nat) : Prop :=
  if va l % size = 0 then t.HasSent id l (op l) (va l) size else NotedFault t id l 0x16 (BitVec.ofNat 64 (va l))

theorem State.LaneSent.mono {s t : State} {id size l : Nat} {va : Nat → Nat} {op : Nat → AccOp} (h : s.LaneSent id size va op l)
    (hs : Sends s t) : t.LaneSent id size va op l := by
  unfold State.LaneSent at *
  split at h
  · next hal => rw [if_pos hal]; exact h.mono hs
  · next hal => rw [if_neg hal]; exact NotedFault.mono h hs

theorem State.sendLane_spec {s : State} {id : Nat} (h : s.HasCmd id) (h0 : id ≠ 0) (size : Nat) (va : Nat → Nat) (op : Nat → AccOp)
    (l : Nat) : Sends s (s.sendLane id size va op l) ∧ (s.sendLane id size va op l).LaneSent id size va op l := by
  unfold State.sendLane State.LaneSent
  by_cases hal : va l % size = 0
  · rw [if_neg (not_not.2 hal), if_pos hal]
    exact State.sendAcc_spec h h0 ..
  · rw [if_pos hal, if_neg hal]
    exact ⟨.noteFault .., State.noteFault_notes h ..⟩

/-- The lanes of a lane command send one after another; `mark` is what the audit keeps of each. -/
theorem State.sendLanes_spec {s : State} {id : Nat} (h : s.HasCmd id) (h0 : id ≠ 0) (size : Nat) (va : Nat → Nat) (op : Nat → AccOp)
    (mark : State → Nat → State) (hmark : ∀ s l, AuditOnly s (mark s l)) (ls : List Nat) :
    Sends s (ls.foldl (fun s l => (mark s l).sendLane id size va op l) s)
      ∧ ∀ l ∈ ls, (ls.foldl (fun s l => (mark s l).sendLane id size va op l) s).LaneSent id size va op l := by
  refine State.foldl_sends (f := fun s l => (mark s l).sendLane id size va op l) (P := fun t l => t.LaneSent id size va op l)
    (fun _ _ _ hs hst => hs.mono hst) ls s h fun t ht _ l _ => ?_
  have ha := Sends.of_auditOnly (hmark t l)
  obtain ⟨hs, hl⟩ := State.sendLane_spec (ht.mono ha) h0 size va op l
  exact ⟨ha.trans hs, hl⟩

theorem State.LaneSent.progress {t : State} {id size l : Nat} {va : Nat → Nat} {op : Nat → AccOp} (h : t.LaneSent id size va op l)
    (c b : Nat) : if va l % size = 0 then SentAccess (t.progress c b) id l (op l) (va l) size
      else NotedFault (t.progress c b) id l 0x16 (BitVec.ofNat 64 (va l)) := by
  obtain ⟨hc, ha⟩ := t.tables_progress c b
  unfold State.LaneSent at h
  split at h
  · next hal => rw [if_pos hal]; exact h.of_tables hc ha
  · next hal => rw [if_neg hal, NotedFault, hc]; exact h

/-- A command of the base-die arithmetic joins what the group's fences wait for (R149). -/
theorem Commanded.counted {i : Instr} {s u : State} {c sl id : Nat} {k : Group} {cls : Cls} {op : CmdOp} {mask : BitVec 32}
    (h : Commanded i s u c sl id k cls op mask [] fun _ => false) :
    Commanded i s (u.onGroup c sl fun h => { h with mreds := h.mreds ++ [id] }) c sl id { k with mreds := k.mreds ++ [id] } cls op mask []
      fun _ => false := by
  obtain ⟨⟨hm, hsp, hsh, hgs, y, hy, hp, hraw, hrawP, hf⟩, hcmd, hothers, -⟩ := h
  have hown := OwnGroup.onGroup u c sl fun h => { h with mreds := h.mreds ++ [id] }
  have hgroup := State.group_onGroup hy fun h => { h with mreds := h.mreds ++ [id] }
  refine ⟨⟨fun a => (hown.memory a).trans (hm a), fun a => (hown.scratch a).trans (hsp a), fun d a => (hown.shared d a).trans (hsh d a),
    fun d j hn => (hown.groups d j hn).trans (hgs d j hn), _, hgroup, ⟨hp.pc, ?_, hp.lanes⟩, hraw, hrawP, hf⟩, ?_, ?_,
    fun _ _ _ _ hw => nomatch hw⟩
  · exact (congrArg (fun x : Group => { x with mreds := x.mreds ++ [id] }) hp.rest :
      { y.rest with mreds := y.rest.mreds ++ [id] }
        = { (k.join cls id).rest with mreds := (k.join cls id).rest.mreds ++ [id] })
  · rw [hown.cmds_eq]; exact hcmd
  · rw [hown.cmds_eq]; exact hothers

theorem base_die_commands : Claims.BaseDieCommands := by
  intro d a b e op rop w64 f gd s c sl g cl va width size value hworks hfree
  obtain ⟨l0, hl0, hw0⟩ := hworks
  have hne : lanes32.filter (g.works gd) ≠ [] := List.ne_nil_of_mem (List.mem_filter.2 ⟨List.mem_range.2 hl0, hw0⟩)
  have hlanes : ∀ l < 32, g.works gd l = true → l ∈ lanes32.filter (g.works gd) := fun l hl hw =>
    List.mem_filter.2 ⟨List.mem_range.2 hl, hw⟩
  refine ⟨?_, ?_⟩
  · rintro i rfl h
    obtain ⟨hat, hid⟩ := (atLaunch_begun (.matom d a b e op w64 gd) hfree sl cl).auditOnly (.offAudit _ c g.bslot)
    obtain ⟨u, hu, hcmd, hhas, -⟩ := commanded_launchCmd hat .mem (op := .matom d.toNat w64) rfl (maskOf (g.works gd)) .data
      (oldRegs d w64) (g.works gd)
    rw [hid, newId_begun] at hu hcmd hhas
    let acc (l : Nat) : AccOp := .atomic op w64 (value l b) (if op = .cas then value l e else 0)
    obtain ⟨hsends, hsent⟩ := State.sendLanes_spec hhas (newId_ne_zero s) width va acc (fun s _ => s) (fun s _ => .refl s)
      (lanes32.filter (g.works gd))
    refine ⟨_, (exec_matom ..).trans (issueWith_next h _ _ (engCheck_free hfree _)), ?_⟩
    simp only [if_neg hne, hu, operand_eq, atomBytes_eq]
    refine ⟨(oldRegs_eq d w64 ▸ hcmd.mono hsends).progress .., fun l hl hw => (hsent l (hlanes l hl hw)).progress ..⟩
  · rintro i rfl h
    obtain ⟨u, hu, hcmd, hhas, -⟩ := commanded_launchCmd (atLaunch_begun (.mred a b rop f gd) hfree sl cl) .mem (op := .mred) rfl
      (maskOf (g.works gd)) .data [] fun _ => false
    rw [newId_begun] at hu hcmd hhas
    have hhas' : (u.onGroup c sl fun h => { h with mreds := h.mreds ++ [s.newId.1] }).HasCmd s.newId.1 := by
      rw [State.HasCmd, (OwnGroup.onGroup ..).cmds_eq]; exact hhas
    obtain ⟨hsends, hsent⟩ := State.sendLanes_spec hhas' (newId_ne_zero s) size va
      (fun l => .reduce rop f (g.reg l b.reg.toNat))
      (fun s l => s.audEffect c g (effectRec 3 (va l) (toLe 1 rop.code.toNat ++ toLe 1 f.code.toNat ++ toLe 4 (g.reg l b.reg.toNat).toNat)))
      (fun s l => .onEffects ..) (lanes32.filter (g.works gd))
    refine ⟨_, (exec_mred ..).trans (issueWith_next h _ _ (engCheck_free hfree _)), ?_⟩
    simp only [if_neg hne, hu, eBytes_eq]
    exact ⟨(hcmd.counted.mono hsends).progress .., fun l hl hw => (hsent l (hlanes l hl hw)).progress ..⟩

/-! ### Bytes of a local space -/

theorem drop_mreads (m : Memory) (a n k : Nat) : (mreads m a n).drop k = mreads m (a + k) (n - k) := by
  induction k generalizing a n with
  | zero => simp
  | succ k ih =>
    cases n with
    | zero => simp [mreads]
    | succ n => rw [mreads, List.drop_succ_cons, ih, Nat.add_right_comm, Nat.add_assoc, Nat.succ_sub_succ]

theorem take_mreads (m : Memory) (a n k : Nat) (h : k ≤ n) : (mreads m a n).take k = mreads m a k := by
  induction k generalizing a n with
  | zero => simp [mreads]
  | succ k ih =>
    cases n with
    | zero => omega
    | succ n => rw [mreads, List.take_succ_cons, ih _ _ (by omega), mreads]

theorem bfield_mreads (m : Memory) (a n off len : Nat) (h : off + len ≤ n) :
    bfield (mreads m a n) off len = ofLe (mreads m (a + off) len) := by
  rw [bfield, drop_mreads, take_mreads _ _ _ _ (by omega)]

/-- Shared memory as a command of a group reads it. -/
theorem State.localRead_sh (s : State) (c sl : Nat) (g : Group) (k : Cls) (a n : Nat) :
    s.localRead (s.originOf c sl g k) .sh a n = mreads (s.core c).sh (s.shBaseOf c g + a) n := rfl

theorem State.localBase_sh (s : State) (o : Origin) :
    s.localBase o .sh = ((s.block o.core o.bslot).map Block.shBase).getD 0 := by
  unfold State.localBase; cases s.block o.core o.bslot <;> rfl

/-- Behind the marks of an instruction a command reads the local spaces as before. -/
theorem OwnGroup.localRead {s t : State} {c sl : Nat} (h : OwnGroup s t c sl) (o : Origin) (space : LSpace) (a n : Nat) :
    t.localRead o space a n = s.localRead o space a n := by
  cases space with
  | sh =>
    have hb : t.localBase o .sh = s.localBase o .sh := by
      rw [State.localBase_sh, State.localBase_sh, h.block_map Block.shBase fun _ => rfl]
    rw [State.localRead, State.localRead, hb, h.sh_eq]
  | sp =>
    have hb : t.localBase o .sp = s.localBase o .sp := h.spBase _
    rw [State.localRead, State.localRead, hb, h.sp_eq]

/-! ### Bank runs -/

theorem AtLaunch.newId {i : Instr} {s b : State} {c sl : Nat} {g : Group} (h : AtLaunch i s b c sl g) : AtLaunch i s b.newId.2 c sl g :=
  ⟨⟨h.acted.memory, h.acted.scratch, h.acted.shared, h.acted.groups, h.acted.group⟩, h.cmds, h.links, h.origin, h.rerun⟩

theorem Commanded.setRuns {i : Instr} {s u : State} {c sl id : Nat} {k : Group} {cls : Cls} {op : CmdOp} {mask : BitVec 32}
    {regs : List Nat} {writes : Nat → Bool} (h : Commanded i s u c sl id k cls op mask regs writes) (r : Table BankRun) :
    Commanded i s { u with runs := r } c sl id k cls op mask regs writes :=
  ⟨⟨h.acted.memory, h.acted.scratch, h.acted.shared, h.acted.groups, h.acted.group⟩, h.cmd, h.others, h.pending⟩

theorem State.runs_progress (s : State) (c b : Nat) : (s.progress c b).runs = s.runs := by
  unfold State.progress; split <;> rfl

/-- A `bkrun` that passes its checks: `d`, `n` and `slabs` are its descriptor, its count and the slabs of its items. -/
theorem exec_bkrun_runs {a : Src} {gd : Guard} {s : State} {c sl : Nat} {g : Group} {cl : Clause} {l n : Nat} {d : List Byte}
    {slabs : List Nat} (h : Issues (.bkrun a gd) s c sl g cl) (hready : EngReady s c g gd l) (hpre : bkrunPre a gd c sl g s = .ok)
    (hd : s.localRead (s.originOf c sl g .bnk) .sh (g.reg l a.reg.toNat).toNat 64 = d)
    (hn : ofLe (s.localRead (s.originOf c sl g .bnk) .sh (bDesc d).cntAddr 4) = n)
    (hslabs : (if pcsOf (bDesc d).pcmask = [] then [] else slabIndex (bDesc d) (if (bDesc d).listAddr = noAddr then []
      else s.localRead (s.originOf c sl g .bnk) .sh (bDesc d).listAddr (4 * n)) n) = slabs) :
    Completes (.bkrun a gd) s fun t => Commanded (.bkrun a gd) s t c sl (s.newId.1 + 1) g .bnk (.bkrun s.newId.1) (BitVec.twoPow 32 l) []
        (fun _ => false)
      ∧ ∃ accs, tfind t.runs s.newId.1 = some (runOf (bDesc d) (s.newId.1 + 1) (s.launchOf c g).polder slabs accs)
      ∧ ∀ y ∈ slabs, SentAccess t (s.newId.1 + 1) l .slab (slabVa (bDesc d).vbase y) 65536 := by
  obtain ⟨hlane, hfree⟩ := hready
  have hf := OwnGroup.begun (issueOf (.bkrun a gd)) s c sl g cl
  have hat := (atLaunch_begun (.bkrun a gd) hfree sl cl).newId
  obtain ⟨u, hu, hcmd, hhas, hblocks⟩ := commanded_launchCmd hat .bnk (op := .bkrun s.newId.1) rfl (BitVec.twoPow 32 l) .data []
    fun _ => false
  have hrid : (s.begun (issueOf (.bkrun a gd)) c sl g cl).newId.1 = s.newId.1 := newId_begun ..
  have hid : (s.begun (issueOf (.bkrun a gd)) c sl g cl).newId.2.newId.1 = s.newId.1 + 1 := congrArg (· + 1) hrid
  rw [hid] at hu hcmd hhas
  have haud : Sends u (u.audFill (s.originOf c sl g .bnk) (s.newId.1 + 1) 4 (g.reg l a.reg.toNat).toNat d) :=
    .of_auditOnly (.onEffects ..)
  obtain ⟨hsends, hsent⟩ := State.foldl_sends
    (f := fun t y => t.sendAcc (s.newId.1 + 1) l .slab { va := slabVa (bDesc d).vbase y, len := 65536, off := 0 })
    (P := fun t y => t.HasSent (s.newId.1 + 1) l .slab (slabVa (bDesc d).vbase y) 65536)
    (fun _ _ _ hs hst => hs.mono hst) slabs _ (hhas.mono haud) fun t ht _ y _ => State.sendAcc_spec ht (Nat.succ_ne_zero _) l .slab
      { va := slabVa (bDesc d).vbase y, len := 65536, off := 0 }
  have hall := haud.trans hsends
  have hrerun : (slabs.foldl (fun t y => t.sendAcc (s.newId.1 + 1) l .slab { va := slabVa (bDesc d).vbase y, len := 65536, off := 0 })
      (u.audFill (s.originOf c sl g .bnk) (s.newId.1 + 1) 4 (g.reg l a.reg.toNat).toNat d)).inRerun c g.bslot = false :=
    (State.inRerun_congr ((hall.blocks ..).trans (hblocks ..))).trans hat.rerun
  refine ⟨_, (exec_bkrun ..).trans (issueWith_next h _ _ hpre), ?_⟩
  simp only [Group.opLane, hlane, hf.localRead, hd, hn, hslabs, hrid, hu, hf.originOf]
  rw [hrerun, if_neg Bool.false_ne_true]
  generalize slabs.foldl (fun t y => t.sendAcc (s.newId.1 + 1) l .slab { va := slabVa (bDesc d).vbase y, len := 65536, off := 0 })
      (u.audFill (s.originOf c sl g .bnk) (s.newId.1 + 1) 4 (g.reg l a.reg.toNat).toNat d) = w at hall hsent ⊢
  exact ⟨((hcmd.mono hall).setRuns _).progress .., _,
    (congrArg (tfind · s.newId.1) (State.runs_progress ..)).trans (tfind_tput_same ..), fun y hy =>
      (hsent y hy).of_tables (State.tables_progress ..).1 (State.tables_progress ..).2⟩

/-- The operand checks of `bkrun` pass where its descriptor `d` and what that names are in range (R196, R197, R209). -/
theorem bkrunCheck_ok {s : State} {c a l n : Nat} {g : Group} {d : List Byte} (hd : mreads (s.core c).sh (s.shBaseOf c g + a) 64 = d)
    (hn : ofLe (mreads (s.core c).sh (s.shBaseOf c g + (bDesc d).cntAddr) 4) = n) (hstores : s.storesOf g = []) (hda : a % 64 = 0)
    (hdend : a + 64 ≤ s.shSizeOf c g) (hbad : bDescBad d = false) (hvbase : (bDesc d).vbase % 65536 = 0)
    (hcnt : (bDesc d).cntAddr % 4 = 0) (hcend : (bDesc d).cntAddr + 4 ≤ s.shSizeOf c g) (hmax : n ≤ 65536)
    (hlist : (bDesc d).listAddr = noAddr ∨ (bDesc d).listAddr % 4 = 0 ∧ (bDesc d).listAddr + 4 * n ≤ s.shSizeOf c g)
    (hprog : (bDesc d).progAddr % 4 = 0)
    (hpend : (bDesc d).progAddr + 4 * (bDesc d).plen ≤ (s.polder (s.launchOf c g).polder).spSize)
    (hitem : (bDesc d).itemOut % 64 = 0) (hsum : (bDesc d).sumOut % 64 = 0) (hvec : (bDesc d).vecAddr % 16 = 0)
    (hvend : (bDesc d).vecAddr + vecCount (bDesc d) * vecBytes (bDesc d) ≤ (s.polder (s.launchOf c g).polder).spSize)
    (hscal : (bDesc d).scalAddr = noAddr
      ∨ (bDesc d).scalAddr % 4 = 0 ∧ (bDesc d).scalAddr + 4 * n ≤ (s.polder (s.launchOf c g).polder).spSize) :
    bkrunCheck s c g a l = .ok := by
  simp only [bkrunCheck, hd, hn]
  rw [opndCheck_ok (by simp [hda, hdend]), opndCheck_ok, opndCheck_ok]
  · simp [hstores, Check.andThen]
  · simp only [List.forall_mem_cons, List.not_mem_nil, false_implies, implies_true, and_true]
    refine ⟨by simp [hmax], ?_, by simp [hprog, hpend], by simp [hitem], by simp [hsum], by simp [hvec, hvend], ?_⟩
    · rcases hlist with h | ⟨-, h⟩ <;> simp [h]
    · rcases hscal with h | ⟨h1, h2⟩
      · simp [h]
      · simp [h1, h2]
  · simp only [List.forall_mem_cons, List.not_mem_nil, false_implies, implies_true, and_true]
    refine ⟨hbad, by simp [hvbase], ?_, by simp [hcnt, hcend]⟩
    rcases hlist with h | ⟨h, -⟩ <;> simp [h]

/-- R165, R196, R197: `bkrun` issues. -/
theorem bkrun_commands : Claims.BankRunCommand := by
  intro a gd s c sl g cl l i da shs p sps sh x n slab h hready hstores hda hdend hbad hvbase hcnt hcend hmax hlist hprog hpend hitem
    hsum hvec hvend hscal
  have hcheck : bkrunPre a gd c sl g s = .ok := by
    simp only [bkrunPre, Group.opLane, hready.1]
    rw [engCheck_free hready.2]
    exact bkrunCheck_ok rfl rfl hstores hda hdend hbad hvbase hcnt hcend hmax hlist hprog hpend hitem hsum hvec hvend hscal
  have hslabs : (if pcsOf x.pcmask = [] then [] else slabIndex x (if x.listAddr = noAddr then []
      else s.localRead (s.originOf c sl g .bnk) .sh x.listAddr (4 * n)) n)
      = if pcsOf x.pcmask = [] then [] else (List.range n).map slab := by
    refine congrArg (fun ys => if pcsOf x.pcmask = [] then [] else ys) (List.map_congr_left fun k hk => ?_)
    by_cases hno : x.listAddr = noAddr
    · simp only [slab, hno, if_true]
    · have hk' := List.mem_range.1 hk
      simp only [slab, if_neg hno]
      rw [State.localRead_sh, bfield_mreads _ _ _ _ _ (by omega), Nat.add_assoc]
  obtain ⟨t, hexec, hcmd, accs, hrun, hsent⟩ := exec_bkrun_runs h hready hcheck rfl rfl hslabs
  exact ⟨t, hexec, hcmd, _, hrun, rfl, rfl, rfl, rfl, rfl, rfl, rfl, rfl, rfl, rfl, rfl, rfl, rfl, rfl, rfl, rfl, rfl, hsent⟩

/-- Settles O19, by its two halves. -/
theorem baseDieCommands : Obligations.BaseDieCommands := by
  unfold Obligations.BaseDieCommands
  exact ⟨base_die_commands, bkrun_commands⟩

end Sys2Proof.Machine
end

section

/-!
# `gat` and `sct` issue (R160 to R162, R166)
-/

namespace Sys2Proof.Machine

/-! ### Scratchpad operands -/

/-- Behind no word of its die a command finds the scratchpad as it is (R228, R235). -/
theorem State.comeBehind_quiet {s : State} {o : Origin} (h : NoWords s o.core) (space : LSpace) (a n : Nat) :
    s.comeBehind o space a n = s := by
  have hflush (d : Nat) : s.flushDie o.core d = s := by
    have hnone : (s.linkQ.filter fun x => dieOf x.core = dieOf o.core && x.die = d) = [] :=
      List.filter_eq_nil_iff.2 fun x hx => by simp [h x hx]
    rw [State.flushDie, hnone]
    rfl
  unfold State.comeBehind
  split
  · rfl
  · rfl
  · simp only [hflush]

theorem OwnGroup.localAvail {s t : State} {c sl : Nat} (h : OwnGroup s t c sl) (o : Origin) (space : LSpace) (a n : Nat) :
    t.localAvail o space a n = s.localAvail o space a n := by
  cases space with
  | sh => rfl
  | sp =>
    have hb : t.localBase o .sp = s.localBase o .sp := h.spBase _
    simp only [State.localAvail, h.inRerun, hb, h.linkAvail]

theorem State.opndLost_none {s : State} {o : Origin} {xs : List (LSpace × Nat × Nat)}
    (h : ∀ x ∈ xs, s.localAvail o x.1 x.2.1 x.2.2 = .yes) : s.opndLost o xs = none := by
  have : (xs.find? fun x => s.localAvail o x.1 x.2.1 x.2.2 = .no) = none :=
    List.find?_eq_none.2 fun x hx => by simp [h x hx]
  rw [State.opndLost, this]
  rfl

theorem State.opndHeld_false {s : State} {o : Origin} {xs : List (LSpace × Nat × Nat)}
    (h : ∀ x ∈ xs, s.localAvail o x.1 x.2.1 x.2.2 = .yes) : s.opndHeld o xs = false :=
  List.any_eq_false.2 fun x hx => by simp [h x hx]

/-- In a block that is no re-execution an operand is what its space holds (R261). -/
theorem State.operandBytes_plain {s : State} {c : Nat} {g : Group} (h : s.inRerun c g.bslot = false) (o : Origin) (space : LSpace)
    (a n off : Nat) : s.operandBytes c g o space a n off = s.localRead o space a n := by
  unfold State.operandBytes
  rw [h]
  cases space <;> rfl

/-! ### The checks of the gather engine -/

/-- The checks pass where record, index list and row area are in range and apart (R160, R161, R166). -/
theorem gatherCheck_ok {s : State} {c l : Nat} {g : Group} {k : GOps} {isp rsp : LSpace} {r : GRec}
    (hr : gRec (mreads (s.core c).sh (s.shBaseOf c g + k.rec') 28) = r) (hrec : k.rec' % 16 = 0) (hrend : k.rec' + 32 ≤ s.shSizeOf c g)
    (hcount : k.count ≤ 65536) (hstores : s.storesOf g = [])
    (hheld : s.localAvail (s.originOf c 0 g .gat) isp k.idx (4 * k.count) = .yes) (hidx : k.idx % 4 = 0)
    (hiend : k.idx + 4 * k.count ≤ s.localSize c g isp) (harea : k.area % 16 = 0) (haend : k.area + k.count * r.rowb ≤ s.localSize c g rsp)
    (hrow : 16 ≤ r.rowb ∧ r.rowb ≤ 16384 ∧ r.rowb % 16 = 0 ∧ r.stride % 16 = 0 ∧ r.rowb ≤ r.stride)
    (hapart : rsp = isp → k.area + k.count * r.rowb ≤ k.idx ∨ k.idx + 4 * k.count ≤ k.area)
    (hrapart : rsp = .sh → k.area + k.count * r.rowb ≤ k.rec' ∨ k.rec' + 32 ≤ k.area) : gatherCheck s c g k isp rsp l = .ok := by
  have hmeet {a la b lb : Nat} (h : a + la ≤ b ∨ b + lb ≤ a) : rangesMeet a la b lb = false := by
    rcases h with h | h <;> simp only [rangesMeet, Bool.and_eq_false_iff, decide_eq_false_iff_not] <;> omega
  have hok : r.ok = true := by
    obtain ⟨h1, h2, h3, h4, h5⟩ := hrow
    simp [GRec.ok, h1, h2, h3, h4, h5]
  have hundef : ((decide (rsp = isp) && rangesMeet k.area (k.count * r.rowb) k.idx (4 * k.count))
      || (decide (rsp = .sh) && rangesMeet k.area (k.count * r.rowb) k.rec' 32)) = false := by
    rw [Bool.or_eq_false_iff]
    refine ⟨?_, ?_⟩
    · by_cases he : rsp = isp
      · simp [hmeet (hapart he)]
      · simp [he]
    · by_cases he : rsp = .sh
      · simp [hmeet (hrapart he)]
      · simp [he]
  simp only [gatherCheck, hr]
  rw [opndCheck_ok (by simp [hrec, hrend, hcount]), opndCheck_ok (by simp [hidx, hiend, harea, hok, haend]),
    State.opndHeld_false (by simpa using hheld), hundef]
  simp [hstores, Check.andThen]

/-! ### `gat` -/

section

variable {nr : Reg} {r ix o : Src} {isp rsp : LSpace} {gd : Guard} {s : State} {c sl l : Nat} {g : Group} {cl : Clause}

/-- What a command of the gather engine reads of the spaces and of its record at issue. -/
structure GatherReads (s : State) (c sl : Nat) (g : Group) (k : GOps) (isp : LSpace) (rc : GRec) (idx : List Word) : Prop where
  words : NoWords s c
  reach : s.localAvail (s.originOf c sl g .gat) isp k.idx (4 * k.count) = .yes
  rec'  : gRec (s.localRead (s.originOf c sl g .gat) .sh k.rec' 28) = rc
  idx   : s.indices (s.originOf c sl g .gat) isp k.idx k.count = idx

/-- A `gat` that passes its checks sends the reads of each distinct row. -/
theorem exec_gat_rows {rc : GRec} {idx : List Word} (h : Issues (.gat nr r ix o isp rsp gd) s c sl g cl) (hready : EngReady s c g gd l)
    (hpre : gatherPre nr r ix o isp rsp gd c sl g s = .ok) (hr : GatherReads s c sl g (gOps g nr r ix o l) isp rc idx) :
    Completes (.gat nr r ix o isp rsp gd) s fun t => Commanded (.gat nr r ix o isp rsp gd) s t c sl s.newId.1 g .gat
        (.gat (gOps g nr r ix o l).rec' rsp (gOps g nr r ix o l).area rc.rowb rc.fill rc.bound rc.sent idx) (BitVec.twoPow 32 l) []
        (fun _ => false)
      ∧ ∀ e ∈ ((idx.filter rc.inBound).eraseDups).zipIdx, ∀ p ∈ cut (rc.tbase + e.1.toNat * rc.stride) rc.rowb (e.2 * rc.rowb),
          SentAccess t s.newId.1 l .read p.va p.len := by
  obtain ⟨hlane, hfree⟩ := hready
  have hf := OwnGroup.begun (issueOf (.gat nr r ix o isp rsp gd)) s c sl g cl
  have hat := atLaunch_begun (.gat nr r ix o isp rsp gd) hfree sl cl
  have hwords : NoWords (s.begun (issueOf (.gat nr r ix o isp rsp gd)) c sl g cl) (s.originOf c sl g .gat).core := by
    rw [NoWords, hf.linkQ_eq]; exact hr.words
  have hlost := State.opndLost_none (s := s.begun (issueOf (.gat nr r ix o isp rsp gd)) c sl g cl) (o := s.originOf c sl g .gat)
    (xs := [(isp, (gOps g nr r ix o l).idx, 4 * (gOps g nr r ix o l).count)]) (by simpa [hf.localAvail] using hr.reach)
  have hidx : (s.begun (issueOf (.gat nr r ix o isp rsp gd)) c sl g cl).indices (s.originOf c sl g .gat) isp (gOps g nr r ix o l).idx
      (gOps g nr r ix o l).count = idx := by
    rw [State.indices, hf.localRead]; exact hr.idx
  obtain ⟨u, hu, hcmd, hhas, -⟩ := commanded_launchCmd hat .gat
    (op := .gat (gOps g nr r ix o l).rec' rsp (gOps g nr r ix o l).area rc.rowb rc.fill rc.bound rc.sent idx) rfl (BitVec.twoPow 32 l)
    .data [] fun _ => false
  rw [newId_begun] at hu hcmd hhas
  rw [Completes, exec_gat, execGat, gatherIssue]
  refine ⟨_, issueWith_next h _ _ hpre, ?_⟩
  simp only [Group.opLane, hlane, hf.originOf, hlost, Option.isSome_none, Bool.false_eq_true, if_false, State.comeBehind_quiet hwords,
    hf.localRead, hr.rec', hidx, hu]
  have haud (b : List Byte) : Sends u (u.audFill (s.originOf c sl g .gat) s.newId.1 4 (gOps g nr r ix o l).rec' b) :=
    .of_auditOnly (.onEffects ..)
  obtain ⟨hsends, hsent⟩ := State.foldl_sends
    (f := fun t e => t.sendReads s.newId.1 l (cut (rc.tbase + e.1.toNat * rc.stride) rc.rowb (e.2 * rc.rowb)))
    (P := fun t (e : Word × Nat) => ∀ p ∈ cut (rc.tbase + e.1.toNat * rc.stride) rc.rowb (e.2 * rc.rowb),
      t.HasSent s.newId.1 l .read p.va p.len)
    (fun _ _ _ hs hst p hp => (hs p hp).mono hst) ((idx.filter rc.inBound).eraseDups).zipIdx _
    (hhas.mono (haud (u.localRead (s.originOf c sl g .gat) .sh (gOps g nr r ix o l).rec' 32 ++ (gOps g nr r ix o l).bytes)))
    fun t ht _ e _ => State.sendReads_spec ht (newId_ne_zero s) l _
  exact ⟨(hcmd.mono ((haud _).trans hsends)).progress .., fun e he p hp =>
    (hsent e he p hp).of_tables (State.tables_progress ..).1 (State.tables_progress ..).2⟩

/-! ### `sct` -/

theorem AuditOnly.onEntry (s : State) (o : Origin) (id : Nat) (f : LogEntry → LogEntry) : AuditOnly s (s.onEntry o id f) := .onLog ..

/-- The rows that a scatter writes: index and bytes (R161). -/
def scatterRows (rc : GRec) (cb : Comb) (f : EFmt) (idx : List Word) (area : List Byte) : List (Word × List Byte) :=
  ((idx.filter rc.inBound).eraseDups).map fun x => (x, scatterRow cb f (rowsFor idx area rc.rowb x))

/-- The pieces of a row are sent as writes, in an order that is left open (R336). -/
theorem State.postRow_spec {s : State} {id : Nat} (h : s.HasCmd id) (lane : Nat) (row : List Byte) (ps : List Piece) :
    Sends s (ps.foldl (fun s p => (s.postAcc id lane (.write ((row.drop p.off).take p.len)) p).2) s)
      ∧ ∀ p ∈ ps, (ps.foldl (fun s p => (s.postAcc id lane (.write ((row.drop p.off).take p.len)) p).2) s).HasSent id lane
          (.write ((row.drop p.off).take p.len)) p.va p.len :=
  State.foldl_sends (f := fun s p => (s.postAcc id lane (.write ((row.drop p.off).take p.len)) p).2)
    (P := fun t (p : Piece) => t.HasSent id lane (.write ((row.drop p.off).take p.len)) p.va p.len)
    (fun _ _ _ hs hst => hs.mono hst) ps s h fun _ ht _ p _ =>
      ⟨(State.postAcc_spec ht lane _ p).1, (State.postAcc_spec ht lane _ p).2.1⟩

/-- A `sct` that passes its checks sends the combined rows of the distinct indices. -/
theorem exec_sct_rows {rc : GRec} {idx : List Word} {area : List Byte} {cb : Comb} {f : EFmt}
    (h : Issues (.sct nr r ix o isp rsp cb f gd) s c sl g cl) (hready : EngReady s c g gd l)
    (hpre : sctPre nr r ix o isp rsp gd c sl g s = .ok) (hr : GatherReads s c sl g (gOps g nr r ix o l) isp rc idx)
    (hreach : s.localAvail (s.originOf c sl g .gat) rsp (gOps g nr r ix o l).area ((gOps g nr r ix o l).count * rc.rowb) = .yes)
    (harea : s.localRead (s.originOf c sl g .gat) rsp (gOps g nr r ix o l).area ((gOps g nr r ix o l).count * rc.rowb) = area) :
    Completes (.sct nr r ix o isp rsp cb f gd) s fun t => Commanded (.sct nr r ix o isp rsp cb f gd) s t c sl s.newId.1 g .gat
        (.sct (gOps g nr r ix o l).rec' (idx.filter rc.missed).length) (BitVec.twoPow 32 l) [] (fun _ => false)
      ∧ ∀ e ∈ scatterRows rc cb f idx area, ∀ p ∈ cut (rc.tbase + e.1.toNat * rc.stride) rc.rowb 0,
          SentAccess t s.newId.1 l (.write ((e.2.drop p.off).take p.len)) p.va p.len := by
  obtain ⟨hlane, hfree⟩ := hready
  have hf := OwnGroup.begun (issueOf (.sct nr r ix o isp rsp cb f gd)) s c sl g cl
  have hat := atLaunch_begun (.sct nr r ix o isp rsp cb f gd) hfree sl cl
  have hwords : NoWords (s.begun (issueOf (.sct nr r ix o isp rsp cb f gd)) c sl g cl) (s.originOf c sl g .gat).core := by
    rw [NoWords, hf.linkQ_eq]; exact hr.words
  have hlost := State.opndLost_none (s := s.begun (issueOf (.sct nr r ix o isp rsp cb f gd)) c sl g cl) (o := s.originOf c sl g .gat)
    (xs := [(isp, (gOps g nr r ix o l).idx, 4 * (gOps g nr r ix o l).count),
      (rsp, (gOps g nr r ix o l).area, (gOps g nr r ix o l).count * rc.rowb)]) (by simpa [hf.localAvail] using ⟨hr.reach, hreach⟩)
  have hidx : indicesOf (gOps g nr r ix o l).count (s.localRead (s.originOf c sl g .gat) isp (gOps g nr r ix o l).idx
      (4 * (gOps g nr r ix o l).count)) = idx := hr.idx
  obtain ⟨u, hu, hcmd, hhas, -⟩ := commanded_launchCmd hat .gat
    (op := .sct (gOps g nr r ix o l).rec' (idx.filter rc.missed).length) rfl (BitVec.twoPow 32 l) .data [] fun _ => false
  rw [newId_begun] at hu hcmd hhas
  rw [Completes, exec_sct, execSct, gatherIssue]
  refine ⟨_, issueWith_next h _ _ hpre, ?_⟩
  simp only [Group.opLane, hlane, hf.originOf, hf.localRead, hr.rec', hlost, Option.isSome_none, Bool.false_eq_true, if_false,
    State.comeBehind_quiet hwords, State.operandBytes_plain hat.rerun, hidx, harea, hu]
  have haud (b b' : List Byte) : Sends u ((u.audFill (s.originOf c sl g .gat) s.newId.1 2 (gOps g nr r ix o l).rec' b).audFillLog
      (s.originOf c sl g .gat) s.newId.1 b') := .of_auditOnly ((AuditOnly.onEffects ..).trans (.onEntry ..))
  generalize hw : State.audFillLog _ (s.originOf c sl g .gat) s.newId.1 _ = w
  have hw' : Sends u w := hw ▸ haud _ _
  obtain ⟨hsends, hsent⟩ := State.foldl_sends
    (f := fun t e => (cut (rc.tbase + e.1.toNat * rc.stride) rc.rowb 0).foldl
      (fun s' p => (s'.postAcc s.newId.1 l (.write ((e.2.drop p.off).take p.len)) p).2) t)
    (P := fun t (e : Word × List Byte) => ∀ p ∈ cut (rc.tbase + e.1.toNat * rc.stride) rc.rowb 0,
      t.HasSent s.newId.1 l (.write ((e.2.drop p.off).take p.len)) p.va p.len)
    (fun _ _ _ hs hst p hp => (hs p hp).mono hst) (scatterRows rc cb f idx area) w (hhas.mono hw')
    fun t ht _ e _ => State.postRow_spec ht l e.2 _
  exact ⟨(hcmd.mono (hw'.trans hsends)).progress .., fun e he p hp =>
    (hsent e he p hp).of_tables (State.tables_progress ..).1 (State.tables_progress ..).2⟩

end

/-- R160, R161, R166: `gat` and `sct` issue. -/
theorem gather_commands : Claims.GatherCommands := by
  intro nr r ix o isp rsp cb f gd s c sl g cl l n ra ia area org bytes tbase rowb stride bound sent idx rows fits apart hready hfits hapart
    hwords hreach
  obtain ⟨hrec, hrend, hcount, hstores, hidx, hiend, harea, haend, hrow⟩ := hfits
  have hreads : GatherReads s c sl g (gOps g nr r ix o l) isp (gRec bytes) idx := ⟨hwords, hreach, rfl, rfl⟩
  have hpre : gatherPre nr r ix o isp rsp gd c sl g s = .ok := by
    simp only [gatherPre, Group.opLane, hready.1]
    rw [engCheck_free hready.2]
    exact gatherCheck_ok (r := gRec bytes) rfl hrec hrend hcount hstores hreach hidx hiend harea haend hrow hapart.1 hapart.2
  refine ⟨?_, ?_⟩
  · rintro i rfl h
    exact exec_gat_rows h hready hpre hreads
  · rintro i rfl h hreach'
    have hpre' : sctPre nr r ix o isp rsp gd c sl g s = .ok := by
      have hheld : s.opndHeld (s.originOf c sl g .gat) [(rsp, area, n * rowb)] = false := State.opndHeld_false (by simpa using hreach')
      simp only [sctPre, hpre, Check.andThen, Group.opLane, hready.1]
      exact if_neg (by rw [Bool.not_eq_true]; exact hheld)
    obtain ⟨t, hexec, hcmd, hsent⟩ := exec_sct_rows h hready hpre' hreads hreach' rfl
    exact ⟨t, hexec, hcmd, fun x hx p hp => hsent (x, _) (List.mem_map_of_mem hx) p hp⟩

/-- R161: the combination of rows. -/
theorem scatter_rows : Claims.ScatterRows := by
  intro f r rs
  refine ⟨?_, rfl, rfl, rfl⟩
  simp [scatterRow, combOp]

/-- Settles O18, by its two halves. -/
theorem gatherCommands : Obligations.GatherCommands := by
  unfold Obligations.GatherCommands
  exact ⟨gather_commands, scatter_rows⟩

end Sys2Proof.Machine
end

section

/-!
# The weir charges chunks and refills (R157, R158)
-/

namespace Sys2Proof.Machine

/-! ### The local spaces as commands find them -/

/-- The local spaces, where their windows lie and the die links are as they were. -/
structure LocalAlike (s t : State) : Prop where
  scratch : t.sp = s.sp
  shared  : ∀ d, (t.core d).sh = (s.core d).sh
  blocks  : ∀ d b, (t.block d b).map Block.offAudit = (s.block d b).map Block.offAudit
  window  : ∀ p, t.spBase p = s.spBase p
  links   : t.links = s.links
  sent    : t.linkQ = s.linkQ

namespace LocalAlike

variable {s t u : State}

theorem trans (h : LocalAlike s t) (k : LocalAlike t u) : LocalAlike s u :=
  ⟨k.scratch.trans h.scratch, fun d => (k.shared d).trans (h.shared d), fun d b => (k.blocks d b).trans (h.blocks d b),
    fun p => (k.window p).trans (h.window p), k.links.trans h.links, k.sent.trans h.sent⟩

theorem of_sends (h : Sends s t) : LocalAlike s t := ⟨h.sp, h.sh, h.blocks, fun p => (h.weir p).2.2, h.links, h.linkQ⟩

theorem localBase (h : LocalAlike s t) (o : Origin) (space : LSpace) : t.localBase o space = s.localBase o space := by
  cases space with
  | sh =>
    have hb := congrArg (Option.map Block.shBase) (h.blocks o.core o.bslot)
    rw [Option.map_map, Option.map_map] at hb
    have hb' : (t.block o.core o.bslot).map Block.shBase = (s.block o.core o.bslot).map Block.shBase := hb
    rw [State.localBase_sh, State.localBase_sh, hb']
  | sp => exact h.window _

theorem localRead (h : LocalAlike s t) (o : Origin) (space : LSpace) (a n : Nat) :
    t.localRead o space a n = s.localRead o space a n := by
  cases space with
  | sh => rw [State.localRead, State.localRead, h.localBase, h.shared]
  | sp => rw [State.localRead, State.localRead, h.localBase, h.scratch]

theorem localAvail (h : LocalAlike s t) (o : Origin) (space : LSpace) (a n : Nat) :
    t.localAvail o space a n = s.localAvail o space a n := by
  cases space with
  | sh => rfl
  | sp =>
    have hlink (d e : Nat) : t.linkAvail d e = s.linkAvail d e := by unfold State.linkAvail; rw [h.links]
    simp only [State.localAvail, State.inRerun_congr (h.blocks o.core o.bslot), h.localBase, hlink]

theorem noWords (h : LocalAlike s t) {c : Nat} (hw : NoWords s c) : NoWords t c := by rw [NoWords, h.sent]; exact hw

end LocalAlike

/-! ### The pieces of a chunk -/

/-- What a command sends for a piece of its plan: a copy-out the local bytes, any other a read (R156, R235). -/
def State.pieceOp (s : State) (x : Cmd) (q : Piece) : AccOp :=
  match x.op with
  | .cpy true space _ _ _ loc => .write (s.localRead x.org space (loc + q.off) q.len)
  | _ => .read

/-- A piece whose local bytes can be reached is sent. -/
theorem State.copyPiece_spec {s t : State} {id : Nat} {x : Cmd} {p : Piece} (hlike : LocalAlike s t) (h : t.HasCmd id) (h0 : id ≠ 0)
    (hwords : NoWords s x.org.core)
    (hreach : ∀ space va f n loc, x.op = .cpy true space va f n loc → s.localAvail x.org space (loc + p.off) p.len = .yes) :
    Sends t (t.copyPiece id x p) ∧ (t.copyPiece id x p).HasSent id x.lane (s.pieceOp x p) p.va p.len := by
  by_cases hcpy : ∃ space va f n loc, x.op = .cpy true space va f n loc
  · obtain ⟨space, va, f, n, loc, hop⟩ := hcpy
    have hyes := (hlike.localAvail ..).trans (hreach space va f n loc hop)
    have hcopy : t.copyPiece id x p = (t.postAcc id x.lane (s.pieceOp x p) p).2 := by
      simp only [State.copyPiece, State.pieceOp, hop, hyes, reduceCtorEq, if_false, State.comeBehind_quiet (hlike.noWords hwords),
        hlike.localRead]
    rw [hcopy]
    exact ⟨(State.postAcc_spec h ..).1, (State.postAcc_spec h ..).2.1⟩
  · have hcopy : t.copyPiece id x p = t.sendAcc id x.lane .read p := by
      unfold State.copyPiece
      split
      · next hop => exact absurd ⟨_, _, _, _, _, hop⟩ hcpy
      · rfl
    have hread : s.pieceOp x p = .read := by
      unfold State.pieceOp
      split
      · next hop => exact absurd ⟨_, _, _, _, _, hop⟩ hcpy
      · rfl
    rw [hcopy, hread]
    exact State.sendAcc_spec h h0 x.lane .read p

/-- The pieces of a chunk are sent in turn. -/
theorem State.copyPieces_spec {s t : State} {id : Nat} {x : Cmd} {ps : List Piece} (hlike : LocalAlike s t) (h : t.HasCmd id)
    (h0 : id ≠ 0) (hwords : NoWords s x.org.core) (hreach : ∀ p ∈ ps, ∀ space va f n loc, x.op = .cpy true space va f n loc →
      s.localAvail x.org space (loc + p.off) p.len = .yes) :
    Sends t (ps.foldl (fun t p => t.copyPiece id x p) t)
      ∧ ∀ p ∈ ps, (ps.foldl (fun t p => t.copyPiece id x p) t).HasSent id x.lane (s.pieceOp x p) p.va p.len :=
  State.foldl_sends (f := fun t p => t.copyPiece id x p) (P := fun t p => t.HasSent id x.lane (s.pieceOp x p) p.va p.len)
    (fun _ _ _ hs hst => hs.mono hst) ps t h fun _ hu htu p hp =>
      State.copyPiece_spec (hlike.trans (.of_sends htu)) hu h0 hwords (hreach p hp)

/-! ### The bucket (R157) -/

/-- What a chunk of n bytes leaves in its polder's bucket, its debt, and the pool. -/
structure Charged (s t : State) (p n : Nat) : Prop where
  level : (t.polder p).weirLevel = (s.polder p).weirLevel - n
  full  : n ≤ (s.polder p).weirLevel → (t.polder p).weirDebt = (s.polder p).weirDebt ∧ t.pool = s.pool
  short : (s.polder p).weirLevel < n → (t.polder p).weirDebt = (s.polder p).weirDebt + (n - (s.polder p).weirLevel)
    ∧ t.pool = s.pool - (n - (s.polder p).weirLevel)

/-- A polder may borrow what its bucket lacks for n bytes. -/
def State.mayBorrow (s : State) (p n : Nat) : Prop := (s.polder p).borrow = true
  ∧ (s.polder p).weirDebt + (n - (s.polder p).weirLevel) ≤ (s.polder p).weirDebtLim ∧ n - (s.polder p).weirLevel ≤ s.pool

theorem State.weirTake_none {s : State} {p n : Nat} (h : ¬(n ≤ (s.polder p).weirLevel ∨ s.mayBorrow p n)) : s.weirTake p n = none := by
  obtain ⟨hlevel, hborrow⟩ := not_or.1 h
  unfold State.weirTake
  dsimp only
  rw [if_neg hlevel, if_neg fun hb => hborrow ?_]
  simpa [State.mayBorrow, and_assoc] using hb

/-- A chunk that its bucket or a loan pays for. -/
theorem State.weirTake_some {s : State} {p n : Nat} (h : n ≤ (s.polder p).weirLevel ∨ s.mayBorrow p n) :
    ∃ t, s.weirTake p n = some t ∧ Charged s t p n ∧ LocalAlike s t ∧ t.mem = s.mem ∧ t.cmds = s.cmds := by
  have hwindow (x : Polder) (hx : x.spBase = (s.polder p).spBase) (q : Nat) : ((s.setPolder p x).polder q).spBase = (s.polder q).spBase := by
    by_cases e : q = p
    · subst e; rw [State.polder_setPolder_same, hx]
    · rw [State.polder_setPolder_ne _ _ e]
  unfold State.weirTake
  dsimp only
  by_cases hlevel : n ≤ (s.polder p).weirLevel
  · rw [if_pos hlevel]
    refine ⟨_, rfl, ⟨?_, fun _ => ⟨?_, rfl⟩, fun hlt => absurd hlt (Nat.not_lt.2 hlevel)⟩,
      ⟨rfl, fun _ => rfl, fun _ _ => rfl, hwindow _ rfl, rfl, rfl⟩, rfl, rfl⟩ <;> rw [State.polder_setPolder_same]
  · have hborrow := h.resolve_left hlevel
    rw [if_neg hlevel, if_pos (by simpa [State.mayBorrow, and_assoc] using hborrow)]
    have hpolder (y : Polder) : State.polder { s.setPolder p y with pool := s.pool - (n - (s.polder p).weirLevel) } p = y :=
      State.polder_setPolder_same ..
    refine ⟨_, rfl, ⟨?_, fun hle => absurd hle hlevel, fun _ => ⟨?_, rfl⟩⟩,
      ⟨rfl, fun _ => rfl, fun _ _ => rfl, hwindow _ rfl, rfl, rfl⟩, rfl, rfl⟩ <;> rw [hpolder]
    exact (Nat.sub_eq_zero_of_le (Nat.le_of_not_le hlevel)).symm

/-- A chunk whose turn it is, whose local bytes can be reached (R157, R329). -/
theorem exec_weirChunk_turn {s : State} {id : Nat} {x : Cmd} (hx : tfind s.cmds id = some x) (hrefill : s.refillDue = false)
    (hchunk : s.hasChunk id x = true) (holder : s.olderChunk x.org.polder id = false)
    (hreach : ∀ q ∈ x.chunk.1, ∀ space va f n loc, x.op = .cpy true space va f n loc →
      s.localAvail x.org space (loc + q.off) q.len = .yes) :
    (s.weirTake x.org.polder (piecesLen x.chunk.1) = none → exec (.weirChunk id) s = .next s)
    ∧ ∀ t, s.weirTake x.org.polder (piecesLen x.chunk.1) = some t → exec (.weirChunk id) s
      = .next (x.chunk.1.foldl (fun s p => s.copyPiece id x p) (t.onCmd id fun x' => { x' with plan := x.chunk.2 })) := by
  have hphase : x.phase = .data := by
    simp only [State.hasChunk, Bool.and_eq_true, decide_eq_true_eq] at hchunk
    exact hchunk.1.1
  have hplan : s.pchkPlan id = s := by simp [State.pchkPlan, hx, hphase]
  have hheld : x.chunk.1.any (s.pieceHeld x) = false := by
    refine List.any_eq_false.2 fun q hq => ?_
    unfold State.pieceHeld
    split
    · next space va f n loc hop => simp [hreach q hq space va f n loc hop]
    · simp
  rw [exec_weirChunk]
  simp only [execWeirChunk, hplan, hx, hrefill, hchunk, holder, hheld, Bool.not_true, Bool.or_self, Bool.false_eq_true, if_false]
  exact ⟨fun h => by simp only [h], fun t h => by simp only [h]⟩

/-! ### The refill (R158) -/

/-- What the refill of a polder adds to the pool. -/
def State.refillGain (s : State) (p : Nat) : Nat :=
  match tfind s.polders p with
  | some x => if x.alive = true ∨ p = 0 then
      min x.weirDebt (x.weirRate / 2) + (x.weirLevel + (x.weirRate - min x.weirDebt (x.weirRate / 2)) - x.weirDepth)
    else 0
  | none => 0

/-- A polder after a refill. -/
def State.refilled (s : State) (p : Nat) : Option Polder :=
  match tfind s.polders p with
  | some x => some (if x.alive = true ∨ p = 0 then (x.refill 0).1 else x)
  | none => none

/-- The refill of one polder. -/
theorem State.refillOne_spec (s : State) (p : Nat) : ∃ pols pool, s.refillOne p = { s with polders := pols, pool := pool }
    ∧ tfind pols p = s.refilled p ∧ (∀ q, q ≠ p → tfind pols q = tfind s.polders q)
    ∧ (s.pool ≤ poolMax → pool = min poolMax (s.pool + s.refillGain p)) := by
  unfold State.refillOne State.refilled State.refillGain
  cases hx : tfind s.polders p with
  | none => exact ⟨s.polders, s.pool, rfl, hx, fun _ _ => rfl, fun h => (Nat.min_eq_right h).symm⟩
  | some x =>
    dsimp only
    by_cases hlive : x.alive = true ∨ p = 0
    · rw [if_pos (by simpa using hlive), if_pos hlive, if_pos hlive]
      exact ⟨tput s.polders p (x.refill 0).1, _, rfl, tfind_tput_same .., fun q hq => tfind_tput_ne _ _ hq, fun _ => by
        simp only [Polder.refill, Nat.add_assoc]⟩
    · rw [if_neg (by simpa using hlive), if_neg hlive, if_neg hlive]
      exact ⟨s.polders, s.pool, rfl, hx, fun _ _ => rfl, fun h => (Nat.min_eq_right h).symm⟩

/-- The refill of the polders below n. -/
theorem State.refills_spec (s : State) (n : Nat) :
    ∃ pols pool, (List.range n).foldl State.refillOne s = { s with polders := pols, pool := pool }
    ∧ (∀ p < n, tfind pols p = s.refilled p) ∧ (∀ p, n ≤ p → tfind pols p = tfind s.polders p)
    ∧ (s.pool ≤ poolMax → pool = min poolMax (s.pool + total ((List.range n).map s.refillGain))) := by
  induction n with
  | zero => exact ⟨s.polders, s.pool, rfl, fun p hp => absurd hp (Nat.not_lt_zero p), fun _ _ => rfl, fun h => (Nat.min_eq_right h).symm⟩
  | succ n ih =>
    obtain ⟨pols, pool, hfold, hbelow, habove, hpool⟩ := ih
    obtain ⟨pols', pool', hone, hsame, hne, hpool'⟩ := State.refillOne_spec { s with polders := pols, pool := pool } n
    have hrefilled : State.refilled { s with polders := pols, pool := pool } n = s.refilled n := by
      simp only [State.refilled, habove n (Nat.le_refl n)]
    have hgain : State.refillGain { s with polders := pols, pool := pool } n = s.refillGain n := by
      simp only [State.refillGain, habove n (Nat.le_refl n)]
    refine ⟨pols', pool', ?_, fun p hp => ?_, fun p hp => ?_, fun h => ?_⟩
    · rw [List.range_succ, List.foldl_append, hfold]
      exact hone
    · rcases Nat.lt_succ_iff_lt_or_eq.1 hp with hlt | rfl
      · rw [hne p (Nat.ne_of_lt hlt)]; exact hbelow p hlt
      · rw [hsame, hrefilled]
    · rw [hne p (by omega)]; exact habove p (by omega)
    · have hp := hpool h
      have hp' := hpool' (by rw [hp]; exact Nat.min_le_left ..)
      rw [hgain] at hp'
      rw [List.range_succ, List.map_append, List.map_singleton, total_append]
      simp only at hp'
      omega

theorem Polder.refill_eq (x : Polder) (pool : Nat) : (x.refill pool).1 = { x with
    weirDebt := x.weirDebt - min x.weirDebt (x.weirRate / 2)
    weirLevel := min (x.weirLevel + (x.weirRate - min x.weirDebt (x.weirRate / 2))) x.weirDepth
    borrow := decide (x.weirDebt = min x.weirDebt (x.weirRate / 2)) } := by
  have h : decide (x.weirDebt - min x.weirDebt (x.weirRate / 2) = 0) = decide (x.weirDebt = min x.weirDebt (x.weirRate / 2)) := by
    rw [decide_eq_decide]; omega
  rw [← h]
  rfl

theorem weir_refills {s : State} (h : s.refillDue = true) : Completes .weirRefill s fun t => SameMemory s t ∧ t.cores = s.cores
    ∧ t.cmds = s.cmds ∧ (∀ p < 64, tfind t.polders p = s.refilled p)
    ∧ (s.pool ≤ 2 ^ 26 → t.pool = min (2 ^ 26) (s.pool + total ((List.range 64).map s.refillGain))) := by
  obtain ⟨pols, pool, hfold, hbelow, -, hpool⟩ := State.refills_spec { s with refills := s.refills + 1 } 64
  rw [Completes, exec_weirRefill, execWeirRefill, if_pos h, hfold]
  exact ⟨_, rfl, ⟨rfl, rfl, fun _ => rfl⟩, rfl, rfl, hbelow, hpool⟩

/-- Settles O32: a chunk whose turn it is, and the refill. -/
theorem weir : Obligations.Weir := by
  unfold Obligations.Weir
  refine fun s => ⟨?_, fun hdue => ?_, fun hdue => ?_⟩
  · intro id x hx h0 hrefill hchunk holder hop hwords hreach p ps n short borrows sent
    obtain ⟨hnone, hsome⟩ := exec_weirChunk_turn hx hrefill hchunk holder hreach
    refine ⟨fun hpays => ?_, fun hwaits => ?_⟩
    · obtain ⟨u, hu, hcharged, hlike, hmem, hcmds⟩ := State.weirTake_some (n := piecesLen x.chunk.1) (p := x.org.polder) hpays
      let y := { x with plan := x.chunk.2 }
      have hput : u.onCmd id (fun x' => { x' with plan := x.chunk.2 }) = { u with cmds := tput s.cmds id y } := by
        simp only [State.onCmd, hcmds, hx]; rfl
      have hhas : State.HasCmd { u with cmds := tput s.cmds id y } id := ⟨y, tfind_tput_same .., hop⟩
      have hlike' : LocalAlike s { u with cmds := tput s.cmds id y } :=
        ⟨hlike.scratch, hlike.shared, hlike.blocks, hlike.window, hlike.links, hlike.sent⟩
      obtain ⟨hsends, hsent⟩ := State.copyPieces_spec (ps := x.chunk.1) hlike' hhas (Nat.ne_of_gt h0) hwords hreach
      obtain ⟨z, hz, hyz⟩ := hsends.cmds id y (tfind_tput_same ..)
      have hexec := hsome u hu
      rw [hput] at hexec
      refine ⟨_, hexec, ⟨hsends.mem.trans hmem, hsends.sp.trans hlike.scratch, fun d => (hsends.sh d).trans (hlike.shared d)⟩,
        ⟨z, hz, hyz.plan⟩, fun q hq => (hsent q hq).sentAccess, ?_, fun hle => ?_, fun hlt => ?_⟩
      · exact (hsends.weir _).1.trans hcharged.level
      · exact ⟨(hsends.weir _).2.1.trans (hcharged.full hle).1, hsends.pool.trans (hcharged.full hle).2⟩
      · exact ⟨(hsends.weir _).2.1.trans (hcharged.short hlt).1, hsends.pool.trans (hcharged.short hlt).2⟩
    · exact hnone (State.weirTake_none (n := piecesLen x.chunk.1) hwaits)
  · obtain ⟨t, hexec, hmem, hcores, hcmds, hpolders, hpool⟩ := weir_refills hdue
    refine ⟨t, hexec, hmem, hcores, hcmds, fun k x hk hx hlive => ?_, hpool⟩
    have hk' := hpolders k hk
    rw [State.refilled, hx] at hk'
    dsimp only at hk'
    rw [if_pos hlive] at hk'
    rw [State.polder, tget, hk', Option.getD_some, Polder.refill_eq]
  · rw [exec_weirRefill, execWeirRefill, if_neg (by simp [hdue])]

end Sys2Proof.Machine
end

section

/-!
# The end of a command (R145, R147, R312)

A command that completes may let its batch leave, a wait return and a group end. This changes the tables of commands and accesses,
the group of the command, its core's read cache and what is logged of its faults; no byte of a memory and no record.
-/

namespace Sys2Proof.Machine

/-! ### Packets that are told of -/

/-- Whether a packet's command is told of its error is no matter to what it does to a block. -/
theorem State.view_of_queue {s : State} {b : Nat} {f : QPacket → QPacket} (hpa : ∀ q, (f q).pa = q.pa)
    (happ : ∀ q, (f q).apply = q.apply) : State.view { s with queue := s.queue.map f } b = s.view b := by
  have hcheck (q : List QPacket) : State.blockCheck { s with queue := q } b = s.blockCheck b := rfl
  unfold State.view State.queued
  simp only [List.filter_map, List.foldl_map, Function.comp_def, hpa, happ]
  rfl

theorem State.coherent_tellAll (s : State) (ids : List Nat) (a : Nat) : (s.tellAll ids).coherent a = s.coherent a := by
  unfold State.coherent State.tellAll
  dsimp only
  rw [State.view_of_queue]
  · intro q; split <;> rfl
  · intro q; split <;> rfl

/-! ### The group of a command -/

theorem State.group_of_cmdGroup {s : State} {o : Origin} {g : Group} (h : s.cmdGroup o = some g) : s.group o.core o.slot = some g := by
  unfold State.cmdGroup at h
  split at h
  · next hg =>
    split at h
    · cases h; exact hg
    · cases h
  · cases h

/-! ### What settles -/

/-- THE FRAME of what follows the end of a command: no memory, no record, no bank run and no group but that of the command. -/
structure Settling (s t : State) (c sl : Nat) : Prop extends Kept s t c sl where
  runs : t.runs = s.runs
  accs : t.accs = s.accs
  cmds : ∀ n, tfind t.cmds n = tfind s.cmds n ∨ tfind t.cmds n = none

namespace Settling

variable {s t u : State} {c sl : Nat}

theorem of_kept (h : Kept s t c sl) (hr : t.runs = s.runs) (ha : t.accs = s.accs) (hc : t.cmds = s.cmds) : Settling s t c sl :=
  { h with runs := hr, accs := ha, cmds := fun n => .inl (by rw [hc]) }

theorem refl (s : State) (c sl : Nat) : Settling s s c sl := of_kept (.refl s c sl) rfl rfl rfl

theorem trans (h : Settling s t c sl) (k : Settling t u c sl) : Settling s u c sl :=
  { h.toKept.trans k.toKept with
    runs := k.runs.trans h.runs
    accs := k.accs.trans h.accs
    cmds := fun n => by
      rcases k.cmds n with e | e
      · rw [e]; exact h.cmds n
      · exact .inr e }

theorem setGroup (s : State) (c sl : Nat) (g : Group) : Settling s (s.setGroup c sl g) c sl :=
  of_kept (.of_ownGroup (.setGroup s c sl g)) rfl rfl rfl

theorem of_auditOnly (h : AuditOnly s t) (c sl : Nat) : Settling s t c sl :=
  of_kept (.of_auditOnly h) (congrArg State.runs h.others : t.offAudits.runs = s.offAudits.runs)
    (congrArg State.accs h.others : t.offAudits.accs = s.offAudits.accs)
    (congrArg State.cmds h.others : t.offAudits.cmds = s.offAudits.cmds)

theorem logBytes (s : State) (p : Nat) (bytes : List Byte) (c sl : Nat) : Settling s (s.logBytes p bytes) c sl := by
  refine of_kept { Kept.refl s c sl with spillPa := fun q => ?_ } rfl rfl rfl
  by_cases h : q = p <;> simp [State.logBytes, State.polder, State.setPolder, h]

/-- An entry of a log is of no group (R307). -/
theorem logFor (s : State) (d b p : Nat) (bytes : List Byte) (c sl : Nat) :
    Settling s (s.logFor d b p bytes) c sl ∧ (s.logFor d b p bytes).group c sl = s.group c sl := by
  unfold State.logFor
  split
  · exact ⟨{ refl s c sl with }, rfl⟩
  · exact ⟨logBytes .., rfl⟩

/-- A pending fault is applied (R312). -/
theorem applyPending (s : State) (c sl : Nat) (cs : List Cls) (resume : Word) : Settling s (s.applyPending c sl cs resume) c sl := by
  unfold State.applyPending
  split
  · dsimp only
    split
    · split
      · exact setGroup ..
      · exact setGroup ..
      · split
        · exact (setGroup ..).trans (logFor ..).1
        · exact setGroup ..
    · exact refl s c sl
  · exact refl s c sl

theorem inputWord (s : State) (d : Nat) (g : Group) (v : Word) (c sl : Nat) : Settling s (s.inputWord d g v).2 c sl := by
  unfold State.inputWord
  split
  · dsimp only
    split
    · exact of_auditOnly (.nextLog ..) c sl
    · exact of_auditOnly ((AuditOnly.nextLog ..).trans (.failRun ..)) c sl
  · exact of_auditOnly (.audLog ..) c sl

/-- A wait returns, or goes on (R146). -/
theorem wake (s : State) (c sl : Nat) : Settling s (s.wake c sl) c sl := by
  unfold State.wake
  split
  · split
    · exact refl s c sl
    · split
      · dsimp only
        split
        · exact ((inputWord ..).trans (setGroup ..)).trans (applyPending ..)
        · exact setGroup ..
      · dsimp only
        split
        · exact (setGroup ..).trans (applyPending ..)
        · exact setGroup ..
      · exact refl s c sl
  · exact refl s c sl

end Settling

/-- A group but for its batches, their STATUS and its fault record. -/
def Group.offBatches (g : Group) : Group :=
  { g with openB := [], closedB := [], status := [], finished := [], pendF := [], frec := FRec.reset }

/-- Where the group of a slot holds threads and waits for nothing, no more than its batches, their STATUS and its fault record
change. -/
def KeepsOwn (s t : State) (c sl : Nat) : Prop :=
  ∀ g, s.group c sl = some g → g.waiting = .none → g.occs ≠ [] → ∃ h, t.group c sl = some h ∧ h.offBatches = g.offBatches

theorem KeepsOwn.of_group {s t : State} {c sl : Nat} (h : t.group c sl = s.group c sl) : KeepsOwn s t c sl :=
  fun g hg _ _ => ⟨g, h.trans hg, rfl⟩

theorem KeepsOwn.trans {s t u : State} {c sl : Nat} (h : KeepsOwn s t c sl) (k : KeepsOwn t u c sl) : KeepsOwn s u c sl := by
  intro g hg hw ho
  obtain ⟨x, hx, hxg⟩ := h g hg hw ho
  have hxw : x.waiting = .none := (congrArg Group.waiting hxg : x.offBatches.waiting = g.offBatches.waiting).trans hw
  have hxo : x.occs = g.occs := (congrArg Group.occs hxg : x.offBatches.occs = g.offBatches.occs)
  obtain ⟨y, hy, hyx⟩ := k x hx hxw (by rw [hxo]; exact ho)
  exact ⟨y, hy, hyx.trans hxg⟩

/-- THE FRAME of a command's end, with what it leaves of the command's own group. -/
structure Settles (s t : State) (c sl : Nat) : Prop extends Settling s t c sl where
  own : KeepsOwn s t c sl

namespace Settles

variable {s t u : State} {c sl : Nat}

theorem of_group (h : Settling s t c sl) (hg : t.group c sl = s.group c sl) : Settles s t c sl := { h with own := .of_group hg }

theorem refl (s : State) (c sl : Nat) : Settles s s c sl := of_group (.refl s c sl) rfl

theorem trans (h : Settles s t c sl) (k : Settles t u c sl) : Settles s u c sl :=
  { h.toSettling.trans k.toSettling with own := h.own.trans k.own }

theorem foldl {α : Type} {f : State → α → State} (hf : ∀ s x, Settles s (f s x) c sl) (xs : List α) (s : State) :
    Settles s (xs.foldl f s) c sl := by
  induction xs generalizing s with
  | nil => exact refl s c sl
  | cons x xs ih => exact (hf s x).trans (ih _)

theorem of_auditOnly (h : AuditOnly s t) (c sl : Nat) : Settles s t c sl := of_group (.of_auditOnly h c sl) (h.group c sl)

theorem setGroup {x g : Group} (hg : s.group c sl = some g) (h : x.offBatches = g.offBatches) : Settles s (s.setGroup c sl x) c sl :=
  { Settling.setGroup s c sl x with
    own := fun y hy _ _ => ⟨x, State.group_setGroup_same .., by cases hg.symm.trans hy; exact h⟩ }

/-! ### Faults are logged (R307, R312) -/

theorem audFail (s : State) (d b c sl : Nat) : Settles s (s.audFail d b) c sl := by
  unfold State.audFail
  split
  · exact of_auditOnly (.audits ..) c sl
  · exact of_auditOnly (.failRun ..) c sl

theorem engFault (s : State) (o : Origin) (id : Nat) (f : FaultAt) : Settles s (s.engFault o id f) o.core o.slot := by
  have hlog : Settles s ((s.logOrigin o (engRecord o f)).audFail o.core o.bslot) o.core o.slot := by
    obtain ⟨hl, hg⟩ := Settling.logFor s o.core o.bslot o.polder _ o.core o.slot
    exact (of_group hl hg).trans (audFail ..)
  unfold State.engFault
  dsimp only
  generalize (s.logOrigin o (engRecord o f)).audFail o.core o.bslot = u at hlog ⊢
  split
  · next g hg =>
    refine hlog.trans ?_
    exact setGroup (State.group_of_cmdGroup hg) rfl
  · exact hlog

/-! ### Batches leave, a wait returns, a group ends -/

theorem tellAll (s : State) (ids : List Nat) (c sl : Nat) : Settles s (s.tellAll ids) c sl :=
  of_group (.of_kept { Kept.refl s c sl with coherent := s.coherent_tellAll ids } rfl rfl rfl) rfl

theorem dropWrote (s : State) (c sl : Nat) (ws : List (Nat × Nat)) :
    Settles s (s.setCore c ((s.core c).dropWrote ws)) c sl :=
  of_group (.of_kept (.of_setCore s c sl _ rfl rfl rfl (fun _ _ => rfl) fun _ => rfl) rfl rfl rfl) (by
    rw [State.group, State.core_setCore_same]; rfl)

/-- Commands leave their table. -/
theorem dropCmds (s : State) (ids : List Nat) (c sl : Nat) : Settles s { s with cmds := ids.foldl tdel s.cmds } c sl :=
  { refl s c sl with
    cmds := fun n => List.foldlRecOn ids tdel (motive := fun t => tfind t n = tfind s.cmds n ∨ tfind t n = none) (.inl rfl)
      fun t ht m _ => by
        by_cases e : n = m
        · subst e; exact .inr (tfind_tdel_same ..)
        · rw [tfind_tdel_ne _ e]; exact ht }

theorem popBatches (s : State) (c sl : Nat) (k : Cls) (n : Nat) : Settles s (s.popBatches c sl k n) c sl := by
  induction n generalizing s with
  | zero => exact refl s c sl
  | succ n ih =>
    unfold State.popBatches
    split
    · next g hg =>
      split
      · next b r _ =>
        split
        · have htold : Settles s ((s.tellAll b).setCore c ((s.core c).dropWrote (s.wroteOf b))) c sl :=
            (tellAll s b c sl).trans (dropWrote (s.tellAll b) c sl (s.wroteOf b))
          have hgroup : ((s.tellAll b).setCore c ((s.core c).dropWrote (s.wroteOf b))).group c sl = some g := by
            rw [State.group, State.core_setCore_same]; exact hg
          refine trans (trans ?_ (dropCmds ..)) (ih _)
          exact htold.trans (setGroup hgroup rfl)
        · exact refl s c sl
      · exact refl s c sl
    · exact refl s c sl

theorem popAll (s : State) (c sl : Nat) : Settles s (s.popAll c sl) c sl := foldl (fun s k => popBatches s c sl k 16) allCls s

theorem wake (s : State) (c sl : Nat) : Settles s (s.wake c sl) c sl :=
  { Settling.wake s c sl with own := fun g hg hw _ => ⟨g, by rw [State.wake_none hg hw]; exact hg, rfl⟩ }

theorem reap (s : State) (c sl : Nat) : Settles s (s.reap c sl) c sl := by
  cases hg : s.group c sl with
  | none => rw [State.reap, hg]; exact refl s c sl
  | some g =>
    by_cases hgone : g.occs = [] ∧ g.closedB = []
    · obtain ⟨ho, hb⟩ := hgone
      have htables : (s.reap c sl).runs = s.runs ∧ (s.reap c sl).accs = s.accs ∧ (s.reap c sl).cmds = s.cmds := by
        unfold State.reap
        simp only [hg, ho, hb, decide_true, Bool.and_self, if_true]
        exact ⟨rfl, rfl, rfl⟩
      exact { Settling.of_kept (State.reap_gone hg ho hb).1 htables.1 htables.2.1 htables.2.2 with
        own := fun x hx _ hne => absurd (by cases hg.symm.trans hx; exact ho) hne }
    · rw [State.reap, hg]
      dsimp only
      rw [if_neg (by simpa using hgone)]
      exact refl s c sl

theorem settleRounds (s : State) (c sl n : Nat) : Settles s (State.settleRounds c sl n s) c sl := by
  induction n generalizing s with
  | zero => exact refl s c sl
  | succ n ih => exact ((popAll s c sl).trans (wake ..)).trans (ih _)

theorem settleBatches (s : State) (c sl : Nat) : Settles s (s.settleBatches c sl) c sl := (settleRounds ..).trans (reap ..)

end Settles

/-! ### The end of a command -/

theorem tfind_foldl_tdel {α : Type} (ks : List Nat) (t : Table α) {k : Nat} (hk : k ∈ ks ∨ tfind t k = none) :
    tfind (ks.foldl tdel t) k = none := by
  have hstep (ks : List Nat) (t : Table α) (h : tfind t k = none) : tfind (ks.foldl tdel t) k = none :=
    List.foldlRecOn ks tdel (motive := fun t => tfind t k = none) h fun t ht m _ => by
      by_cases e : k = m
      · subst e; exact tfind_tdel_same ..
      · rw [tfind_tdel_ne _ e]; exact ht
  induction ks generalizing t with
  | nil => exact hk.resolve_left (by simp)
  | cons j ks ih =>
    rcases hk with hk | hk
    · rcases List.mem_cons.1 hk with rfl | hk
      · exact hstep ks _ (tfind_tdel_same ..)
      · exact ih _ (.inl hk)
    · exact hstep (j :: ks) t hk

/-- What the end of a command leaves: it is done, its accesses are gone, and the frame. -/
structure Ended (s t : State) (id : Nat) (x : Cmd) : Prop extends Kept s t x.org.core x.org.slot where
  runs  : t.runs = s.runs
  cmd   : ∀ y, tfind t.cmds id = some y → y = { x with phase := .done }
  gone  : ∀ n, n ∈ x.accs ∨ tfind s.accs n = none → tfind t.accs n = none
  own   : KeepsOwn s t x.org.core x.org.slot

theorem State.finish_ended {s : State} {id : Nat} {x : Cmd} (hx : tfind s.cmds id = some x) : Ended s (s.finish id) id x := by
  have hlog : Settles s ((s.lostLanes id x).faultList.foldl (fun s f => s.engFault x.org id f) s) x.org.core x.org.slot :=
    .foldl (fun s f => .engFault s x.org id f) _ s
  have htables (u : State) (cmds : Table Cmd) (accs : Table Access) :
      Kept u { u with cmds := cmds, accs := accs } x.org.core x.org.slot := { Kept.refl u _ _ with }
  unfold State.finish
  simp only [hx]
  generalize (s.lostLanes id x).faultList.foldl (fun s f => s.engFault x.org id f) s = u at hlog ⊢
  split
  · have hend := Settles.settleBatches { u with cmds := tput u.cmds id { x with phase := .done }, accs := x.accs.foldl tdel u.accs }
      x.org.core x.org.slot
    exact { (hlog.toKept.trans (htables u _ _)).trans hend.toKept with
      runs := hend.runs.trans hlog.runs
      cmd := fun y hy => by
        rcases hend.cmds id with e | e
        · exact (Option.some.inj ((tfind_tput_same ..).symm.trans (e.symm.trans hy))).symm
        · cases e.symm.trans hy
      gone := fun n hn => by rw [hend.accs]; exact tfind_foldl_tdel x.accs u.accs (by rw [hlog.accs]; exact hn)
      own := (hlog.own.trans (.of_group rfl)).trans hend.own }
  · have hdrop := (Settles.tellAll u [id] x.org.core x.org.slot).trans (.dropWrote (u.tellAll [id]) x.org.core x.org.slot x.wrote)
    exact { (hlog.toKept.trans hdrop.toKept).trans (htables _ _ _) with
      runs := hdrop.runs.trans hlog.runs
      cmd := fun y hy => by cases (tfind_tdel_same ..).symm.trans hy
      gone := fun n hn => tfind_foldl_tdel x.accs u.accs (by rw [hlog.accs]; exact hn)
      own := (hlog.own.trans hdrop.own).trans (.of_group rfl) }

/-- What a command's end adds to a state in which its results are written: R145's clause. -/
theorem Ended.finished {s u t : State} {id : Nat} {x y : Cmd} {out : Nat → Nat → Option Word} (h : Ended u t id y)
    (horg : y.org = x.org) (haccs : ∀ n ∈ x.accs, n ∈ y.accs ∨ tfind u.accs n = none) (hmem : u.mem = s.mem)
    (hgroups : ∀ d j, ¬(d = x.org.core ∧ j = x.org.slot) → u.group d j = s.group d j)
    (hgroup : ∀ g, s.cmdGroup x.org = some g → ∃ k, u.group x.org.core x.org.slot = some k ∧ k.pc = g.pc ∧ k.clause = g.clause
      ∧ k.waiting = g.waiting ∧ k.stq = g.stq ∧ ∀ l < 32, (k.lane l).rest = (g.lane l).rest ∧ k.rawPred l = g.rawPred l
        ∧ ∀ r, k.raw l r = (out l r).getD (g.raw l r)) : Finished s t id x out where
  done := by
    unfold State.cmdDone
    split
    · next z hz => rw [h.cmd z hz]; rfl
    · rfl
  accs n hn _ := h.gone n (haccs n hn)
  memory := h.memory.trans hmem
  groups d j n := (h.groups d j (by rw [horg]; exact n)).trans (hgroups d j n)
  group g hg hw ho := by
    obtain ⟨k, hk, hpc, hcl, hwait, hstq, hlanes⟩ := hgroup g hg
    have hown := h.own
    rw [horg] at hown
    have hocc : k.occs = g.occs := List.filter_congr fun l hl => by
      have hst : (k.lane l).st = (g.lane l).st := Lane.st_of_rest (hlanes l (List.mem_range.1 hl)).1
      rw [Group.occ, Group.occ, hst]
    obtain ⟨z, hz, hzk⟩ := hown k hk (hwait.trans hw) (by rw [hocc]; exact ho)
    have hzl : z.lanes = k.lanes := (congrArg Group.lanes hzk : z.offBatches.lanes = k.offBatches.lanes)
    have hlane (l : Nat) : z.lane l = k.lane l := by rw [Group.lane, Group.lane, hzl]
    refine ⟨z, hz, ?_, ?_, ?_, ?_, fun l hl => ?_⟩
    · exact (congrArg Group.pc hzk : z.offBatches.pc = k.offBatches.pc).trans hpc
    · exact (congrArg Group.clause hzk : z.offBatches.clause = k.offBatches.clause).trans hcl
    · exact (congrArg Group.waiting hzk : z.offBatches.waiting = k.offBatches.waiting).trans (hwait.trans hw)
    · exact (congrArg Group.stq hzk : z.offBatches.stq = k.offBatches.stq).trans hstq
    · obtain ⟨hrest, hpred, hraw⟩ := hlanes l hl
      have hraw' (r : Nat) : z.raw l r = k.raw l r := by rw [Group.raw, Group.raw, hlane]
      have hpred' : z.rawPred l = k.rawPred l := by funext p; rw [Group.rawPred, Group.rawPred, hlane]
      exact ⟨by rw [hlane]; exact hrest, hpred'.trans hpred, fun r => (hraw' r).trans (hraw r)⟩

/-- A command without results in registers. -/
theorem Ended.finished_quiet {s u t : State} {id : Nat} {x y : Cmd} (h : Ended u t id y) (horg : y.org = x.org)
    (haccs : ∀ n ∈ x.accs, n ∈ y.accs ∨ tfind u.accs n = none) (hmem : u.mem = s.mem) (hgroups : ∀ d j, u.group d j = s.group d j) :
    Finished s t id x fun _ _ => none :=
  h.finished horg haccs hmem (fun d j _ => hgroups d j) fun g hg =>
    ⟨g, (hgroups _ _).trans (State.group_of_cmdGroup hg), rfl, rfl, rfl, rfl, fun _ _ => ⟨rfl, rfl, fun _ => rfl⟩⟩

end Sys2Proof.Machine
end

section

/-!
# A command's results in registers (R148)

A result is written to a register of a lane only where the register still awaits it; of the lane and its group nothing else changes, and
what a register awaits stays as it is.
-/

namespace Sys2Proof.Machine

/-- A lane without its registers. -/
def Lane.offRegs (ln : Lane) : Lane := { ln with regs := [] }

/-- A group without its lanes. -/
def Group.offLanes (g : Group) : Group := { g with lanes := [] }

/-- A group that differs from another in no more than registers: `out` gives their new values. -/
structure Group.Given (g k : Group) (out : Nat → Nat → Option Word) : Prop where
  group : k.offLanes = g.offLanes
  lanes : ∀ l, (k.lane l).offRegs = (g.lane l).offRegs
  raw   : ∀ l r, k.raw l r = (out l r).getD (g.raw l r)

namespace Group.Given

variable {g k : Group} {out : Nat → Nat → Option Word}

theorem refl (g : Group) : g.Given g fun _ _ => none := ⟨rfl, fun _ => rfl, fun _ _ => rfl⟩

theorem pend (a : g.Given k out) (l : Nat) : (k.lane l).pend = (g.lane l).pend :=
  (congrArg Lane.pend (a.lanes l) : (k.lane l).offRegs.pend = (g.lane l).offRegs.pend)

theorem rest_lane (a : g.Given k out) (l : Nat) : (k.lane l).rest = (g.lane l).rest :=
  (congrArg Lane.rest (a.lanes l) : (k.lane l).offRegs.rest = (g.lane l).offRegs.rest)

theorem rawPred (a : g.Given k out) (l : Nat) : k.rawPred l = g.rawPred l := by
  funext p
  exact (congrArg (fun ln : Lane => ln.preds.getLsbD p) (a.lanes l) :
    (k.lane l).offRegs.preds.getLsbD p = (g.lane l).offRegs.preds.getLsbD p)

end Group.Given

/-- A register of a lane of a group awaits a command's result (R148). -/
def Group.awaits (g : Group) (id l r : Nat) : Bool := (tfind (g.lane l).pend r).any fun e => e.cmd = id

theorem State.awaits_eq {s : State} {x : Cmd} {g : Group} (h : s.cmdGroup x.org = some g) (id l r : Nat) :
    s.awaits x id l r = g.awaits id l r := by
  rw [State.awaits, h, Group.awaits]
  dsimp only
  cases tfind (g.lane l).pend r <;> rfl

theorem Group.Given.awaits {g k : Group} {out : Nat → Nat → Option Word} (a : g.Given k out) (id l r : Nat) :
    k.awaits id l r = g.awaits id l r := by rw [Group.awaits, Group.awaits, a.pend]

theorem State.cmdGroup_of_group {s : State} {o : Origin} {g : Group} (h : s.group o.core o.slot = some g) (hu : g.uid = o.uid) :
    s.cmdGroup o = some g := by simp [State.cmdGroup, h, hu]

theorem State.uid_of_cmdGroup {s : State} {o : Origin} {g : Group} (h : s.cmdGroup o = some g) : g.uid = o.uid := by
  unfold State.cmdGroup at h
  split at h
  · split at h
    · next hu => cases h; exact hu
    · cases h
  · cases h

/-- What results of a command for its own registers leave. -/
structure Gave (s t : State) (o : Origin) (out : Group → Nat → Nat → Option Word) : Prop where
  frame : OwnGroup s t o.core o.slot
  group : ∀ g, s.cmdGroup o = some g → ∃ k, t.cmdGroup o = some k ∧ g.Given k (out g)
  gone  : s.cmdGroup o = none → t.cmdGroup o = none

namespace Gave

variable {s t u : State} {o : Origin} {out out' : Group → Nat → Nat → Option Word}

theorem refl (s : State) (o : Origin) : Gave s s o fun _ _ _ => none := ⟨.refl .., fun g hg => ⟨g, hg, .refl g⟩, id⟩

theorem congr (a : Gave s t o out) (h : ∀ g, s.cmdGroup o = some g → ∀ l r, out g l r = out' g l r) : Gave s t o out' where
  frame := a.frame
  group g hg := by
    obtain ⟨k, hk, b⟩ := a.group g hg
    exact ⟨k, hk, b.group, b.lanes, fun l r => by rw [b.raw, h g hg]⟩
  gone := a.gone

/-- One more result. -/
theorem giveResult (a : Gave s t o out) (id lane r : Nat) (v : Word) : Gave s (t.giveResult o id lane r v) o fun g l q =>
    if l = lane ∧ q = r ∧ g.awaits id lane r = true then some v else out g l q := by
  cases hs : s.cmdGroup o with
  | none =>
    have hsame : t.giveResult o id lane r v = t := by rw [State.giveResult, a.gone hs]
    rw [hsame]
    exact ⟨a.frame, fun g hg => by simp [hs] at hg, a.gone⟩
  | some g =>
    obtain ⟨k, hk, b⟩ := a.group g hs
    have hgk := State.group_of_cmdGroup hk
    have hawaits := b.awaits id lane r
    by_cases hw : g.awaits id lane r = true
    · rw [hw] at hawaits
      let h : Group := { k with lanes := tput k.lanes lane { k.lane lane with regs := tset 0 (k.lane lane).regs r v } }
      have hlane (l : Nat) : h.lane l = if l = lane then { k.lane lane with regs := tset 0 (k.lane lane).regs r v } else k.lane l := by
        by_cases e : l = lane
        · subst e; simp [h, Group.lane]
        · simp [h, Group.lane, e]
      have hset : t.giveResult o id lane r v = t.setGroup o.core o.slot h := by
        rw [State.giveResult, hk]
        dsimp only
        rw [Group.awaits, Option.any_eq_true] at hawaits
        obtain ⟨e, he, hid⟩ := hawaits
        rw [he]
        dsimp only
        rw [if_pos (by simpa using hid)]
      rw [hset]
      refine ⟨a.frame.trans (.setGroup ..), fun g' hg' => ?_, fun hn => by simp [hs] at hn⟩
      cases hs.symm.trans hg'
      have huid : h.uid = o.uid := (State.uid_of_cmdGroup hk : k.uid = o.uid)
      refine ⟨h, State.cmdGroup_of_group (State.group_setGroup_same ..) huid, b.group, fun l => ?_, fun l q => ?_⟩
      · rw [hlane]
        split
        · next e => subst e; exact b.lanes l
        · exact b.lanes l
      · rw [Group.raw, hlane]
        by_cases e : l = lane
        · subst e
          by_cases hq : q = r
          · subst hq; simp [hw]
          · have := b.raw l q
            simpa [hq, hw, Group.raw] using this
        · have := b.raw l q
          simpa [e, Group.raw] using this
    · have hsame : t.giveResult o id lane r v = t := by
        rw [State.giveResult, hk]
        dsimp only
        rw [← hawaits, Group.awaits] at hw
        cases he : tfind (k.lane lane).pend r with
        | none => rfl
        | some e =>
          rw [he, Option.any_some] at hw
          exact if_neg (by simpa using hw)
      rw [hsame]
      refine ⟨a.frame, fun g' hg' => ?_, a.gone⟩
      cases hs.symm.trans hg'
      refine ⟨k, hk, b.group, b.lanes, fun l q => ?_⟩
      rw [b.raw, if_neg fun e => hw e.2.2]

end Gave

/-- A command ends behind its results: `u` has them, and `v` differs from it in tables of commands and accesses. -/
theorem Ended.finished_gave {s u v t : State} {id : Nat} {x y : Cmd} {out : Nat → Nat → Option Word} (h : Ended v t id y)
    (horg : y.org = x.org) (haccs : ∀ n ∈ x.accs, n ∈ y.accs ∨ tfind v.accs n = none) (a : Gave s u x.org fun _ => out)
    (hmem : v.mem = u.mem) (hgroups : ∀ d j, v.group d j = u.group d j) : Finished s t id x out := by
  refine h.finished horg haccs (hmem.trans a.frame.mem_eq) (fun d j hn => (hgroups d j).trans (a.frame.groups d j hn)) fun g hg => ?_
  obtain ⟨k, hk, b⟩ := a.group g hg
  exact ⟨k, (hgroups _ _).trans (State.group_of_cmdGroup hk), (congrArg Group.pc b.group : k.offLanes.pc = g.offLanes.pc),
    (congrArg Group.clause b.group : k.offLanes.clause = g.offLanes.clause),
    (congrArg Group.waiting b.group : k.offLanes.waiting = g.offLanes.waiting),
    (congrArg Group.stq b.group : k.offLanes.stq = g.offLanes.stq), fun l _ => ⟨b.rest_lane l, b.rawPred l, b.raw l⟩⟩

/-- Nothing but main memory and the groups of a state goes into the end of a command as R145 has it. -/
theorem Finished.congr {s s' t : State} {id : Nat} {x : Cmd} {out : Nat → Nat → Option Word} (h : Finished s t id x out)
    (hmem : s.mem = s'.mem) (hgroups : ∀ d j, s.group d j = s'.group d j) (hnext : s'.next ≤ s.next) : Finished s' t id x out where
  done := h.done
  accs n hn hle := h.accs n hn (hle.trans hnext)
  memory := h.memory.trans hmem
  groups d j n := (h.groups d j n).trans (hgroups d j)
  group g hg := h.group g (by rw [State.cmdGroup, hgroups]; exact hg)

end Sys2Proof.Machine
end

section

/-!
# Atomics, reductions, spawns and fences complete (R145, R149, R163, R164, R176)
-/

namespace Sys2Proof.Machine

/-! ### A lane's atomic replies -/

theorem oldValue_none {s : State} {x : Cmd} {l : Nat} (h : (s.accsOf x).find? (fun a => decide (a.lane = l)) = none) :
    oldValue s x l = 0 := by
  simp only [oldValue, h]

theorem oldValue_some {s : State} {x : Cmd} {l : Nat} {a : Access}
    (h : (s.accsOf x).find? (fun a => decide (a.lane = l)) = some a) :
    oldValue s x l = if a.st = .served ∧ a.bad = [] then ofLe a.data else 0 := by
  simp only [oldValue, h, Bool.and_eq_true, decide_eq_true_eq]

/-- What an old value gives the registers of a lane. -/
def State.oldOut (s : State) (x : Cmd) (id d : Nat) (regs : List Nat) (l old k r : Nat) : Option Word :=
  if k = l ∧ r ∈ regs ∧ s.awaits x id l r then some (BitVec.ofNat 32 (old / 2 ^ (32 * (r - d)))) else none

/-- A lane's registers take the old value, word by word (R163). -/
theorem State.gave_old (s : State) (x : Cmd) (id : Nat) {d : Nat} (hd : d < 256) (w64 : Bool) (l old : Nat) :
    Gave s ((oldRegs (BitVec.ofNat 8 d) w64).zipIdx.foldl
      (fun s e => s.giveResult x.org id l e.1 (BitVec.ofNat 32 (old / 2 ^ (32 * e.2)))) s) x.org
      fun _ => s.oldOut x id d (if d = 255 then [] else if w64 then [d, d + 1] else [d]) l old := by
  have hnat : (BitVec.ofNat 8 d).toNat = d := by simp [BitVec.toNat_ofNat, Nat.mod_eq_of_lt hd]
  have h255 : BitVec.ofNat 8 d = 255 ↔ d = 255 := by
    rw [← BitVec.toNat_inj, hnat]; rfl
  rw [oldRegs_eq, hnat]
  simp only [h255]
  by_cases e : d = 255
  · simp only [if_pos e]
    exact (Gave.refl s x.org).congr fun g _ k r => by simp [State.oldOut]
  · simp only [if_neg e]
    cases w64 with
    | true =>
      refine (((Gave.refl s x.org).giveResult id l d _).giveResult id l (d + 1) _).congr fun g hg k r => ?_
      simp only [State.oldOut, State.awaits_eq hg]
      by_cases h1 : r = d + 1
      · subst h1; simp
      · by_cases h0 : r = d
        · subst h0; simp
        · simp [h0, h1]
    | false =>
      refine ((Gave.refl s x.org).giveResult id l d _).congr fun g hg k r => ?_
      simp only [State.oldOut, State.awaits_eq hg]
      by_cases h0 : r = d
      · subst h0; simp
      · simp [h0]

/-- A lane leaves the lanes of a command that wait: none is left where it was the only one. -/
theorem mask_without_eq_zero {m : BitVec 32} {l : Nat} (hm : m.getLsbD l = true) :
    m &&& ~~~(BitVec.twoPow 32 l) = 0 ↔ m = BitVec.twoPow 32 l := by
  constructor
  · intro h
    refine BitVec.eq_of_getLsbD_eq fun i hi => ?_
    by_cases e : i = l
    · subst e; rw [hm]; simp [hi]
    · have hbit := congrArg (fun v : BitVec 32 => v.getLsbD i) h
      simp only [BitVec.getLsbD_and, BitVec.getLsbD_not, BitVec.getLsbD_twoPow, hi] at hbit
      simpa [hi, e, Ne.symm e] using hbit
  · rintro rfl
    exact BitVec.and_not_self _

/-- The state behind a lane's results: the lane and its accesses are gone from the command. -/
def State.laneGone (u : State) (id : Nat) (x : Cmd) (l : Nat) : State :=
  { u with accs := (x.accs.filter fun i => !(u.otherAccs x l).contains i).foldl tdel u.accs
           cmds := tput u.cmds id { x with accs := u.otherAccs x l, mask := x.mask &&& ~~~(BitVec.twoPow 32 l) } }

/-- MATOM_REPLY of a lane whose operation is over (R145, R163). -/
theorem exec_matomReply_over {s : State} {id d l : Nat} {x : Cmd} {w64 : Bool} (hx : tfind s.cmds id = some x)
    (hop : x.op = .matom d w64) (hph : x.phase = .data) (hm : x.mask.getLsbD l = true)
    (hover : ∀ a ∈ s.accsOf x, a.lane = l → a.st.over = true) {u : State}
    (hu : (oldRegs (BitVec.ofNat 8 d) w64).zipIdx.foldl
      (fun t e => t.giveResult x.org id l e.1 (BitVec.ofNat 32 (oldValue s x l / 2 ^ (32 * e.2)))) s = u) (hcmds : u.cmds = s.cmds) :
    exec (.matomReply id l) s
      = .next (if x.mask = BitVec.twoPow 32 l then (u.laneGone id x l).finish id else u.laneGone id x l) := by
  have hany : ((s.accsOf x).any fun a => decide (a.lane = l) && !a.st.over) = false :=
    List.any_eq_false.2 fun a ha => by
      by_cases e : a.lane = l
      · simp [hover a ha e]
      · simp [e]
  have hx' : tfind u.cmds id = some x := by rw [hcmds, hx]
  obtain ⟨org, op, mask, phase, stores, plan, accs, recB, recB2, status, faults, wrote⟩ := x
  dsimp only at hop hph hm hu
  subst hop hph
  rw [exec_matomReply]
  simp only [execMatomReply, hx, hx', hm, hany, hu, State.onCmd, mask_without_eq_zero hm, ne_eq, not_true_eq_false,
    decide_false, Bool.not_true, Bool.or_self, Bool.false_eq_true, if_false]
  rfl

theorem Kept.sameMemory {s t : State} {c sl : Nat} (h : Kept s t c sl) : SameMemory s t := ⟨h.memory, h.scratch, h.shared⟩

/-- Every access of a command is among those of other lanes or has gone with its lane. -/
theorem State.accs_laneGone (u : State) (id : Nat) (x : Cmd) (l : Nat) :
    ∀ n ∈ x.accs, n ∈ u.otherAccs x l ∨ tfind (u.laneGone id x l).accs n = none := by
  intro n hn
  by_cases hr : n ∈ u.otherAccs x l
  · exact .inl hr
  · exact .inr (tfind_foldl_tdel _ _ (.inl (List.mem_filter.2 ⟨hn, by simpa using hr⟩)))

/-- R145, R163: a lane's `matom` gets its old value; the command completes with its last lane. -/
theorem exec_matomReply_spec {s : State} {id d l : Nat} {x : Cmd} {w64 : Bool} (hx : tfind s.cmds id = some x)
    (hop : x.op = .matom d w64) (hd : d < 256) (hph : x.phase = .data) (hm : x.mask.getLsbD l = true)
    (hover : ∀ a ∈ s.accsOf x, a.lane = l → a.st.over = true) (out : Nat → Nat → Option Word)
    (hout : out = s.oldOut x id d (if d = 255 then [] else if w64 then [d, d + 1] else [d]) l (oldValue s x l)) :
    Completes (.matomReply id l) s fun t => SameMemory s t
      ∧ (x.mask = BitVec.twoPow 32 l → Finished s t id x out)
      ∧ (x.mask ≠ BitVec.twoPow 32 l → (∃ y, tfind t.cmds id = some y ∧ y.mask = x.mask &&& ~~~(BitVec.twoPow 32 l))
        ∧ ∀ g, s.cmdGroup x.org = some g → ∃ h, t.group x.org.core x.org.slot = some h
          ∧ ∀ k < 32, ∀ r, h.raw k r = (out k r).getD (g.raw k r)) := by
  have hgave := s.gave_old x id hd w64 l (oldValue s x l)
  rw [← hout] at hgave
  refine ⟨_, exec_matomReply_over hx hop hph hm hover rfl hgave.frame.cmds_eq, ?_⟩
  generalize ((oldRegs (BitVec.ofNat 8 d) w64).zipIdx.foldl
    (fun t e => t.giveResult x.org id l e.1 (BitVec.ofNat 32 (oldValue s x l / 2 ^ (32 * e.2)))) s) = u at hgave
  have hmem : SameMemory s (u.laneGone id x l) :=
    ⟨hgave.frame.mem_eq, hgave.frame.sp_eq, hgave.frame.sh_eq⟩
  split
  · next hlast =>
    have hend := State.finish_ended (s := u.laneGone id x l) (id := id) (tfind_tput_same ..)
    exact ⟨hmem.trans hend.toKept.sameMemory, fun _ => hend.finished_gave rfl (u.accs_laneGone id x l) hgave rfl fun _ _ => rfl,
      fun hne => absurd hlast hne⟩
  · next hmore =>
    refine ⟨hmem, fun hlast => absurd hlast hmore, fun _ => ⟨⟨_, tfind_tput_same .., rfl⟩, fun g hg => ?_⟩⟩
    obtain ⟨k, hk, hgiven⟩ := hgave.group g hg
    exact ⟨k, State.group_of_cmdGroup hk, fun l _ r => hgiven.raw l r⟩

/-! ### Reductions are accepted (R164) -/

theorem exec_mredAccept_spec {s : State} {id : Nat} {x : Cmd} (hx : tfind s.cmds id = some x) (hop : x.op = .mred)
    (hover : s.accsOver x = true) :
    Completes (.mredAccept id) s fun t => SameMemory s t ∧ Finished s t id x fun _ _ => none := by
  have hend := State.finish_ended hx
  refine ⟨s.finish id, ?_, hend.toKept.sameMemory, hend.finished_quiet rfl (fun _ hn => .inl hn) rfl fun _ _ => rfl⟩
  rw [exec_mredAccept]
  simp [execMredAccept, hx, hop, hover]

/-! ### A spawn command deposits its records (R36, R176) -/

theorem State.cmds_deposit (s : State) (c p : Nat) (r : Record) : (s.deposit c p r).cmds = s.cmds := by
  unfold State.deposit
  dsimp only
  split
  · exact (congrArg State.cmds (State.offQueue_spillWrites _ p _) :)
  · rfl

/-- Among what the entries of a table give, that of a key is found by its key. -/
theorem find?_filterMap_table {α β : Type} {t : Table α} {k : Nat} {v : α} {b : β} {f : Nat × α → Option β} {p : β → Bool}
    (h : tfind t k = some v) (hb : f (k, v) = some b) (hp : p b = true) (hne : ∀ e c, f e = some c → p c = true → e.1 = k) :
    (t.filterMap f).find? p = some b := by
  induction t with
  | nil => cases h
  | cons e t ih =>
    obtain ⟨j, w⟩ := e
    by_cases hk : k = j
    · subst hk
      have hw : w = v := by simpa [tfind] using h
      subst hw
      simp [hb, hp]
    · have ih' := ih (by simpa [tfind, hk] using h)
      cases hf : f (j, w) with
      | none => simpa [hf] using ih'
      | some c =>
        have hpc : p c = false := Bool.eq_false_iff.2 fun hc => hk (hne _ c hf hc).symm
        simpa [hf, hpc] using ih'

/-- The waiter that a spawn command is in its polder's order (R36). -/
theorem State.find_waiter {s : State} {id n : Nat} {x : Cmd} {ch : List (Nat × Record)} (hx : tfind s.cmds id = some x)
    (hop : x.op = .spawn n ch) (hph : x.phase = .waiting) :
    (s.waiters x.org.polder).find? (fun w => decide (w.slot = none) && decide (w.cmd = id))
      = some { order := n, core := x.org.core, slot := none, from' := x.org.slot, cmd := id, sizes := ch.map (·.2.size) } := by
  unfold State.waiters
  rw [List.find?_append, List.find?_eq_none.2, Option.none_or]
  · refine find?_filterMap_table hx ?_ ?_ ?_
    · simp [hop, hph]
    · simp
    · intro e w hw hp
      split at hw
      · split at hw
        · cases hw; simpa using hp
        · cases hw
      · cases hw
  · intro w hw hp
    obtain ⟨e, -, he⟩ := List.mem_flatMap.1 hw
    obtain ⟨g, -, hg⟩ := List.mem_filterMap.1 he
    split at hg
    · split at hg
      · cases hg; simp at hp
      · cases hg
    · cases hg

/-- SPAWN_COMPLETE of a command whose turn it is (R36, R176): its records are deposited one by one, and it ends. -/
theorem exec_spawnComplete_turn {s : State} {id n : Nat} {x : Cmd} {ch : List (Nat × Record)} (hx : tfind s.cmds id = some x)
    (hop : x.op = .spawn n ch) (hph : x.phase = .waiting) (hfirst : ∀ w ∈ s.waiters x.org.polder, n ≤ w.order)
    (hfits : s.fits x.org.core x.org.polder (ch.map fun e => e.2.size) = true)
    (hslot : (s.core x.org.core).inOrder s.clock x.org.slot = true) :
    exec (.spawnComplete id) s = .next ((ch.foldl (fun t e => t.deposit x.org.core x.org.polder
      { e.2 with bslot := e.1, born := t.clock, slot := x.org.slot }) s).finish id) := by
  have hall : ((s.waiters x.org.polder).all fun w => decide (n ≤ w.order)) = true :=
    List.all_eq_true.2 fun w hw => decide_eq_true (hfirst w hw)
  rw [exec_spawnComplete]
  simp only [execSpawnComplete, hx, State.find_waiter hx hop hph, hfits, hslot, hall, Bool.and_self, if_true, State.spawnAll, hop]

theorem exec_spawnComplete_spec {s : State} {id n : Nat} {x : Cmd} {ch : List (Nat × Record)} (hx : tfind s.cmds id = some x)
    (hop : x.op = .spawn n ch) (hph : x.phase = .waiting) (hfirst : ∀ w ∈ s.waiters x.org.polder, n ≤ w.order)
    (hfits : s.fits x.org.core x.org.polder (ch.map fun e => e.2.size) = true)
    (hage : (s.core x.org.core).ageCtr + ch.length < 2 ^ 32)
    (hslot : (s.core x.org.core).inOrder s.clock x.org.slot = true) :
    Completes (.spawnComplete id) s fun t => SameMemory s t ∧ Finished s t id x (fun _ _ => none)
      ∧ ∃ rs, (t.core x.org.core).records = (s.core x.org.core).records ++ rs
        ∧ (∀ a, OutsideRecords s x.org.polder rs a → t.coherent a = s.coherent a) ∧ rs.map Record.bare = ch.zipIdx.map fun e =>
        { e.1.2 with bslot := e.1.1, born := s.clock, age := (s.core x.org.core).ageCtr + e.2, slot := x.org.slot, spilled := false
                     place := [], mark := default } := by
  obtain ⟨rs, hrs, hbare⟩ := recorded_foldl_deposit (c := x.org.core) (p := x.org.polder)
    (fun (t : State) (e : Nat × Record) => { e.2 with bslot := e.1, born := t.clock, slot := x.org.slot }) ch s
    (fun t e ht => by rw [ht]) hage
  have hcmds : (ch.foldl (fun t e => t.deposit x.org.core x.org.polder
      { e.2 with bslot := e.1, born := t.clock, slot := x.org.slot }) s).cmds = s.cmds :=
    foldl_keeps State.cmds (fun t (e : Nat × Record) => t.cmds_deposit ..) ch s
  refine ⟨_, exec_spawnComplete_turn hx hop hph hfirst hfits hslot, ?_⟩
  generalize (ch.foldl (fun t e => t.deposit x.org.core x.org.polder
    { e.2 with bslot := e.1, born := t.clock, slot := x.org.slot }) s) = u at hrs hcmds
  have hend := State.finish_ended (s := u) (id := id) (x := x) (by rw [hcmds, hx])
  refine ⟨⟨hend.memory.trans hrs.memory, hend.scratch.trans hrs.scratch, fun d => (hend.shared d).trans (hrs.shared d)⟩,
    hend.finished_quiet rfl (fun _ hn => .inl hn) hrs.memory hrs.groups, rs, (hend.records _).trans hrs.records,
    fun a ha => (hend.coherent a).trans (hrs.coherent a ha), hbare⟩

/-! ### A fence ends (R149, R228, R229) -/

theorem exec_fenceComplete_spec {s : State} {k sl : Nat} {g : Group} {sc : FScope} (hg : s.group k sl = some g)
    (hw : g.waiting = .fence sc) :
    (s.fenceOk g sc = true → Completes (.fenceComplete k sl) s fun t => SameMemory s t
      ∧ t.group k sl = some { g with waiting := .none }
      ∧ (sc = .mx → (t.core k).mxHist = []) ∧ (sc ≠ .mx → (t.core k).mxHist = (s.core k).mxHist)
      ∧ ∀ d j, ¬(d = k ∧ j = sl) → t.group d j = s.group d j)
    ∧ (s.fenceOk g sc = false → exec (.fenceComplete k sl) s = .next s) := by
  have hset := OwnGroup.setGroup s k sl { g with waiting := .none }
  have hexec : exec (.fenceComplete k sl) s = .next (if s.fenceOk g sc = true then
      (if sc = .mx then (s.setGroup k sl { g with waiting := .none }).setCore k
        { (s.setGroup k sl { g with waiting := .none }).core k with mxHist := [] }
      else s.setGroup k sl { g with waiting := .none }) else s) := by
    rw [exec_fenceComplete]
    simp only [execFenceComplete, hg, hw]
  refine ⟨fun hok => ⟨_, hexec, ?_⟩, fun hno => by rw [hexec, hno]; rfl⟩
  rw [if_pos hok]
  generalize hu : s.setGroup k sl { g with waiting := .none } = u at hset
  have hgroup : u.group k sl = some { g with waiting := .none } := by subst hu; exact State.group_setGroup_same ..
  by_cases hmx : sc = .mx
  · rw [if_pos hmx]
    have hcore (d : Nat) : ((u.setCore k { u.core k with mxHist := [] }).core d).groups = (u.core d).groups := by
      by_cases e : d = k <;> simp [e]
    have hsh (d : Nat) : ((u.setCore k { u.core k with mxHist := [] }).core d).sh = (u.core d).sh := by
      by_cases e : d = k <;> simp [e]
    refine ⟨⟨hset.mem_eq, hset.sp_eq, fun d => (hsh d).trans (hset.sh_eq d)⟩, (State.group_of_groups hcore k sl).trans hgroup,
      fun _ => by rw [State.core_setCore_same], fun h => absurd hmx h,
      fun d j hn => (State.group_of_groups hcore d j).trans (hset.groups d j hn)⟩
  · rw [if_neg hmx]
    exact ⟨⟨hset.mem_eq, hset.sp_eq, hset.sh_eq⟩, hgroup, fun h => absurd h hmx, fun _ => by
      subst hu; rw [State.setGroup, State.core_setCore_same], fun d j hn => hset.groups d j hn⟩

/-- No store of the group is to be performed, and no scratchpad access of it is under way. -/
theorem Group.idle_iff (g : Group) : (decide (g.stq = []) && !g.awaitsReply && !g.loading) = true
    ↔ g.stq = [] ∧ ∀ f ∈ g.inflight, f.reply = false ∧ f.todo = [] := by
  simp only [Group.awaitsReply, Group.loading, Bool.and_eq_true, Bool.not_eq_true', List.any_eq_false, decide_eq_true_eq,
    Bool.not_eq_true, ne_eq, not_not, and_assoc, forall_and]

theorem State.linksClear_iff (s : State) (n : Nat) : s.linksClear n = true ↔ ∀ e ∈ s.linkQ, e.entry.owner ≠ n := by
  simp [State.linksClear]

theorem State.acked_iff (s : State) (ids : List Nat) :
    s.acked ids = true ↔ ∀ q ∈ s.queue, q.unit = .remote → q.cmd ∉ ids := by
  simp only [State.acked, List.all_eq_true, Bool.not_eq_true', Bool.and_eq_false_iff, decide_eq_false_iff_not, List.contains_eq_mem]
  exact forall₂_congr fun q _ => ⟨fun h hu => h.resolve_right (not_not.2 hu), fun h => by
    by_cases hu : q.unit = .remote
    · exact .inl (h hu)
    · exact .inr hu⟩

/-- Settles O31: each clause is one kind of completion. -/
theorem commandReplies : Obligations.CommandReplies := by
  unfold Obligations.CommandReplies
  intro s id x hx c
  refine ⟨?_, fun hop hover => exec_mredAccept_spec hx hop hover, ?_, ?_⟩
  · intro d w64 l hop hd hph _ hm hover old regs out
    have hold : oldValue s x l = old := by
      simp only [old]
      cases h : (s.accsOf x).find? (fun a => decide (a.lane = l)) with
      | none => exact oldValue_none h
      | some a => exact oldValue_some h
    refine exec_matomReply_spec hx hop hd hph hm hover out ?_
    rw [hold]; rfl
  · intro n ch hop hph hfirst hfits hage hslot
    exact exec_spawnComplete_spec hx hop hph hfirst hfits hage hslot
  · intro k sl g sc hg hw ids queue holds
    obtain ⟨hyes, hno⟩ := exec_fenceComplete_spec hg hw
    have hiff : s.fenceOk g sc = true ↔ holds := by
      unfold State.fenceOk
      cases sc with
      | grp | blk => exact g.idle_iff
      | die => dsimp only; rw [Bool.and_eq_true, g.idle_iff]
      | pkg => dsimp only; rw [Bool.and_eq_true, Bool.and_eq_true, g.idle_iff, State.linksClear_iff, and_assoc]
      | sys =>
        dsimp only
        rw [Bool.and_eq_true, Bool.and_eq_true, Bool.and_eq_true, g.idle_iff, State.linksClear_iff, State.acked_iff, and_assoc, and_assoc]
      | bank => exact Iff.rfl
      | mx => exact decide_eq_true_iff
    exact ⟨fun h => hyes (hiff.2 h), fun h => hno (Bool.eq_false_iff.2 (mt hiff.1 h))⟩

end Sys2Proof.Machine
end

section

/-!
# Bytes that a command writes to local space (R235)
-/

namespace Sys2Proof.Machine

/-- The bytes of a local space: a core's shared memory, or the scratchpad. -/
def State.localMem (s : State) (c : Nat) : LSpace → Memory
  | .sh => (s.core c).sh
  | .sp => s.sp

theorem State.localByte_eq (s : State) (c : Nat) (space : LSpace) (a : Nat) : s.localByte c space a = mget (s.localMem c space) a := by
  cases space <;> rfl

/-- What a command's writes to the local spaces of its core leave: main memory, every group, the other cores' memories and the tables,
but for what the command itself is noted to have written. -/
structure WritesLocal (s t : State) (id c : Nat) : Prop where
  mem      : t.mem = s.mem
  next     : t.next = s.next
  accs     : t.accs = s.accs
  runs     : t.runs = s.runs
  linkQ    : t.linkQ = s.linkQ
  lwatches : t.lwatches = s.lwatches
  groups   : ∀ d j, t.group d j = s.group d j
  base     : ∀ o space, t.localBase o space = s.localBase o space
  others   : OtherShared s t c
  cmd      : ∀ x, tfind s.cmds id = some x → ∃ w, tfind t.cmds id = some { x with wrote := w }

namespace WritesLocal

variable {s t u : State} {id c : Nat}

theorem refl (s : State) (id c : Nat) : WritesLocal s s id c :=
  ⟨rfl, rfl, rfl, rfl, rfl, rfl, fun _ _ => rfl, fun _ _ => rfl, fun _ _ => rfl, fun x hx => ⟨x.wrote, hx⟩⟩

theorem trans (h : WritesLocal s t id c) (k : WritesLocal t u id c) : WritesLocal s u id c where
  mem := k.mem.trans h.mem
  next := k.next.trans h.next
  accs := k.accs.trans h.accs
  runs := k.runs.trans h.runs
  linkQ := k.linkQ.trans h.linkQ
  lwatches := k.lwatches.trans h.lwatches
  groups d j := (k.groups d j).trans (h.groups d j)
  base o space := (k.base o space).trans (h.base o space)
  others d hd := (k.others d hd).trans (h.others d hd)
  cmd x hx := by
    obtain ⟨w, hw⟩ := h.cmd x hx
    obtain ⟨w', hw'⟩ := k.cmd { x with wrote := w } hw
    exact ⟨w', hw'⟩

theorem of_auditOnly (h : AuditOnly s t) (id c : Nat) : WritesLocal s t id c where
  mem := h.sameMemory.memory
  next := (congrArg State.next h.others : t.offAudits.next = s.offAudits.next)
  accs := (congrArg State.accs h.others : t.offAudits.accs = s.offAudits.accs)
  runs := (congrArg State.runs h.others : t.offAudits.runs = s.offAudits.runs)
  linkQ := (congrArg State.linkQ h.others : t.offAudits.linkQ = s.offAudits.linkQ)
  lwatches := (congrArg State.lwatches h.others : t.offAudits.lwatches = s.offAudits.lwatches)
  groups d j := h.group d j
  base o space := (LocalAlike.of_sends (.of_auditOnly h)).localBase o space
  others d _ := h.sameMemory.shared d
  cmd x hx := ⟨x.wrote, (congrArg (fun t => tfind t id) (congrArg State.cmds h.others : t.offAudits.cmds = s.offAudits.cmds)).trans hx⟩

theorem shBytes (s : State) (id c a : Nat) (bytes : List Byte) :
    WritesLocal s (s.shBytes c a bytes) id c ∧ ((s.shBytes c a bytes).core c).sh = mwrites (s.core c).sh a bytes := by
  have hcore (d : Nat) : ((s.shBytes c a bytes).core d).groups = (s.core d).groups
      ∧ ((s.shBytes c a bytes).core d).blocks = (s.core d).blocks := by
    by_cases h : d = c
    · subst h; rw [State.shBytes, State.core_setCore_same]; exact ⟨rfl, rfl⟩
    · rw [State.shBytes, State.core_setCore_ne _ _ h]; exact ⟨rfl, rfl⟩
  refine ⟨{ refl s id c with
    groups := State.group_of_groups fun d => (hcore d).1
    base := fun o space => ?_
    others := fun d hd => by rw [State.shBytes, State.core_setCore_ne _ _ hd] }, by rw [State.shBytes, State.core_setCore_same]⟩
  cases space with
  | sh => rw [State.localBase_sh, State.localBase_sh, State.block, State.block, (hcore _).2]
  | sp => rfl

/-- A command is noted to have written, and the scratchpad has the bytes. -/
theorem spBytes (s : State) (id c a : Nat) (bytes : List Byte) (n : Nat × Nat) (h : s.lwatches = []) :
    WritesLocal s ((s.onCmd id fun x => { x with wrote := x.wrote ++ [n] }).spBytes a bytes []) id c
      ∧ ((s.onCmd id fun x => { x with wrote := x.wrote ++ [n] }).spBytes a bytes []).sp = mwrites s.sp a bytes
      ∧ ∀ d, ((s.onCmd id fun x => { x with wrote := x.wrote ++ [n] }).spBytes a bytes []).core d = s.core d := by
  have hon : ∃ cmds, s.onCmd id (fun x => { x with wrote := x.wrote ++ [n] }) = { s with cmds := cmds }
      ∧ ∀ x, tfind s.cmds id = some x → ∃ w, tfind cmds id = some { x with wrote := w } := by
    unfold State.onCmd
    split
    · next y hy => exact ⟨_, rfl, fun x hx => ⟨y.wrote ++ [n], by cases hy.symm.trans hx; exact tfind_tput_same ..⟩⟩
    · exact ⟨s.cmds, rfl, fun x hx => ⟨x.wrote, hx⟩⟩
  obtain ⟨cmds, hcmds, hcmd⟩ := hon
  obtain ⟨r, hr⟩ := State.spBytes_eq { s with cmds := cmds } a bytes [] h
  rw [hcmds, hr]
  exact ⟨{ refl s id c with cmd := hcmd }, rfl, fun _ => rfl⟩

end WritesLocal

/-- A command's write to local space: the bytes of that space, and no other (R235). -/
theorem State.localWrite_spec {s : State} (id : Nat) (o : Origin) (space : LSpace) (a : Nat) (bytes : List Byte) (h : s.lwatches = [])
    (hw : NoWords s o.core) : WritesLocal s (s.localWrite id o space a bytes) id o.core
      ∧ (s.localWrite id o space a bytes).localMem o.core space = mwrites (s.localMem o.core space) (s.localBase o space + a) bytes
      ∧ ∀ q, q ≠ space → (s.localWrite id o space a bytes).localMem o.core q = s.localMem o.core q := by
  have haud : AuditOnly s (s.audWrite o id space a bytes) := .onEntry ..
  have hlike := WritesLocal.of_auditOnly haud id o.core
  have hsame := haud.sameMemory
  unfold State.localWrite
  dsimp only
  generalize s.audWrite o id space a bytes = u at hlike hsame
  cases space with
  | sh =>
    obtain ⟨hkeep, hbytes⟩ := WritesLocal.shBytes u id o.core (s.localBase o .sh + a) bytes
    refine ⟨hlike.trans hkeep, ?_, fun q hq => ?_⟩
    · exact hbytes.trans (congrArg (fun m => mwrites m _ _) (hsame.shared _))
    · cases q with
      | sh => exact absurd rfl hq
      | sp => exact hsame.scratch
  | sp =>
    have hquiet : u.comeBehind o .sp a bytes.length = u :=
      State.comeBehind_quiet (by rw [NoWords, hlike.linkQ]; exact hw) ..
    obtain ⟨hkeep, hbytes, hcores⟩ := WritesLocal.spBytes u id o.core (s.localBase o .sp + a) bytes
      (s.localBase o .sp + a, bytes.length) (hlike.lwatches.trans h)
    dsimp only
    rw [hquiet]
    refine ⟨hlike.trans hkeep, hbytes.trans (congrArg (fun m => mwrites m _ _) hsame.scratch), fun q hq => ?_⟩
    cases q with
    | sh => exact (congrArg Core.sh (hcores _)).trans (hsame.shared _)
    | sp => exact absurd rfl hq

/-- Writes of a command to one local space. -/
theorem State.localWrites_spec (es : List (Nat × List Byte)) {s : State} (id : Nat) (o : Origin) (space : LSpace) (h : s.lwatches = [])
    (hw : NoWords s o.core) : WritesLocal s (es.foldl (fun s e => s.localWrite id o space e.1 e.2) s) id o.core
      ∧ (es.foldl (fun s e => s.localWrite id o space e.1 e.2) s).localMem o.core space
        = es.foldl (fun m e => mwrites m (s.localBase o space + e.1) e.2) (s.localMem o.core space)
      ∧ ∀ q, q ≠ space → (es.foldl (fun s e => s.localWrite id o space e.1 e.2) s).localMem o.core q = s.localMem o.core q := by
  induction es generalizing s with
  | nil => exact ⟨.refl s id o.core, rfl, fun _ _ => rfl⟩
  | cons e es ih =>
    obtain ⟨hk, hm, hq⟩ := State.localWrite_spec id o space e.1 e.2 h hw
    obtain ⟨hk', hm', hq'⟩ := ih (hk.lwatches.trans h) (by rw [NoWords, hk.linkQ]; exact hw)
    refine ⟨hk.trans hk', ?_, fun q hne => (hq' q hne).trans (hq q hne)⟩
    rw [List.foldl_cons, List.foldl_cons, hm', hm, hk.base]

/-- A command ends behind its writes to local space: its group and every memory but that are as R145 has them. -/
theorem WritesLocal.finished {s u t : State} {id : Nat} {x y : Cmd} (h : WritesLocal s u id x.org.core) (hend : Ended u t id y)
    (horg : y.org = x.org) (haccs : y.accs = x.accs) :
    Finished s t id x (fun _ _ => none) ∧ OtherShared s t x.org.core
      ∧ ∀ q, t.localMem x.org.core q = u.localMem x.org.core q := by
  refine ⟨hend.finished_quiet horg (fun n hn => .inl (by rw [haccs]; exact hn)) h.mem h.groups,
    fun d hd => (hend.shared d).trans (h.others d hd), fun q => ?_⟩
  cases q with
  | sh => exact hend.shared _
  | sp => exact hend.scratch

end Sys2Proof.Machine
end

section

/-!
# Copies and seals complete, collectives start (R145, R153, R155, R156, R235)
-/

namespace Sys2Proof.Machine

/-! ### Bytes by runs -/

/-- The bytes of a run by their addresses. -/
def runBytes (r : Nat × List Byte) : List (Nat × Byte) := r.2.zipIdx.map fun e => (r.1 + e.2, e.1)

theorem runBytes_cons (a : Nat) (b : Byte) (bs : List Byte) : runBytes (a, b :: bs) = (a, b) :: runBytes (a + 1, bs) := by
  simp only [runBytes, List.zipIdx_cons, List.map_cons, Nat.add_zero, Nat.zero_add, List.zipIdx_succ, List.map_map]
  congr 1
  refine List.map_congr_left fun e _ => ?_
  simp only [Function.comp_apply]
  congr 1
  omega

/-- Runs hold the bytes that they are made of, in their order. -/
theorem flatMap_runsOf (es : List (Nat × Byte)) : (runsOf es).flatMap runBytes = es := by
  induction es with
  | nil => rfl
  | cons e es ih =>
    unfold runsOf
    split
    · next a bs t hr =>
      rw [hr, List.flatMap_cons] at ih
      split
      · next ha =>
        rw [List.flatMap_cons, runBytes_cons, ← ha, ← ih]
        rfl
      · rw [List.flatMap_cons, List.flatMap_cons, ih]
        rfl
    · next hr =>
      rw [hr] at ih
      rw [← ih]
      rfl

theorem mem_runBytes {r : Nat × List Byte} {e : Nat × Byte} :
    e ∈ runBytes r ↔ ∃ i, r.2[i]? = some e.2 ∧ e.1 = r.1 + i := by
  obtain ⟨a, b⟩ := e
  simp only [runBytes, List.mem_map, Prod.mk.injEq, Prod.exists, List.mem_zipIdx_iff_getElem?]
  constructor
  · rintro ⟨x, i, hx, rfl, rfl⟩; exact ⟨i, hx, rfl⟩
  · rintro ⟨i, hx, h⟩; exact ⟨b, i, hx, h.symm, rfl⟩

/-- Memory behind the writes of runs whose bytes have addresses of their own: those bytes, and no other. -/
theorem mget_runs (b : Nat) (rs : List (Nat × List Byte)) (m : Memory) (hn : ((rs.flatMap runBytes).map Prod.fst).Nodup) :
    (∀ e ∈ rs.flatMap runBytes, mget (rs.foldl (fun m r => mwrites m (b + r.1) r.2) m) (b + e.1) = e.2)
    ∧ ∀ a, (∀ e ∈ rs.flatMap runBytes, a ≠ b + e.1) → mget (rs.foldl (fun m r => mwrites m (b + r.1) r.2) m) a = mget m a := by
  induction rs generalizing m with
  | nil => exact ⟨fun e he => by simp at he, fun _ _ => rfl⟩
  | cons r rs ih =>
    rw [List.flatMap_cons, List.map_append, List.nodup_append] at hn
    obtain ⟨-, hn', hdisj⟩ := hn
    obtain ⟨hin, hout⟩ := ih (mwrites m (b + r.1) r.2) hn'
    refine ⟨fun e he => ?_, fun a ha => ?_⟩
    · rw [List.flatMap_cons, List.mem_append] at he
      rcases he with he | he
      · rw [List.foldl_cons, hout (b + e.1) fun e' he' h => hdisj e.1 (List.mem_map_of_mem he) e'.1 (List.mem_map_of_mem he') (by omega)]
        obtain ⟨i, hi, hadr⟩ := mem_runBytes.1 he
        have hlt : i < r.2.length := (List.getElem?_eq_some_iff.1 hi).1
        rw [mget_mwrites, if_pos (by omega), show b + e.1 - (b + r.1) = i by omega, List.getD_eq_getElem?_getD, hi]
        rfl
      · exact hin e he
    · rw [List.foldl_cons, hout a fun e he => ha e (by rw [List.flatMap_cons]; exact List.mem_append_right _ he), mget_mwrites, if_neg]
      rintro ⟨hlo, hhi⟩
      have hlt : a - (b + r.1) < r.2.length := by omega
      refine ha (a - b, r.2[a - (b + r.1)]) ?_ (by simp only; omega)
      rw [List.flatMap_cons]
      exact List.mem_append_left _ (mem_runBytes.2 ⟨a - (b + r.1), List.getElem?_eq_getElem hlt, by simp only; omega⟩)

/-! ### A copy completes (R156) -/

theorem auditOnly_copyEffect (s : State) (id : Nat) (x : Cmd) : AuditOnly s (copyEffect s id x) := by
  unfold copyEffect
  split
  · refine AuditOnly.trans (.trans ?_ (.onEntry ..)) (.onEntry ..)
    unfold State.copyRec
    split
    · exact .onEffects ..
    · exact .refl s
  · exact .refl s

theorem State.accsOf_congr {s t : State} (h : t.accs = s.accs) (x : Cmd) : t.accsOf x = s.accsOf x := by
  rw [State.accsOf, h]; rfl

/-- CPY_COMPLETE of a copy whose accesses are over (R145, R156, R235). -/
theorem exec_cpyComplete_over {s : State} {id : Nat} {x : Cmd} {st : Bool} {space : LSpace} {va first n loc : Nat}
    (hx : tfind s.cmds id = some x) (hop : x.op = .cpy st space va first n loc) (hph : x.phase = .data) (hplan : x.plan = [])
    (hover : s.accsOver x = true) (hstores : s.storesDone x.org x.stores = true)
    (hav : s.localAvail x.org space loc x.span = .yes) :
    exec (.cpyComplete id) s = .next ((((if st then [] else runsOf ((s.accsOf x).flatMap Access.good)).map
      fun e => (loc + e.1, e.2)).foldl (fun t e => t.localWrite id x.org space e.1 e.2) (copyEffect s id x)).finish id) := by
  have haccs : (copyEffect s id x).accsOf x = s.accsOf x :=
    State.accsOf_congr (WritesLocal.of_auditOnly (auditOnly_copyEffect s id x) id 0).accs x
  rw [exec_cpyComplete]
  simp only [execCpyComplete, hx, hop, hph, hplan, hover, hstores, hav, haccs, ne_eq, not_true_eq_false, reduceCtorEq, decide_false,
    Bool.false_and, Bool.not_true, Bool.or_self, Bool.false_eq_true, if_false, List.foldl_map]
  cases st with
  | true => rfl
  | false =>
    by_cases hnil : x.accs = []
    · have : s.accsOf x = [] := by rw [State.accsOf, hnil]; rfl
      simp [hnil, this, runsOf]
    · simp [hnil]

/-! ### A seal completes (R153) -/

/-- One result for a register of several lanes. -/
theorem State.gave_lanes (s : State) (o : Origin) (id d : Nat) (v : Word) (ls : List Nat) :
    Gave s (ls.foldl (fun s l => s.giveResult o id l d v) s) o
      fun g l r => if r = d ∧ l ∈ ls ∧ g.awaits id l d = true then some v else none := by
  induction ls using List.reverseRecOn with
  | nil => exact (Gave.refl s o).congr fun g _ l r => by simp
  | append_singleton ls k ih =>
    rw [List.foldl_append]
    refine (ih.giveResult id k d v).congr fun g _ l r => ?_
    by_cases hr : r = d
    · by_cases hk : l = k
      · subst hk; by_cases ha : g.awaits id l d = true <;> simp [hr, ha]
      · simp [hr, hk]
    · simp [hr]

/-- SEAL_COMPLETE of a seal whose record is written (R145, R153). -/
theorem exec_sealComplete_over {s : State} {id : Nat} {x : Cmd} {len loc d : Nat} (hx : tfind s.cmds id = some x)
    (hop : x.op = .sealRec len loc d) (hph : x.phase = .data) (hstores : s.storesDone x.org x.stores = true) {v : Word}
    (hv : sealOf (s.polder x.org.polder).sealKey (mreads (s.core x.org.core).sh (s.localBase x.org .sh + loc) len) = v) :
    exec (.sealComplete id) s = .next (((lanes32.filter x.mask.getLsbD).foldl (fun t l => t.giveResult x.org id l d v)
      (s.shBytes x.org.core (s.localBase x.org .sh + loc + len) (toLe 4 v.toNat))).finish id) := by
  rw [exec_sealComplete]
  simp only [execSealComplete, hx, hop, hph, hstores, decide_true, Bool.and_self, if_true, State.localRead, hv]

theorem exec_sealComplete_spec {s : State} {id : Nat} {x : Cmd} {len loc d : Nat} (hx : tfind s.cmds id = some x)
    (hop : x.op = .sealRec len loc d) (hph : x.phase = .data) (hstores : s.storesDone x.org x.stores = true) {v : Word}
    (hv : sealOf (s.polder x.org.polder).sealKey (mreads (s.core x.org.core).sh (s.localBase x.org .sh + loc) len) = v) :
    Completes (.sealComplete id) s fun t =>
      Finished s t id x (fun l r => if r = d ∧ x.mask.getLsbD l ∧ s.awaits x id l d then some v else none)
      ∧ OtherShared s t x.org.core ∧ t.sp = s.sp
      ∧ (t.core x.org.core).sh = mset32 (s.core x.org.core).sh (s.localBase x.org .sh + loc + len) v := by
  refine ⟨_, exec_sealComplete_over hx hop hph hstores hv, ?_⟩
  obtain ⟨hwr, hsh⟩ := WritesLocal.shBytes s id x.org.core (s.localBase x.org .sh + loc + len) (toLe 4 v.toNat)
  have hsp : (s.shBytes x.org.core (s.localBase x.org .sh + loc + len) (toLe 4 v.toNat)).sp = s.sp := rfl
  obtain ⟨w, hcmd⟩ := hwr.cmd x hx
  generalize s.shBytes x.org.core (s.localBase x.org .sh + loc + len) (toLe 4 v.toNat) = u at hwr hsh hsp hcmd
  have hcg : u.cmdGroup x.org = s.cmdGroup x.org := by rw [State.cmdGroup, State.cmdGroup, hwr.groups]
  have hgave := (u.gave_lanes x.org id d v (lanes32.filter x.mask.getLsbD)).congr
    (out' := fun _ l r => if r = d ∧ x.mask.getLsbD l ∧ s.awaits x id l d then some v else none) fun g hg l r => by
      have hmem : l ∈ lanes32.filter x.mask.getLsbD ↔ x.mask.getLsbD l = true := by
        rw [List.mem_filter]
        exact and_iff_right_of_imp fun h => List.mem_range.2 (BitVec.lt_of_getLsbD h)
      simp only [hmem, State.awaits_eq (hcg.symm.trans hg)]
  generalize (lanes32.filter x.mask.getLsbD).foldl (fun t l => t.giveResult x.org id l d v) u = z at hgave
  have hend := State.finish_ended (s := z) (id := id) (x := { x with wrote := w }) (by rw [hgave.frame.cmds_eq]; exact hcmd)
  refine ⟨?_, fun e he => ?_, ?_, ?_⟩
  · exact (hend.finished_gave (x := x) rfl (fun _ hn => .inl hn) hgave rfl fun _ _ => rfl).congr hwr.mem hwr.groups
      (Nat.le_of_eq hwr.next.symm)
  · exact ((hend.shared e).trans (hgave.frame.sh_eq e)).trans (hwr.others e he)
  · exact (hend.scratch.trans hgave.frame.sp_eq).trans hsp
  · exact ((hend.shared _).trans (hgave.frame.sh_eq _)).trans hsh

/-- R145, R153, R155, R156, R235. -/
theorem copies_complete : Claims.CopiesComplete := by
  intro s id x hlw hwords c
  refine ⟨?_, ?_, ?_⟩
  · intro st space va first n loc hx hop hph hplan hover hstores hav got base hnodup
    have hlike := WritesLocal.of_auditOnly (auditOnly_copyEffect s id x) id c
    have hsame := (auditOnly_copyEffect s id x).sameMemory
    have hlocal (q : LSpace) : (copyEffect s id x).localMem c q = s.localMem c q := by
      cases q with
      | sh => exact hsame.shared c
      | sp => exact hsame.scratch
    refine ⟨_, exec_cpyComplete_over hx hop hph hplan hover hstores hav, ?_⟩
    obtain ⟨hwr, hmem, hother⟩ := State.localWrites_spec
      ((if st then [] else runsOf ((s.accsOf x).flatMap Access.good)).map fun e => (loc + e.1, e.2)) (s := copyEffect s id x) id x.org
      space (hlike.lwatches.trans hlw) (by rw [NoWords, hlike.linkQ]; exact hwords)
    have hruns (rs : List (Nat × List Byte)) (m : Memory) : (rs.map fun e => (loc + e.1, e.2)).foldl
        (fun m e => mwrites m (s.localBase x.org space + e.1) e.2) m = rs.foldl (fun m r => mwrites m (base + r.1) r.2) m := by
      rw [List.foldl_map]
      simp only [base, Nat.add_assoc]
    rw [hlike.base, hlocal, hruns] at hmem
    have hall := hlike.trans hwr
    generalize List.foldl _ (copyEffect s id x) _ = u at hwr hmem hother hall
    obtain ⟨w, hcmd⟩ := hall.cmd x hx
    obtain ⟨hfin, hsh, hbytes⟩ := hall.finished (State.finish_ended hcmd) rfl rfl
    refine ⟨hfin, hsh, ?_, ?_⟩
    · rintro rfl e he
      rw [State.localByte_eq, hbytes, hmem]
      exact (mget_runs base (runsOf got) (s.localMem c space) (by rw [flatMap_runsOf]; exact hnodup)).1 e (by
        rw [flatMap_runsOf]; exact he)
    · intro q a hq
      rw [State.localByte_eq, State.localByte_eq, hbytes]
      by_cases hne : q = space
      · subst hne
        rw [hmem]
        cases st with
        | true => rfl
        | false =>
          refine (mget_runs base (runsOf got) (s.localMem c q) (by rw [flatMap_runsOf]; exact hnodup)).2 a ?_
          rw [flatMap_runsOf]
          rcases hq with h | h | h
          · cases h
          · exact absurd rfl h
          · exact h
      · rw [hother q hne, hlocal]
  · intro len loc d hx hop hph hstores base h
    obtain ⟨t, hexec, hfin, hsh, hsp, hmem⟩ := exec_sealComplete_spec hx hop hph hstores (v := h) rfl
    refine ⟨t, hexec, hfin, hsh, hsp, ?_, fun a ha => ?_⟩
    · rw [hmem]; exact mget32_mset32 ..
    · rw [hmem]; exact mget_mset32_ne _ _ _ _ ha
  · intro k b y w hy hw hready hnext
    have hempty : exec (.collectiveStart k b) s = .next (s.setBlock k b { y with coll := none }) := by
      rw [exec_collectiveStart]
      simp only [execCollectiveStart, hy, hw, hready, if_true, hnext, List.foldl_nil]
    refine ⟨hempty, fun e _ n z _ hcore hslot => ?_⟩
    rw [State.started, hcore, hslot, State.block_setBlock_same]
    simp [hnext]

end Sys2Proof.Machine
end

section

/-!
# Gathers and scatters complete (R145, R147, R161, R162, R235)
-/

namespace Sys2Proof.Machine

/-! ### The rows that a gather has fetched -/

/-- Of members entered with what goes with their positions, a member is found with its position. -/
theorem find?_zipIdx_map {α β : Type} [BEq α] [LawfulBEq α] [DecidableEq α] (xs : List α) (f : Nat → β) (k : Nat) {x : α}
    (hx : x ∈ xs) :
    ((xs.zipIdx k).map fun e => (e.1, f e.2)).find? (fun r => decide (r.1 = x)) = some (x, f (k + xs.idxOf x)) := by
  induction xs generalizing k with
  | nil => cases hx
  | cons y ys ih =>
    rw [List.zipIdx_cons, List.map_cons]
    by_cases h : y = x
    · subst h; simp
    · rw [List.find?_cons_of_neg (by simpa using h), ih (k + 1) ((List.mem_cons.1 hx).resolve_left (Ne.symm h)),
        List.idxOf_cons_ne _ h]
      congr 3
      omega

/-- What a gather writes for an index: nothing for the sentinel, the fill pattern out of bounds, else the fetched row (R161). -/
def GRec.content (rc : GRec) (as : List Access) (idx : List Word) (i : Word) : Option (List Byte) :=
  if i.toNat = rc.sent then none
  else if rc.bound ≤ i.toNat then some ((List.replicate (rc.rowb / 4) (toLe 4 rc.fill.toNat)).flatten)
  else bytesAt as ((idx.filter rc.inBound).eraseDups.idxOf i * rc.rowb) rc.rowb

theorem gatherWrites_eq (rc : GRec) (as : List Access) (idx : List Word) : gatherWrites rc idx (fetchedRows as rc idx)
    = idx.zipIdx.filterMap fun e => (rc.content as idx e.1).map fun b => (e.2, b) := by
  refine List.filterMap_congr fun e he => ?_
  have hmem : e.1 ∈ idx := List.fst_mem_of_mem_zipIdx he
  unfold GRec.content
  by_cases hsent : e.1.toNat = rc.sent
  · have hnone : (fetchedRows as rc idx).find? (fun r => decide (r.1 = e.1)) = none := by
      refine List.find?_eq_none.2 fun r hr hre => ?_
      obtain ⟨y, hy, rfl⟩ := List.mem_map.1 hr
      have hin := List.fst_mem_of_mem_zipIdx hy
      rw [List.mem_eraseDups, List.mem_filter] at hin
      have : y.1 = e.1 := by simpa using hre
      simp [GRec.inBound, this, hsent] at hin
    simp [GRec.missed, hsent, hnone]
  · by_cases hout : rc.bound ≤ e.1.toNat
    · simp [GRec.missed, hsent, hout]
    · have hin : e.1 ∈ (idx.filter rc.inBound).eraseDups := by
        rw [List.mem_eraseDups, List.mem_filter]
        exact ⟨hmem, by simp [GRec.inBound, hsent]; omega⟩
      have hfind := find?_zipIdx_map (idx.filter rc.inBound).eraseDups (fun j => bytesAt as (j * rc.rowb) rc.rowb) 0 hin
      have hfetch : (fetchedRows as rc idx).find? (fun r => decide (r.1 = e.1))
        = some (e.1, bytesAt as ((idx.filter rc.inBound).eraseDups.idxOf e.1 * rc.rowb) rc.rowb) := by
        rw [fetchedRows, hfind, Nat.zero_add]
      simp [GRec.missed, hsent, hout, hfetch]

/-- The rows of a gather, written one by one. -/
def GRec.put (rc : GRec) (as : List Access) (idx : List Word) (base area : Nat) (m : Memory) : Memory :=
  idx.zipIdx.foldl (init := m) fun m e => match rc.content as idx e.1 with
    | some b => mwrites m (base + (area + e.2 * rc.rowb)) b
    | none => m

theorem foldl_gatherWrites (rc : GRec) (as : List Access) (idx : List Word) (base area : Nat) (m : Memory) :
    ((gatherWrites rc idx (fetchedRows as rc idx)).map fun e => (area + e.1 * rc.rowb, e.2)).foldl
      (fun m e => mwrites m (base + e.1) e.2) m = rc.put as idx base area m := by
  rw [gatherWrites_eq, List.foldl_map, List.foldl_filterMap, GRec.put]
  refine List.foldl_ext _ _ _ fun m e _ => ?_
  cases rc.content as idx e.1 <;> rfl

/-! ### The end of a gather command -/

/-- The number of misses is written at byte 28 of the record, STATUS takes its bit, and the command ends (R145, R147, R160). -/
theorem State.endGather_spec {s u : State} {id : Nat} {x : Cmd} (hx : tfind s.cmds id = some x) (hwr : WritesLocal s u id x.org.core)
    (hlw : s.lwatches = []) (hwords : NoWords s x.org.core) (recA miss : Nat) :
    (Finished s (u.endGather id x recA miss) id x (fun _ _ => none) ∧ OtherShared s (u.endGather id x recA miss) x.org.core
      ∧ ∀ y, tfind (u.endGather id x recA miss).cmds id = some y → y.status = x.status ||| if miss = 0 then 0 else 4)
    ∧ ((u.endGather id x recA miss).core x.org.core).sh
      = mwrites (u.core x.org.core).sh (s.localBase x.org .sh + (recA + 28)) (toLe 4 miss)
    ∧ (u.endGather id x recA miss).sp = u.sp := by
  obtain ⟨hwr', hmem, hother⟩ := State.localWrite_spec (s := u) id x.org .sh (recA + 28) (toLe 4 miss) (hwr.lwatches.trans hlw)
    (by rw [NoWords, hwr.linkQ]; exact hwords)
  have hall := hwr.trans hwr'
  rw [hwr.base] at hmem
  have hsp := hother .sp (by simp)
  unfold State.endGather
  dsimp only
  generalize u.localWrite id x.org .sh (recA + 28) (toLe 4 miss) = v at hmem hsp hall
  obtain ⟨w, hcmd⟩ := hall.cmd x hx
  let y : Cmd := { x with wrote := w, status := x.status ||| missBits miss }
  have hon : v.onCmd id (fun z => { z with status := z.status ||| missBits miss }) = { v with cmds := tput v.cmds id y } := by
    simp only [State.onCmd, hcmd, y]
  rw [hon]
  have hend := State.finish_ended (s := { v with cmds := tput v.cmds id y }) (id := id) (x := y) (tfind_tput_same ..)
  refine ⟨⟨hend.finished_quiet rfl (fun _ hn => .inl hn) hall.mem hall.groups, fun d hd => (hend.shared d).trans (hall.others d hd),
    fun z hz => ?_⟩, (hend.shared _).trans hmem, hend.scratch.trans hsp⟩
  rw [hend.cmd z hz]
  rfl

/-- GAT_COMPLETE of a gather whose rows have been read (R145, R161, R235). -/
theorem exec_gatComplete_over {s : State} {id : Nat} {x : Cmd} {recA area rowb bound sent : Nat} {space : LSpace} {fill : Word}
    {idx : List Word} (hx : tfind s.cmds id = some x) (hop : x.op = .gat recA space area rowb fill bound sent idx)
    (hover : s.accsOver x = true) (hav : s.localAvail x.org space area (idx.length * rowb) = .yes) {rc : GRec}
    (hrc : rc = { tbase := 0, rowb := rowb, stride := 0, bound := bound, sent := sent, fill := fill }) :
    exec (.gatComplete id) s = .next ((((gatherWrites rc idx (fetchedRows (s.accsOf x) rc idx)).map
      fun e => (area + e.1 * rc.rowb, e.2)).foldl (fun t e => t.localWrite id x.org space e.1 e.2) s).endGather id x recA
        (idx.filter rc.missed).length) := by
  subst hrc
  rw [exec_gatComplete]
  simp only [execGatComplete, hx, hop, hover, hav, reduceCtorEq, decide_false, Bool.not_true, Bool.or_self, Bool.false_eq_true, if_false,
    List.foldl_map]

/-- R145, R147, R161, R162, R235. -/
theorem gathers_complete : Claims.GathersComplete := by
  intro s id x hx hlw hwords hover c sh counted ended
  refine ⟨?_, ?_⟩
  · intro recA space area rowb fill bound sent idx hop hav rows miss content put
    let rc : GRec := { tbase := 0, rowb := rowb, stride := 0, bound := bound, sent := sent, fill := fill }
    have hput (m : Memory) : put m = rc.put (s.accsOf x) idx (s.localBase x.org space) area m := rfl
    refine ⟨_, exec_gatComplete_over hx hop hover hav (rc := rc) rfl, ?_⟩
    obtain ⟨hwr, hmem, hother⟩ := State.localWrites_spec ((gatherWrites rc idx (fetchedRows (s.accsOf x) rc idx)).map
      fun e => (area + e.1 * rc.rowb, e.2)) id x.org space hlw hwords
    rw [foldl_gatherWrites, ← hput] at hmem
    generalize List.foldl _ s _ = u at hwr hmem hother
    obtain ⟨hend, hsh, hsp⟩ := State.endGather_spec hx hwr hlw hwords recA (idx.filter rc.missed).length
    refine ⟨hend, fun a => ?_, fun a => ?_⟩
    · rw [hsh]
      cases space with
      | sh => exact congrArg (fun m => mget (counted m recA miss) a) hmem
      | sp => exact congrArg (fun m => mget (counted m recA miss) a) (hother .sh (by simp))
    · rw [hsp]
      cases space with
      | sh => exact congrArg (fun m => mget m a) (hother .sp (by simp))
      | sp => exact congrArg (fun m => mget m a) hmem
  · intro recA miss hop
    have hexec : exec (.sctComplete id) s = .next (s.endGather id x recA miss) := by
      rw [exec_sctComplete]
      simp only [execSctComplete, hx, hop, hover, if_true]
    obtain ⟨hend, hsh, hsp⟩ := State.endGather_spec hx (.refl s id x.org.core) hlw hwords recA miss
    exact ⟨_, hexec, hend, fun a => by rw [hsh], hsp⟩

/-- Settles O30, by its two halves. -/
theorem engineResults : Obligations.EngineResults := by
  unfold Obligations.EngineResults
  exact ⟨copies_complete, gathers_complete⟩

end Sys2Proof.Machine
end

section

/-!
# Bank runs start, and complete (R145, R194, R195, R197 to R201, R205 to R207, R209)
-/

namespace Sys2Proof.Machine

/-! ### Lists and tables -/

/-- Pieces of equal length stand one behind the other. -/
theorem getD_flatMap_range {α : Type} (f : Nat → List α) {n top : Nat} (hf : ∀ c < top, (f c).length = n) {c j : Nat} (hc : c < top)
    (hj : j < n) (d : α) : ((List.range top).flatMap f).getD (c * n + j) d = (f c).getD j d := by
  have hlen (m : Nat) (h : m ≤ top) : ((List.range m).flatMap f).length = m * n := by
    induction m with
    | zero => simp
    | succ m ih => rw [List.range_succ, List.flatMap_append, List.length_append, ih (by omega)]; simp [hf m (by omega), Nat.succ_mul]
  induction top with
  | zero => cases hc
  | succ top ih =>
    have htop := hlen top (Nat.le_succ top)
    rw [List.range_succ, List.flatMap_append]
    simp only [List.flatMap_cons, List.flatMap_nil, List.append_nil]
    by_cases h : c = top
    · subst h
      rw [List.getD_append_right _ _ _ _ (by omega), htop, Nat.add_sub_cancel_left]
    · have hlt : c * n + j < top * n :=
        calc c * n + j < c * n + n := by omega
          _ = (c + 1) * n := (Nat.succ_mul c n).symm
          _ ≤ top * n := Nat.mul_le_mul_right n (by omega)
      rw [List.getD_append _ _ _ _ (by omega)]
      exact ih (fun k hk => hf k (by omega)) (by omega) fun m hm => hlen m (by omega)

theorem length_chunks {α : Type} {k n : Nat} (hk : 0 < k) {xs : List α} (h : xs.length = n * k) : (chunks k n xs).length = n := by
  induction n generalizing xs with
  | zero => rfl
  | succ n ih =>
    cases xs with
    | nil => simp [Nat.succ_mul] at h; omega
    | cons x xs =>
      rw [chunks, List.length_cons, ih (by rw [List.length_drop, h, Nat.succ_mul]; omega)]
      simp

theorem tfind_foldl_tput_eq {α : Type} (ks : List Nat) (t : Table α) (v : α) (k : Nat) :
    tfind (ks.foldl (fun t c => tput t c v) t) k = if k ∈ ks then some v else tfind t k := by
  induction ks generalizing t with
  | nil => rfl
  | cons j ks ih =>
    rw [List.foldl_cons, ih, tfind_tput]
    by_cases h : k ∈ ks
    · simp [h]
    · by_cases e : k = j <;> simp [h, e]

/-! ### The pseudo-channels of a run -/

theorem mem_pcsOf {m : DWord} {c : Nat} : c ∈ pcsOf m ↔ c < 64 ∧ m.getLsbD c = true := by
  simp [pcsOf, List.mem_filter]

/-- The last of the numbers for which something holds is none below another. -/
theorem getLast?_filter_range {p : Nat → Bool} {n c : Nat} (hc : c < n) (hp : p c = true) :
    ∃ k, ((List.range n).filter p).getLast? = some k ∧ c ≤ k := by
  induction n with
  | zero => cases hc
  | succ n ih =>
    rw [List.range_succ, List.filter_append]
    cases hn : p n with
    | true => exact ⟨n, by simp [hn], by omega⟩
    | false =>
      have hne : c ≠ n := by rintro rfl; rw [hp] at hn; cases hn
      obtain ⟨k, hk, hle⟩ := ih (by omega)
      exact ⟨k, by simpa [hn] using hk, hle⟩

/-! ### What a run loads -/

theorem length_vecWords {half : Bool} {n : Nat} {bs : List Byte} (h : bs.length = n * if half then 2 else 4) :
    (vecWords half n bs).length = n := by
  rw [vecWords, List.length_map]
  exact length_chunks (by cases half <;> simp) h

/-- The vector slice of a used pseudo-channel as a run loads it (R198). -/
theorem State.vec_loadRun (s : State) (r : BankRun) (o : Origin) {c j : Nat} (hc : c < 64) (hp : r.pcmask.getLsbD c = true)
    (hj : j < r.vslice) : (s.loadRun r o).vec.getD (c * r.vslice + j) 0
      = (vecWords r.half r.vslice (s.localRead o .sp (r.slice c).1 (r.slice c).2)).getD j 0 := by
  obtain ⟨k, hlast, hle⟩ := getLast?_filter_range hc hp
  unfold State.loadRun
  dsimp only
  rw [show (pcsOf r.pcmask).getLast? = some k from hlast]
  dsimp only
  rw [getD_flatMap_range (n := r.vslice) _ (fun d _ => ?_) (Nat.lt_succ_of_le hle) hj]
  · rw [if_pos (by simpa using mem_pcsOf.2 ⟨hc, hp⟩)]
  · split
    · exact length_vecWords (by simp [State.localRead, BankRun.slice])
    · exact List.length_replicate

theorem State.scal_loadRun (s : State) (r : BankRun) (o : Origin) : (s.loadRun r o).scal
    = if r.scalAddr = noAddr then [] else wordsOf (s.localRead o .sp r.scalAddr (4 * r.slabs.length)) := by
  unfold State.loadRun BankRun.scalars
  split
  · rfl
  · simp

/-- BANK_RUN_PACKET of a run whose turn on a stack it is (R194, R195, R198, R200). -/
theorem exec_bankRunPacket_turn {s : State} {run st : Nat} {r : BankRun} {x : Cmd} (hr : tfind s.runs run = some r)
    (hx : tfind s.cmds r.cmd = some x) (hknown : s.slabsKnown r = true) (hload : r.load st = none) (hitems : s.itemsOn r st ≠ [])
    (hbefore : s.runBefore run st x.org.core = false) (hav : s.avail (s.runDie r) (st * 2 ^ 37) = .yes)
    (hreach : ∀ e ∈ r.operands, s.localAvail x.org .sp e.1 e.2 = .yes) (hwords : NoWords s x.org.core)
    (hfree : ∀ e ∈ s.runs, e.1 ≠ run → ∀ c, r.pcmask.getLsbD c = true → s.holdsPc e.2 st c = false) :
    exec (.bankRunPacket run st) s = .next
      { s.setHbm st { s.hbm st with
          stores := (pcsOf r.pcmask).foldl (fun t c => tput t c (r.polder, (s.loadRun r x.org).prog)) (s.hbm st).stores } with
        runs := tput s.runs run { r with loads := tput r.loads st (s.loadRun r x.org) } } := by
  have hall : r.operands.foldl (fun a e => a.and (s.localAvail x.org .sp e.1 e.2)) (s.avail (s.runDie r) (st * 2 ^ 37)) = .yes :=
    List.foldlRecOn r.operands (fun a e => a.and (s.localAvail x.org .sp e.1 e.2)) (motive := (· = Avail.yes)) hav
      fun a ha e he => by rw [ha, hreach e he]; rfl
  have hnone : (s.runs.any fun e => decide (e.1 ≠ run) && (pcsOf r.pcmask).any fun c => s.holdsPc e.2 st c) = false := by
    refine List.any_eq_false.2 fun e he => ?_
    by_cases hne : e.1 = run
    · simp [hne]
    · simp only [hne, ne_eq, not_false_eq_true, decide_true, Bool.true_and, Bool.not_eq_true, List.any_eq_false]
      exact fun c hc => by simp [hfree e he hne c (mem_pcsOf.1 hc).2]
  have hquiet : r.operands.foldl (fun s e => s.comeBehind x.org .sp e.1 e.2) s = s :=
    List.foldlRecOn r.operands _ (motive := (· = s)) rfl fun t ht e _ => by rw [ht, State.comeBehind_quiet hwords]
  rw [exec_bankRunPacket]
  simp only [execBankRunPacket, hr, hx, hknown, hload, hitems, hbefore, hall, hnone, hquiet, Bool.not_true, Option.isSome_none,
    decide_false, Bool.or_self, Bool.false_eq_true, if_false]
  have hruns : tfind (s.setHbm st { s.hbm st with
      stores := (pcsOf r.pcmask).foldl (fun t c => tput t c (r.polder, (s.loadRun r x.org).prog)) (s.hbm st).stores }).runs run = some r := hr
  simp only [State.onRun, hruns]
  rfl

/-! ### An item starts (R199, R201, R207) -/

theorem State.activate_spec (s : State) (st key : Nat) : SameMemory s (s.activate st key) ∧ (s.activate st key).cores = s.cores
    ∧ (s.activate st key).runs = s.runs ∧ key ∈ ((s.activate st key).hbm st).active := by
  unfold State.activate
  dsimp only
  split
  · next h => exact ⟨⟨rfl, rfl, fun _ => rfl⟩, rfl, rfl, by simpa using h⟩
  · exact ⟨⟨rfl, rfl, fun _ => rfl⟩, rfl, rfl, by
      rw [State.hbm_setHbm_same]; exact List.mem_append_right _ (List.mem_singleton.2 rfl)⟩

/-- The registers of an item at its start (R199). -/
theorem b_freshItem (r : BankRun) (scal : List Word) (pc i rowPa : Nat) :
    let x := freshItem r scal pc i rowPa
    x.b 0 = BitVec.ofNat 32 i ∧ x.b 1 = BitVec.ofNat 32 (r.slabs.getD i 0) ∧ x.b 2 = BitVec.ofNat 32 pc ∧ x.b 7 = scal.getD i 0
      ∧ ∀ q ∈ ([3, 4, 5, 6] : List (BitVec 3)), x.b q = 0 := by
  have hb (q : BitVec 3) : (freshItem r scal pc i rowPa).b q = if q.toNat = 7 then scal.getD i 0
      else if q.toNat = 2 then BitVec.ofNat 32 pc else if q.toNat = 1 then BitVec.ofNat 32 (r.slabs.getD i 0)
      else if q.toNat = 0 then BitVec.ofNat 32 i else 0 := by
    simp only [BankItem.b, freshItem, List.foldl_cons, List.foldl_nil, tget_tset]
    rfl
  refine ⟨by rw [hb]; rfl, by rw [hb]; rfl, by rw [hb]; rfl, by rw [hb]; rfl, fun q hq => ?_⟩
  simp only [List.mem_cons, List.not_mem_nil, or_false] at hq
  rcases hq with rfl | rfl | rfl | rfl <;> rw [hb] <;> rfl

/-- BANK_ITEM_START of an item that may start. -/
theorem exec_bankItemStart_may {s : State} {run pc i st o : Nat} {r : BankRun} {l : BankLoad} (hr : tfind s.runs run = some r)
    (hslab : s.slabAt r i = some (st, o)) (hload : r.load st = some l) (hbad : l.bad = none) (hp : r.pcmask.getLsbD pc = true)
    (hmay : s.mayStart r st pc i = true) (hav : s.avail (stackDie st) (st * 2 ^ 37) = .yes) :
    exec (.bankItemStart run pc i) s = .next { s.activate st (rowKeyAt (o + 1024 * pc)) with
      runs := tput s.runs run { r with
        items := tput r.items (itemKey pc i) (freshItem r l.scal pc i (st * 2 ^ 37 + o + 1024 * pc)) } } := by
  obtain ⟨-, -, hruns, -⟩ := s.activate_spec st (rowKeyAt (o + 1024 * pc))
  rw [exec_bankItemStart]
  simp only [execBankItemStart, hr, hslab, hload, hbad, hp, hmay, hav, Option.isSome_none, Bool.not_true, Bool.or_self,
    Bool.false_eq_true, if_false, State.onRun, hruns]

/-! ### A run completes (R205, R206) -/

/-- The faults of a run, noted for its command. -/
def State.runFaulted (s : State) (r : BankRun) (x : Cmd) : State :=
  (s.runFaults r).foldl (fun s f => s.cmdFault r.cmd x f.1 f.2.1 f.2.2.1 f.2.2.2) s

/-- The results of a run, written to the scratchpad, 64 bytes for each slot. -/
def State.runWritten (s : State) (r : BankRun) (x : Cmd) : State :=
  (r.results.map fun e => (e.1, bytesOf e.2)).foldl (fun s e => s.localWrite r.cmd x.org .sp e.1 e.2) s

theorem State.sends_runFaulted (s : State) (r : BankRun) (x : Cmd) : Sends s (s.runFaulted r x) :=
  .foldl (fun s _ => .noteFault s ..) _ s

/-- BANK_RUN_COMPLETE of a run that is over, whose results can be written (R145, R206). -/
theorem exec_bankRunComplete_over {s : State} {run : Nat} {r : BankRun} {x : Cmd} (hr : tfind s.runs run = some r)
    (hx : tfind s.cmds r.cmd = some x) (hover : s.runOver r = true)
    (hreach : ∀ e ∈ r.results, s.localAvail x.org .sp e.1 64 = .yes) :
    exec (.bankRunComplete run) s = .next (State.finish
      { (s.runFaulted r x).runWritten r x with runs := tdel ((s.runFaulted r x).runWritten r x).runs run } r.cmd) := by
  have hfold : (s.runFaults r).foldl (fun s f => s.cmdFault r.cmd x f.1 f.2.1 f.2.2.1 f.2.2.2) s = s.runFaulted r x := rfl
  have hyes (v : Avail) (hv : v ≠ .yes) : (r.results.map fun e => s.localAvail x.org .sp e.1 64).contains v = false := by
    rw [List.contains_eq_mem, decide_eq_false_iff_not, List.mem_map]
    rintro ⟨e, he, hev⟩
    exact hv (hev.symm.trans (hreach e he))
  have hlike := LocalAlike.of_sends (s.sends_runFaulted r x)
  have hfilter : (r.results.filter fun e => decide ((s.runFaulted r x).localAvail x.org .sp e.1 64 = .yes)) = r.results :=
    List.filter_eq_self.2 fun e he => decide_eq_true ((hlike.localAvail ..).trans (hreach e he))
  rw [exec_bankRunComplete]
  simp only [execBankRunComplete, hr, hx, hover, hyes .wait (by simp), hyes .no (by simp), Bool.not_true, Bool.false_eq_true, if_false]
  simp only [hfold, hfilter, State.runWritten, List.foldl_map]

/-- Settles O41: a run starts on a stack, an item starts, and the run completes. -/
theorem bankRuns : Obligations.BankRuns := by
  unfold Obligations.BankRuns
  intro s run r hr
  refine ⟨?_, ?_, ?_⟩
  · intro st x hx hknown hload hitems hbefore hav hreach hwords hfree spad w
    refine ⟨_, exec_bankRunPacket_turn hr hx hknown hload hitems hbefore hav hreach hwords hfree, ⟨rfl, rfl, fun _ => rfl⟩,
      s.loadRun r x.org, tfind_tput_same .., rfl, fun c hc hp j hj => s.vec_loadRun r x.org hc hp hj, s.scal_loadRun r x.org, rfl,
      fun c hc => ?_⟩
    have hstores (k : Stack) (runs : Table BankRun) : State.hbm { s.setHbm st k with runs := runs } st = k := State.hbm_setHbm_same ..
    rw [hstores, tfind_foldl_tput_eq]
    simp only [mem_pcsOf, hc, true_and]
  · intro pc i st o l hslab hload hbad hp hmay hav
    obtain ⟨hmem, hcores, -, hrow⟩ := s.activate_spec st (rowKeyAt (o + 1024 * pc))
    refine ⟨_, exec_bankItemStart_may hr hslab hload hbad hp hmay hav, ⟨hmem.memory, hmem.scratch, hmem.shared⟩,
      hcores, hrow, _, rfl, rfl, rfl, rfl, rfl, rfl, rfl, rfl, ?_⟩
    exact b_freshItem r l.scal pc i _
  · intro x hx hover hlw hwords hreach
    refine ⟨_, exec_bankRunComplete_over hr hx hover hreach, ?_⟩
    have hsends := s.sends_runFaulted r x
    obtain ⟨y, hy, hgrow⟩ := hsends.cmds r.cmd x hx
    generalize s.runFaulted r x = u at hsends hy
    have hlw' : u.lwatches = [] :=
      (congrArg State.lwatches hsends.others : u.offSending.lwatches = s.offSending.lwatches).trans hlw
    obtain ⟨hwr, hmem, hother⟩ := State.localWrites_spec (r.results.map fun e => (e.1, bytesOf e.2)) r.cmd x.org .sp hlw'
      (by rw [NoWords, hsends.linkQ]; exact hwords)
    rw [(LocalAlike.of_sends hsends).localBase] at hmem
    rw [← State.runWritten] at hwr hmem hother
    generalize u.runWritten r x = v at hwr hmem hother
    obtain ⟨wr, hcmd⟩ := hwr.cmd y hy
    have hend := State.finish_ended (s := { v with runs := tdel v.runs run }) (id := r.cmd) (x := { y with wrote := wr }) hcmd
    refine ⟨hend.finished_quiet hgrow.org (fun n hn => .inl (hgrow.accs n hn)) (hwr.mem.trans hsends.mem)
      (fun d j => (hwr.groups d j).trans (hsends.group d j)), fun c => (hend.shared c).trans ?_, ?_, fun a => ?_⟩
    · by_cases hc : c = x.org.core
      · subst hc; exact (hother .sh (by simp)).trans (hsends.sh _)
      · exact (hwr.others c hc).trans (hsends.sh c)
    · rw [hend.runs]; exact tfind_tdel_same ..
    · rw [hend.scratch]
      refine congrArg (fun m => mget m a) (hmem.trans ?_)
      rw [List.foldl_map]
      exact congrArg (fun m => List.foldl _ m _) hsends.sp

end Sys2Proof.Machine
end

section

/-!
# An atomic of a command that is gone meets an uncorrectable block

A `matom` that meets an uncorrectable block notes a DATAERR for its command (R325, R333). The clause of O43 does not ask that the command
of the access is still in the table; where it is not, there is nothing to note the fault at.
-/

namespace Sys2Proof.Machine

/-- A `matom` of core 0 at the physical address 0, the oldest that its engine has sent. Its command is number 5. -/
def orphanAtomic : Access :=
  { polder := 1, core := 0, cmd := 5, lane := 0, src := 1, op := .atomic .add false 0 0, va := 0, len := 4, off := 0, st := .sent 0 0
    data := [], bad := [], aux := 0 }

/-- Stack 0 takes packets, its first block is marked uncorrectable, and command 5 is not in the table. -/
def orphanState : State :=
  { State.reset with accs := [(1, orphanAtomic)], hbms := [(0, { Stack.reset with isolate := false })], poison := [0] }

theorem arrives_orphanAtomic : Arrives orphanState 1 orphanAtomic 0 :=
  ⟨rfl, by decide, ⟨0, rfl⟩, by decide +kernel, by decide +kernel⟩

/-- The packet is served without its word, and the table of commands stays empty. -/
theorem exec_atomicPacket_orphan : ∃ t, exec (.atomicPacket 1) orphanState = .next t ∧ t.cmds = [] :=
  ⟨_, rfl, by decide +kernel⟩

/-- Refutes O43: no fault is noted for a command that is not in the table. -/
theorem not_atomicPackets : ¬ Obligations.AtomicPackets := by
  unfold Obligations.AtomicPackets
  intro h
  obtain ⟨hmem, -⟩ := h orphanState 1 orphanAtomic 0 arrives_orphanAtomic
  obtain ⟨-, hlost⟩ := hmem .add false 0 0 rfl (by decide +kernel) rfl (by decide +kernel)
  obtain ⟨t, ht, -, -, x, hx, -⟩ := hlost (by decide +kernel)
  obtain ⟨u, hu, hnone⟩ := exec_atomicPacket_orphan
  injection hu.symm.trans ht with e
  subst e
  rw [hnone] at hx
  cases hx

end Sys2Proof.Machine
end
